-- ==== Sys2Proof/Word.lean ====
section
/-! DEFINITION. The word types of the KU-512 and the names every layer shares: bytes, CSR words, completion status codes
(R14), severity classes (R17), pass kinds, virtual channels and phases. -/

namespace Sys2Proof

abbrev Byte := BitVec 8
abbrev W16 := BitVec 16
abbrev W32 := BitVec 32
/-- A CSR is 64 bits wide (R8). -/
abbrev W64 := BitVec 64

/-- Completion status codes of R14. -/
inductive Status where
  | done | doneEmpty | refusedBusy | refusedAccess | refusedInvalid | refusedSize | doneReplayed | fenced | halted
deriving DecidableEq, Repr

/-- The code of a status (R14). -/
def Status.code : Status → Nat
  | .done => 0x00
  | .doneEmpty => 0x01
  | .refusedBusy => 0x10
  | .refusedAccess => 0x11
  | .refusedInvalid => 0x12
  | .refusedSize => 0x13
  | .doneReplayed => 0x20
  | .fenced => 0x30
  | .halted => 0x3F

/-- Severity classes of R17, in rising order (R19); `code` is CLASS of a log entry (R372). -/
inductive Class where
  | notice | replay | rollback | fence | halt
deriving DecidableEq, Repr

def Class.code : Class → Nat
  | .notice => 0
  | .replay => 1
  | .rollback => 2
  | .fence => 3
  | .halt => 4

/-- ORB_STEP.PHASE (chapter 02). -/
inductive Phase where
  | none | compute | exchange | update | eval | barrier | waitGo | hold
deriving DecidableEq, Repr

def Phase.code : Phase → Nat
  | .none => 0
  | .compute => 1
  | .exchange => 2
  | .update => 3
  | .eval => 4
  | .barrier => 5
  | .waitGo => 6
  | .hold => 7

/-- PASS KIND (R70, R163). -/
inductive Kind where
  | fwd | bwd | rcp | evl
deriving DecidableEq, Repr

def Kind.code : Kind → Nat
  | .fwd => 0
  | .bwd => 1
  | .rcp => 2
  | .evl => 3

/-- Link classes of R253 and R256: five virtual channels and the transit class. -/
inductive LinkClass where
  | fwd | bwd | grx | ckp | ctl | transit
deriving DecidableEq, Repr

def LinkClass.idx : LinkClass → Nat
  | .fwd => 0
  | .bwd => 1
  | .grx => 2
  | .ckp => 3
  | .ctl => 4
  | .transit => 5

/-- Power states of R406. -/
inductive PowerState where
  | run | idle | drowse | sleep
deriving DecidableEq, Repr

end Sys2Proof
end

