-- ==== Sys2Proof/Syntax.lean ====
section
/-! DEFINITION. The commands of the KU-512: one constructor of `Instr` for each row of the table of operations and events,
with the operands a command carries. Operands report what the model does not compute: readings of sensors, times, hardware
errors, and what arrives on a link, a host port or a management transport. -/

namespace Sys2Proof

/-- Who makes a CSR access: a host over a host port, or Moon for a district's copy (R59, R290, R400). -/
inductive Requester where
  | host (port : Fin 4)
  | moon (district : Fin 4)
deriving DecidableEq, Repr

/-- A wrong value that a hardware error puts into a pass (R91 to R96): execution attempt (0 the first), output row, column,
place (0 an array's entry, 1 the combined output, 2 the paired array's entry), check unit of the entry, and error in window
units. -/
structure CellErr where
  attempt : Nat
  row : Nat
  col : Nat
  place : Nat
  unit : Nat
  delta : Int
deriving DecidableEq, Repr

/-- A core SRAM error met by an instruction (R64): the core whose SRAM holds the word, its offset there, uncorrectable or
not. -/
structure EccErr where
  core : Nat
  off : Nat
  ue : Bool
deriving DecidableEq, Repr

/-- A core that executes an instruction which reads its SRAM, and the SRAM errors that it meets. -/
structure CoreRead where
  core : Fin 512
  ecc : List EccErr
deriving DecidableEq, Repr

/-- A lockstep disagreement of a pass (R138): execution attempt, row, and whether a prologue operation disagreed rather than an
epilogue operation. -/
structure LockErr where
  attempt : Nat
  row : Nat
  prologue : Bool
deriving DecidableEq, Repr

/-- Hardware errors that a PASS meets: cell errors, lockstep disagreements (R138), SRAM errors. -/
structure PassErrs where
  cells : List CellErr
  lockstep : List LockErr
  ecc : List EccErr
deriving DecidableEq, Repr

/-- What a training descriptor meets: groups of 64 whose two copies disagreed (once per disagreement, R178), SRAM errors. -/
structure TrainErrs where
  groups : List Nat
  ecc : List EccErr
deriving DecidableEq, Repr

/-- Cycles of a core since the latest tick (R376): waiting of requesters 1 to 5 of R62, blocked in READ, AWAIT or SEND, with
latency-critical work in progress, in best-effort tiles. -/
structure CoreCycles where
  stall : Nat
  wait : Nat
  active : Nat
  tile : Nat
deriving DecidableEq, Repr

/-- Times a core reports for one orbit's work: cycles left at the tick, stalled cycles by cause (R49 codes 1, 2, 3, 5, 6),
cycles blocked in READs by box, in SENDs by box, and in AWAITs of ENQ items by queue (R48, R204, R244), and its cycles since
the latest tick. -/
structure CoreTime where
  core : Nat
  left : Nat
  stalls : List (Nat × Nat)
  reads : List (Nat × Nat)
  sends : List (Nat × Nat)
  awaits : List (Nat × Nat)
  cycles : CoreCycles
deriving DecidableEq, Repr

/-- A frame as it arrives: the KIND of each slot (R250), and the bytes of its flits. -/
structure Frame where
  kinds : List Nat
  bytes : List Byte
deriving DecidableEq, Repr

/-- What one line read brings back (R219, R220, R340): the codeword of the line that the access reached and the wrong ones of its
72 symbols, 0 to 35 on sub-channel 0; or an uncorrectable error of the shared fabric on the way, which the request's district
tag may tie to its district. -/
inductive LineOutcome where
  | codeword (reached : Nat) (wrong : List Nat)
  | fabric (tied : Bool)
deriving DecidableEq, Repr

/-- Why Moon restarts or logs (R381): the watchdog, an uncorrectable error of its memory, or a single-bit error that it
corrects. -/
inductive MoonError where
  | watchdog
  | memory
  | corrected
deriving DecidableEq, Repr

/-- Who waits for a line that was read again (R220, R292, R453). -/
inductive Reader where
  | core (n : Nat)
  | host (port : Fin 4) (qp : Nat)
  | load (d : Fin 4)
  | entry (d : Fin 4)
  | command (d : Fin 4) (index : Nat)
  | none
deriving DecidableEq, Repr

/-- Outcome of a quad's BIST (R100, R367): `column` and `row` repair array `array` of the quad. -/
inductive TestResult where
  | pass
  | column (array index : Nat)
  | row (array index : Nat)
  | failed
deriving DecidableEq, Repr

/-- What a start-up stage found (R419 to R421): no comparator condition present, sets of strap samples, lifecycle in the fuses
(R396; 0 MANUFACTURE, 1 PRODUCTION, 2 RMA), channels trained, milliseconds since the reset. -/
structure StageEnd where
  clear : Bool
  samples : List (List Nat)
  lifecycle : Nat
  trained : Nat
  ms : Nat
deriving DecidableEq, Repr

/-- Management transports of R399: I3C, a UDP datagram to an address and port, an MGMT frame of a tensor port. -/
inductive Transport where
  | i3c
  | ethernet (addr udp : Nat)
  | link (port : Fin 24)
deriving DecidableEq, Repr

/-- A management request: its transport, the SPDM session that carries it, the vendor identifier of its vendor-defined message (R399),
and whether its command code is one that R400 does not list in place of the row's. -/
structure MReq where
  via : Transport
  session : Option Nat
  vendor : Nat
  unlisted : Bool
deriving DecidableEq, Repr

/-- A KEY_EXCHANGE's certificate slot, and the point that the requester sends (R393). -/
structure ExchangeSlot where
  slot : Nat
  point : List Byte
deriving DecidableEq, Repr

/-- Readings of R402: input power over 100 ms and over 1 s in W, hottest die sensor, coolant inlet and outlet in °C. -/
structure Readings where
  power : Nat
  power1s : Nat
  die : Nat
  inlet : Nat
  outlet : Nat
deriving DecidableEq, Repr

/-- A district definition as DISTRICT_SET gives it (R308); the tag is that of the district's control window (R318). -/
structure DistrictDef where
  valid : Bool
  quads : Nat
  tensor : Nat
  host : Nat
  baseGib : Nat
  sizeGib : Nat
  tag : Nat
deriving DecidableEq, Repr

/-- Items of CONFIG_SET (R400). -/
inductive ConfigItem where
  | limitW (w : Nat)
  | throttleC (c : Nat)
  | address (port : Fin 4) (ipv4 : Nat) (valid4 : Bool) (ipv6 mac : Nat)
  | qos (port : Fin 4) (word : Nat)
  | network (ipv4 ipv6 : Nat)
  | scrubHours (h : Nat)
  | interval (n : Nat)
  | swapThreshold (fp32 : Nat)
deriving DecidableEq, Repr

/-- One command for each row of the table. -/
inductive Instr where
  -- ticks and orbits (02)
  | tickMark (run guardLow tag : List Bool) (edge : Nat)
  | refclkWindowEnd (edges : Nat)
  | lossOfTick (refclk : Bool)
  | orbitStart
  | joinStart
  | orbitTick (times : List CoreTime) (ready : List Nat)
  | lateWorkComplete (times : List CoreTime)
  | quadRotationSwap
  | laneSwapSelected (port : Fin 24)
  | laneSwapTimeout (port : Fin 24)
  | barrierArrive (d : Fin 4)
  | barrierTimeout (d : Fin 4)
  | orbArm (r : Requester) (v : W64)
  | orbDisarm (r : Requester) (v : W64)
  | orbJoin (r : Requester) (v : W64)
  | orbJoinWithdraw (r : Requester) (v : W64)
  | orbStop (r : Requester) (v : W64)
  | orbResume (r : Requester) (v : W64)
  -- registers
  | shFieldWrite (r : Requester) (addr : Nat) (v : W64)
  | registerWrite (r : Requester) (addr : Nat) (v : W64)
  -- cores (03 to 08); the instruction is the one the core's program has next
  | pass (core : Fin 512) (errs : PassErrs)
  | arrayRampDown (core : Fin 512)
  | loop (core : Fin 512)
  | endloop (core : Fin 512)
  | endProg (core : Fin 512)
  | send (core : Fin 512) (ecc : List EccErr)
  | sendClaim (core : Fin 512)
  | messageLink (core : Fin 512)
  | collectionRoundDeliver (box : Nat)
  | read (core : Fin 512)
  | postboxDeath (box : Nat)
  | pbxFlushBox (r : Requester) (box : Nat)
  | pbxFlushAll (r : Requester)
  | dlrTailWrite (r : Requester) (n : Fin 4) (v : W64)
  | xferCopy (core : Fin 512) (ecc : List EccErr)
  | xferSend (core : Fin 512) (ecc : List EccErr)
  | xferForward (core : CoreRead)
  | xferRelease (core : CoreRead)
  | trainUpdate (core : Fin 512) (errs : TrainErrs)
  | trainPack (core : Fin 512) (errs : TrainErrs)
  | trainUnpack (core : Fin 512) (errs : TrainErrs)
  | awaitItem (core : Fin 512)
  | stageEnqueue (queue : Nat)
  -- module memory (08, 12)
  | memLineRead (line : Nat) (d : Fin 4) (o : LineOutcome)
  | memReadRetry (line : Nat) (d : Fin 4) (o : LineOutcome) (who : Reader)
  | pageRetire (page : Nat)
  | scrubLine (d : Fin 4) (o : LineOutcome)
  | postPackageRepair (page : Nat) (ok : Bool)
  -- tensor links (09, 12)
  | dataFrame (port : Fin 24) (f : Frame)
  | linkFlit (port : Fin 24) (bytes : List Byte)
  | frameArbitrate (port : Fin 24)
  | retryTimeout (port : Fin 24)
  | nakRepeat (port : Fin 24)
  | laneLoss (port : Fin 24) (lane : Nat)
  | retrainEnd (port : Fin 24) (ok : Bool)
  | downTrainingAttempt (port : Fin 24)
  | linkTrainingPhaseEnd (port : Fin 24) (ok : Bool) (map pol : Nat) (mix : Option Nat)
  | cardTimeout (port : Fin 24)
  | card (port : Fin 24) (f : Frame)
  | ping (port : Fin 24) (f : Frame) (turnaround : Nat)
  | echo (port : Fin 24) (f : Frame) (now : Nat)
  | beacon (port : Fin 24) (f : Frame) (now : Nat)
  | announce (port : Fin 24) (f : Frame)
  | credit (port : Fin 24) (f : Frame)
  | nackDead (port : Fin 24) (f : Frame)
  | amaxUp (port : Fin 24) (f : Frame)
  | amaxDown (port : Fin 24) (f : Frame)
  | barUp (port : Fin 24) (f : Frame)
  | barGo (port : Fin 24) (f : Frame)
  | restartBarUp (port : Fin 24) (f : Frame)
  | restartBarGo (port : Fin 24) (f : Frame)
  | restartTimeout (d : Fin 4)
  | copybackDone (d : Fin 4) (unreadable : List Nat)
  | jobHold (port : Fin 24) (f : Frame)
  | mgmt (port : Fin 24) (f : Frame)
  | tlkDisable (r : Requester) (port : Fin 24) (v : W64)
  | tlkEnable (r : Requester) (port : Fin 24) (v : W64)
  | tlkRetrain (r : Requester) (port : Fin 24) (v : W64)
  -- host ports (11)
  | rdmaWrite (port : Fin 4) (qp rkey addr : Nat) (data : List Byte) (ce : Bool)
  | rdmaWriteImm (port : Fin 4) (qp rkey addr : Nat) (data : List Byte) (imm : W32) (ce : Bool)
  | rdmaRead (port : Fin 4) (qp rkey addr len : Nat) (ce : Bool)
  | roceSend (port : Fin 4) (qp : Nat) (data : Option (List Byte)) (ce : Bool)
  | cmReq (port : Fin 4) (remote : Nat)
  | cmRtu (port : Fin 4) (qp : Nat)
  | cmDreq (port : Fin 4) (qp : Nat)
  | cnp (port : Fin 4) (qp : Nat)
  | rateIncreaseTimer (port : Fin 4) (qp : Nat)
  | pfcPause (port : Fin 4) (prio : Nat)
  | pfcPauseTimeout (port : Fin 4) (prio : Nat)
  | cmdTailWrite (r : Requester) (v : W64)
  | cplHeadWrite (r : Requester) (v : W64)
  | cmdRingWrite (r : Requester) (v : W64)
  | cplRingWrite (r : Requester) (v : W64)
  | nop (d : Fin 4) (index : Nat)
  | copy (d : Fin 4) (index : Nat)
  | tile (d : Fin 4) (index : Nat)
  | tileDispatch (d : Fin 4) (toTick : Nat)
  | tileStop (core : Fin 512)
  | tileOutDone (d : Fin 4) (index : Nat)
  | msg (d : Fin 4) (index : Nat)
  | windowOpen (d : Fin 4) (index : Nat)
  | windowClose (d : Fin 4) (index : Nat)
  | csrRead (d : Fin 4) (index : Nat)
  | csrWrite (d : Fin 4) (index : Nat)
  | waitOrbit (d : Fin 4) (index : Nat)
  | commandStart (d : Fin 4)
  | completionPost (d : Fin 4)
  -- stage images and snapshots (10, 13)
  | imgLoad (r : Requester) (v : W64)
  | loadEnd (d : Fin 4)
  | imgCommit (r : Requester) (v : W64)
  | commitChecksEnd (d : Fin 4)
  | imgCancel (r : Requester) (v : W64)
  | snpReqWrite (r : Requester) (v : W64)
  -- recovery and sparing (12)
  | rewind (r : Requester)
  | rollfwd (r : Requester)
  | rollfwdEnd (d : Fin 4)
  | dreset (r : Requester)
  | districtResetDone (d : Fin 4)
  | fltTailWrite (r : Requester) (v : W64)
  | fltRestoreWrite (r : Requester) (v : W64)
  | sprServe (r : Requester) (n : Fin 4) (v : W64)
  | mirrorRecord (ring : Nat)
  | restoreRecord (ring : Nat)
  | quadTestEnd (quad : Nat) (o : TestResult)
  | logFlashCopy (d : Fin 4)
  -- power and reset (15, 16)
  | dieHot
  | dieCrit
  | dieCritPowerOff
  | vinUv
  | vinOv
  | coolant
  | inputBelow36v
  | inputRise39v
  | porstN (ns : Nat)
  | jtagTrstN (low : Bool)
  | pwrResetWarm (r : Requester)
  | warmResetBegin
  | startupStageEnd (e : StageEnd)
  | railGoodTimeout (rail : Nat)
  | railRetry
  | pwrTargetRun (r : Requester)
  | pwrTargetDrowse (r : Requester)
  | pwrTargetSleep (r : Requester)
  | powerStateReached
  | laneLockTimeout (port : Fin 24)
  | glbTimeWrite (r : Requester) (v : W64)
  -- Moon (14)
  | powerLimitCheck (x : Readings)
  | moonWatchdogExpiry (why : MoonError) (second : Bool)
  | moonRestartDone
  | svnBurn
  | getStatus (q : MReq)
  | ownerSet (q : MReq) (root : List Byte)
  | ownerClear (q : MReq)
  | districtSet (q : MReq) (defs : List DistrictDef)
  | districtReset (q : MReq) (d : Fin 4)
  | keyRegister (q : MReq) (d : Fin 4) (key : List Byte) (keyid : W32)
  | keyRevoke (q : MReq) (d : Fin 4)
  | moonCsrRead (q : MReq) (d : Fin 4) (addr : Nat)
  | moonCsrWrite (q : MReq) (d : Fin 4) (addr : Nat) (v : W64)
  | logRead (q : MReq) (seq count : Nat)
  | snpRead (q : MReq) (d : Fin 4) (first count : Nat)
  | cardGet (q : MReq)
  | cardRecheck (q : MReq) (port : Fin 24)
  | configSet (q : MReq) (items : List ConfigItem)
  | debugUnlock (q : MReq) (serial nonce sigR sigS : Nat)
  | getVersion (via : Transport)
  | getCapabilities (via : Transport)
  | negotiateAlgorithms (via : Transport) (supported : Bool)
  | getDigests (via : Transport)
  | getCertificate (via : Transport) (slot offset len : Nat)
  | challenge (via : Transport) (slot nonce : Nat)
  | getMeasurements (via : Transport) (index slot nonce : Nat)
  | keyExchange (via : Transport) (slot : ExchangeSlot)
  | finish (via : Transport) (session : Nat) (verified chains : Bool)
  | keyUpdate (via : Transport) (session : Nat)
  | heartbeat (via : Transport) (session : Nat)
  | endSession (via : Transport) (session : Nat)
  | requestUpdate (via : Transport)
  | passComponentTable (via : Transport)
  | updateComponent (via : Transport) (size : Nat)
  | requestFirmwareData (via : Transport) (offset : Nat) (data : List Byte)
  | transferComplete (via : Transport)
  | verifyComplete (via : Transport)
  | activateFirmware (via : Transport)
  -- further events
  | hostLinkUp (port : Fin 4)
  | hostLinkDown (port : Fin 4)
  | islandPowerUp
  | islandPowerLoss
  | tickOkTimeout
  | spareLaneSelect (port : Fin 24)
  | preFecEstimateUpdate (port : Fin 24) (lane : Nat) (est : Nat) (prbsBits prbsErr spareEst corrected uncorr : Nat)
  | mctpControl (via : Transport) (code : Nat) (data : List Byte)
  | pfcPauseExpiry (port : Fin 4) (prio : Nat)
  | neighbourDiscovery (port : Fin 4) (addr : Nat)
  | jtagTck (rising tms tdi : Bool)
deriving DecidableEq, Repr

end Sys2Proof
end

