-- ==== Sys2Proof/Machine/Bits.lean ====
section
/-! DEFINITION. Bit fields, little-endian byte runs and sign extension (R4), and the keyed tables the state is made of. -/

namespace Sys2Proof.Machine

/-- Bits [lo + len − 1 : lo] of `n` (R4). -/
def bits (n lo len : Nat) : Nat := (n >>> lo) % 2 ^ len

/-- Bit `i` of `n`. -/
def bit (n i : Nat) : Bool := bits n i 1 == 1

/-- A field of a record: `len` bits from bit `lo` of the bytes that start at byte `off`. -/
def fld (e off lo len : Nat) : Nat := bits e (8 * off + lo) len

/-- Two's complement reading of a field of `len` bits. -/
def signed (len n : Nat) : Int := if n < 2 ^ (len - 1) then (n : Int) else (n : Int) - (2 ^ len : Nat)

/-- The field of `len` bits that holds `x` in two's complement. -/
def unsigned (len : Nat) (x : Int) : Nat := (x % ((2 ^ len : Nat) : Int)).toNat

/-- Little-endian number of a run of bytes (R4). -/
def leNat : List Byte → Nat
  | [] => 0
  | b :: bs => b.toNat + 256 * leNat bs

/-- The `n` little-endian bytes of a number (R4). -/
def leBytes : Nat → Nat → List Byte
  | 0, _ => []
  | n + 1, x => BitVec.ofNat 8 x :: leBytes n (x / 256)

/-- Big-endian number of a run of bytes. -/
def beNat (bs : List Byte) : Nat := bs.foldl (fun a b => 256 * a + b.toNat) 0

/-- The `n` big-endian bytes of a number. -/
def beBytes (n x : Nat) : List Byte := (leBytes n x).reverse

/-- Place a field: `v` taken to `len` bits, shifted to bit `lo`. -/
def put (lo len v : Nat) : Nat := (v % 2 ^ len) <<< lo

def boolBit (b : Bool) : Nat := if b then 1 else 0

def ceilDiv (a b : Nat) : Nat := (a + b - 1) / b

/-- Split a list into runs of `k` (structural on fuel `n`). -/
def chunks {α : Type} (k : Nat) : Nat → List α → List (List α)
  | 0, _ => []
  | n + 1, l => l.take k :: chunks k n (l.drop k)

/-- Numbers from `a`, `n` of them. -/
def upFrom (a n : Nat) : List Nat := (List.range n).map (a + ·)

/-- Do the ranges [a, a + la) and [b, b + lb) share a byte? -/
def overlaps (a la b lb : Nat) : Bool := la != 0 && lb != 0 && decide (a < b + lb) && decide (b < a + la)

/-- Is [a, a + la) inside [b, b + lb)? -/
def within (a la b lb : Nat) : Bool := decide (b ≤ a) && decide (a + la ≤ b + lb)

/-- Write `v` under key `k` into a list kept by rising key. -/
def insertKey {α : Type} (k : Nat) (v : α) : List (Nat × α) → List (Nat × α)
  | [] => [(k, v)]
  | (j, w) :: r => if k < j then (k, v) :: (j, w) :: r else if k = j then (k, v) :: r else (j, w) :: insertKey k v r

def lookupKey {α : Type} (k : Nat) : List (Nat × α) → Option α
  | [] => none
  | (j, w) :: r => if k = j then some w else lookupKey k r

/-- A table of instances by number; an instance that is not listed holds its reset value. -/
structure Tbl (α : Type) where
  entries : List (Nat × α)
deriving DecidableEq, Repr

def Tbl.empty {α : Type} : Tbl α := ⟨[]⟩

def Tbl.get {α : Type} (t : Tbl α) (d : α) (k : Nat) : α := (lookupKey k t.entries).getD d

def Tbl.set {α : Type} (t : Tbl α) (k : Nat) (v : α) : Tbl α := ⟨insertKey k v t.entries⟩

def Tbl.keys {α : Type} (t : Tbl α) : List Nat := t.entries.map (·.1)

def Tbl.map {α : Type} (t : Tbl α) (f : Nat → α → α) : Tbl α := ⟨t.entries.map fun e => (e.1, f e.1 e.2)⟩

/-- Replace element `i` of a list. -/
def setAt {α : Type} (l : List α) (i : Nat) (v : α) : List α := l.set i v

/-- Add `x` to a list that holds no element twice. -/
def addOnce {α : Type} [DecidableEq α] (l : List α) (x : α) : List α := if x ∈ l then l else l ++ [x]

/-- a − b of two counters of k bits, modulo 2^k. -/
def gap (k a b : Nat) : Nat := (2 ^ k - b + a) % 2 ^ k

/-- Steps are counted modulo 2^24 (R180, R354). -/
def stepAfter (n : Nat) : Nat := (n + 1) % 2 ^ 24
def stepBefore (n : Nat) : Nat := gap 24 n 1

/-- Largest r with r^k ≤ n, found bit by bit from bit `i` down. -/
def rootGo (k n : Nat) : Nat → Nat → Nat
  | 0, r => r
  | i + 1, r => if (r + 2 ^ i) ^ k ≤ n then rootGo k n i (r + 2 ^ i) else rootGo k n i r

/-- Largest r with r² ≤ n, for n below 2^(2 × i). -/
def isqrt (i n : Nat) : Nat := rootGo 2 n i 0

end Sys2Proof.Machine
end

