-- ==== Sys2Proof/Machine/Fp.lean ====
section
/-! DEFINITION. Number formats (04 R103 to R107), dyadic values, rounding (R115 to R117, R137), FP32 words and the
exact FP32 operations. An FP32 value is its 32-bit code as a Nat; no code of an infinity or NaN is ever produced (R104). -/

namespace Sys2Proof.Machine

/-- The value m × 2^e. -/
structure Dy where
  m : Int
  e : Int
deriving DecidableEq, Repr

def Dy.zero : Dy := ⟨0, 0⟩

/-- The integer m taken to exponent e' ≤ e. -/
def Dy.toExp (a : Dy) (e' : Int) : Int := a.m * ((2 ^ (a.e - e').toNat : Nat) : Int)

def Dy.add (a b : Dy) : Dy := let e := min a.e b.e; ⟨a.toExp e + b.toExp e, e⟩

def Dy.neg (a : Dy) : Dy := ⟨-a.m, a.e⟩

def Dy.sub (a b : Dy) : Dy := a.add b.neg

def Dy.mul (a b : Dy) : Dy := ⟨a.m * b.m, a.e + b.e⟩

/-- a × 2^k. -/
def Dy.scale (a : Dy) (k : Int) : Dy := ⟨a.m, a.e + k⟩

def Dy.abs (a : Dy) : Dy := ⟨(a.m.natAbs : Int), a.e⟩

def Dy.lt (a b : Dy) : Bool := let e := min a.e b.e; decide (a.toExp e < b.toExp e)

def Dy.le (a b : Dy) : Bool := !(b.lt a)

def Dy.max (a b : Dy) : Dy := if a.lt b then b else a

def Dy.isZero (a : Dy) : Bool := a.m == 0

/-- floor(log2 |a|), for a ≠ 0. -/
def Dy.log2 (a : Dy) : Int := (a.m.natAbs.log2 : Int) + a.e

/-- floor(|a| / 2^q) with the sign of a: truncation toward zero onto multiples of 2^q (R114). -/
def Dy.trunc (a : Dy) (q : Int) : Int :=
  let n : Nat := if q ≤ a.e then a.m.natAbs * 2 ^ (a.e - q).toNat else a.m.natAbs / 2 ^ (q - a.e).toNat
  if a.m < 0 then -(n : Int) else n

/-- Rounding mode of a conversion: to nearest even, or stochastic with 16 random bits (R116, R117). -/
inductive RMode where
  | rne
  | sr (r : Nat)
deriving DecidableEq, Repr

/-- |a| as a multiple of 2^q, rounded by the mode (R116, R117): lo, or lo + 1. -/
def roundUnits (mode : RMode) (a : Dy) (q : Int) : Nat :=
  if q ≤ a.e then a.m.natAbs * 2 ^ (a.e - q).toNat
  else
    let d := 2 ^ (q - a.e).toNat
    let lo := a.m.natAbs / d
    let rem := a.m.natAbs % d
    if rem = 0 then lo
    else match mode with
      | .rne => if 2 * rem < d then lo else if d < 2 * rem then lo + 1 else lo + lo % 2
      | .sr r => if r < rem * 65536 / d then lo + 1 else lo

/-- A format of R103: element bits, fraction bits, exponent bias, exponent of the smallest subnormal, largest finite
value, target exponent T of the scale rule, and whether it is a microscaling format. -/
structure Fmt where
  width : Nat
  frac : Nat
  bias : Int
  lsb : Int
  top : Dy
  target : Int
  mx : Bool
  span : Nat
deriving DecidableEq, Repr

def fmtFP32 : Fmt := ⟨32, 23, 127, -149, ⟨2 ^ 24 - 1, 104⟩, 0, false, 0⟩
def fmtBF16 : Fmt := ⟨16, 7, 127, -133, ⟨255, 120⟩, 0, false, 0⟩
def fmtE4M3 (mx : Bool) : Fmt := ⟨8, 3, 7, -9, ⟨448, 0⟩, 8, mx, 18⟩
def fmtE5M2 (mx : Bool) : Fmt := ⟨8, 2, 15, -16, ⟨57344, 0⟩, 15, mx, 32⟩
def fmtE2M3 : Fmt := ⟨6, 3, 1, -3, ⟨15, -1⟩, 2, true, 6⟩
def fmtE3M2 : Fmt := ⟨6, 2, 3, -4, ⟨28, 0⟩, 4, true, 9⟩
def fmtE2M1 : Fmt := ⟨4, 1, 1, -1, ⟨6, 0⟩, 2, true, 4⟩

/-- Format of a code of R72, and 0xF for FP32 (R120, R141). -/
def fmtOf : Nat → Fmt
  | 0 => fmtBF16
  | 1 => fmtE4M3 false
  | 2 => fmtE5M2 false
  | 3 => fmtE4M3 true
  | 4 => fmtE5M2 true
  | 5 => fmtE2M3
  | 6 => fmtE3M2
  | 7 => fmtE2M1
  | _ => fmtFP32

/-- What a stored code encodes: a finite value, an infinity with its sign, or a NaN (R103, R105). -/
inductive Coded where
  | fin (v : Dy)
  | inf (neg : Bool)
  | nan
deriving DecidableEq, Repr

/-- Does the format's top exponent hold infinities and NaNs (IEEE 754 layout)? -/
def Fmt.ieee (f : Fmt) : Bool := f.width == 32 || f.width == 16 || (f.width == 8 && f.frac == 2)

/-- Decode a stored code (R103). -/
def Fmt.decode (f : Fmt) (c : Nat) : Coded :=
  let neg := bit c (f.width - 1)
  let ebits := f.width - 1 - f.frac
  let ex := bits c f.frac ebits
  let fr := bits c 0 f.frac
  if f.ieee && ex == 2 ^ ebits - 1 then (if fr == 0 then .inf neg else .nan)
  else if f.width == 8 && f.frac == 3 && ex == 15 && fr == 7 then .nan
  else
    let n : Nat := if ex == 0 then fr else fr + 2 ^ f.frac
    let e : Int := if ex == 0 then f.lsb else f.lsb + (ex : Int) - 1
    .fin ⟨if neg then -(n : Int) else n, e⟩

/-- Encode a value of the format; zero is +0 (R104). -/
def Fmt.encode (f : Fmt) (v : Dy) : Nat :=
  if v.m = 0 then 0
  else
    let sign := if v.m < 0 then 2 ^ (f.width - 1) else 0
    let k := v.log2
    if k < f.lsb + f.frac then sign + (v.trunc f.lsb).natAbs
    else sign + ((k + f.bias).toNat <<< f.frac) + ((v.trunc (k - f.frac)).natAbs - 2 ^ f.frac)

/-- Round an exact value to the format (R116 steps 2 to 4), without saturation. -/
def Fmt.round (f : Fmt) (mode : RMode) (u : Dy) : Dy :=
  if u.m = 0 then Dy.zero
  else
    let q := max f.lsb (u.log2 - f.frac)
    let n := roundUnits mode u q
    ⟨if u.m < 0 then -(n : Int) else n, q⟩

/-! ## FP32 words and the operations of R137 -/

/-- The FP32 code of an exact value: saturated beyond the largest finite value, else rounded to nearest even (R115, R137). -/
def f32 (u : Dy) : Nat :=
  if fmtFP32.top.lt u.abs then (if u.m < 0 then 0xFF7FFFFF else 0x7F7FFFFF)
  else fmtFP32.encode (fmtFP32.round .rne u)

/-- The value of a finite FP32 code. -/
def val32 (c : Nat) : Dy :=
  match fmtFP32.decode c with
  | .fin v => v
  | .inf neg => if neg then fmtFP32.top.neg else fmtFP32.top
  | .nan => Dy.zero

def fMax : Nat := 0x7F7FFFFF
def fOne : Nat := 0x3F800000

def fAdd (a b : Nat) : Nat := f32 ((val32 a).add (val32 b))
def fSub (a b : Nat) : Nat := f32 ((val32 a).sub (val32 b))
def fMul (a b : Nat) : Nat := f32 ((val32 a).mul (val32 b))
def fMax2 (a b : Nat) : Nat := f32 ((val32 a).max (val32 b))
def fLe (a b : Nat) : Bool := (val32 a).le (val32 b)
def fLt (a b : Nat) : Bool := (val32 a).lt (val32 b)
def fNeg (a : Nat) : Nat := f32 (val32 a).neg
/-- a × x + b, rounded once (TABLE, R148). -/
def fMulAdd (a x b : Nat) : Nat := f32 (((val32 a).mul (val32 x)).add (val32 b))
/-- The FP32 nearest to a number. -/
def fNat (n : Nat) : Nat := f32 ⟨n, 0⟩

/-- A value known to lie strictly between n and n + 1 units of 2^e is rounded like its middle. -/
def sticky (n : Nat) (exact : Bool) (e : Int) : Dy := if exact then ⟨n, e⟩ else ⟨2 * (n : Int) + 1, e - 1⟩

/-- Quotient of two magnitudes to `p` further bits, with a sticky bit. -/
def divDy (p : Nat) (a b : Dy) : Dy :=
  let x := a.m.natAbs * 2 ^ p
  let y := b.m.natAbs
  sticky (x / y) (x % y == 0) (a.e - b.e - (p : Int))

/-- x / y with R137's corners: x / 0 the largest finite value with the sign of x, 0 / 0 is +0. -/
def fDiv (x y : Nat) : Nat :=
  let a := val32 x
  let b := val32 y
  if a.isZero then 0
  else if b.isZero then (if a.m < 0 then 0xFF7FFFFF else fMax)
  else
    let q := divDy 64 a b
    f32 (if (decide (a.m < 0)) != (decide (b.m < 0)) then q.neg else q)

/-- rsqrt(x): of 0 the largest finite value, of a negative value +0 (R137). -/
def fRsqrt (x : Nat) : Nat :=
  let a := val32 x
  if a.isZero then fMax
  else if a.m < 0 then 0
  else
    let odd := a.e % 2 != 0
    let m := if odd then a.m.natAbs * 2 else a.m.natAbs
    let e := if odd then a.e - 1 else a.e
    let n := 2 ^ 160 / m
    let r := isqrt 82 n
    f32 (sticky r (r * r * m == 2 ^ 160) (-80 - e / 2))

/-! ## Philox4x32-10 (R129) -/

structure Ctr where
  c0 : Nat
  c1 : Nat
  c2 : Nat
  c3 : Nat
deriving DecidableEq, Repr

def philoxRound (k0 k1 : Nat) (c : Ctr) : Ctr :=
  let p0 := 0xD2511F53 * c.c0
  let p1 := 0xCD9E8D57 * c.c2
  ⟨(p1 / 2 ^ 32) ^^^ c.c1 ^^^ k0, p1 % 2 ^ 32, (p0 / 2 ^ 32) ^^^ c.c3 ^^^ k1, p0 % 2 ^ 32⟩

/-- `n` rounds; the key is bumped before every round but the first. -/
def philoxGo : Nat → Nat → Nat → Ctr → Ctr
  | 0, _, _, c => c
  | n + 1, k0, k1, c =>
    philoxGo n ((k0 + 0x9E3779B9) % 2 ^ 32) ((k1 + 0xBB67AE85) % 2 ^ 32) (philoxRound k0 k1 c)

/-- Word x0 of the draw for an element index (64 bits), a step and a stream (R129, R130). -/
def philoxX0 (seed index step stream : Nat) : Nat :=
  (philoxGo 10 (bits seed 0 32) (bits seed 32 32) ⟨bits index 0 32, bits index 32 32, step, stream % 2 ^ 32⟩).c0

/-- The 16 random bits of a stochastic rounding (R130). -/
def srBits (seed index step stream : Nat) : Nat := philoxX0 seed index step stream % 65536

end Sys2Proof.Machine
end

