-- ==== Sys2Proof/Machine/State.lean ====
section
/-! DEFINITION. The state of the KU-512: every register, queue, buffer and counter the spec names, as plain data. Register
fields are kept as numbers; a CSR read assembles them into the word of its field map. -/

namespace Sys2Proof.Machine

/-- Reasons of a fault. No command of this model ends in one: a condition of R337 is handled in its class and answers a
next state. -/
inductive Fault where
  /-- Raised by nobody; the interface needs the type inhabited. Safe. -/
  | none
deriving DecidableEq, Repr

/-- Reasons of a refusal. -/
inductive Refusal where
  /-- Raised by an arm of `exec` whose command has no meaning yet. Safe: nothing is claimed of it. -/
  | notModelled (mnemonic : String)
deriving DecidableEq, Repr

/-! ## What leaves the module -/

/-- Algorithms and capabilities of Moon as an SPDM responder (R393). -/
inductive SpdmAlgorithm where
  | ecdsaBrainpoolP384r1 | sha384 | ecdheBrainpoolP384r1 | aes256Gcm
deriving DecidableEq, Repr

inductive SpdmCapability where
  | certificate | challenge | signedMeasurement | keyExchange | keyUpdate | heartbeat | encrypt | authenticate
deriving DecidableEq, Repr

/-- An answer of a host port (R316): ACK or READ response with its data, or a NAK. -/
inductive Nak where
  | access | invalid | rnr | operational
deriving DecidableEq, Repr

inductive Answer where
  | ack (port qp : Nat)
  | data (port qp : Nat) (bytes : List Byte)
  | nak (port qp : Nat) (n : Nak)
  | cnp (port qp : Nat) (dscp : Nat)
  | rep (port qp remote : Nat)
  | rej (port remote : Nat)
  | drep (port qp : Nat)
  | neighbour (port addr mac : Nat)
deriving DecidableEq, Repr

/-- What leaves the module: completions of CSR accesses with the value read, frames and link flits by port, answers of host
ports, and answers of Moon (status code of R14 or of the protocol, and its data). -/
inductive Output where
  | access (r : Requester) (addr : Nat) (st : Status) (v : Nat)
  /-- the 65-B slots of a frame, and of a link flit (R250) -/
  | frame (port : Nat) (slots : List (List Byte))
  | flit (port : Nat) (slot : List Byte)
  | answer (a : Answer)
  | moon (via : Transport) (st : Status) (data : List Byte)
  | spdm (via : Transport) (code : Nat) (ok : Bool) (data : List Byte)
  | spdmCapabilities (via : Transport) (caps : List SpdmCapability)
  | spdmAlgorithms (via : Transport) (algs : List SpdmAlgorithm)
  | pldm (via : Transport) (code : Nat) (ok : Bool)
  | mctp (via : Transport) (code : Nat) (data : List Byte)
  | tdo (v : Bool)
deriving DecidableEq, Repr

/-! ## Stage images (10) -/

/-- A section of a stage image (R284); entries are the little-endian numbers of their bytes. `blocks` holds the core blocks
of CORE_PROG (R285): block header and instructions. -/
structure Section where
  kind : Nat
  header : Nat
  entries : List Nat
  blocks : List (Nat × List Nat)
deriving DecidableEq, Repr

/-- A stage image: its 256-B header as a number (R283), the bytes of its DIGEST, and its sections. -/
structure Image where
  header : Nat
  digest : List Byte
  sections : List Section
deriving DecidableEq, Repr

/-! ## Scale slots (04) -/

structure Slot where
  valid : Bool := false
  format : Nat := 0
  rule : Nat := 0
  margin : Nat := 0
  hist : Nat := 0
  initScale : Nat := 0
  district : Nat := 0
  scale : Int := 0
  /-- ring of step maxima, oldest first (R124) -/
  ring : List Nat := []
  /-- running maximum of the step (R122) -/
  amax : Nat := 0
  lastAmax : Nat := 0
  /-- combined maximum received with AMAX_DOWN for the coming go tick -/
  combined : Option Nat := none
  /-- per-step counts of R128: VALUES, SATURATED, FLUSHED, WINDOW_OVF, DECODE_CLAMP, DECODE_FLUSH, NONFINITE -/
  counts : List Nat := [0, 0, 0, 0, 0, 0, 0]
  /-- scale exponent and ring before the latest go tick (R354) -/
  prevScale : Int := 0
  prevRing : List Nat := []
deriving DecidableEq, Repr

/-! ## Cores (03, 05, 06) -/

/-- An open LOOP (R67, R68): index of the LOOP, iterations left, iteration number, increments. -/
structure LoopSt where
  start : Nat
  left : Nat
  iter : Nat
  incA : Int
  incW : Int
  incO : Int
deriving DecidableEq, Repr

/-- The orbit's work a core is on (R42, R65). -/
structure Work where
  orbit : Nat
  row : Nat
  phase : Phase
  ended : Bool
deriving DecidableEq, Repr

/-- An item of a postbox (R199): sender, words, position and length of its message, origin. -/
structure BoxItem where
  sender : Nat
  words : List Nat
  index : Nat
  mlen : Nat
  collected : Bool
  cbox : Nat
deriving DecidableEq, Repr

/-- An item of a stage queue, or one held by a core (R237, R245). -/
structure SItem where
  addr : Nat
  len : Nat
  ringed : Bool
  ring : Nat
  /-- unit position of the record in its ring -/
  unit : Nat
  lcnt : Nat
  postmark : Nat
  src : Nat
  queue : Nat
  /-- uses the micro-batch table (not GRX or CKP, R239) -/
  useMb : Bool
  /-- placed by a host command (R329) -/
  host : Bool
  handle : Nat
deriving DecidableEq, Repr

/-- Who waits for a tensor send to complete (R242, R324). -/
inductive Sender where
  | core (n : Nat)
  | command (district index : Nat)
  | engine (district : Nat)
deriving DecidableEq, Repr

/-- An instruction that has been issued and has not completed (R69). -/
inductive OutKind where
  /-- READ: box, next slot, items left, TAGGED, FINAL -/
  | read (box dst left : Nat) (tagged final : Bool)
  /-- AWAIT: queue, slot, postmark with the step in it -/
  | await (queue slot postmark : Nat)
  /-- COPY with ENQ whose item waits to enter its queue -/
  | enqueue (item : SItem)
  /-- SEND or FORWARD: TX ring and message serial -/
  | send (ring serial : Nat)
  /-- UNPACK: its descriptor, as a number -/
  | unpack (descr : Nat)
deriving DecidableEq, Repr

structure Outst where
  pc : Nat
  kind : OutKind
  srcs : List (Nat × Nat)
  dsts : List (Nat × Nat)
deriving DecidableEq, Repr

/-- A best-effort tile on a core (R334): its command's ring index, program, time replayed. -/
structure Tile where
  district : Nat
  index : Nat
  prog : List Nat
  replayed : Bool
  outAddr : Nat
  outOff : Nat
  outLen : Nat
  /-- what the tile's copies overwrote in module memory, latest first, and the scratch window as the tile found it (R16): device
  address and bytes -/
  undo : List (Nat × List Byte) := []
  scratch : Nat × List Byte := (0, [])
deriving DecidableEq, Repr

/-- The tile last loaded into an array (R80): loading core, W_ADDR, W_STRIDE, WFMT, TRANS, K within one tile. -/
structure Resident where
  core : Nat
  wAddr : Nat
  wStride : Nat
  wfmt : Nat
  trans : Bool
  whole : Bool
deriving DecidableEq, Repr

structure Core where
  /-- column groups on (R89) -/
  groups : Nat := 0
  /-- instruction last issued and orbit-table row in use (R102) -/
  pc : Nat := 0
  row : Nat := 0
  next : Nat := 0
  work : Option Work := none
  loops : List LoopSt := []
  outs : List Outst := []
  /-- a 17th instruction waits until the oldest of 16 outstanding ones completes (R69) -/
  outsFull : Bool := false
  /-- a SEND that waits to claim cells (R203): the instruction with its increments applied -/
  sendWait : Option Nat := none
  /-- messages whose cells are claimed and filled but not linked (R200), in the order of their SENDs: box and items -/
  unlinked : List (Nat × List BoxItem) := []
  resident : Option Resident := none
  /-- MACs performed, of which KMACS shows the units of 1,024 (R376) -/
  macs : Nat := 0
  held : List SItem := []
  tile : Option Tile := none
  /-- orbit that the work in progress overran, and the cause attributed to it so far (R45, R48) -/
  lateOrbit : Option Nat := none
  lateCause : Nat := 0
  /-- orbit of the latest overrun whose work has since completed, and its cause (R50, R204) -/
  lateLast : Option Nat := none
  lastCause : Nat := 0
  /-- least cycles left at a tick in this step, once the core has had a row (R376) -/
  slackMin : Option Nat := none
  idleGap : Nat := 64
  idleGapSh : Nat := 64
  replayMax : Nat := 2
  replayMaxSh : Nat := 2
  checkFail : Bool := false
  checkExhausted : Bool := false
  lastReplays : Nat := 0
  lastPc : Nat := 0
  lastRow : Nat := 0
  sramCe : Bool := false
  sramUe : Bool := false
  sramBank : Nat := 0
  sramAddr : Nat := 0
  chainLedger : Bool := false
  chainLockstep : Bool := false
  chainCause : Nat := 0
  chainLid : Nat := 0
  chainPc : Nat := 0
  trainDesc : Bool := false
  trainRecord : Bool := false
  trainSched : Bool := false
  trainCause : Nat := 0
  trainPc : Nat := 0
  trainSeq : Nat := 0
deriving DecidableEq, Repr

/-! ## Boxes, rings and stage queues (07, 08) -/

/-- A box of QUEUE_MAP (R193, R207, R212, R214). `state` is PBX_BOX.STATE. -/
structure Box where
  state : Nat := 0
  items : List BoxItem := []
  high : Nat := 0
  /-- a FINAL READ completed and the postbox dies 8 cycles later -/
  dying : Bool := false
  /-- contributor indices and lane sums of the current and the next round -/
  cur : List Nat := []
  next : List Nat := []
  accCur : List Int := []
  accNext : List Int := []
  /-- completed results that wait for room in OUT -/
  results : List BoxItem := []
  rounds : Nat := 0
  ovf : Bool := false
  overs : Bool := false
deriving DecidableEq, Repr

/-- A message given to a TX ring and not yet taken into frames (R232): header bytes of an engine record, then `len` bytes
in all, the rest from `addr`; `old` reads a DIRTY page from its journal slot (R347). -/
structure TxMsg where
  serial : Nat
  who : Sender
  postmark : Nat
  len : Nat
  lcnt : Nat
  head : List Byte
  addr : Nat
  old : Bool
deriving DecidableEq, Repr

/-- A frame a port has received: arrival port, link class and flits (for credits), header with its CRC field zero (as a
number), payload. -/
structure RxFrame where
  port : Nat
  cls : Nat
  flits : Nat
  hdr : Nat
  payload : List Byte
deriving DecidableEq, Repr

/-- An unreleased record of an RX ring: first unit, units, released yet, MSG or SKIP. -/
structure RRec where
  unit : Nat
  units : Nat
  released : Bool
  /-- a mirror, serve or restore record that the engine has not yet handled (R359) -/
  engine : Bool := false
deriving DecidableEq, Repr

/-- A record on its way into an RX ring: its header image (64 B) as a number, written or discarded. -/
structure Arrival where
  header : Nat
  keep : Bool
deriving DecidableEq, Repr

/-- A receive or send ring (R227, R246). `state` is MEM_RING_STAT.STATE; `msgno` the next number sent or expected. -/
structure Ring where
  state : Nat := 0
  wp : Nat := 0
  rp : Nat := 0
  attempt : Nat := 0
  msgno : Nat := 0
  recs : List RRec := []
  waiting : List TxMsg := []
  /-- a wait for credits of the front message has been counted -/
  waited : Bool := false
  arrival : Option Arrival := none
  /-- frames of the next attempt, held in receive staging (R234), and whether the record arriving is such a one -/
  staged : List RxFrame := []
  /-- attempt for which a NACK_DEAD was sent (R277) -/
  nacked : Option Nat := none
  serial : Nat := 0
deriving DecidableEq, Repr

/-- A stage queue (R237, R238, R240). -/
structure SQueue where
  items : List SItem := []
  waiting : List (SItem × Option Sender) := []
  high : Nat := 0
deriving DecidableEq, Repr

/-! ## Districts (02, 07, 08, 10, 11, 12, 13) -/

/-- A district definition (R308). -/
structure Defn where
  valid : Bool := false
  quads : Nat := 0
  tensor : Nat := 0
  host : Nat := 0
  baseGib : Nat := 0
  sizeGib : Nat := 0
deriving DecidableEq, Repr

/-- The step-end barrier and the restart of one district (R54, R275, R348 to R351). -/
structure Barrier where
  arrived : Option Nat := none
  go : Option Nat := none
  /-- children's proposals of this step, by logical port -/
  props : List (Nat × Nat) := []
  sentUp : Bool := false
  /-- slots received so far of an incomplete child table, by logical port -/
  amaxGot : List (Nat × List (Nat × Nat)) := []
  amaxSent : Bool := false
  down : Bool := false
  /-- BAR_UP waits for the buddy's release of the slot records (R357) -/
  slotWait : Bool := false
  rolledBack : Bool := false
  counted : Bool := false
  decided : Option Nat := none
  deadline : Option Nat := none
  restart : Option Nat := none
  restartSeen : Bool := false
  resume : Option Nat := none
deriving DecidableEq, Repr

/-- ORB registers of one district (R59). -/
structure OrbDist where
  minSlack : Nat := 0
  minCore : Nat := 0
  late : Bool := false
  ovNotice : Bool := false
  ovRollback : Bool := false
  ovFence : Bool := false
  ovTimeout : Bool := false
  ovCause : Nat := 0
  ovCore : Nat := 0
  rollbacks : Nat := 0
  ovOrbit : Nat := 0
  step : Nat := 0
  phase : Phase := .none
  index : Nat := 0
  /-- low 16 bits of the orbit at which the attempt began (R154) -/
  attempt : Nat := 0
deriving DecidableEq, Repr

/-- IMG registers and images of one district (R290 to R307). `shadow`, `commit` are the codes of IMG_STATUS. -/
structure ImgDist where
  base : Nat := 0
  len : Nat := 0
  /-- range of the load in progress, taken when it was accepted (R292) -/
  loadBase : Nat := 0
  loadLen : Nat := 0
  target : Nat := 0
  shadow : Nat := 0
  commit : Nat := 0
  loadResult : Nat := 0
  result : Nat := 0
  loadedEv : Bool := false
  committedEv : Bool := false
  resultOrbit : Nat := 0
  hash : List Byte := []
  activeId : Nat := 0
  errSection : Nat := 0
  errCheck : Nat := 0
  errEntry : Nat := 0
  errOffset : Nat := 0
  keyed : Bool := false
  keyId : Nat := 0
  key : List Byte := []
  active : Option Image := none
  loaded : Option Image := none
  /-- NUM_TABLE of the image that a district reset dropped (R361) -/
  oldNum : List Nat := []
  /-- a line of the image being loaded stayed uncorrectable: how R220 answers (R292) -/
  loadErr : Option Status := none
  /-- the district has had a fence since its latest DONE commit: its ports keep sending FENCE (R281) -/
  portsFence : Bool := false
deriving DecidableEq, Repr

/-- A host command in progress (R325, R326). -/
structure Cmd where
  index : Nat
  entry : Nat
  /-- finished: status, DETAIL, orbit of completion -/
  done : Option (Status × Nat × Nat) := none
  unread : Bool := false
  /-- TILE: 0 started, 1 checked and waiting for a core, 2 issued; WAIT_ORBIT: 1 waiting -/
  stage : Nat := 0
deriving DecidableEq, Repr

/-- DST registers and host commands of one district (R321 to R336). -/
structure HostDist where
  refeed : Bool := false
  badTail : Bool := false
  beStop : Bool := false
  cmdBase : Nat := 0
  cmdLog2 : Nat := 0
  cmdEn : Bool := false
  cmdTail : Nat := 0
  cmdHead : Nat := 0
  cplBase : Nat := 0
  cplLog2 : Nat := 0
  cplEn : Bool := false
  cplTail : Nat := 0
  cplHead : Nat := 0
  beBase : Nat := 0
  beSize : Nat := 0
  beBaseSh : Nat := 0
  beSizeSh : Nat := 0
  refeedStep : Nat := 0
  refeedOrbit : Nat := 0
  cmds : List Cmd := []
  /-- OUT copies in progress: command index, core, destination, bytes, replayed -/
  outs : List (Nat × Nat × Nat × List Byte × Bool) := []
deriving DecidableEq, Repr

/-- What a journal copy-back is for (R341, R346, R354). -/
inductive CopyBack where
  | rollback
  | rewind
  | reset
deriving DecidableEq, Repr

/-- FLT registers, log, journal, restore and roll-forward of one district (12). -/
structure FltDist where
  head : Nat := 0
  tail : Nat := 0
  seen : Nat := 0
  lastCode : Nat := 0
  lost : Nat := 0
  entries : Tbl Nat := Tbl.empty
  /-- NOTICEs logged in this step: code and unit (R338) -/
  noted : List (Nat × Nat) := []
  rlead : Nat := 0
  rleadSh : Nat := 0
  fenced : Bool := false
  rewindable : Bool := false
  gen : Nat := 0
  journalLost : Bool := false
  /-- DIRTY pages by their place in the journalled sequence (R344), of this generation and of the one before -/
  dirty : List Nat := []
  prevDirty : List Nat := []
  copyBack : Option CopyBack := none
  resetting : Bool := false
  restArm : Bool := false
  restStep : Nat := 0
  restore : Bool := false
  /-- rings on which a restore stream has begun and not ended (R363) -/
  receiving : List Nat := []
  /-- STALE pages by address >> 20 (R363) -/
  stale : List Nat := []
  /-- orbit index of a roll-forward in progress, and one asked for (R364) -/
  rollAt : Option Nat := none
  rollAsked : Bool := false
deriving DecidableEq, Repr

/-- SPR_MIRRORn, SPR_SERVEn of one district, active and shadow (R356 to R362). -/
structure MirDist where
  send : Bool := false
  keep : Bool := false
  txRing : Nat := 0
  base : Nat := 0
  size : Nat := 0
  dwBase : Nat := 0
  dwSize : Nat := 0
  sendSh : Bool := false
  keepSh : Bool := false
  txRingSh : Nat := 0
  baseSh : Nat := 0
  sizeSh : Nat := 0
  dwBaseSh : Nat := 0
  dwSizeSh : Nat := 0
  stat : Nat := 0
  statStep : Nat := 0
  pages : Nat := 0
  /-- the DW records and END of this step's stream have been given to the ring -/
  dwDue : Bool := false
  serving : Bool := false
  sent : Nat := 0
  /-- records of the current stream or serve not yet in the replay buffer, and given in all -/
  left : Nat := 0
  given : Nat := 0
  /-- SLOT records that the barrier before this step has sent, and those the coming go tick takes over (R357) -/
  slotsSent : Nat := 0
  slotsNext : Nat := 0
  /-- SLOT records held of a buddy: data bytes and entries by MOFF (R359, R362) -/
  heldSlots : List (Nat × Nat × Nat) := []
deriving DecidableEq, Repr

/-- Postbox pool registers of one district (R217). -/
structure PbxDist where
  deadCnt : Nat := 0
  high : Nat := 0
  firstDead : Bool := false
  fault : Bool := false
  cause : Nat := 0
  fbox : Nat := 0
  fcore : Nat := 0
  dlrBase : Nat := 0
  dlrLog2 : Nat := 0
  dlrHead : Nat := 0
  dlrTail : Nat := 0
  dlrDrop : Nat := 0
deriving DecidableEq, Repr

/-- Memory registers of one district (R246). -/
structure MemDist where
  ce : Bool := false
  retry : Bool := false
  ue : Bool := false
  tag : Bool := false
  channel : Nat := 0
  sub : Nat := 0
  line : Nat := 0
  mbHigh : Nat := 0
  fault : Bool := false
  cause : Nat := 0
  index : Nat := 0
  fcore : Nat := 0
deriving DecidableEq, Repr

/-- NUM registers of one district (R134, R190). -/
structure NumDist where
  seed : Nat := 0
  seedSh : Nat := 0
  events : Nat := 0
  lastSlot : Nat := 0
  dpReplica : Nat := 0
  dpReplicas : Nat := 0
  dpValid : Bool := false
deriving DecidableEq, Repr

/-- Snapshot registers and shadows of one district (R378 to R380). `state` is SNP_STATUS.STATE. -/
structure SnpDist where
  orbit : Nat := 0
  state : Nat := 0
  doneEv : Bool := false
  missed : Bool := false
  seq : Nat := 0
  step : Nat := 0
  snapOrbit : Nat := 0
  bank : Tbl Nat := Tbl.empty
deriving DecidableEq, Repr

structure District where
  defn : Defn := {}
  orb : OrbDist := {}
  bar : Barrier := {}
  img : ImgDist := {}
  host : HostDist := {}
  flt : FltDist := {}
  mir : MirDist := {}
  pbx : PbxDist := {}
  mem : MemDist := {}
  num : NumDist := {}
  snp : SnpDist := {}
deriving DecidableEq, Repr

/-- District 0 at reset holds the whole module (R308). -/
def District.whole : District :=
  { defn := ⟨true, 2 ^ 128 - 1, 0xFFFFFF, 0xF, 0, 736⟩ }

/-! ## Orbits (02) -/

/-- A join that has been placed (R36): reference cycle of the tick, orbit, period. -/
structure JoinPlan where
  tick : Nat
  orbit : Nat
  period : Nat
deriving DecidableEq, Repr

structure Orb where
  run : Bool := false
  arm : Bool := false
  join : Bool := false
  tag : Nat := 0
  stop : Bool := false
  period : Nat := 0
  periodSh : Nat := 0
  number : Nat := 0
  epoch : Nat := 0
  timeout : Nat := 0
  lead : Nat := 0
  timeoutSh : Nat := 0
  leadSh : Nat := 0
  refOk : Bool := false
  tickOk : Bool := false
  joined : Bool := false
  slip : Bool := false
  lastTag : Nat := 0
  startOrbit : Nat := 0
  /-- consecutive good REFCLK windows, 0 to 2 (R452) -/
  good : Nat := 0
  /-- phase of the first valid mark (R30) -/
  phase : Option Nat := none
  /-- mark position of the latest slip, in periods of 156,250 after the phase (R31) -/
  slipAt : Option Int := none
  slips : Nat := 0
  /-- reference cycle E of the accepted epoch mark (R34) -/
  accepted : Option Nat := none
  plan : Option JoinPlan := none
  /-- port whose peer's card was accepted first under this join (R36) -/
  joinPort : Option Nat := none
  /-- reference cycle of the latest tick -/
  lastTick : Nat := 0
deriving DecidableEq, Repr

/-! ## Module memory (08) -/

structure MemCtl where
  trained : Bool := false
  channels : Nat := 0
  retired : Nat := 0
  freePages : Nat := 32768
  scrubHours : Nat := 4
  passes : Nat := 0
  /-- next line the scrubber reads -/
  scrubAt : Nat := 0
  selfRefresh : Bool := false
  /-- remaps in force and waiting for a step tick: page, spare page (R221) -/
  remaps : List (Nat × Nat) := []
  waiting : List (Nat × Nat) := []
  /-- pages repaired that go back at the next step tick (R369) -/
  restoring : List Nat := []
  /-- spare pages that were retired in their turn (R221) -/
  worn : List Nat := []
  /-- reads re-issued: line, district (R220) -/
  retries : List (Nat × Nat) := []
  /-- next handle of a hold (R245); no hold bears 0, which an empty slot holds -/
  handle : Nat := 1
deriving DecidableEq, Repr

/-- Lines from `first` to `last` whose address tag bears a district that is not their owner's: none of them has been written since
the definitions changed (R219, R308). -/
structure TagRange where
  first : Nat
  last : Nat
  district : Nat
deriving DecidableEq, Repr

/-! ## Clock, power and sparing (12, 15) -/

/-- Time: reference cycles and units of 1/5 × 2^−32 ns since power-up (the model's own), GLB_TIME in ns and its hidden fraction in
those units (R412). -/
structure Clock where
  ref : Nat := 0
  up : Nat := 0
  ns : Nat := 0
  frac : Nat := 0
deriving DecidableEq, Repr

/-- GLB straps, PWR registers and the state of the power and reset sequencing (R406 to R422, R451). -/
structure Power where
  pstrap : Nat := 0xFFF
  bootsel : Nat := 0
  stable : Bool := true
  state : PowerState := .run
  changing : Bool := false
  target : PowerState := .run
  halted : Bool := false
  resetLast : Nat := 0
  memKept : Bool := false
  warmPending : Bool := false
  trip : Nat := 0
  first : Nat := 0
  coolMax : Nat := 60
  stage : Nat := 1
  stopped : Bool := false
  fail : Nat := 0
  rail : Nat := 0
  ms : Nat := 0
  io : Nat := 0
  islandOn : Bool := true
  railsOn : Bool := true
  heldReset : Bool := false
  critPending : Bool := false
  offCause : Nat := 0
  railRetried : Bool := false
  padsReleased : Bool := false
deriving DecidableEq, Repr

/-- Repair state of one physical array (R99, R102). -/
structure Repair where
  rowSpare : Bool := false
  row : Nat := 0
  colSpare : Bool := false
  col : Nat := 0
  checked : Bool := true
  field : Bool := false
deriving DecidableEq, Repr

/-- A quad swap that waits for a step boundary (R366): logical quad, spare quad, under R97 or not, and whether the soft-repair
tables in flash hold it (R403). -/
structure Swap where
  quad : Nat
  spare : Nat
  forced : Bool
  written : Bool
deriving DecidableEq, Repr

/-- SPR registers and the quads' places (R366, R367, R373). -/
structure Sparing where
  free : List Nat := [128, 129, 130, 131]
  testing : List Nat := []
  retired : List Nat := []
  ppr : Nat := 0
  interval : Nat := 1000
  next : Nat := 0
  /-- step boundaries since the latest rotation -/
  since : Nat := 0
  /-- physical quad of a logical quad; q itself where not listed -/
  qmap : List (Nat × Nat) := []
  swaps : List Swap := []
  /-- repair state by 4 × physical quad + array -/
  repairs : Tbl Repair := Tbl.empty
deriving DecidableEq, Repr

/-! ## Tensor ports (09) -/

/-- A frame to be sent: class in the arbitration of R258 (0 to 3 the channels, 4 CTL, 5 transit), link class of its credits
and BSEQ (R256), header with FSEQ and CRC zero, payload, district whose fence stops it (none: transit and relay), TX ring and
serial of the message it carries, sender that its leaving completes, place in the sending order of its logical port and class
(district, logical port, number) while it has no BSEQ yet (R260), and the received frame whose room it frees. -/
structure TxFrame where
  arb : Nat
  cls : Nat
  hdr : Nat
  payload : List Byte
  own : Option Nat := none
  ring : Option (Nat × Nat) := none
  who : Option Sender := none
  turn : Option (Nat × Nat × Nat) := none
  src : Option (Nat × Nat × Nat) := none
deriving DecidableEq, Repr

/-- Progress of a planned lane swap in one direction of a port (R368). -/
inductive LaneSwap where
  /-- proposed to the peer's Moon, which has not agreed yet -/
  | proposed (lane : Nat)
  /-- agreed; the transmitter bridges at the next go tick -/
  | agreed (lane : Nat)
  /-- lane and spare both carry the lane's data -/
  | bridged (lane : Nat)
deriving DecidableEq, Repr

/-- A physical port (R247 to R282). `state` is TLK_STATE.STATE. -/
structure Port where
  state : Nat := 0
  peerFence : Bool := false
  peerHalt : Bool := false
  peerQuar : Bool := false
  qcause : Nat := 0
  dcause : Nat := 0
  minor : Nat := 0
  major : Nat := 0
  map : Nat := 0x4688
  pol : Nat := 0
  spareUsed : Bool := false
  retryEv : Bool := false
  retrainEv : Bool := false
  downEv : Bool := false
  /-- FSEQ of the last frame acknowledged, of the oldest that is not, and of the next new one; frames unacknowledged, oldest
  first -/
  acked : Nat := 0
  base : Nat := 0
  next : Nat := 0
  replay : List (Nat × TxFrame) := []
  /-- a frame has been accepted since training (R253); FSEQ expected next; a NAK for it has been sent -/
  gotFrame : Bool := false
  expected : Nat := 0
  nakSent : Bool := false
  /-- resends in a row without ACK progress; RETRAINs failed in a row -/
  resends : Nat := 0
  failedRetrains : Nat := 0
  /-- full training is repeated every second after failed RETRAINs (R255) -/
  retrying : Bool := false
  oneway : Nat := 0
  latValid : Bool := false
  rtt : Nat := 0
  /-- ECHOs received of this exchange's 16 PINGs -/
  echoes : Nat := 0
  disable : Bool := false
  cardLocal : List Byte := []
  /-- last valid card received, and the orbit at its arrival (0 while not counting) -/
  cardPeer : List Byte := []
  cardOrbit : Nat := 0
  /-- a valid card has arrived since full training (R269) -/
  cardHeld : Bool := false
  /-- a valid card of this exchange has arrived, or its time is over -/
  cardSeen : Bool := false
  /-- card last accepted under R269 -/
  accepted : List Byte := []
  /-- cumulative flits freed here, freed by the peer, and spent, by class (R253, R257) -/
  freed : List Nat := [0, 0, 0, 0, 0, 0]
  peerFreed : List Nat := [0, 0, 0, 0, 0, 0]
  spent : List Nat := [0, 0, 0, 0, 0, 0]
  queue : List TxFrame := []
  /-- deficit round robin (R258): channel visited, its quantum granted, deficits, dt, last frame was CTL -/
  drrAt : Nat := 0
  drrOn : Bool := false
  deficit : List Nat := [0, 0, 0, 0]
  dt : Int := 0
  lastCtl : Bool := false
  /-- transit frames left in the current orbit, and in the last completed one -/
  transitNow : Bool := false
  transitActive : Bool := false
  swapTx : Option LaneSwap := none
  swapRx : Option LaneSwap := none
  /-- a JOB_HOLD owed when the port becomes ACTIVE (R279): step, attempt, origin, cause -/
  holdOwed : Option (Nat × Nat × Nat × Nat) := none
  /-- words written to the shadows of TLK_POLICY, TLK_TRANSIT and TLK_PEER_SERIAL since the last commit (R305) -/
  policySh : Option Nat := none
  transitSh : Option Nat := none
  serialSh : Option Nat := none
deriving DecidableEq, Repr

/-- A logical port and link class (R260): frames not yet placed on a member, number of the next placed, next BSEQ, BSEQ
expected, frames that arrived ahead of it. -/
structure Lane where
  queue : List TxFrame := []
  placed : Nat := 0
  next : Nat := 0
  expected : Nat := 0
  store : List (Nat × RxFrame) := []
deriving DecidableEq, Repr

/-! ## Host ports (11) -/

/-- A non-negative fraction, not reduced. -/
structure Frac where
  num : Nat
  den : Nat
deriving DecidableEq, Repr

/-- A queue pair (R313, R315): connected, remote number, α, Rc and Rt in Mb/s, periods without a CNP since the last, and time
(`Clock.up`) of the last CNP sent. -/
structure Qp where
  connected : Bool
  remote : Nat
  alpha : Frac
  rc : Frac
  rt : Frac
  quiet : Nat
  cnpAt : Option Nat
deriving DecidableEq, Repr

/-- A host port (R336). -/
structure HostPort where
  link : Bool := false
  ipv4 : Nat := 0
  ipv4Valid : Bool := false
  ipv6 : Nat := 0
  mac : Nat := 0
  /-- addresses that wait for the port to have no connected QP: IPv4, valid, IPv6, MAC (R314) -/
  newAddr : Option (Nat × Bool × Nat × Nat) := none
  pfcEn : Nat := 8
  rocePrio : Nat := 3
  roceDscp : Nat := 26
  cnpDscp : Nat := 48
  ecnEn : Bool := true
  paused : List Nat := []
  /-- time (`Clock.up`) at which the pause of the paused priorities began -/
  pausedAt : Nat := 0
  /-- answers queued on paused priorities -/
  queued : List Answer := []
  /-- RC queue pairs by number, 0 to 255 -/
  qps : Tbl Qp := Tbl.empty
deriving DecidableEq, Repr

/-- A memory window (R318); windows that are not open are not listed. -/
structure Window where
  tag : Nat
  base : Nat
  size : Nat
  read : Bool
  write : Bool
deriving DecidableEq, Repr

/-! ## Moon (14) -/

/-- An SPDM session (R393): number, established, requester's chain ends in the installed owner root, key generation, and the
secret that its keys derive from. -/
structure Session where
  id : Nat
  established : Bool
  owner : Bool
  keys : Nat
  secret : List Byte
deriving DecidableEq, Repr

/-- A firmware update in progress (R389, R390): stage 1 requested, 2 table passed, 3 transferring, 4 transferred, 5 verified;
into SRAM only; bytes received so far. -/
structure Update where
  stage : Nat
  ram : Bool
  bytes : List Byte
deriving DecidableEq, Repr

/-- Configuration partition (R383, R402, R403). -/
structure MoonConfig where
  limitW : Nat := 1150
  throttle : Nat := 98
  /-- management network: addresses of MCTP over UDP (R399), 0 for none -/
  ipv4 : Nat := 0
  ipv6 : Nat := 0
  threshold : Nat := 0x3727C5AC
deriving DecidableEq, Repr

/-- Cards of a port in QUARANTINE (R404): port, card sent, card received, QCAUSE, orbit. -/
structure KeptCards where
  port : Nat
  mine : List Byte
  peer : List Byte
  qcause : Nat
  orbit : Nat
deriving DecidableEq, Repr

/-! ### Flash (R383, R384) -/

/-- Soft-repair tables: columns and rows by 4 × physical quad + array, places of the quads, tested spares, retired quads, lane
maps (port, map, spare in use), pages with their spare pages, spare pages retired in their turn. -/
structure RepairTables where
  repairs : Tbl Repair := Tbl.empty
  qmap : List (Nat × Nat) := []
  free : List Nat := [128, 129, 130, 131]
  retired : List Nat := []
  lanes : List (Nat × Nat × Bool) := []
  pages : List (Nat × Nat) := []
  worn : List Nat := []
deriving DecidableEq, Repr

/-- Owner root certificate, and the registered key of each district: district, KEYID, public key. -/
structure KeyTables where
  owner : List Byte := []
  keys : List (Nat × Nat × List Byte) := []
deriving DecidableEq, Repr

/-- Configuration: limits and management network, scrub period, test interval, host-port addresses and QoS. -/
structure ConfigTables where
  cfg : MoonConfig := {}
  scrubHours : Nat := 4
  interval : Nat := 1000
  hosts : Tbl HostPort := Tbl.empty
deriving DecidableEq, Repr

/-- One copy of an A and B partition: contents, 32-bit write sequence, and whether the SHA-384 at its end is that of the copy. -/
structure FlashCopy (α : Type) where
  content : α
  seq : Nat
  sound : Bool
deriving DecidableEq, Repr

structure FlashPair (α : Type) where
  a : FlashCopy α
  b : FlashCopy α
deriving DecidableEq, Repr

/-- A partition as it is at manufacture: copy A written, copy B blank. -/
def FlashPair.new {α : Type} (x : α) : FlashPair α := ⟨⟨x, 0, true⟩, ⟨x, 0, false⟩⟩

/-- The flash: layout version, firmware partition, and the A and B partitions. The DeviceID certificate and the chain above it
never change (`Config.deviceChain`); the event log stands in `Moon.log`. -/
structure Flash where
  layout : Nat := 1
  image : List Byte := []
  tables : FlashPair RepairTables := FlashPair.new {}
  keys : FlashPair KeyTables := FlashPair.new {}
  config : FlashPair ConfigTables := FlashPair.new {}
deriving DecidableEq, Repr

/-- Moon (R381 to R405). `fw` is MOON_STATUS.FW_STATE, `lifecycle` LIFECYCLE. -/
structure Moon where
  fw : Nat := 0
  lifecycle : Nat := 1
  unlocked : Bool := false
  restarts : Nat := 0
  boot : Nat := 0
  version : Nat := 0
  svn : Nat := 0
  minSvn : Nat := 0
  serial : Nat := 1
  power : Nat := 0
  coreMhz : Nat := 700
  dieMax : Nat := 0
  inlet : Nat := 0
  outlet : Nat := 0
  /-- 10 ms checks since the latest step down, and in a row with room to step up (R402) -/
  sinceDown : Nat := 10
  calm : Nat := 0
  /-- firmware runs (false from a restart to its end, R382) -/
  running : Bool := false
  /-- public key of the installed owner root -/
  owner : List Byte := []
  cfg : MoonConfig := {}
  flash : Flash := {}
  /-- the image in SRAM that RAM_ONLY runs -/
  ramImage : List Byte := []
  /-- UDS is locked until reset; CDI_F, which the ROM gives the firmware (R392) -/
  udsLocked : Bool := false
  cdi : List Byte := []
  /-- DIGEST of the running firmware -/
  digest : List Byte := []
  update : Option Update := none
  /-- persistent log, oldest first: SEQ, entry, BOOT; next SEQ (R385) -/
  log : List (Nat × Nat × Nat) := []
  nextSeq : Nat := 0
  /-- entries of each district's ring copied so far -/
  copied : List Nat := [0, 0, 0, 0]
  /-- SPDM: 0 nothing, 1 version, 2 capabilities, 3 algorithms negotiated -/
  spdm : Nat := 0
  sessions : List Session := []
  nextSession : Nat := 0
  nonce : Option Nat := none
  cards : List KeptCards := []
  /-- latest message of a peer's Moon, by port (R399, R404) -/
  mgmt : List (Nat × List Byte) := []
deriving DecidableEq, Repr

/-- States of the IEEE 1149.1 test access port (R435). -/
inductive Tap where
  | reset | idle | selDr | capDr | shDr | ex1Dr | pauDr | ex2Dr | updDr | selIr | capIr | shIr | ex1Ir | pauIr | ex2Ir | updIr
deriving DecidableEq, Repr

/-- What an instruction of the test access port selects (R396, IEEE 1149.1). -/
inductive JtagInstr where
  | bypass
  | idcode
  | boundary
  /-- the IEEE 1687 network -/
  | network
  /-- Moon's debug module -/
  | debug
  /-- anything else of full access -/
  | other
deriving DecidableEq, Repr, Inhabited

/-- The test access port: state, instruction in force, instruction and data shift registers (the bit that leaves next first). -/
structure Jtag where
  state : Tap := .reset
  instr : JtagInstr := .idcode
  ir : List Bool := []
  dr : List Bool := []
  /-- JTAG_TRST_N is low: the board leaves it open (R428) -/
  held : Bool := true
deriving DecidableEq, Repr

/-! ## The machine -/

structure State where
  /-- commands that wait, first in first out (the model's own) -/
  pending : List Instr := []
  /-- counter from which free values are drawn (the model's own) -/
  free : Nat := 0
  /-- module memory and core SRAM by device address (R7), in canonical form -/
  mem : List Host.Cell := []
  clk : Clock := {}
  pwr : Power := {}
  orb : Orb := {}
  spr : Sparing := {}
  /-- counters by shadow offset (R375), and district counters by 64 × district + index (R376) -/
  cnt : Tbl Nat := Tbl.empty
  dcnt : Tbl Nat := Tbl.empty
  dist : Tbl District := ⟨[(0, District.whole)]⟩
  cores : Tbl Core := Tbl.empty
  boxes : Tbl Box := Tbl.empty
  rings : Tbl Ring := Tbl.empty
  queues : Tbl SQueue := Tbl.empty
  memc : MemCtl := {}
  slots : Tbl Slot := Tbl.empty
  ports : Tbl Port := Tbl.empty
  /-- by (24 × district + logical port) × 6 + link class -/
  lanes : Tbl Lane := Tbl.empty
  hosts : Tbl HostPort := Tbl.empty
  /-- open windows by 256 × district + window; window 0 of district 0 has the tag that Moon set (log entry 9) -/
  windows : Tbl Window := ⟨[(0, ⟨1, 0, 0, true, true⟩)]⟩
  moon : Moon := {}
  jtag : Jtag := {}
  /-- what has left the module, newest first (the model's own) -/
  out : List Output := []
  /-- address tags of module memory that are not their owner's, by ranges of lines; the first that holds a line counts (R219) -/
  tags : List TagRange := []
deriving DecidableEq, Repr

/-- The machine right after a cold reset with 54 V applied: start-up stands at stage 1 (R420), every register at its reset
value, no memory listed. -/
def State.reset : State := {}

end Sys2Proof.Machine
end

