-- ==== Sys2Proof/Config.lean ====
section
/-! DEFINITION. What one part fixes and the spec leaves open: free values. None has a body, so no proof can rest on a value. -/

namespace Sys2Proof.Config

/-- A free value, by the serial number drawn for it: nonces, ephemeral keys, signatures, certificates and protocol data that
the spec leaves to standards or to chance (log entry 1). -/
opaque freeValue : Nat → Nat

/-- Does a PORST_N pulse between 400 ns and 1 µs reset (R416)? By serial number. -/
opaque porstResets : Nat → Bool

/-- Lines of a copy in progress that a stopped tile has written (R334). By serial number. -/
opaque tileLines : Nat → Nat

/-- Updates of flash partitions that a reset or a restart of Moon cuts off (R384): bits 0 tables, 1 keys, 2 configuration. By serial
number. -/
opaque tornWrites : Nat → Nat

/-- 14-bit fold of a line address in its tag (R219), and the sub-channel that MEM_ECC shows for a mismatch of the tag: the spec
gives neither the fold nor the place of the tag symbols (log entry 109). -/
opaque tagFold : Nat → Nat
opaque tagSub : Nat

/-- Public firmware key of a KEYSEL, the hash that the boot ROM holds for it, and its revocation fuse (R387). -/
opaque firmwareKey : Nat → List Byte
opaque romKeyHash : Nat → List Byte
opaque firmwareKeyRevoked : Nat → Bool

/-- Public Herquetrix debug key, and the digest that a debug token signs for a serial and a nonce (R397). -/
opaque debugKey : List Byte
opaque debugDigest : Nat → Nat → List Byte

/-- SHA-384 of the boot ROM (R392, R395). -/
opaque romHash : List Byte

/-- Unique device secret, fused at manufacture (R392). -/
opaque uds : List Byte

/-- DeviceID certificate and the Herquetrix chain above it, in flash from manufacture (R383, R392). -/
opaque deviceChain : List Byte

/-- Certificate that a private key signs for a public key and what it stands for (R392, R394), and a signature by a private key over
a message with a serial number: formats and nonces are not in the spec. -/
opaque certificate : Nat → List Byte → List Byte → List Byte
opaque signature : Nat → List Byte → Nat → List Byte

/-- Bytes of a soft-repair copy before its write sequence (R384, R395): the tables' format is not in the spec. -/
opaque repairBytes : Sys2Proof.Machine.RepairTables → List Byte

/-- Test access port (R435): what an instruction code selects, what Capture-IR and the data registers of boundary, network and
debug capture (by serial number), and the IDCODE. The spec leaves them to IEEE 1149.1 and to the part. -/
opaque jtagDecode : List Bool → Sys2Proof.Machine.JtagInstr
opaque irCapture : List Bool
opaque drCapture : Nat → List Bool
opaque idcode : Nat

end Sys2Proof.Config
end

