-- ==== Sys2Proof/Machine/Crypto.lean ====
section
/-! DEFINITION. The digests and codes the spec names: CRC-32 of IEEE 802.3 (R251, R253, R267, R385), SHA-384 (R283, R307),
HMAC-SHA-384 (R392) and ECDSA verification on brainpoolP384r1 (R283, R386). The algorithms are those standards' own; the
spec names them and does not repeat them (log entry 11). -/

namespace Sys2Proof.Machine

/-- One bit of the reflected CRC-32 of IEEE 802.3. -/
def crcBit (c : Nat) : Nat := if c % 2 = 1 then (c / 2) ^^^ 0xEDB88320 else c / 2

def crcByte (c : Nat) (b : Byte) : Nat :=
  crcBit (crcBit (crcBit (crcBit (crcBit (crcBit (crcBit (crcBit (c ^^^ b.toNat))))))))

/-- CRC-32 with the IEEE 802.3 polynomial. -/
def crc32 (bs : List Byte) : Nat := (bs.foldl crcByte 0xFFFFFFFF) ^^^ 0xFFFFFFFF

def m64 : Nat := 2 ^ 64

def rotr64 (x n : Nat) : Nat := ((x >>> n) ||| (x <<< (64 - n))) % m64

def primes80 : List Nat :=
  [2, 3, 5, 7, 11, 13, 17, 19, 23, 29, 31, 37, 41, 43, 47, 53, 59, 61, 67, 71, 73, 79, 83, 89, 97, 101, 103, 107, 109, 113,
   127, 131, 137, 139, 149, 151, 157, 163, 167, 173, 179, 181, 191, 193, 197, 199, 211, 223, 227, 229] ++
  [233, 239, 241, 251, 257, 263, 269, 271, 277, 281, 283, 293, 307, 311, 313, 317, 331, 337, 347, 349, 353, 359, 367, 373,
   379, 383, 389, 397, 401, 409]

/-- First 64 bits of the fraction of the k-th root of p (FIPS 180-4's constants). -/
def rootFrac (k p : Nat) : Nat := rootGo k (p * 2 ^ (64 * k)) 72 0 % m64

def shaK : List Nat := primes80.map (rootFrac 3)

/-- SHA-384 starts from the square roots of the ninth to sixteenth primes. -/
def sha384H : List Nat := ((primes80.drop 8).take 8).map (rootFrac 2)

/-- The message schedule, newest word first. -/
def shaW : Nat → List Nat → List Nat
  | 0, w => w
  | n + 1, w =>
    let s1 := w.getD 1 0
    let s0 := w.getD 14 0
    let x := ((rotr64 s1 19 ^^^ rotr64 s1 61 ^^^ (s1 >>> 6)) + w.getD 6 0
      + (rotr64 s0 1 ^^^ rotr64 s0 8 ^^^ (s0 >>> 7)) + w.getD 15 0) % m64
    shaW n (x :: w)

def shaRound (h : List Nat) (kw : Nat × Nat) : List Nat :=
  match h with
  | [a, b, c, d, e, f, g, x] =>
    let t1 := (x + (rotr64 e 14 ^^^ rotr64 e 18 ^^^ rotr64 e 41) + ((e &&& f) ^^^ ((m64 - 1 - e) &&& g)) + kw.1 + kw.2) % m64
    let t2 := ((rotr64 a 28 ^^^ rotr64 a 34 ^^^ rotr64 a 39) + ((a &&& b) ^^^ (a &&& c) ^^^ (b &&& c))) % m64
    [(t1 + t2) % m64, a, b, c, (d + t1) % m64, e, f, g]
  | _ => h

def shaBlock (ks : List Nat) (h : List Nat) (blk : List Byte) : List Nat :=
  let w := (shaW 64 ((chunks 8 16 blk).map beNat).reverse).reverse
  List.zipWith (fun a b => (a + b) % m64) h ((ks.zip w).foldl shaRound h)

/-- SHA-384, the 48 bytes of its digest. -/
def sha384 (msg : List Byte) : List Byte :=
  let n := msg.length
  let pad := (111 + 128 - n % 128) % 128
  let m := msg ++ [0x80#8] ++ List.replicate pad 0#8 ++ beBytes 16 (8 * n)
  let h := (chunks 128 (m.length / 128) m).foldl (shaBlock shaK) sha384H
  (h.take 6).flatMap (beBytes 8)

/-- HMAC-SHA-384 (R392). -/
def hmac384 (key msg : List Byte) : List Byte :=
  let k0 := if key.length > 128 then sha384 key else key
  let k := k0 ++ List.replicate (128 - k0.length) 0#8
  sha384 (k.map (· ^^^ 0x5C#8) ++ sha384 (k.map (· ^^^ 0x36#8) ++ msg))

/-! ## brainpoolP384r1 (RFC 5639) -/

def bpP : Nat := 0x8CB91E82A3386D280F5D6F7E50E641DF152F7109ED5456B412B1DA197FB71123ACD3A729901D1A71874700133107EC53
def bpA : Nat := 0x7BC382C63D8C150C3C72080ACE05AFA0C2BEA28E4FB22787139165EFBA91F90F8AA5814A503AD4EB04A8C7DD22CE2826
def bpB : Nat := 0x04A8C7DD22CE28268B39B55416F0447C2FB77DE107DCD2A62E880EA53EEB62D57CB4390295DBC9943AB78696FA504C11
def bpGx : Nat := 0x1D1C64F068CF45FFA2A63A81B7C13F6B8847A3E77EF14FE3DB7FCAFE0CBD10E8E826E03436D646AAEF87B2E247D4AF1E
def bpGy : Nat := 0x8ABE1D7520F9C2A45CB1EB8E95CFD55262B70B29FEEC5864E19C054FF99129280E4646217791811142820341263C5315
def bpN : Nat := 0x8CB91E82A3386D280F5D6F7E50E641DF152F7109ED5456B31F166E6CAC0425A7CF3AB6AF6B7FC3103B883202E9046565

/-- b^e mod m by squaring, over `n` bits of e. -/
def powMod (m : Nat) : Nat → Nat → Nat → Nat
  | 0, _, _ => 1 % m
  | n + 1, b, e => let r := powMod m n (b * b % m) (e / 2); if e % 2 = 1 then b * r % m else r

/-- Inverse modulo a prime of at most 384 bits. -/
def invMod (m a : Nat) : Nat := powMod m 384 (a % m) (m - 2)

/-- A point of the curve; `none` is the neutral point. -/
abbrev Point := Option (Nat × Nat)

def bpAdd : Point → Point → Point
  | none, q => q
  | p, none => p
  | some (x1, y1), some (x2, y2) =>
    if x1 = x2 && (y1 + y2) % bpP = 0 then none
    else
      let l := if x1 = x2 then (3 * x1 * x1 + bpA) % bpP * invMod bpP (2 * y1) % bpP
        else (y2 + bpP - y1) % bpP * invMod bpP (x2 + bpP - x1) % bpP
      let x3 := (l * l + 2 * bpP - x1 - x2) % bpP
      some (x3, (l * (x1 + bpP - x3) + bpP - y1) % bpP)

def bpMul : Nat → Nat → Point → Point
  | 0, _, _ => none
  | n + 1, k, p => let r := bpMul n (k / 2) (bpAdd p p); if k % 2 = 1 then bpAdd p r else r

/-- Is the uncompressed point (0x04, x, y: 97 B, R400) one of the curve? -/
def bpPoint (key : List Byte) : Option (Nat × Nat) :=
  let x := beNat ((key.drop 1).take 48)
  let y := beNat ((key.drop 49).take 48)
  if key.length = 97 && key.head? = some 0x04#8 && decide (x < bpP) && decide (y < bpP)
      && (y * y) % bpP = (x * x * x + bpA * x + bpB) % bpP then some (x, y) else none

/-- ECDSA verification of (r, s) over a 48-B digest with an uncompressed public key. -/
def ecdsaVerify (key digest : List Byte) (r s : Nat) : Bool :=
  match bpPoint key with
  | none => false
  | some q =>
    if r = 0 || s = 0 || decide (bpN ≤ r) || decide (bpN ≤ s) then false
    else
      let w := invMod bpN s
      let u1 := beNat digest * w % bpN
      let u2 := r * w % bpN
      match bpAdd (bpMul 384 u1 (some (bpGx, bpGy))) (bpMul 384 u2 (some q)) with
      | none => false
      | some (x, _) => x % bpN == r

end Sys2Proof.Machine
end

