-- ==== Sys2Proof/Machine/Ops.lean ====
section
/-! DEFINITION. Named operations over the state: access to its tables, memory, counters, the event log. -/

namespace Sys2Proof.Machine

/-! ## Tables -/

def State.core (s : State) (n : Nat) : Core := s.cores.get {} n
def State.modCore (s : State) (n : Nat) (f : Core → Core) : State := { s with cores := s.cores.set n (f (s.core n)) }
def State.district (s : State) (d : Nat) : District := s.dist.get {} d
def State.modDist (s : State) (d : Nat) (f : District → District) : State := { s with dist := s.dist.set d (f (s.district d)) }
def State.slot (s : State) (k : Nat) : Slot := s.slots.get {} k
def State.modSlot (s : State) (k : Nat) (f : Slot → Slot) : State := { s with slots := s.slots.set k (f (s.slot k)) }
def State.box (s : State) (b : Nat) : Box := s.boxes.get {} b
def State.modBox (s : State) (b : Nat) (f : Box → Box) : State := { s with boxes := s.boxes.set b (f (s.box b)) }
def State.ring (s : State) (r : Nat) : Ring := s.rings.get {} r
def State.modRing (s : State) (r : Nat) (f : Ring → Ring) : State := { s with rings := s.rings.set r (f (s.ring r)) }
def State.queue (s : State) (q : Nat) : SQueue := s.queues.get {} q
def State.modQueue (s : State) (q : Nat) (f : SQueue → SQueue) : State := { s with queues := s.queues.set q (f (s.queue q)) }

def State.modOrb (s : State) (d : Nat) (f : OrbDist → OrbDist) : State := s.modDist d fun x => { x with orb := f x.orb }
def State.modBar (s : State) (d : Nat) (f : Barrier → Barrier) : State := s.modDist d fun x => { x with bar := f x.bar }
def State.modImg (s : State) (d : Nat) (f : ImgDist → ImgDist) : State := s.modDist d fun x => { x with img := f x.img }
def State.modHost (s : State) (d : Nat) (f : HostDist → HostDist) : State := s.modDist d fun x => { x with host := f x.host }
def State.modFlt (s : State) (d : Nat) (f : FltDist → FltDist) : State := s.modDist d fun x => { x with flt := f x.flt }
def State.modMir (s : State) (d : Nat) (f : MirDist → MirDist) : State := s.modDist d fun x => { x with mir := f x.mir }
def State.modPbx (s : State) (d : Nat) (f : PbxDist → PbxDist) : State := s.modDist d fun x => { x with pbx := f x.pbx }
def State.modMemd (s : State) (d : Nat) (f : MemDist → MemDist) : State := s.modDist d fun x => { x with mem := f x.mem }
def State.modNum (s : State) (d : Nat) (f : NumDist → NumDist) : State := s.modDist d fun x => { x with num := f x.num }
def State.modSnp (s : State) (d : Nat) (f : SnpDist → SnpDist) : State := s.modDist d fun x => { x with snp := f x.snp }

/-- The four districts' numbers, and those defined (R308). -/
def allDistricts : List Nat := [0, 1, 2, 3]
def State.defined (s : State) : List Nat := allDistricts.filter fun d => (s.district d).defn.valid

/-- District that holds a logical quad, a core, a tensor port or a host port (R308, R446). -/
def State.quadDistrict (s : State) (q : Nat) : Option Nat := s.defined.find? fun d => bit (s.district d).defn.quads q
def State.coreDistrict (s : State) (n : Nat) : Option Nat := s.quadDistrict (n / 4)
def State.tensorDistrict (s : State) (p : Nat) : Option Nat := s.defined.find? fun d => bit (s.district d).defn.tensor p
def State.hostDistrict (s : State) (p : Nat) : Option Nat := s.defined.find? fun d => bit (s.district d).defn.host p

/-- Cores of a district, in ascending order. -/
def State.coresOf (s : State) (d : Nat) : List Nat :=
  (List.range 512).filter fun n => bit (s.district d).defn.quads (n / 4)

def State.halted (s : State) : Bool := s.pwr.halted
/-- Does the module have power beyond the island, and is it out of the island's cold reset (15 R451)? -/
def State.powered (s : State) : Bool := s.pwr.islandOn && s.pwr.railsOn && !s.pwr.heldReset
def State.fenced (s : State) (d : Nat) : Bool := (s.district d).flt.fenced
def State.held (s : State) (d : Nat) : Bool := (s.district d).orb.phase == .hold
def State.active (s : State) (d : Nat) : Option Image := (s.district d).img.active

/-- Fold an operation over a list, the state last. -/
def State.each {α : Type} (s : State) (l : List α) (f : α → State → State) : State := l.foldl (fun t x => f x t) s

/-- A free value's serial number: the step draws it and advances the counter (log entry 1). -/
def State.draw (s : State) : Nat × State := (s.free, { s with free := s.free + 1 })

/-! ## Memory -/

/-- Canonical form: rising addresses, and no listed byte that equals what an unlisted one reads as. -/
abbrev Memory.wf (m : List Host.Cell) : Prop := m.Pairwise (fun a b => a.1 < b.1) ∧ ∀ c ∈ m, c.2 ≠ 0#8

/-- What an address that is not listed reads as (log entry 7). -/
def Memory.blank : Byte := 0#8

def Memory.get : List Host.Cell → Nat → Byte
  | [], _ => Memory.blank
  | (x, c) :: r, a => if a = x then c else Memory.get r a

/-- Write one byte, keeping the canonical form. -/
def Memory.set : List Host.Cell → Nat → Byte → List Host.Cell
  | [], a, b => if b = Memory.blank then [] else [(a, b)]
  | (x, c) :: r, a, b =>
    if a < x then (if b = Memory.blank then (x, c) :: r else (a, b) :: (x, c) :: r)
    else if a = x then (if b = Memory.blank then r else (a, b) :: r)
    else (x, c) :: Memory.set r a b

/-- Write bytes from address `a` up. -/
def Memory.write : List Host.Cell → Nat → List Byte → List Host.Cell
  | m, _, [] => m
  | m, a, b :: bs => Memory.write (Memory.set m a b) (a + 1) bs

/-- Write listed cells. -/
def Memory.place (m : List Host.Cell) (cs : List Host.Cell) : List Host.Cell := cs.foldl (fun m c => Memory.set m c.1 c.2) m

/-- Copy `len` bytes from `src` to `dst`, as if all were read before any is written. -/
def Memory.copy (m : List Host.Cell) (src dst len : Nat) : List Host.Cell :=
  let moved := (m.filter fun c => src ≤ c.1 && c.1 < src + len).map fun c => (c.1 - src + dst, c.2)
  Memory.place (m.filter fun c => !(dst ≤ c.1 && c.1 < dst + len)) moved

def State.setMem (s : State) (m : List Host.Cell) : State := { s with mem := m }

/-- One byte of module memory or core SRAM. -/
def State.byte (s : State) (a : Nat) : Byte := Memory.get s.mem a

def State.bytes (s : State) (a n : Nat) : List Byte :=
  let m := s.mem.filter fun c => a ≤ c.1 && c.1 < a + n
  (List.range n).map fun i => Memory.get m (a + i)

/-- The little-endian number of `n` bytes (R4). -/
def State.num (s : State) (a n : Nat) : Nat := leNat (s.bytes a n)

/-- Device address of an offset in a logical core's SRAM (R7). -/
def sramBase : Nat := 0xE00000000000
def sramAddr (core off : Nat) : Nat := sramBase + core * 0x100000 + off
def sramSize : Nat := 0xC0000
def isSram (a : Nat) : Bool := decide (sramBase ≤ a) && decide (a < sramBase + 512 * 0x100000)

/-- Tag ranges once the lines from `lo` to `hi` have been written (R219). -/
def cutTags (lo hi : Nat) (ts : List TagRange) : List TagRange :=
  ts.flatMap fun t => [⟨t.first, min t.last (lo - 1), t.district⟩, ⟨max t.first (hi + 1), t.last, t.district⟩].filter fun u =>
    decide (u.first ≤ u.last) && (decide (u.last < lo) || decide (hi < u.first))

/-- A write to module memory gives its lines their owner's tag (R219), and ends what PWR_RESET.MEM_KEPT reports (15 R417, R418). -/
def State.touched (s : State) (a len : Nat) : State :=
  let s := if len = 0 then s else { s with tags := cutTags (a / 64) ((a + len - 1) / 64) s.tags }
  if s.pwr.memKept && !isSram a then { s with pwr := { s.pwr with memKept := false } } else s

/-- Raw writes: no journal, no rights. -/
def State.store (s : State) (a : Nat) (bs : List Byte) : State := (s.setMem (Memory.write s.mem a bs)).touched a bs.length
def State.move (s : State) (src dst len : Nat) : State := (s.setMem (Memory.copy s.mem src dst len)).touched dst len

/-- District whose definition holds a GiB of module memory (R308). -/
def State.gibOwner (s : State) (g : Nat) : Option Nat :=
  s.defined.find? fun d => decide ((s.district d).defn.baseGib ≤ g) && decide (g < (s.district d).defn.baseGib + (s.district d).defn.sizeGib)

/-- District in the address tag that a line was written with (R219). -/
def State.lineDistrict (s : State) (line : Nat) : Option Nat :=
  match s.tags.find? fun t => decide (t.first ≤ line) && decide (line ≤ t.last) with
  | some t => some t.district
  | none => s.gibOwner (line / 2 ^ 24)

/-- Tags of the lines of `s` under the definitions of `t`: a GiB that changes its owner keeps those it was written with (R219). -/
def State.tagsUnder (s t : State) : List TagRange :=
  s.tags ++ (List.range 736).filterMap fun g => match s.gibOwner g with
    | none => none
    | some d => if t.gibOwner g = some d then none else some ⟨g * 2 ^ 24, (g + 1) * 2 ^ 24 - 1, d⟩

/-- End of the host-addressable module memory, and of the sparing reserve (R7). -/
def memEnd : Nat := 0xB800000000
def reserveEnd : Nat := 0xC000000000
def csrBase : Nat := 0xF00000000000
def MiB : Nat := 0x100000

/-! ## Counters (R374 to R376) -/

def State.count (s : State) (off k : Nat) : State := { s with cnt := s.cnt.set off ((s.cnt.get 0 off + k) % 2 ^ 64) }
def State.setCount (s : State) (off v : Nat) : State := { s with cnt := s.cnt.set off v }
def State.counter (s : State) (off : Nat) : Nat := s.cnt.get 0 off
def ctrCore (n i : Nat) : Nat := 0x10000 + n * 0x80 + 8 * i
def ctrBox (b i : Nat) : Nat := 0x20000 + b * 0x20 + 8 * i
def ctrSlot (k i : Nat) : Nat := 0x40000 + k * 0x40 + 8 * i
def ctrRing (r i : Nat) : Nat := 0x80000 + r * 0x40 + 8 * i
def ctrQueue (q i : Nat) : Nat := 0xC0000 + q * 0x20 + 8 * i
def ctrPort (p i : Nat) : Nat := 0xC2000 + p * 0x100 + 8 * i
def ctrChannel (c i : Nat) : Nat := 0xC3800 + c * 0x40 + 8 * i
def ctrHost (p i : Nat) : Nat := 0xC5000 + p * 0x100 + 8 * i
def State.countDist (s : State) (d i k : Nat) : State :=
  { s with dcnt := s.dcnt.set (64 * d + i) ((s.dcnt.get 0 (64 * d + i) + k) % 2 ^ 64) }
def State.setDist (s : State) (d i v : Nat) : State := { s with dcnt := s.dcnt.set (64 * d + i) v }

/-- Channel of a module-memory address, block within the channel, and sub-channel (R218). -/
def channelOf (a : Nat) : Nat := a / 256 % 96
def blockInChannel (a : Nat) : Nat := a / 256 / 96
def subOf (a : Nat) : Nat := a / 32 % 2

/-- Blocks of channel `c` among `n` blocks from block `first` on (R218). -/
def blocksOn (c first n : Nat) : Nat := (first + n + 95 - c) / 96 - (first + 95 - c) / 96

/-- Count the lines of whole blocks [a, a + len) in counter `i` of the channels that hold them (R218, R376). -/
def State.countLines (s : State) (i a len : Nat) : State :=
  s.each (List.range 96) fun c t => t.count (ctrChannel c i) (4 * blocksOn c (a / 256) (len / 256))

/-! ## The event log (R338, R371, R372) -/

/-- Orbit number as an entry reports it: 0 while not counting. -/
def State.orbitNow (s : State) : Nat := if s.orb.run then s.orb.number else 0

/-- The 32 bytes of a log entry (R372) as a number. -/
def logEntry (orbit time code : Nat) (cls : Class) (district : Nat) (module : Bool) (unit step info : Nat) : Nat :=
  put 0 64 orbit + put 64 64 time + put 128 8 code + put 136 3 cls.code + put 139 2 district + put 141 1 (boolBit module)
    + put 144 16 unit + put 160 24 step + put 192 64 info

/-- Codes whose events enter every defined district's ring, besides every event of class HALT (R371). -/
def inEveryRing (code : Nat) (cls : Class) : Bool :=
  cls == .halt || (0x10 ≤ code && code ≤ 0x12) || (0x33 ≤ code && code ≤ 0x35) || code == 0x48
    || (0x60 ≤ code && code ≤ 0x64) || code == 0x66 || (0x68 ≤ code && code ≤ 0x6A)

/-- Write one entry into a district's ring, overwriting the oldest when it is full (R371). -/
def State.logTo (s : State) (e : Nat) (code : Nat) (cls : Class) (d : Nat) : State :=
  s.modFlt d fun f =>
    let head := (f.head + 1) % 2 ^ 32
    let full := gap 32 head f.tail > 256
    { f with entries := f.entries.set (f.head % 256) e, head := head
             tail := if full then (f.tail + 1) % 2 ^ 32 else f.tail
             lost := if full then (f.lost + 1) % 2 ^ 32 else f.lost
             seen := f.seen ||| 2 ^ cls.code, lastCode := code }

/-- An occurrence of a condition in one district: counted, and logged; a NOTICE once per step for each code, district and
unit (R338). -/
def State.eventIn (s : State) (code : Nat) (cls : Class) (unit info : Nat) (wide : Bool) (home d : Nat) : State :=
  let s := s.countDist d (42 + cls.code) 1
  let f := (s.district d).flt
  if cls == .notice && f.noted.contains (code, unit) then s
  else
    let e := logEntry s.orbitNow s.clk.ns code cls home wide unit (s.district d).orb.step info
    let s := s.logTo e code cls d
    if cls == .notice then s.modFlt d fun f => { f with noted := (code, unit) :: f.noted } else s

/-- An occurrence of a condition of R337: `d` is its district, or none for a module-wide event. -/
def State.event (s : State) (code : Nat) (cls : Class) (d : Option Nat) (unit info : Nat) : State :=
  if inEveryRing code cls || d.isNone then
    s.each s.defined fun k t => t.eventIn code cls unit info d.isNone (d.getD 0) k
  else s.eventIn code cls unit info false (d.getD 0) (d.getD 0)

def State.notice (s : State) (code : Nat) (d : Option Nat) (unit info : Nat) : State := s.event code .notice d unit info

end Sys2Proof.Machine
end

