-- ==== Sys2Proof/Machine/Operands.lean ====
section
/-! DEFINITION. Operand forms: what the active image holds (10), the fields of the instructions of CORE_PROG (03, 07, 08),
and the addresses they take under enclosing LOOPs (R67, R68). -/

namespace Sys2Proof.Machine

/-! ## The image -/

/-- Section of a TYPE (R284); an image that does not hold it declares nothing of its kind. -/
def Image.sect (g : Image) (k : Nat) : Section := (g.sections.find? (·.kind == k)).getD ⟨k, 0, [], []⟩
def Image.entries (g : Image) (k : Nat) : List Nat := (g.sect k).entries

/-- Entries of a district's active image. -/
def State.entries (s : State) (d k : Nat) : List Nat :=
  match s.active d with
  | none => []
  | some g => g.entries k

/-- Instructions of a logical core's block (R285). -/
def Image.prog (g : Image) (core : Nat) : List Nat :=
  match (g.sect 1).blocks.find? fun b => fld b.1 0 0 9 == core with
  | none => []
  | some b => b.2

/-- ORBIT_TABLE parameters (R286). -/
def Image.stepLen (g : Image) : Nat := fld (g.sect 2).header 16 0 24
def Image.period (g : Image) : Nat := fld (g.sect 2).header 20 0 22
def Image.firstStep (g : Image) : Nat := fld (g.sect 2).header 24 0 24
def Image.timeout (g : Image) : Nat := fld (g.sect 2).header 28 0 16
def Image.lead (g : Image) : Nat := fld (g.sect 2).header 30 0 8
def Image.exch (g : Image) : Nat := fld (g.sect 2).header 32 0 24
def Image.upd (g : Image) : Nat := fld (g.sect 2).header 36 0 24
def Image.evl (g : Image) : Nat := fld (g.sect 2).header 40 0 24

/-- Phase of an orbit index (R286). -/
def Image.phaseAt (g : Image) (i : Nat) : Phase :=
  if i + 1 = g.stepLen then .barrier
  else if i < g.exch then .compute
  else if i < g.upd then .exchange
  else if i < g.evl then .update
  else .eval

/-- Row of a core for an orbit index: its number in the section, and the row (R43, R286). -/
def Image.rowAt (g : Image) (core i : Nat) : Option (Nat × Nat) :=
  (g.entries 2).zipIdx.findSome? fun (e, j) =>
    if fld e 0 0 9 = core && decide (fld e 4 0 24 ≤ i) && decide (i < fld e 4 0 24 + fld e 8 0 24) then some (j, e) else none

/-- CHAIN_TABLE entry of an index (R141). -/
def Image.chain (g : Image) (c : Nat) : Option Nat := (g.entries 7).find? fun e => fld e 0 0 12 == c

/-- QUEUE_MAP: district record and box entry (R194, R195). -/
def Image.queueDist (g : Image) (d : Nat) : Option Nat := (g.entries 3).find? fun e => fld e 0 0 8 == 1 && fld e 1 0 2 == d
def Image.boxEntry (g : Image) (b : Nat) : Option Nat := (g.entries 3).find? fun e => fld e 0 0 8 != 1 && fld e 2 0 12 == b

/-- RING_MAP: ring and queue entries (R227). -/
def Image.ringEntry (g : Image) (r : Nat) : Option Nat := (g.entries 4).find? fun e => fld e 0 0 8 != 3 && fld e 2 0 12 == r
def Image.queueEntry (g : Image) (q : Nat) : Option Nat := (g.entries 4).find? fun e => fld e 0 0 8 == 3 && fld e 2 0 8 == q

/-- District whose active image declares a box, a ring, a queue or a slot. -/
def State.boxOwner (s : State) (b : Nat) : Option (Nat × Nat) :=
  s.defined.findSome? fun d => (s.active d).bind fun g => (g.boxEntry b).map (d, ·)
def State.ringOwner (s : State) (r : Nat) : Option (Nat × Nat) :=
  s.defined.findSome? fun d => (s.active d).bind fun g => (g.ringEntry r).map (d, ·)
def State.queueOwner (s : State) (q : Nat) : Option (Nat × Nat) :=
  s.defined.findSome? fun d => (s.active d).bind fun g => (g.queueEntry q).map (d, ·)

/-- A region of MEM_MAP (R223), addresses in bytes. -/
structure Region where
  use : Nat
  frozen : Bool
  base : Nat
  size : Nat
deriving DecidableEq, Repr

def Image.regions (g : Image) : List Region :=
  (g.entries 6).filterMap fun e =>
    if fld e 0 0 8 = 2 then some ⟨fld e 3 0 4, fld e 3 4 1 == 1, fld e 8 0 48, fld e 16 0 20 * MiB⟩ else none

def State.regions (s : State) (d : Nat) : List Region :=
  match s.active d with
  | none => []
  | some g => g.regions

/-- Region that holds the whole range, if one does. -/
def State.regionOf (s : State) (d a len : Nat) : Option Region := (s.regions d).find? fun r => within a len r.base r.size

/-- Journalled regions in ascending address order (R344): MOMENTS, RESIDUAL, and WEIGHTS without FROZEN. -/
def State.journalled (s : State) (d : Nat) : List Region :=
  let rs := (s.regions d).filter fun r => r.use == 2 || r.use == 3 || (r.use == 1 && !r.frozen)
  rs.foldl (fun acc r => (acc.takeWhile fun x => x.base < r.base) ++ [r] ++ (acc.dropWhile fun x => x.base < r.base)) []

/-- Pages of the journalled sequence: page addresses, in order (as base and page count runs). -/
def pageIndexGo (a : Nat) : Nat → List Region → Option Nat
  | _, [] => none
  | i, r :: rs => if r.base ≤ a && a < r.base + r.size then some (i + (a - r.base) / MiB) else pageIndexGo a (i + r.size / MiB) rs

/-- Place of the page that holds address `a` in the journalled sequence (R344). -/
def State.pageIndex (s : State) (d a : Nat) : Option Nat := pageIndexGo a 0 (s.journalled d)

def pageAddrGo : Nat → List Region → Nat
  | _, [] => 0
  | i, r :: rs => if i < r.size / MiB then r.base + i * MiB else pageAddrGo (i - r.size / MiB) rs

/-- Address of page `i` of the sequence, and of its slot in the JOURNAL region. -/
def State.pageAddr (s : State) (d i : Nat) : Nat := pageAddrGo i (s.journalled d)
def State.slotAddr (s : State) (d i : Nat) : Nat :=
  match (s.regions d).find? (·.use == 8) with
  | none => 0
  | some r => r.base + i * MiB

/-- Does a run of regions cover [a, a + len)? `n` bounds the walk. -/
def coverGo (rs : List Region) : Nat → Nat → Nat → Bool
  | 0, _, len => len == 0
  | n + 1, a, len =>
    if len = 0 then true
    else match rs.find? fun r => r.base ≤ a && a < r.base + r.size with
      | none => false
      | some r => coverGo rs n (r.base + r.size) (len - (r.base + r.size - a))

/-- Is the range inside the district's module memory regions? -/
def State.inRegions (s : State) (d a len : Nat) : Bool := let rs := s.regions d; coverGo rs (rs.length + 1) a len

/-- Is the range inside the SRAM of one logical core (768 KiB, R7)? -/
def inSram (core a len : Nat) : Bool := within a len (sramAddr core 0) sramSize

/-! ## The journal (R344, R345) -/

/-- Mark page `i` of the sequence DIRTY, copying it to its slot first; the first mark of a generation clears the marks of the
one before (turnover). -/
def State.dirtyPage (s : State) (d i : Nat) : State :=
  let f := (s.district d).flt
  if f.dirty.contains i then s
  else
    let s := if f.rewindable then s.modFlt d fun f => { f with rewindable := false, prevDirty := [] } else s
    let a := s.pageAddr d i
    let s := s.move a (s.slotAddr d i) MiB
    let s := (s.countLines 7 a MiB).countLines 7 (s.slotAddr d i) MiB
    s.modFlt d fun f => { f with dirty := f.dirty ++ [i] }

/-- Journal every page that a write of [a, a + len) touches. -/
def State.journal (s : State) (d a len : Nat) : State :=
  if len = 0 || s.held d then s
  else s.each ((List.range ((a + len - 1) / MiB + 1 - a / MiB)).filterMap fun i => s.pageIndex d ((a / MiB + i) * MiB)) fun i t =>
    t.dirtyPage d i

/-- A write by a district's core, descriptor or host (R344); in a roll-forward a write to a journalled page that is not STALE
is discarded and nothing is journalled (R364). -/
def State.write (s : State) (d a : Nat) (bs : List Byte) : State :=
  if isSram a then s.store a bs
  else if (s.district d).flt.rollAt.isSome then
    if (s.pageIndex d a).isSome && !(s.district d).flt.stale.contains (a / MiB) then s else s.store a bs
  else (s.journal d a bs.length).store a bs

/-- A copy by a district's core or host, under the same rules page by page of its destination. -/
def State.copy (s : State) (d src dst len : Nat) : State :=
  if isSram dst then s.move src dst len
  else if (s.district d).flt.rollAt.isSome then
    let m0 := s
    s.each (List.range ((dst + len - 1) / MiB + 1 - dst / MiB)) fun i t =>
      let lo := max dst ((dst / MiB + i) * MiB)
      let hi := min (dst + len) ((dst / MiB + i + 1) * MiB)
      if (t.pageIndex d lo).isSome && !(t.district d).flt.stale.contains (lo / MiB) then t
      else t.setMem (Memory.place (t.mem.filter fun c => !(lo ≤ c.1 && c.1 < hi))
        ((m0.mem.filter fun c => src + (lo - dst) ≤ c.1 && c.1 < src + (hi - dst)).map fun c => (c.1 - src + dst, c.2))) |>.touched lo (hi - lo)
  else (s.journal d dst len).move src dst len

/-! ## Instructions -/

/-- Fields of a PASS (R70). -/
structure PassI where
  shape : Nat
  trans : Bool
  keep : Bool
  dep : Bool
  kind : Nat
  afmt : Nat
  wfmt : Nat
  qmask : Nat
  m : Nat
  k : Nat
  n : Nat
  wexp : Int
  chain : Nat
  pair : Nat
  paired : Bool
  aAddr : Nat
  aStride : Nat
  wAddr : Nat
  wStride : Nat
  oAddr : Nat
  oStride : Nat
deriving DecidableEq, Repr

def passOf (w : Nat) : PassI :=
  { shape := fld w 1 0 3, trans := fld w 1 3 1 == 1, keep := fld w 1 4 1 == 1, dep := fld w 1 5 1 == 1, kind := fld w 1 6 2
    afmt := fld w 2 0 4, wfmt := fld w 2 4 4, qmask := fld w 3 0 4, m := fld w 4 0 16, k := fld w 6 0 16, n := fld w 8 0 16
    wexp := signed 16 (fld w 10 0 16), chain := fld w 12 0 12, pair := fld w 14 0 2, paired := fld w 14 2 1 == 1
    aAddr := fld w 16 0 20, aStride := fld w 16 20 12, wAddr := fld w 20 0 20, wStride := fld w 20 20 12
    oAddr := fld w 24 0 20, oStride := fld w 24 20 12 }

/-- K rows of a tile, Kt, for the wider of the two formats (R72). -/
def tileK (afmt wfmt : Nat) : Nat :=
  let w := max (fmtOf afmt).width (fmtOf wfmt).width
  if w = 16 then 32 else if w = 8 then 64 else 128

/-- Sum over open loops of iteration × increment, for one of the three increments (R68). -/
def loopSum (ls : List LoopSt) (f : LoopSt → Int) : Int := ls.foldl (fun a l => a + (l.iter : Int) * f l) 0

/-- A 20-bit SRAM offset moved by an increment. -/
def moved (a : Nat) (d : Int) : Nat := ((a : Int) + d).toNat

/-- Replace a field of an instruction word. -/
def setFld (e off lo len v : Nat) : Nat := e - put (8 * off + lo) len (fld e off lo len) + put (8 * off + lo) len v

/-- An instruction with the increments of its enclosing LOOPs applied (R67, R197, R198, R241, R245). -/
def stepped (ls : List LoopSt) (w : Nat) : Nat :=
  let a := loopSum ls (·.incA)
  let wi := loopSum ls (·.incW)
  let o := loopSum ls (·.incO)
  match fld w 0 0 8 with
  | 1 => setFld (setFld (setFld w 16 0 20 (moved (fld w 16 0 20) a)) 20 0 20 (moved (fld w 20 0 20) wi)) 24 0 20
      (moved (fld w 24 0 20) o)
  | 2 => setFld w 8 0 20 (moved (fld w 8 0 20) a)
  | 3 => setFld w 8 0 20 (moved (fld w 8 0 20) o)
  | 4 =>
    let w := if fld w 1 5 1 = 1 then setFld w 8 20 28 (moved (fld w 8 20 28) (a / 64)) else setFld w 8 0 48 (moved (fld w 8 0 48) a)
    if fld w 1 0 4 = 0 then setFld w 16 0 48 (moved (fld w 16 0 48) o) else w
  | 5 => setFld w 4 0 20 (moved (fld w 4 0 20) o)
  | _ => w

/-- Seed, step, attempt and phase that a district's work runs under (R129, R154). -/
structure Env where
  district : Nat
  seed : Nat
  step : Nat
  attempt : Nat
deriving DecidableEq, Repr

def State.env (s : State) (d : Nat) : Env :=
  let x := s.district d
  let step := if x.flt.rollAt.isSome then stepBefore x.orb.step else x.orb.step
  ⟨d, x.num.seed, step, x.orb.attempt⟩

end Sys2Proof.Machine
end

