-- ==== Sys2Proof/Machine/Net.lean ====
section
/-! DEFINITION. The links: LINK_MAP as the ports use it (09 R264), coordinates and routes (R261, R262), calling cards
(R267, R268), and the frames a module gives to its ports. -/

namespace Sys2Proof.Machine

def State.port (s : State) (p : Nat) : Port := s.ports.get {} p
def State.modPort (s : State) (p : Nat) (f : Port → Port) : State := { s with ports := s.ports.set p (f (s.port p)) }
def State.lane (s : State) (k : Nat) : Lane := s.lanes.get {} k
def State.modLane (s : State) (k : Nat) (f : Lane → Lane) : State := { s with lanes := s.lanes.set k (f (s.lane k)) }
def State.emit (s : State) (o : Output) : State := { s with out := o :: s.out }

/-- Key of a logical port's class (R260). -/
def laneKey (d l cls : Nat) : Nat := (24 * d + l) * 6 + cls

/-! ## LINK_MAP (R264) -/

def Image.job (g : Image) : Option Nat := (g.entries 5).find? fun e => fld e 0 0 8 == 3
def Image.portEntry (g : Image) (p : Nat) : Option Nat := (g.entries 5).find? fun e => fld e 0 0 8 == 1 && fld e 2 0 5 == p
def Image.lportEntry (g : Image) (l : Nat) : Option Nat := (g.entries 5).find? fun e => fld e 0 0 8 == 2 && fld e 2 0 5 == l
/-- Member ports of a logical port, ascending. -/
def Image.members (g : Image) (l : Nat) : List Nat :=
  (List.range 24).filter fun p => match g.portEntry p with
    | none => false
    | some e => fld e 3 0 5 == l

def State.job (s : State) (d : Nat) : Option Nat := (s.active d).bind (·.job)
def State.jobTag (s : State) (d : Nat) : Nat := match s.job d with | none => 0 | some e => fld e 4 0 32
def State.coord (s : State) (d : Nat) : Nat := match s.job d with | none => 0 | some e => fld e 2 0 16
def State.members (s : State) (d l : Nat) : List Nat := match s.active d with | none => [] | some g => g.members l

/-- PORT entry that an active image gives a physical port, with its district. -/
def State.portEntry (s : State) (p : Nat) : Option (Nat × Nat) :=
  s.defined.findSome? fun d => (s.active d).bind fun g => (g.portEntry p).map (d, ·)
/-- PORT entry of a loaded image, used while JOIN is 1 (R268). -/
def State.loadedEntry (s : State) (p : Nat) : Option (Nat × Nat) :=
  s.defined.findSome? fun d => (s.district d).img.loaded.bind fun g => (g.portEntry p).map (d, ·)

def peLport (e : Nat) : Nat := fld e 3 0 5
def peDir (e : Nat) : Nat := fld e 4 0 3
def peForeign (e : Nat) : Bool := fld e 4 3 1 == 1
def peShare (e : Nat) : Nat := fld e 6 0 6
def peSerial (e : Nat) : Nat := fld e 8 0 64

/-- SAME logical ports of a district. -/
def State.sameLports (s : State) (d : Nat) : List Nat :=
  match s.active d with
  | none => []
  | some g => (List.range 24).filter fun l => (g.members l).any fun p => match g.portEntry p with
    | none => false
    | some e => !peForeign e

/-- Logical port of a district in a direction; `same` asks for one of the job (R262). -/
def State.facing (s : State) (d dir : Nat) (same : Bool) : Option Nat :=
  match s.active d with
  | none => none
  | some g => (List.range 24).find? fun l => (g.members l).any fun p => match g.portEntry p with
    | none => false
    | some e => peDir e == dir && !(same && peForeign e)

/-- Tree fields of the JOB entry: parent (none at the root) and children (R264, R275). -/
def jobParent (e : Nat) (amax : Bool) : Option Nat :=
  let off := if amax then 17 else 16
  if fld e off 5 1 = 1 then none else some (fld e off 0 5)
def jobChildren (e : Nat) (amax : Bool) : List Nat := (List.range 24).filter fun l => bit (fld e (if amax then 24 else 20) 0 24) l

/-- Directions: 0 X+, 1 X−, 2 Y+, 3 Y−, 4 Z+, 5 Z−. -/
def opposite (dir : Nat) : Nat := if dir % 2 = 0 then dir + 1 else dir - 1

/-- Fields of coordinates on axis 0 X, 1 Y, 2 Z: place and width (R261). -/
def axisLo (a : Nat) : Nat := if a = 0 then 10 else if a = 1 then 5 else 0
def axisLen (a : Nat) : Nat := if a = 0 then 6 else 5
def axisOf (c a : Nat) : Nat := bits c (axisLo a) (axisLen a)
/-- Coordinate relative to the job's origin. -/
def relative (c origin a : Nat) : Nat := (axisOf c a + 2 ^ axisLen a - axisOf origin a) % 2 ^ axisLen a
def extentOf (e a : Nat) : Nat := axisOf (fld e 10 0 16) a + 1
/-- Coordinates of the job neighbour in a direction, with wrap (R261). -/
def neighbourCoord (job c dir : Nat) : Nat :=
  let o := fld job 8 0 16
  let one (a : Nat) : Nat :=
    let r := relative c o a
    let n := extentOf job a
    let r := if dir / 2 = a then (if dir % 2 = 0 then (r + 1) % n else (r + n - 1) % n) else r
    put (axisLo a) (axisLen a) ((r + axisOf o a) % 2 ^ axisLen a)
  one 0 + one 1 + one 2

/-! ## Frames (R251) -/

def hdrType (h : Nat) : Nat := fld h 0 0 8
def hdrVc (h : Nat) : Nat := fld h 1 0 3
def hdrBegin (h : Nat) : Bool := fld h 1 3 1 == 1
def hdrEnd (h : Nat) : Bool := fld h 1 4 1 == 1
def hdrTclass (h : Nat) : Bool := fld h 1 5 1 == 1
def hdrFseq (h : Nat) : Nat := fld h 2 0 12
def hdrBseq (h : Nat) : Nat := fld h 4 0 16
def hdrDest (h : Nat) : Nat := fld h 6 0 16
def hdrSrc (h : Nat) : Nat := fld h 8 0 16
def hdrLen (h : Nat) : Nat := fld h 10 0 13
def hdrRing (h : Nat) : Nat := fld h 12 0 12
def hdrOpcode (h : Nat) : Nat := fld h 12 0 8
def hdrTag (h : Nat) : Nat := fld h 16 0 32
def hdrOff (h : Nat) : Nat := fld h 20 0 32

/-- A frame header with FSEQ, BSEQ and CRC zero. -/
def mkHdr (type vc : Nat) (beg fin : Bool) (dest src len ring tag off : Nat) : Nat :=
  put 0 8 type + put 8 3 vc + put 11 1 (boolBit beg) + put 12 1 (boolBit fin) + put 48 16 dest + put 64 16 src + put 80 13 len
    + put 96 12 ring + put 128 32 tag + put 160 32 off

/-- Flits of a frame with LEN payload bytes (R250). -/
def flitsOf (len : Nat) : Nat := ceilDiv (32 + len) 64

/-- CRC of a frame (R251): over the header with its CRC field zero and the payload. -/
def frameCrc (hdr : Nat) (payload : List Byte) : Nat := crc32 (leBytes 32 hdr ++ payload)

/-- The header and payload that a sender puts on the line. -/
def TxFrame.image (f : TxFrame) (fseq : Nat) : Nat × List Byte :=
  let h := setFld f.hdr 2 0 12 fseq
  (h + put 224 32 (frameCrc h f.payload), f.payload)

def TxFrame.flits (f : TxFrame) : Nat := flitsOf f.payload.length

/-- Does the peer of a port belong to another job than a frame's (R256)? -/
def State.foreignTo (s : State) (p tag : Nat) : Bool := leNat (((s.port p).accepted.drop 20).take 4) != tag

/-- The slots of a frame (R250): each a header byte with its KIND, then a flit; the last flit is padded with zeros. -/
def frameSlots (hdr : Nat) (payload : List Byte) : List (List Byte) :=
  let n := flitsOf payload.length
  let bytes := leBytes 32 hdr ++ payload ++ List.replicate (64 * n - 32 - payload.length) 0#8
  (chunks 64 n bytes).zipIdx.map fun (flit, i) => leBytes 1 (if i = 0 then 0 else 1) ++ flit

/-- The slot of a link flit (R250). -/
def linkSlot (flit : List Byte) : List Byte := leBytes 1 2 ++ flit

/-- Give a frame to one physical port, on its own: management frames and beacons (R271, R274). -/
def State.toPort (s : State) (p : Nat) (f : TxFrame) : State := s.modPort p fun x => { x with queue := x.queue ++ [f] }

/-- District that owns a port: of its PORT entry, else of the definition (R308). -/
def State.portDistrict (s : State) (p : Nat) : Option Nat :=
  match s.portEntry p with
  | some (d, _) => some d
  | none => s.tensorDistrict p

/-- Does a fence of the district that owns a port stop what the port itself sends (R280)? -/
def State.portFenced (s : State) (p : Nat) : Bool := match s.portDistrict p with
  | none => false
  | some d => s.fenced d

/-- PORT entry of a port, and whether it is one of a loaded map, which counts first while JOIN is 1 (R268). -/
def State.cardEntry (s : State) (p : Nat) : Option (Nat × Nat) × Bool :=
  match (if s.orb.join then s.loadedEntry p else none) with
  | some e => (some e, true)
  | none => (s.portEntry p, false)

/-- PORT entry under which a port is ACTIVE: of the active map, or of the map it joined under until that is committed (R268). -/
def State.liveEntry (s : State) (p : Nat) : Option (Nat × Nat) := (s.portEntry p).or (s.loadedEntry p)

/-- Job under which a port stands, that of its card: of the loaded map while JOIN is 1, and on a port that is ACTIVE under it until
its commit; else of the district that owns the port (R256, R267, R268). -/
def State.portJob (s : State) (p : Nat) : Option Nat :=
  match s.cardEntry p with
  | (some (d, _), true) => (s.district d).img.loaded.bind (·.job)
  | (some (d, _), false) => s.job d
  | (none, _) => match (if (s.port p).state = 6 then s.loadedEntry p else none) with
    | some (d, _) => (s.district d).img.loaded.bind (·.job)
    | none => (s.tensorDistrict p).bind s.job

/-- Job tag and coordinates that a JOB entry gives; 0 without one. -/
def tagOf (job : Option Nat) : Nat := match job with | none => 0 | some j => fld j 4 0 32
def coordOf (job : Option Nat) : Nat := match job with | none => 0 | some j => fld j 2 0 16

/-- A CTL frame that belongs to one port: addressed to the peer it faces, in the transit class where the peer's accepted card
names another job (R256; log entry 111). A fence stops it (R280). -/
def State.portCtl (s : State) (p opcode : Nat) (payload : List Byte) : State :=
  if s.portFenced p then s
  else
  let job := s.portJob p
  let dest := match job, (s.cardEntry p).1.or (s.liveEntry p) with
    | some j, some (_, e) => neighbourCoord j (coordOf job) (peDir e)
    | _, _ => 0
  let h := mkHdr 2 4 false false dest (coordOf job) payload.length opcode (tagOf job) 0
  let away := !(s.port p).accepted.isEmpty && s.foreignTo p (tagOf job)
  s.toPort p { arb := 4, cls := if away then 5 else 4, hdr := h + put 13 1 (boolBit away), payload := payload, own := s.portDistrict p }

/-- Do the district's own frames leave (R280)? -/
def State.mayTransmit (s : State) (d : Nat) : Bool := !s.halted && !s.fenced d && (s.active d).isSome

/-- Send a CTL frame from a district over a logical port to its job neighbour (R261, R273). -/
def State.sendCtl (s : State) (d l opcode : Nat) (payload : List Byte) : State :=
  if !s.mayTransmit d then s
  else
    let dest := match s.job d, (s.members d l).head?.bind s.portEntry with
      | some j, some (_, e) => neighbourCoord j (s.coord d) (peDir e)
      | _, _ => 0
    let h := mkHdr 2 4 false false dest (s.coord d) payload.length opcode (s.jobTag d) 0
    let f : TxFrame := { arb := 4, cls := 4, hdr := h, payload := payload, own := some d }
    s.modLane (laneKey d l 4) fun x => { x with queue := x.queue ++ [f] }

/-- The common 8 bytes of a CTL payload; bit [40] is RESTART (R273, R349). -/
def common8 (step attempt : Nat) (restart : Bool) : List Byte := leBytes 8 (put 0 24 step + put 24 16 attempt + put 40 1 (boolBit restart))

def State.common (s : State) (d : Nat) (restart : Bool) : List Byte :=
  common8 (s.district d).orb.step (s.district d).orb.attempt restart

/-! ## Calling cards (R267, R268) -/

/-- The card a port sends: the job of the district that owns it, bound or not (R267). -/
def State.cardOf (s : State) (p : Nat) : List Byte :=
  let (entry, shadow) := s.cardEntry p
  let d := match entry with | some (d, _) => d | none => (s.portDistrict p).getD 0
  let job := if shadow then (s.district d).img.loaded.bind (·.job) else if (s.portDistrict p).isSome then s.job d else none
  let v := put 0 64 s.moon.serial + put 64 12 s.pwr.pstrap + put 80 5 p + put 88 1 (boolBit job.isSome)
    + put 89 1 (boolBit (job.isSome && shadow)) + put 90 1 (boolBit (s.fenced d && s.tensorDistrict p == some d))
    + put 96 8 3 + put 104 8 1 + put 128 32 s.moon.version
    + (match job with | none => 0 | some j => put 160 32 (fld j 4 0 32) + put 192 16 (fld j 2 0 16))
    + (match entry with | none => 0 | some (_, e) => put 208 3 (peDir e) + put 216 5 (peLport e))
    + put 224 64 s.orbitNow + put 288 22 s.orb.period + put 320 24 (s.district d).orb.step
  let body := leBytes 124 v
  body ++ leBytes 4 (crc32 body)

/-- Send the module's card on a port. -/
def State.sendCard (s : State) (p : Nat) : State :=
  let c := s.cardOf p
  let s := s.modPort p fun x => { x with cardLocal := c }
  if s.halted then s else s.portCtl p 1 c

/-- Send the 16 PINGs of an exchange (R272); each takes its reference-cycle count when it leaves. -/
def State.sendPings (s : State) (p : Nat) : State :=
  let s := s.modPort p fun x => { x with echoes := 0 }
  s.each (List.range 16) fun _ t => t.portCtl p 2 (leBytes 8 0)

/-- INFO of port events (R372). -/
def portInfo (cause lane : Nat) : Nat := put 0 4 cause + put 4 3 lane

end Sys2Proof.Machine
end

