-- ==== Sys2Proof/Machine/Flash.lean ====
section
/-! DEFINITION. Moon's flash (14 R383, R384, R398, R403, R405): the partitions, what their A and B copies hold of the machine, their
updates, and the start of firmware (R392, R417). -/

namespace Sys2Proof.Machine

/-! ## Lanes (09 R248, R249) -/

/-- Physical lane that serves a logical lane, in MAP. -/
def laneAt (map i : Nat) : Nat := bits map (3 * i) 3
def setLane (map i v : Nat) : Nat := map - put (3 * i) 3 (bits map (3 * i) 3) + put (3 * i) 3 v

/-- The spare takes the place of a physical lane that serves a working one. -/
def Port.spareFor (x : Port) (lane : Nat) : Port :=
  match (List.range 4).find? fun i => laneAt x.map i == lane with
  | none => x
  | some i => { x with map := setLane (setLane x.map i (laneAt x.map 4)) 4 lane, spareUsed := true }

/-- The port as it is once a planned swap of its receiving lanes has taken place (R368). -/
def Port.planned (x : Port) : Port :=
  match x.swapRx with
  | some (.agreed i) => x.spareFor (laneAt x.map i)
  | some (.bridged i) => x.spareFor (laneAt x.map i)
  | _ => x

/-! ## Partitions (R383) -/

/-- A partition: start, bytes of one copy, copies (none of a reserved one). -/
structure Partition where
  start : Nat
  size : Nat
  copies : Nat
deriving DecidableEq, Repr

/-- The partitions of R383 in its order: layout header, firmware image, soft-repair tables, certificates, keys, configuration,
reserved, event log. -/
def flashTable : List Partition :=
  [⟨0, 0x100000, 1⟩, ⟨0x100000, 0x200000, 1⟩, ⟨0x300000, 0x100000, 2⟩, ⟨0x500000, 0x100000, 1⟩, ⟨0x600000, 0x80000, 2⟩, ⟨0x700000, 0x80000, 2⟩,
    ⟨0x800000, 0x800000, 0⟩, ⟨0x1000000, 0xF000000, 1⟩]

/-- The layout header: layout version, the table, CRC-32 (log entry 119). -/
def Flash.header (f : Flash) : List Byte :=
  let body := leBytes 4 f.layout ++ flashTable.flatMap fun p => leBytes 4 p.start ++ leBytes 4 p.size ++ leBytes 4 p.copies
  body ++ leBytes 4 (crc32 body)

/-! ## A and B copies (R384) -/

/-- Is copy A the one that Moon uses: the valid copy with the higher sequence? -/
def FlashPair.useA {α : Type} (x : FlashPair α) : Bool := x.a.sound && (!x.b.sound || decide (x.b.seq ≤ x.a.seq))

def FlashPair.inForce {α : Type} (x : FlashPair α) : FlashCopy α := if x.useA then x.a else x.b

/-- An update goes into the other copy, under the next write sequence. -/
def FlashPair.update {α : Type} (x : FlashPair α) (v : α) : FlashPair α :=
  let c : FlashCopy α := ⟨v, (x.inForce.seq + 1) % 2 ^ 32, true⟩
  if x.useA then { x with b := c } else { x with a := c }

/-- An update that is cut off: the other copy's SHA-384 does not match. -/
def FlashPair.cut {α : Type} (x : FlashPair α) : FlashPair α :=
  if x.useA then { x with b := { x.b with sound := false } } else { x with a := { x.a with sound := false } }

/-- A reset or a restart of Moon cuts off the updates in progress: which, is a free value (log entry 118). -/
def Flash.cut (f : Flash) (torn : Nat) : Flash :=
  { f with tables := if bit torn 0 then f.tables.cut else f.tables
           keys := if bit torn 1 then f.keys.cut else f.keys
           config := if bit torn 2 then f.config.cut else f.config }

def State.cutFlash (s : State) : State :=
  let (k, s) := s.draw
  { s with moon := { s.moon with flash := s.moon.flash.cut (Config.tornWrites k) } }

/-! ## What the copies hold -/

/-- Soft-repair tables of the machine as it is, with the swaps, remaps and repairs that are decided (R383, R403). -/
def State.repairTables (s : State) : RepairTables :=
  let x := s.spr
  let m := s.memc
  let new (y : Nat × Nat) : Bool := m.waiting.any fun z => z.1 == y.1
  { repairs := x.repairs
    qmap := x.swaps.foldl (fun t (w : Swap) => insertKey w.quad w.spare t) x.qmap
    free := x.free
    retired := x.retired
    lanes := (s.ports.entries.map fun (p, y) => (p, y.planned.map, y.planned.spareUsed)).filter fun y => y.2.2
    pages := (m.remaps.filter fun y => !(m.restoring.contains y.1) && !new y) ++ m.waiting
    worn := m.worn ++ (m.remaps.filter new).map (·.2) }

/-- A host port as its configuration gives it: no QP holds back new addresses (R314, R383). -/
def HostPort.connected (x : HostPort) : Nat := (x.qps.entries.filter fun q => q.2.connected).length
def HostPort.takeAddress (x : HostPort) : HostPort :=
  match x.newAddr with
  | none => x
  | some (v4, ok, v6, mac) => if x.connected = 0 then { x with ipv4 := v4, ipv4Valid := ok, ipv6 := v6, mac := mac, newAddr := none } else x
def HostPort.kept (x : HostPort) : HostPort :=
  let y := HostPort.takeAddress { x with qps := Tbl.empty }
  { ipv4 := y.ipv4, ipv4Valid := y.ipv4Valid, ipv6 := y.ipv6, mac := y.mac, pfcEn := y.pfcEn, rocePrio := y.rocePrio, roceDscp := y.roceDscp
    cnpDscp := y.cnpDscp, ecnEn := y.ecnEn }

def State.keyTables (s : State) : KeyTables :=
  { owner := s.moon.owner
    keys := (allDistricts.filter fun d => (s.district d).img.keyed).map fun d => (d, (s.district d).img.keyId, (s.district d).img.key) }

def State.configTables (s : State) : ConfigTables :=
  { cfg := s.moon.cfg, scrubHours := s.memc.scrubHours, interval := s.spr.interval, hosts := s.hosts.map fun _ x => x.kept }

/-! ## Updates -/

def State.modFlash (s : State) (f : Flash → Flash) : State := { s with moon := { s.moon with flash := f s.moon.flash } }

/-- Moon writes the soft-repair tables, before what they decide takes effect (R403); not while no firmware runs. -/
def State.saveTables (s : State) : State :=
  if !s.moon.running then s
  else
    let t := s.repairTables
    let s := { s with spr := { s.spr with swaps := s.spr.swaps.map fun (w : Swap) => { w with written := true } } }
    if t = s.moon.flash.tables.inForce.content then s else s.modFlash fun f => { f with tables := f.tables.update t }

def State.saveKeys (s : State) : State := s.modFlash fun f => { f with keys := f.keys.update s.keyTables }
def State.saveConfig (s : State) : State := s.modFlash fun f => { f with config := f.config.update s.configTables }

/-! ## Start of firmware -/

def fwLen (img : List Byte) : Nat := leNat ((img.drop 16).take 4)
def fwSvn (img : List Byte) : Nat := leNat ((img.drop 8).take 2)
def fwVersion (img : List Byte) : Nat := leNat ((img.drop 4).take 4)
def fwDigest (img : List Byte) : List Byte := (img.drop 20).take 48

/-- CDI_F (R392) of a firmware, its lifecycle and debug state; the encodings are the model's (log entry 120). In RMA the ROM derives
none (R396). -/
def firmwareCdi (digest : List Byte) (svn lifecycle : Nat) (unlocked : Bool) : List Byte :=
  if lifecycle = 2 then []
  else hmac384 (hmac384 Config.uds Config.romHash) (digest ++ leBytes 2 svn ++ leBytes 1 (lifecycle + 4 * boolBit unlocked))

/-- Firmware runs: from flash (FW_STATE 1) or from SRAM only (2). The ROM has locked UDS, and gives the firmware CDI_F (R392). -/
def Moon.runs (m : Moon) (fw : Nat) (img : List Byte) : Moon :=
  { m with fw := fw, running := true, version := fwVersion img, svn := fwSvn img, digest := fwDigest img, udsLocked := true
           cdi := firmwareCdi (fwDigest img) (fwSvn img) m.lifecycle m.unlocked }

/-- Physical quads that serve no logical quad, and are neither tested spares nor retired: Moon tests them (R367, R417). -/
def Sparing.untested (x : Sparing) : List Nat :=
  let used := ((List.range 128).map fun q => (lookupKey q x.qmap).getD q) ++ x.free ++ x.retired ++ x.swaps.map (·.spare)
  (List.range 132).filter fun q => !used.contains q

/-- Firmware starts: its tests of drained quads begin, and tables that no firmware could write are written (R382, R403). -/
def State.runFirmware (s : State) (fw : Nat) (img : List Byte) : State :=
  let s := { s with moon := s.moon.runs fw img }
  ({ s with spr := { s.spr with testing := s.spr.untested } } : State).saveTables

end Sys2Proof.Machine
end

