-- ==== Sys2Proof/Machine/Recover.lean ====
section
/-! DEFINITION. What a condition of R337 does beyond its log entry: fence, halt, rollback and HOLD (12 R339 to R352), and the
operations on boxes, stage queues and rings that they and the commands share (07, 08). -/

namespace Sys2Proof.Machine

/-! ## Commands and senders -/

/-- A host command finishes: its status, DETAIL and orbit wait to be posted in order (R326). -/
def State.finishCmd (s : State) (d i : Nat) (st : Status) (detail : Nat) : State :=
  let o := s.orbitNow
  s.modHost d fun h => { h with cmds := h.cmds.map fun c => if c.index = i && c.done.isNone then { c with done := some (st, detail, o) } else c }

/-- Outstanding instructions of a core complete; when the oldest does, a 17th no longer waits for it (R69). -/
def Core.complete (c : Core) (gone : Outst → Bool) : Core :=
  { c with outs := c.outs.filter fun o => !gone o, outsFull := c.outsFull && !(c.outs.head?.any gone) }

/-- A tensor send or an enqueue that somebody waited for is complete (R242, R324). -/
def State.complete (s : State) (w : Sender) (kind : OutKind → Bool) : State :=
  match w with
  | .core n => s.modCore n fun c => c.complete fun o => kind o.kind
  | .command d i => s.finishCmd d i .done 0
  | .engine d => s.modMir d fun m =>
    if m.serving then { m with sent := (m.sent + 1) % 2 ^ 32, left := m.left - 1, serving := decide (1 < m.left) }
    else { m with pages := (m.pages + 1) % 2 ^ 28, left := m.left - 1 }

def OutKind.isSend (r k : Nat) : OutKind → Bool
  | .send ring serial => ring == r && serial == k
  | _ => false
def OutKind.isEnqueue (x : SItem) : OutKind → Bool
  | .enqueue y => decide (x = y)
  | _ => false

/-! ## Boxes (07) -/

def beCapacity (e : Nat) : Nat := fld e 4 0 18
def beReader (e : Nat) : Nat := fld e 8 0 9
def beN (e : Nat) : Nat := fld e 10 0 10
def beLanes (e : Nat) : Nat := fld e 12 0 3
def beType (e j : Nat) : Nat := fld e 13 (2 * j) 2
def beUnit (e : Nat) : Int := signed 8 (fld e 14 0 8)
def beOut (e : Nat) : Nat := fld e 16 0 12
def beCollection (e : Nat) : Bool := fld e 0 0 8 == 3

/-- Boxes that a district's active image declares: number and entry. -/
def State.boxesOf (s : State) (d : Nat) : List (Nat × Nat) :=
  ((s.entries d 3).filter fun e => fld e 0 0 8 != 1).map fun e => (fld e 2 0 12, e)
def State.ringsOf (s : State) (d : Nat) : List (Nat × Nat) :=
  ((s.entries d 4).filter fun e => fld e 0 0 8 != 3).map fun e => (fld e 2 0 12, e)
def State.queuesOf (s : State) (d : Nat) : List (Nat × Nat) :=
  ((s.entries d 4).filter fun e => fld e 0 0 8 == 3).map fun e => (fld e 2 0 8, e)
def State.quota (s : State) (d : Nat) : Nat :=
  match (s.active d).bind (·.queueDist d) with
  | none => 0
  | some e => fld e 4 0 18

def sumOf {α : Type} (l : List α) (f : α → Nat) : Nat := l.foldl (fun a x => a + f x) 0

/-- Pool cells in use (R193, R237): queued items, claimed messages not linked, and stage-queue items. -/
def State.cells (s : State) (d : Nat) : Nat :=
  sumOf (s.boxesOf d) (fun b => (s.box b.1).items.length)
    + sumOf (s.coresOf d) (fun n => sumOf (s.core n).unlinked fun u => u.2.length)
    + sumOf (s.queuesOf d) (fun q => (s.queue q.1).items.length)

def State.noteCells (s : State) (d : Nat) : State :=
  let n := s.cells d
  s.modPbx d fun p => { p with high := max p.high n }

/-- A dead-letter record (R211). -/
def letterOf (s : State) (d b : Nat) (x : BoxItem) (cause : Nat) : List Byte :=
  (List.range 4).flatMap (fun i => leBytes 8 (x.words.getD i 0))
    ++ leBytes 32 (put 0 12 b + put 16 9 x.sender + put 32 3 x.words.length + put 35 3 cause + put 38 1 (boolBit x.collected)
      + put 64 64 s.orbitNow + put 128 24 (s.district d).orb.step + put 160 11 x.index)

/-- Divert one item to the dead-letter ring (R208, R210). -/
def State.deadLetter (s : State) (d b : Nat) (x : BoxItem) (cause : Nat) : State :=
  let s := s.modPbx d fun p => { p with deadCnt := (p.deadCnt + 1) % 2 ^ 64 }
  let s := s.count (ctrBox b 2) 1
  let s :=
    if (s.district d).flt.noted.any fun n => n.1 == 0x21 then s.countDist d 42 1
    else (s.modPbx d fun p => { p with firstDead := true }).notice 0x21 (some d) b (put 0 9 x.sender)
  let p := (s.district d).pbx
  let n := 2 ^ (p.dlrLog2 - 6)
  if s.fenced d || s.halted || gap 27 p.dlrHead p.dlrTail = n then
    (s.modPbx d fun p => { p with dlrDrop := (p.dlrDrop + 1) % 2 ^ 64 }).notice 0x22 (some d) b (put 0 9 x.sender)
  else
    (s.store (p.dlrBase + p.dlrHead % n * 64) (letterOf s d b x cause)).modPbx d fun p => { p with dlrHead := (p.dlrHead + 1) % 2 ^ 27 }

/-- A postbox becomes dead, its items diverted (R207). -/
def State.killBox (s : State) (d b cause : Nat) : State :=
  let xs := (s.box b).items
  let s := s.modBox b fun x => { x with items := [], state := 2, dying := false }
  s.each xs fun x t => t.deadLetter d b x cause

/-- Flush of a box (R212): from the next message boundary; `whole` when no READ has begun a message. -/
def State.flushBox (s : State) (b : Nat) (whole : Bool) : State :=
  (s.modBox b fun x =>
    let keep := if whole then [] else x.items.takeWhile fun i => i.index != 0
    { x with items := keep, high := keep.length, cur := [], next := [], accCur := [], accNext := [], results := [], rounds := 0 }).count (ctrBox b 3) 1

/-- At a tick that begins or restarts a step: dead postboxes become live and empty; a FINAL too late to kill its box moves
the queued items (R207). -/
def State.reviveBoxes (s : State) (d : Nat) : State :=
  s.each (s.boxesOf d) fun (b, _) t =>
    if (t.box b).dying then (t.killBox d b 2).modBox b fun x => { x with state := 1 }
    else if (t.box b).state = 2 then t.modBox b fun x => { x with state := 1, items := [] }
    else t

/-! ## Rings (08) -/

def reLog2 (e : Nat) : Nat := fld e 4 0 6
def reLport (e : Nat) : Nat := fld e 5 0 5
def reVc (e : Nat) : Nat := fld e 5 5 3
def reQueue (e : Nat) : Nat := fld e 6 0 8
def reBase (e : Nat) : Nat := fld e 8 0 48
def rePeer (e : Nat) : Nat := fld e 16 0 12
def reCapacity (e : Nat) : Nat := fld e 20 0 18
def reTx (e : Nat) : Bool := fld e 0 0 8 == 2
/-- Ring size in 256-B units. -/
def reUnits (e : Nat) : Nat := 2 ^ (reLog2 e - 8)
/-- Credits of a TX ring, or units free of an RX ring (R232). -/
def Ring.credits (x : Ring) (e : Nat) : Nat := reUnits e - gap 32 x.wp x.rp
/-- Units of a message of LEN bytes (R231). -/
def unitsFor (len : Nat) : Nat := ceilDiv (64 + len) 256

/-- rp advances over the released records at its front; each advance returns credits (R235). -/
def State.advance (s : State) (d r e : Nat) : State :=
  let x := s.ring r
  let gone := x.recs.takeWhile (·.released)
  if gone.isEmpty then s
  else
    let s := s.modRing r fun x => { x with recs := x.recs.dropWhile (·.released), rp := (x.rp + sumOf gone (·.units)) % 2 ^ 32 }
    s.sendCtl d (reLport e) 6 (s.common d false ++ leBytes 2 r ++ leBytes 4 (s.ring r).rp)

/-- Release a record of an RX ring by its unit (R235). -/
def State.release (s : State) (d r unit : Nat) : State :=
  match s.ringOwner r with
  | none => s
  | some (_, e) =>
    (s.modRing r fun x => { x with recs := x.recs.map fun c => if c.unit = unit && !c.released then { c with released := true } else c }).advance d r e

/-- Frames that wait on the logical ports and, with no BSEQ yet, at the ports (R260). -/
def State.unsent (s : State) : List TxFrame :=
  s.lanes.entries.flatMap (·.2.queue) ++ s.ports.entries.flatMap fun x => x.2.queue.filter (·.turn.isSome)

/-- Take unsent frames back. -/
def State.takeBack (s : State) (gone : TxFrame → Bool) : State :=
  { s with lanes := s.lanes.map fun _ l => { l with queue := l.queue.filter fun f => !gone f }
           ports := s.ports.map fun _ p => { p with queue := p.queue.filter fun f => !(f.turn.isSome && gone f) } }

/-- The sender of a frame's message learns that it is complete (R242, R278). -/
def State.frameLeft (s : State) (f : TxFrame) : State :=
  match f.who, f.ring with
  | some w, some (r, k) => s.complete w (OutKind.isSend r k)
  | _, _ => s

/-- A TX ring becomes DEAD: what it has not fully sent is discarded, each message counted, and its waiting sends complete
(R278). -/
def State.killRing (s : State) (d r : Nat) : State :=
  let x := s.ring r
  let mine (f : TxFrame) : Bool := match f.ring with | some (y, _) => y == r | none => false
  let cut := s.unsent.filter mine
  let s := s.takeBack mine
  let s := s.modRing r fun x => { x with state := 2, waiting := [] }
  let s := s.count (ctrRing r 5) (x.waiting.length + (cut.filter (·.who.isSome)).length)
  let s := s.each x.waiting fun m t => t.complete m.who (OutKind.isSend r m.serial)
  let s := s.each cut fun f t => t.frameLeft f
  if x.state = 2 then s
  else if (s.district d).flt.noted.any fun n => n.1 == 0x27 then s.countDist d 42 1
  else s.notice 0x27 (some d) r 0

/-! ## Stopping work -/

/-- A core drops its latency-critical work, late or not (R215, R339); `tiles` also stops a best-effort tile. -/
def Core.drop (c : Core) (tiles : Bool) : Core :=
  if c.tile.isSome && !tiles then { c with work := none, slackMin := none, lateOrbit := none }
  else { c with work := none, slackMin := none, lateOrbit := none, loops := [], outs := [], outsFull := false, sendWait := none, unlinked := [], tile := none }

def State.dropCores (s : State) (d : Nat) (tiles : Bool) : State :=
  s.each (s.coresOf d) fun n t => t.modCore n fun c => c.drop tiles

/-- Running maxima and per-step counts of an aborted attempt are discarded (R126). -/
def State.dropMaxima (s : State) (d : Nat) : State :=
  { s with slots := s.slots.map fun _ x => if x.valid && x.district == d then { x with amax := 0, counts := List.replicate 7 0, combined := none } else x }

/-- Discard a district's own frames that are queued or unacknowledged (R280). -/
def State.dropFrames (s : State) (d : Nat) : State :=
  { s with lanes := s.lanes.map fun _ l => { l with queue := l.queue.filter fun f => f.own != some d }
           ports := s.ports.map fun _ p => { p with queue := p.queue.filter fun f => f.own != some d
                                                    replay := p.replay.filter fun f => f.2.own != some d } }

/-- Reserved spares of pending swaps of a district's quads go back (R366). -/
def State.dropSwaps (s : State) (d : Nat) : State :=
  match s.spr.swaps.filter fun w => s.quadDistrict w.quad == some d && w.forced with
  | [] => s
  | gone =>
    ({ s with spr := { s.spr with free := s.spr.free ++ gone.map (·.spare), swaps := s.spr.swaps.filter fun w => !(gone.contains w) } } : State).saveTables

/-- Scales and rings of a district's slots change places with those of the step before: a roll-forward begins or ends (R364). -/
def State.swapSlots (s : State) (d : Nat) : State :=
  { s with slots := s.slots.map fun _ x => if x.valid && x.district == d then
      { x with scale := x.prevScale, prevScale := x.scale, ring := x.prevRing, prevRing := x.ring } else x }

/-- A district's stage queues become dead: what waits to enter them is released at once and never enqueued (R240). -/
def State.killQueues (s : State) (d : Nat) : State :=
  s.each (s.queuesOf d) fun (q, _) t =>
    let ws := (t.queue q).waiting
    let t := t.modQueue q fun x => { x with waiting := [] }
    t.each ws fun w u => if w.1.ringed then u.release d w.1.ring w.1.unit else u

/-- The harmless state of a district (R339, R450). -/
def State.stopDistrict (s : State) (d : Nat) : State :=
  let s := s.dropCores d true
  let s := if (s.district d).flt.rollAt.isSome then s.swapSlots d else s
  let s := s.each (s.coresOf d) fun n t => t.modCore n fun c => { c with groups := 0 }
  let s := s.each (s.boxesOf d) fun (b, _) t => t.modBox b fun x =>
    { x with cur := [], next := [], accCur := [], accNext := [], results := [], dying := false }
  let s := s.killQueues d
  let s := s.each (s.ringsOf d) fun (r, _) t => t.modRing r fun x => { x with state := 2, waiting := [], arrival := none, staged := [] }
  let s := s.dropSwaps d
  let s := s.modHost d fun h => { h with outs := [] }
  let s := s.modBar d fun _ => {}
  let s := s.modMir d fun m => { m with serving := false, dwDue := false, stat := 0 }
  s.modFlt d fun f => { f with copyBack := if f.resetting then f.copyBack else none, receiving := [], rollAt := none, rollAsked := false }

/-- Are the stage queues of a district dead (R240)? -/
def State.queuesDead (s : State) (d : Nat) : Bool := s.halted || s.fenced d || (s.district d).flt.resetting

/-- Running commands end without a completion (R328). -/
def State.loseCmds (s : State) (d : Nat) : State := s.modHost d fun h => { h with cmds := [] }

/-- Commands of a halted module finish with HALTED (R14, R339). -/
def State.haltCmds (s : State) (d : Nat) : State :=
  let o := s.orbitNow
  s.modHost d fun h => { h with cmds := h.cmds.map fun c => if c.done.isNone then { c with done := some (.halted, 0, o) } else c }

/-- A fence: the log entry, and the harmless state of the district. -/
def State.fence (s : State) (d code unit info : Nat) : State :=
  let s := s.event code .fence (some d) unit info
  if s.halted || s.fenced d then s
  else
    let s := ((s.stopDistrict d).dropFrames d).loseCmds d
    let s := s.modFlt d fun f => { f with fenced := true }
    let s := s.modImg d fun g => { g with portsFence := true }
    s.each (List.range 24) fun p t => if t.tensorDistrict p == some d then t.modPort p fun x => { x with cardLocal := t.cardOf p } else t

/-- A halt (R339, R414): every district stops, pending commits are dropped (R303), memory enters self-refresh, and every
frame, transit included, is discarded (R280). Only a module reset ends it. -/
def State.halt (s : State) (code : Nat) (d : Option Nat) (unit info : Nat) : State :=
  let s := s.event code .halt d unit info
  if s.halted then s
  else
    let s := s.each s.defined fun k t => (t.stopDistrict k).haltCmds k
    let o := s.orbitNow
    let s := s.each s.defined fun k t => t.modImg k fun g =>
      if g.commit = 0 then g else { g with commit := 0, target := 0, result := Status.halted.code, resultOrbit := o % 2 ^ 32, committedEv := true }
    { s with pwr := { s.pwr with halted := true, memKept := s.pwr.memKept || s.memc.trained }
             memc := { s.memc with selfRefresh := true }
             lanes := s.lanes.map fun _ l => { l with queue := [], store := [] }
             ports := s.ports.map fun _ p => { p with queue := [], replay := [] } }

/-! ## Rolling back (R348 to R352) -/

/-- Start-of-recovery actions common to every rollback: abort, flush, journal copy-back, maxima (R215, R348, R126). -/
def State.abort (s : State) (d : Nat) : State :=
  let s := s.dropCores d false
  let s := s.each (s.boxesOf d) fun (b, _) t => t.flushBox b true
  let s := s.each (s.ringsOf d) fun (r, e) t => t.modRing r fun x =>
    if reTx e then { x with waiting := x.waiting.filter fun m => match m.who with | .command _ _ => true | _ => false } else x
  let gone (f : TxFrame) : Bool := f.own == some d && hdrType f.hdr == 1
  let cut := s.unsent.filter gone
  let s := (s.takeBack gone).each cut fun f t => match f.who with | some (.command _ _) => t.frameLeft f | _ => t
  let s := s.dropMaxima d
  let s := s.modFlt d fun f => { f with copyBack := if f.dirty.isEmpty then none else some .rollback }
  let s := s.modBar d fun _ => { rolledBack := true }
  let s := s.modMir d fun m => { m with stat := 0, dwDue := false }
  s.countDist d 40 1

/-- Enter HOLD (R55); `timeout` sets ORB_OVERRUN.TIMEOUT. -/
def State.enterHold (s : State) (d : Nat) (timeout : Bool) : State :=
  if s.held d then s
  else
    let s := s.modBar d fun _ => {}
    let s := s.modOrb d fun o => { o with phase := .hold, ovTimeout := o.ovTimeout || timeout }
    s.countDist d 41 1

/-- INFO of orbit events (R372): cause and go, restart or decision orbit. -/
def orbitInfo (cause orbit : Nat) : Nat := put 0 8 cause + put 8 48 orbit

/-- Roll back and enter HOLD, not counted under R51 (R55, R279, R351): a rollback that ends so is taken off the count again
(log entry 55). -/
def State.rollbackHold (s : State) (d code unit info : Nat) : State :=
  let s := s.event code .rollback (some d) unit info
  if s.fenced d || s.halted || s.held d || (s.active d).isNone then s
  else
    let b := (s.district d).bar
    let s := if b.rolledBack then s.modOrb d fun o => { o with rollbacks := o.rollbacks - boolBit b.counted } else s.abort d
    s.enterHold d true

/-- HOLD for a lost neighbour or a JOB_HOLD (R279); code 0x17 when the district has rolled back already (R351). -/
def State.holdFor (s : State) (d code unit info : Nat) : State :=
  let b := (s.district d).bar
  if b.rolledBack then s.rollbackHold d 0x17 0 (orbitInfo 0 (b.restart.getD (b.decided.getD s.orb.number)))
  else s.rollbackHold d code unit info

/-- Send a CTL frame down a tree, or up it. -/
def State.sendDown (s : State) (d opcode : Nat) (payload : List Byte) (amax : Bool) : State :=
  match s.job d with
  | none => s
  | some j => s.each (jobChildren j amax) fun l t => t.sendCtl d l opcode payload
def State.sendUp (s : State) (d opcode : Nat) (payload : List Byte) (amax : Bool) : State :=
  match (s.job d).bind (jobParent · amax) with
  | none => s
  | some l => s.sendCtl d l opcode payload

/-- Is the module the root of the district's barrier tree? Without a JOB entry the district is a job of its own. -/
def State.isRoot (s : State) (d : Nat) (amax : Bool) : Bool :=
  match s.job d with
  | none => true
  | some j => (jobParent j amax).isNone

/-- A module learns its restart orbit (R350, R351): it rolls back without proposing if it has not yet, and holds the orbit
unless its tick has come. -/
def State.takeRestart (s : State) (d orbit : Nat) : State :=
  let s := if (s.district d).bar.rolledBack then s else (s.event 0x19 .rollback (some d) 0 (orbitInfo 0 orbit)).abort d
  if s.orb.run && orbit ≤ s.orb.number then s.rollbackHold d 0x17 0 (orbitInfo 0 orbit)
  else s.modBar d fun b => { b with restart := some orbit }

/-- The root takes the first proposal of a restart, its own or a child's, and sends RESTART BAR_GO with it (R349, R350). -/
def State.rootRestart (s : State) (d orbit : Nat) : State :=
  if (s.district d).bar.restart.isSome || (s.district d).bar.go.isSome then s
  else (s.sendDown d 0xB (s.common d true ++ leBytes 8 orbit) false).takeRestart d orbit

/-- A district decides a ROLLBACK for a condition (R348, R349, R51, R352). -/
def State.rollback (s : State) (d code unit info : Nat) : State :=
  let s := s.event code .rollback (some d) unit info
  if s.fenced d || s.halted || s.held d || (s.active d).isNone then s
  else if (s.district d).bar.go.isSome then s.fence d 0x18 unit (orbitInfo 0 s.orb.number)
  else if (s.district d).bar.rolledBack then s
  else
    let s := s.abort d
    let n := (s.district d).orb.rollbacks + 1
    let s := s.modOrb d fun o => { o with rollbacks := n }
    if 3 ≤ n then
      s.each (s.defined.filter fun k => k == d || (s.jobTag k == s.jobTag d && s.jobTag d != 0)) fun k t =>
        t.fence k 0x16 0 (orbitInfo 0 t.orb.number)
    else
      let at' := s.orb.number + (s.district d).flt.rlead
      let s := s.modBar d fun b => { b with counted := true, decided := some s.orb.number, deadline := some at' }
      if s.isRoot d false then s.rootRestart d at'
      else
        let s := s.modBar d fun b => { b with restartSeen := true }
        s.sendUp d 0xA (s.common d true ++ leBytes 8 at') false

/-- Apply a class of R337 to a district. -/
def State.condition (s : State) (cls : Class) (d code unit info : Nat) : State :=
  match cls with
  | .notice => s.notice code (some d) unit info
  | .replay => s.event code .replay (some d) unit info
  | .rollback => s.rollback d code unit info
  | .fence => s.fence d code unit info
  | .halt => s.halt code (some d) unit info

/-! ## Faults of boxes and of memory's queues -/

/-- A queue fault (R214, R217): cause 1 over-count, 2 READ of a dead postbox. -/
def State.boxFault (s : State) (d cause box core : Nat) : State :=
  (s.modPbx d fun p => { p with fault := true, cause := cause, fbox := box, fcore := core }).fence d 0x20 box (put 0 9 core + put 12 4 cause)

/-- A fault of chapter 08 (R246). -/
def State.memFault (s : State) (d code cause index core : Nat) : State :=
  (s.modMemd d fun m => { m with fault := true, cause := cause, index := index, fcore := core }).fence d code index (put 0 9 core + put 12 4 cause)

/-! ## Stage queues (R237 to R244) -/

/-- MB values of the items of a district that are enqueued or held (R239). -/
def State.mbInUse (s : State) (d : Nat) : List Nat :=
  (((s.queuesOf d).flatMap fun q => (s.queue q.1).items) ++ (s.coresOf d).flatMap fun n => (s.core n).held).filterMap (fun x =>
    if x.useMb then some (bits x.postmark 24 16) else none) |>.eraseDups

/-- The item slot that an AWAIT writes (R245). -/
def itemSlot (x : SItem) : List Byte :=
  leBytes 32 (put 0 48 x.addr + put 64 32 x.len + put 96 12 x.ring + put 108 1 (boolBit x.ringed) + put 112 16 x.lcnt + put 128 64 x.postmark
    + put 192 16 x.src + put 208 8 x.queue + put 224 32 x.handle)

/-- Handles of held items go from 1 to 2^32 − 1 and round (R244; log entry 60). -/
def State.nextHandle (s : State) : State := { s with memc := { s.memc with handle := s.memc.handle % (2 ^ 32 - 1) + 1 } }

/-- An AWAIT takes the item with its postmark, if it is there (R244). -/
def State.takeItem (s : State) (core q slot pm : Nat) : Option State :=
  match (s.queue q).items.find? fun x => x.postmark == pm with
  | none => none
  | some x =>
    let h := s.memc.handle
    let y := { x with handle := h }
    let s := s.modQueue q fun z => { z with items := z.items.erase x }
    let s := s.nextHandle
    let s := s.store (sramAddr core slot) (itemSlot y)
    let s := s.count (ctrQueue q 1) 1
    some (s.modCore core fun c => { c with held := c.held ++ [y] })

/-- AWAITs that wait on a queue take what has come (R244). -/
def State.feedAwaits (s : State) (d q : Nat) : State :=
  s.each (s.coresOf d) fun n t =>
    t.each (t.core n).outs fun o u =>
      match o.kind with
      | .await qq slot pm =>
        if qq = q then
          match u.takeItem n q slot pm with
          | none => u
          | some v => v.modCore n fun c => c.complete fun x => decide (x = o)
        else u
      | _ => u

/-- May one more item enter (R238)? -/
def State.queueRoom (s : State) (d q e : Nat) : Bool :=
  decide ((s.queue q).items.length < reCapacity e) && decide (s.cells d < s.quota d)

/-- An item enters its queue: duplicate postmark and micro-batch table are checked (R226, R239). -/
def State.enter (s : State) (d q : Nat) (x : SItem) : State :=
  if (s.queue q).items.any fun y => y.postmark == x.postmark then s.memFault d 0x23 4 q 0
  else
    let mbs := s.mbInUse d
    if x.useMb && !mbs.contains (bits x.postmark 24 16) && decide (256 ≤ mbs.length) then s.memFault d 0x23 3 q 0
    else
      let s := s.modQueue q fun z => { z with items := z.items ++ [x], high := max z.high (z.items.length + 1) }
      let s := s.count (ctrQueue q 0) 1
      let s := s.noteCells d
      let n := (s.mbInUse d).length
      (s.modMemd d fun m => { m with mbHigh := max m.mbHigh n }).feedAwaits d q

/-- An item comes to its queue: it enters, or waits behind what waits (R238). The waiter completes when it has entered. -/
def State.enqueue (s : State) (d q : Nat) (x : SItem) (who : Option Sender) : State :=
  match s.queueOwner q with
  | none => s
  | some (_, e) =>
    if (s.queue q).waiting.isEmpty && s.queueRoom d q e then
      let s := s.enter d q x
      match who with
      | none => s
      | some w => s.complete w (OutKind.isEnqueue x)
    else s.modQueue q fun z => { z with waiting := z.waiting ++ [(x, who)] }

/-! ## Losing a neighbour (R279) -/

/-- JOB_HOLD on the SAME ports of a district other than one: now where the logical port has an ACTIVE member, else owed. -/
def State.spreadHold (s : State) (d : Nat) (except : Option Nat) (step attempt origin cause : Nat) : State :=
  let body := common8 step attempt false ++ leBytes 2 origin ++ leBytes 1 cause
  s.each ((s.sameLports d).filter fun l => some l != except) fun l t =>
    if (t.members d l).any fun p => (t.port p).state == 6 then t.sendCtl d l 0xC body
    else t.each (t.members d l) fun p u => u.modPort p fun x => { x with holdOwed := some (step, attempt, origin, cause) }

/-- A logical port's neighbour is lost: its TX rings die, the step rolls back into HOLD, and the job is told. -/
def State.loseNeighbour (s : State) (d l cause unit serial : Nat) : State :=
  let s := s.each ((s.ringsOf d).filter fun r => reTx r.2 && reLport r.2 == l) fun (r, _) t => t.killRing d r
  if s.held d then s
  else
    let s := s.holdFor d 0x45 unit serial
    s.spreadHold d (some l) (s.district d).orb.step (s.district d).orb.attempt (s.coord d) cause

/-- A port has lost its peer by a flag, DOWN or QUARANTINE; `cause` as in JOB_HOLD. On a FOREIGN logical port only HALT and
DOWN count. -/
def State.portLost (s : State) (p cause : Nat) : State :=
  match s.portEntry p with
  | none => s
  | some (d, e) =>
    if s.fenced d || s.halted || (peForeign e && (cause == 1 || cause == 4)) then s
    else if cause = 3 && ((s.members d (peLport e)).any fun q => (s.port q).state != 0 && (s.port q).state != 9) then s
    else s.loseNeighbour d (peLport e) cause p (leNat ((s.port p).cardPeer.take 8))

end Sys2Proof.Machine
end

