-- ==== Sys2Proof/Machine/Rings.lean ====
section
/-! DEFINITION. Tensor messages: sending over a TX ring under wrap and credits (08 R230 to R233), receiving a record into an
RX ring (R234, 09 R252, R277), and reads of pages as a step began (12 R347). -/

namespace Sys2Proof.Machine

/-! ## Reads as the step began (R347) -/

/-- Bytes of [a, a + n) where a page DIRTY in the current generation is read from its journal slot; `k` bounds the pages. -/
def State.oldBytesGo (s : State) (d : Nat) : Nat → Nat → Nat → List Byte
  | 0, a, n => s.bytes a n
  | k + 1, a, n =>
    let m := min n (MiB - a % MiB)
    let src := match s.pageIndex d a with
      | none => a
      | some i => if (s.district d).flt.dirty.contains i then s.slotAddr d i + a % MiB else a
    if n ≤ m then s.bytes src n else s.bytes src m ++ s.oldBytesGo d k (a + m) (n - m)

def State.oldBytes (s : State) (d a n : Nat) : List Byte := s.oldBytesGo d (n / MiB + 1) a n

/-! ## Sending -/

/-- A record header (R230). -/
def recordHdr (type vc ring units pm len msgno attempt src lcnt orbit : Nat) : Nat :=
  put 0 8 type + put 8 2 vc + put 16 12 ring + put 32 24 units + put 64 64 pm + put 128 32 len + put 160 32 msgno + put 192 16 attempt
    + put 208 16 src + put 224 16 lcnt + put 256 64 orbit

/-- DATA frames of a record (R252): runs of 4,096 B of its bytes, in ascending OFF. The last completes `who`, the sender of the
message `k` of TX ring `r`. -/
def dataFrames (s : State) (d r k e : Nat) (bytes : List Byte) (who : Option Sender) : List TxFrame :=
  let n := ceilDiv bytes.length 4096
  let dir := match (s.members d (reLport e)).head?.bind s.portEntry with | some (_, pe) => peDir pe | none => 0
  let dest := match s.job d with | some j => neighbourCoord j (s.coord d) dir | none => 0
  (List.range n).map fun i =>
    let part := (bytes.drop (4096 * i)).take 4096
    { arb := reVc e, cls := reVc e
      hdr := mkHdr 1 (reVc e) (i == 0) (i + 1 == n) dest (s.coord d) part.length (rePeer e) (s.jobTag d) (4096 * i)
      payload := part, own := some d, ring := some (r, k), who := if i + 1 = n then who else none }

/-- Give a record to the logical port's queue and take its units (R232). -/
def State.sendRecord (s : State) (d r k e units : Nat) (bytes : List Byte) (who : Option Sender) : State :=
  let fs := dataFrames s d r k e bytes who
  let s := s.modLane (laneKey d (reLport e) (reVc e)) fun l => { l with queue := l.queue ++ fs }
  let s := s.modRing r fun x => { x with wp := (x.wp + units) % 2 ^ 32, waited := false }
  s.count (ctrRing r 1) units

/-- One act of the sender of a TX ring (R232): a SKIP, or the message at the front; none while it waits for credits or the
ring is not open. -/
def State.pumpOne (s : State) (d r e : Nat) : State × Bool :=
  let x := s.ring r
  let b := (s.district d).bar
  match x.waiting with
  | [] => (s, false)
  | m :: rest =>
    if x.state ≠ 1 || !s.mayTransmit d || (b.rolledBack && !s.held d) then (s, false)
    else
      let need := unitsFor m.len
      let n := reUnits e
      let tail := n - x.wp % n
      let want := if tail < need then tail else need
      if x.credits e < want then
        (if x.waited then s else (s.modRing r fun x => { x with waited := true }).count (ctrRing r 7) 1, false)
      else if tail < need then
        let h := recordHdr 2 (reVc e) (rePeer e) tail 0 0 0 x.attempt (s.coord d) 0 0
        (s.sendRecord d r m.serial e tail (leBytes 64 h) none, true)
      else
        let h := recordHdr 1 (reVc e) (rePeer e) need m.postmark m.len x.msgno x.attempt (s.coord d) m.lcnt 0
        let body := if m.old then s.oldBytes d m.addr (m.len - m.head.length) else s.bytes m.addr (m.len - m.head.length)
        let s := s.sendRecord d r m.serial e need (leBytes 64 h ++ m.head ++ body) (some m.who)
        ((s.modRing r fun x => { x with waiting := rest, msgno := (x.msgno + 1) % 2 ^ 32 }).count (ctrRing r 0) 1, true)

def State.pumpGo (d r e : Nat) : Nat → State → State
  | 0, s => s
  | k + 1, s => let (t, go) := s.pumpOne d r e; if go then State.pumpGo d r e k t else t

/-- Send what the credits of a TX ring allow. -/
def State.pump (s : State) (d r e : Nat) : State := State.pumpGo d r e (2 * (s.ring r).waiting.length) s

/-- Serial number that the next message of a ring takes. -/
def State.nextSerial (s : State) (r : Nat) : Nat := (s.ring r).serial

/-- Give a message to a TX ring: at once complete and counted when the ring is DEAD (R240), else sent or waiting. In a
roll-forward it completes at once and sends nothing (R364). -/
def State.giveMessage (s : State) (d r e : Nat) (who : Sender) (pm len lcnt : Nat) (head : List Byte) (addr : Nat) (old : Bool) : State :=
  let k := s.nextSerial r
  if (s.district d).flt.rollAt.isSome then s.complete who (OutKind.isSend r k)
  else if (s.ring r).state = 2 then (s.count (ctrRing r 5) 1).complete who (OutKind.isSend r k)
  else
    let m : TxMsg := ⟨k, who, pm, len, lcnt, head, addr, old⟩
    (s.modRing r fun x => { x with waiting := x.waiting ++ [m], serial := x.serial + 1 }).pump d r e

/-! ## Receiving (R234) -/

def rhType (h : Nat) : Nat := fld h 0 0 8
def rhUnits (h : Nat) : Nat := fld h 4 0 24
def rhPostmark (h : Nat) : Nat := fld h 8 0 64
def rhLen (h : Nat) : Nat := fld h 16 0 32
def rhMsgno (h : Nat) : Nat := fld h 20 0 32
def rhAttempt (h : Nat) : Nat := fld h 24 0 16
def rhSrc (h : Nat) : Nat := fld h 26 0 16
def rhLcnt (h : Nat) : Nat := fld h 28 0 16

/-- Attempt that a go or restart orbit has announced (R234). -/
def State.nextAttempt (s : State) (d : Nat) : Option Nat :=
  let b := (s.district d).bar
  (match b.go with | some g => some g | none => match b.restart with | some g => some g | none => b.resume).map (· % 2 ^ 16)

/-- A frame arriving for the district cannot be used: counted (R277, R280). -/
def State.discardAt (s : State) (p : Nat) : State := s.count (ctrPort p 16) 1

/-- Free the flits of a received frame in its pool (R253, R257). -/
def State.freeFlits (s : State) (p cls n : Nat) : State :=
  s.modPort p fun x => { x with freed := x.freed.modify cls fun v => (v + n) % 2 ^ 16 }

/-- A stale or duplicate record: discarded unwritten, counted, logged (R234). -/
def State.dropRecord (s : State) (d r : Nat) (counter : Nat) (h : Nat) : State :=
  ((s.modRing r fun x => { x with arrival := some ⟨h, false⟩ }).count (ctrRing r counter) 1).notice 0x26 (some d) r 0

/-- The BEGIN frame of a record at an RX ring of the district (R234). -/
def State.beginRecord (s : State) (d r e h : Nat) : State :=
  let x := s.ring r
  let keep := s.modRing r fun x => { x with arrival := some ⟨h, true⟩ }
  let n := reUnits e
  let left := n - x.wp % n
  if rhAttempt h ≠ x.attempt then s.dropRecord d r 2 h
  else if rhType h = 1 && decide (rhMsgno h < x.msgno) then s.dropRecord d r 3 h
  else if rhType h = 1 && decide (x.msgno < rhMsgno h) then s.rollback d 0x25 r 0
  else if rhType h = 2 && (rhUnits h != left || decide (x.credits e < rhUnits h)) then s.memFault d 0x23 1 r 0
  else if rhType h = 1 && (rhUnits h != unitsFor (rhLen h) || decide (left < rhUnits h) || decide (x.credits e < rhUnits h)) then
    s.memFault d 0x23 1 r 0
  else keep

/-- The END frame has been written: header, pointers, and the record's item (R231, R235, R237, R359). -/
def State.endRecord (s : State) (d r e h : Nat) : State :=
  let x := s.ring r
  let n := reUnits e
  let a := reBase e + x.wp % n * 256
  let s := s.store a (leBytes 64 (setFld h 32 0 64 s.orbitNow))
  let s := s.count (ctrRing r 1) (rhUnits h)
  if rhType h = 2 then
    (s.modRing r fun y => { y with recs := y.recs ++ [⟨x.wp, rhUnits h, true, false⟩], wp := (y.wp + rhUnits h) % 2 ^ 32, arrival := none }).advance d r e
  else
    let engine := reVc e == 3 && bits (rhPostmark h) 42 22 == 4194303
    let s := s.modRing r fun y => { y with recs := y.recs ++ [⟨x.wp, rhUnits h, false, engine⟩], wp := (y.wp + rhUnits h) % 2 ^ 32,
                                           msgno := (y.msgno + 1) % 2 ^ 32, arrival := none }
    let s := s.count (ctrRing r 0) 1
    if engine then s
    else
      let item : SItem :=
        { addr := a + 64, len := rhLen h, ringed := true, ring := r, unit := x.wp, lcnt := rhLcnt h, postmark := rhPostmark h
          src := rhSrc h, queue := reQueue e, useMb := decide (reVc e < 2), host := false, handle := 0 }
      s.enqueue d (reQueue e) item none

/-- Is a frame held in receive staging until the attempt it belongs to begins (R234)? -/
def State.stages (s : State) (d r : Nat) (f : RxFrame) : Bool :=
  let h := leNat (f.payload.take 64)
  !(s.ring r).staged.isEmpty || (hdrBegin f.hdr && rhAttempt h != (s.ring r).attempt && s.nextAttempt d == some (rhAttempt h))

/-- A DATA frame for this module (R252); its room is freed unless it is held. -/
def State.deliverData (s : State) (d l : Nat) (f : RxFrame) : State :=
  let r := hdrRing f.hdr
  let ok := match s.ringOwner r with
    | none => none
    | some (k, e) => if k == d && !s.queuesDead d && !reTx e && reLport e == l && reVc e == hdrVc f.hdr then some e else none
  let h := leNat (f.payload.take 64)
  match ok with
  | none =>
    let s := (s.discardAt f.port).freeFlits f.port f.cls f.flits
    if hdrBegin f.hdr && rhType h == 1 && (s.ring r).nacked != some (rhAttempt h) then
      let s := s.modRing r fun x => { x with nacked := some (rhAttempt h) }
      (s.count (ctrRing r 6) 1).sendCtl d l 7 (s.common d false ++ leBytes 2 r ++ leBytes 4 (rhMsgno h))
    else s
  | some e =>
    if s.stages d r f then s.modRing r fun x => { x with staged := x.staged ++ [f] }
    else
      let s := s.freeFlits f.port f.cls f.flits
      let s := if hdrBegin f.hdr then s.beginRecord d r e h else s
      match (s.ring r).arrival with
      | none => s
      | some a =>
        if !a.keep then (if hdrEnd f.hdr then s.modRing r fun x => { x with arrival := none } else s)
        else
          let pos := reBase e + (s.ring r).wp % reUnits e * 256
          let body := if hdrBegin f.hdr then f.payload.drop 64 else f.payload
          let at' := if hdrBegin f.hdr then 64 else hdrOff f.hdr
          let s := s.store (pos + at') body
          if hdrEnd f.hdr then s.endRecord d r e a.header else s

/-! ## Attempts (R236, R240) -/

/-- Rings and stage queues of a district start a new attempt: reset and empty; at a go tick leftover records are counted. -/
def State.resetRings (s : State) (d attempt : Nat) (go : Bool) : State :=
  let s := s.each (s.ringsOf d) fun (r, e) t =>
    let n := ((t.ring r).recs.filter fun c => !c.released).length
    let t := if go && !reTx e && n != 0 then (t.count (ctrRing r 4) n).notice 0x26 (some d) r 0 else t
    t.modRing r fun x => { x with wp := 0, rp := 0, attempt := attempt % 2 ^ 16, msgno := 0, recs := [], arrival := none, nacked := none, waited := false }
  let s := s.each (s.queuesOf d) fun (q, _) t =>
    let n := (t.queue q).items.length
    (t.modQueue q fun x => { x with items := [], waiting := x.waiting.filter fun w => match w.2 with | some (.command _ _) => true | _ => false }).count (ctrQueue q 2) n
  let s := s.each (s.coresOf d) fun n t => t.modCore n fun c => { c with held := [] }
  s.each (s.ringsOf d) fun (r, e) t =>
    let fs := (t.ring r).staged
    let t := t.modRing r fun x => { x with staged := [] }
    let t := t.each fs fun f u => u.deliverData d (reLport e) f
    if reTx e then t.pump d r e else t

/-- Announce the RX rings of a district to their writers (R229). -/
def State.announceRings (s : State) (d : Nat) : State :=
  s.each (s.ringsOf d) fun (r, e) t =>
    if reTx e then t else t.sendCtl d (reLport e) 5 (t.common d false ++ leBytes 2 r ++ leBytes 1 (reLog2 e))

end Sys2Proof.Machine
end

