-- ==== Sys2Proof/Machine/Slots.lean ====
section
/-! DEFINITION. Scale slots at a step's end (04 R120 to R126, 13 R377), and the streams of the mirror engine (12 R356 to R364). -/

namespace Sys2Proof.Machine

/-- Slots of a district's NUM_TABLE, ascending. -/
def State.slotsOf (s : State) (d : Nat) : List Nat :=
  (s.entries d 8).foldl (fun l e => let k := fld e 0 0 12
    (l.takeWhile (· < k)) ++ [k] ++ (l.dropWhile (· < k))) []

/-- The rule of R125: scale exponent from the ring as it stands. -/
def Slot.scaleFor (x : Slot) (ring : List Nat) : Int :=
  if x.rule = 0 then signed 8 x.initScale
  else
    let m := if x.rule = 2 then (ring.getLast?).getD 0 else ring.foldl (fun a v => if fLt a v then v else a) 0
    if (val32 m).isZero then x.scale
    else max (-127) (min 127 ((val32 m).log2 + 1 - (fmtOf x.format).target + x.margin))

/-- Push a maximum, dropping the oldest when the ring is full (R124). -/
def Slot.push (x : Slot) (v : Nat) : List Nat := (if x.ring.length < x.hist then x.ring else x.ring.drop (x.ring.length + 1 - x.hist)) ++ [v]

/-- The slot after the go tick (R124), its former scale and ring kept (R354), counts latched elsewhere. -/
def Slot.next (x : Slot) : Slot :=
  match x.combined with
  | none => x
  | some v =>
    let r := x.push v
    { x with prevScale := x.scale, prevRing := x.ring, ring := r, scale := x.scaleFor r, amax := 0, lastAmax := v, combined := none
             counts := List.replicate 7 0 }

/-- Latch the ledger of a completed step (R377). -/
def State.latchLedger (s : State) (d : Nat) : State :=
  let ks := s.slotsOf d
  let s := s.each ks fun k t =>
    let c := (t.slot k).counts
    let t := (List.range 4).foldl (fun t i => t.setCount (ctrSlot k i) (c.getD i 0)) t
    t.count (ctrSlot k 7) (c.getD 0 0)
  let s := s.each (List.range 36) fun i t =>
    let f := i / 4
    let mine := ks.filter fun k => (if (t.slot k).format = 15 then 8 else (t.slot k).format) == f
    t.setDist d i (sumOf mine fun k => (t.slot k).counts.getD (i % 4) 0)
  s.setDist d 36 (put 0 24 (s.district d).orb.step + put 24 1 1)

/-! ## Records of the mirror engine (R358) -/

def engineDescr (type use dlen gen addr moff count : Nat) : List Byte :=
  leBytes 64 (put 0 8 type + put 8 4 use + put 32 21 dlen + put 64 24 gen + put 128 48 addr + put 192 28 moff + put 224 32 count)

/-- An entry of a SLOT record: state for GEN and for the generation before. -/
def slotEntry (k : Nat) (sc scB : Int) (ring ringB : List Nat) : List Byte :=
  let body (r : List Nat) : List Byte := r.flatMap (leBytes 4) ++ List.replicate (256 - 4 * r.length) 0#8
  leBytes 8 (put 0 12 k + put 16 8 (unsigned 8 sc) + put 24 8 (unsigned 8 scB) + put 32 8 ring.length + put 40 8 ringB.length)
    ++ body ring ++ body ringB ++ List.replicate 8 0#8

/-- SLOT records of a stream: at most 1,984 entries each, at MOFF 0, 1 and 2; data padded to a multiple of 64. -/
def slotRecords (gen : Nat) (entries : List (List Byte)) : List (List Byte) :=
  (List.range (ceilDiv entries.length 1984)).map fun i =>
    let es := (entries.drop (1984 * i)).take 1984
    let data := es.flatMap id
    let dlen := ceilDiv data.length 64 * 64
    engineDescr 1 0 dlen gen 0 i es.length ++ data ++ List.replicate (dlen - data.length) 0#8

/-- Postmark of an engine record. -/
def State.enginePostmark (s : State) (d : Nat) : Nat := put 0 24 (s.district d).orb.step + put 42 22 4194303

/-- Give a record to the engine's TX ring: head bytes, then `dlen` bytes of memory from `addr`. -/
def State.giveEngine (s : State) (d r : Nat) (head : List Byte) (addr dlen : Nat) : State :=
  match s.ringOwner r with
  | none => s
  | some (_, e) =>
    let s := s.modMir d fun m => { m with left := m.left + 1, given := m.given + 1 }
    s.giveMessage d r e (.engine d) (s.enginePostmark d) (head.length + dlen) 0 head addr true

/-- Pages of the regions of one USE, ascending; `frozen` includes frozen ones. -/
def State.pagesOf (s : State) (d use : Nat) (frozen : Bool) : List Nat :=
  let rs := (s.regions d).filter fun r => r.use == use && (frozen || !r.frozen)
  let rs := rs.foldl (fun acc r => (acc.takeWhile fun x => x.base < r.base) ++ [r] ++ (acc.dropWhile fun x => x.base < r.base)) []
  rs.flatMap fun r => (List.range (r.size / MiB)).map fun i => r.base + i * MiB

/-- Unique state of a district: use and page, in the order of the stream (R356, R357). -/
def State.uniqueState (s : State) (d : Nat) : List (Nat × Nat) :=
  let all := (s.district d).num.dpReplicas == 1
  (if all then (s.pagesOf d 1 false).map (1, ·) ++ (s.pagesOf d 2 false).map (2, ·) else []) ++ (s.pagesOf d 3 false).map (3, ·)

/-- SLOT records of what the go tick will produce, sent before BAR_UP (R357). -/
def State.sendSlots (s : State) (d : Nat) : State :=
  let entries := (s.slotsOf d).map fun k =>
    let x := s.slot k
    let y := x.next
    slotEntry k y.scale x.scale y.ring x.ring
  let s := s.modMir d fun m => { m with left := 0, given := 0 }
  let recs := slotRecords (stepAfter (s.district d).orb.step) entries
  let s := s.modMir d fun m => { m with slotsNext := recs.length }
  s.each recs fun bs t => t.giveEngine d (s.district d).mir.txRing bs 0 0

/-- The stream begins at a go or restart tick: one STATE record a page (R357, R360). The SLOT records that the barrier before
the step has sent are part of the stream (R357), so END counts them. -/
def State.startMirror (s : State) (d : Nat) (go : Bool) : State :=
  if !(s.district d).mir.send then s
  else
    let gen := (s.district d).orb.step
    let s := s.modMir d fun m =>
      let n := if go then m.slotsNext else m.slotsSent
      { m with stat := 1, pages := 0, dwDue := true, left := 0, given := n, slotsSent := n }
    s.each (s.uniqueState d).zipIdx fun ((use, a), i) t => t.giveEngine d (s.district d).mir.txRing (engineDescr 2 use MiB gen a (3 + i) 0) a MiB

/-- From the first EXCHANGE orbit: the snapshot's DW records, and END (R357). -/
def State.mirrorDw (s : State) (d : Nat) : State :=
  let m := (s.district d).mir
  if !m.send || !m.dwDue then s
  else
    let gen := (s.district d).orb.step
    let n := (s.uniqueState d).length
    let s := s.modMir d fun m => { m with stat := 2, dwDue := false }
    let s := s.each (List.range m.dwSize) fun j t =>
      t.giveEngine d m.txRing (engineDescr 3 0 MiB gen ((m.dwBase + j) * MiB) (3 + n + j) 0) ((m.dwBase + j) * MiB) MiB
    s.giveEngine d m.txRing (engineDescr 4 0 0 gen 0 0 ((s.district d).mir.given)) 0 0

/-- No stream is in progress: every record is sent and END released (R357). -/
def State.mirrorDone (s : State) (d : Nat) : Bool :=
  !(s.district d).mir.send || ((s.district d).mir.stat != 1 && (s.district d).mir.stat != 2)

/-- An absorbed overrun is reported (R46): cause, core, orbit. -/
def State.absorbed (s : State) (d cause core orbit : Nat) : State :=
  (s.modOrb d fun o => { o with ovNotice := true, ovCause := cause, ovCore := core, ovOrbit := orbit % 2 ^ 32 }).notice 0x13 (some d) core (orbitInfo cause orbit)

/-- Credits show how far the buddy has released: the slot records, or END (R357). -/
def State.mirrorCredit (s : State) (d r : Nat) : State :=
  let m := (s.district d).mir
  let x := s.ring r
  if !m.send || m.txRing ≠ r || x.wp ≠ x.rp || m.left ≠ 0 || !x.waiting.isEmpty then s
  else if (s.district d).bar.slotWait then s.modBar d fun b => { b with slotWait := false }
  else if m.stat = 2 then
    let s := s.modMir d fun m => { m with stat := 3, statStep := (s.district d).orb.step }
    let late := match s.active d with | none => false | some g => (s.district d).orb.index + 1 == g.stepLen
    if late then s.absorbed d 3 0 (s.orb.number - 1) else s
  else s

/-- A serve starts (R362): 1 STATE, 2 MIRROR. -/
def State.startServe (s : State) (d r what : Nat) : State :=
  let gen := (s.district d).orb.step
  let s := s.modMir d fun m => { m with serving := true, sent := 0, left := 0, given := 0 }
  if what = 1 then
    let entries := (s.slotsOf d).map fun k => let x := s.slot k; slotEntry k x.scale x.prevScale x.ring x.prevRing
    let s := s.each (slotRecords gen entries) fun bs t => t.giveEngine d r bs 0 0
    let s := s.each ((s.pagesOf d 1 true).map (1, ·) ++ (s.pagesOf d 2 true).map (2, ·)) fun (use, a) t =>
      t.giveEngine d r (engineDescr 5 use MiB gen a 0 0) a MiB
    s.giveEngine d r (engineDescr 4 0 0 gen 0 0 (s.district d).mir.given) 0 0
  else
    let m := (s.district d).mir
    let base := m.base * MiB
    let dirAt := base + (m.size - 1) * MiB
    let dirs := (List.range (m.size - 1)).map fun i => (i, s.num (dirAt + 8 * i) 8)
    let valid := dirs.filter fun x => bit x.2 55
    let gen (e : Nat) : Nat := bits e 0 24
    let addr (e : Nat) : Nat := bits e 24 28 * MiB
    let type (e : Nat) : Nat := bits e 52 3
    let s := s.each (valid.filter fun x => type x.2 == 1) fun (i, e) t =>
      let (dlen, count) := (lookupKey i m.heldSlots).getD (MiB, min 1984 ((s.slotsOf d).length - 1984 * i))
      t.giveEngine d r (engineDescr 1 0 dlen (gen e) 0 i count) (base + i * MiB) dlen
    let s := s.each (valid.filter fun x => type x.2 == 2) fun (i, e) t =>
      t.giveEngine d r (engineDescr 5 (bits e 56 4) MiB (gen e) (addr e) 0 0) (base + i * MiB) MiB
    let s := s.each (valid.filter fun x => type x.2 == 3) fun (i, e) t =>
      t.giveEngine d r (engineDescr 3 0 MiB (gen e) (addr e) i 0) (base + i * MiB) MiB
    s.giveEngine d r (engineDescr 4 0 0 (s.district d).orb.step 0 0 (s.district d).mir.given) 0 0

end Sys2Proof.Machine
end

