-- ==== Sys2Proof/Machine/Barrier.lean ====
section
/-! DEFINITION. The step-end barrier, the maxima tree and the restart over the barrier tree (02 R54, R55; 09 R275; 12 R349 to
R352). -/

namespace Sys2Proof.Machine

/-- A tree frame on the wrong port, or beyond the slot count: discarded, counted, logged (R275). -/
def State.badTree (s : State) (p : Nat) (d : Nat) : State := (s.count (ctrPort p 17) 1).notice 0x47 (some d) p 0

/-- Most FP32 values of one maxima frame: 4,096 B of payload, or 1,024 B under minor 0 (R270). -/
def State.maximaPerFrame (s : State) (d l : Nat) : Nat :=
  if (s.members d l).any fun p => (s.port p).state == 6 && (s.port p).minor == 0 then 253 else 1021

/-- Send every slot's value, in as many frames as needed (R275). -/
def State.sendMaxima (s : State) (d l opcode : Nat) (vs : List Nat) : State :=
  let k := s.maximaPerFrame d l
  s.each (List.range (ceilDiv vs.length k)) fun i t =>
    let part := (vs.drop (k * i)).take k
    t.sendCtl d l opcode (t.common d false ++ leBytes 2 (k * i) ++ leBytes 2 part.length ++ part.flatMap (leBytes 4))

/-- The barrier times out (R55); INFO names the go orbit that came late, else the orbit of the decision (R372). -/
def State.timeoutBarrier (s : State) (d orbit : Nat) : State := s.rollbackHold d 0x17 0 (orbitInfo 0 orbit)

/-- G arrives or is set: it is kept unless its tick has come, which times the barrier out (R54, R55). -/
def State.takeGo (s : State) (d g : Nat) : State :=
  if s.orb.run && g ≤ s.orb.number then s.timeoutBarrier d g
  else (s.modBar d fun b => { b with go := some g }).modOrb d fun o => { o with phase := .waitGo }

/-- BAR_UP, or BAR_GO at the root, once AMAX_DOWN and every child's proposal are held (R275). -/
def State.advanceBar (s : State) (d : Nat) : State :=
  let b := (s.district d).bar
  let kids := match s.job d with | none => [] | some j => jobChildren j false
  match b.arrived with
  | none => s
  | some at' =>
    if !b.down || b.sentUp || b.slotWait || !(kids.all fun l => b.props.any (·.1 == l)) then s
    else
      let g := b.props.foldl (fun m x => max m x.2) (at' + s.orb.lead)
      let s := s.modBar d fun b => { b with sentUp := true }
      if s.isRoot d false then
        let s := s.sendDown d 0xB (s.common d false ++ leBytes 8 g) false
        s.takeGo d g
      else (s.sendUp d 0xA (s.common d false ++ leBytes 8 g) false).modOrb d fun o => { o with phase := .waitGo }

/-- The combined maxima are complete: kept for the go tick, forwarded, and the slot records sent to the buddy (R275, R357). -/
def State.holdDown (s : State) (d : Nat) (vs : List Nat) : State :=
  let s := s.each ((s.slotsOf d).zip vs) fun (k, v) t => t.modSlot k fun x => { x with combined := some v }
  let s := match s.job d with
    | none => s
    | some j => s.each (jobChildren j true) fun l t => t.sendMaxima d l 9 vs
  let s := s.modBar d fun b => { b with down := true }
  let s := if (s.district d).mir.send && !(s.slotsOf d).isEmpty then
      (s.modBar d fun b => { b with slotWait := true }).sendSlots d
    else s
  s.advanceBar d

/-- Maxima go up once the module has arrived and every child's are complete (R275). -/
def State.advanceAmax (s : State) (d : Nat) : State :=
  let b := (s.district d).bar
  let ks := s.slotsOf d
  let kids := match s.job d with | none => [] | some j => jobChildren j true
  let got (l : Nat) : List (Nat × Nat) := (lookupKey l b.amaxGot).getD []
  let whole (l : Nat) : Bool := (List.range ks.length).all fun i => (got l).any (·.1 == i)
  if b.arrived.isNone || b.amaxSent || !(kids.all whole) then s
  else
    let vs := ks.zipIdx.map fun (k, i) => kids.foldl (fun m l => let v := (lookupKey i (got l)).getD 0; if fLt m v then v else m) (s.slot k).amax
    let s := s.modBar d fun b => { b with amaxSent := true }
    if s.isRoot d true then s.holdDown d vs
    else match (s.job d).bind (jobParent · true) with
      | none => s
      | some l =>
        let s := s.sendMaxima d l 8 vs
        if ks.isEmpty then s.holdDown d [] else s

/-- Positions and values of a maxima frame. -/
def maximaOf (payload : List Byte) : List (Nat × Nat) :=
  let first := leNat ((payload.drop 8).take 2)
  let n := leNat ((payload.drop 10).take 2)
  (List.range n).map fun i => (first + i, leNat ((payload.drop (12 + 4 * i)).take 4))

def State.onAmaxUp (s : State) (d l p : Nat) (payload : List Byte) : State :=
  let vs := maximaOf payload
  match s.job d with
  | none => s.badTree p d
  | some j =>
    if !(jobChildren j true).contains l || vs.any fun v => decide ((s.slotsOf d).length ≤ v.1) then s.badTree p d
    else
      let s := s.modBar d fun b =>
        { b with amaxGot := insertKey l (vs.foldl (fun t v => insertKey v.1 v.2 t) ((lookupKey l b.amaxGot).getD [])) b.amaxGot }
      s.advanceAmax d

def State.onAmaxDown (s : State) (d l p : Nat) (payload : List Byte) : State :=
  let vs := maximaOf payload
  let n := (s.slotsOf d).length
  match s.job d with
  | none => s.badTree p d
  | some j =>
    if jobParent j true != some l || vs.any fun v => decide (n ≤ v.1) then s.badTree p d
    else if (s.district d).bar.down || !(s.district d).bar.amaxSent then s
    else
      -- the parent's table is gathered under key 24, beside the children's
      let got := vs.foldl (fun t v => insertKey v.1 v.2 t) ((lookupKey 24 (s.district d).bar.amaxGot).getD [])
      let s := s.modBar d fun b => { b with amaxGot := insertKey 24 got b.amaxGot }
      if got.length = n then s.holdDown d (got.map (·.2)) else s

def State.onBarUp (s : State) (d l p : Nat) (orbit : Nat) (restart : Bool) : State :=
  match s.job d with
  | none => s.badTree p d
  | some j =>
    if !(jobChildren j false).contains l then s.badTree p d
    else if restart then
      if s.held d || s.fenced d then s
      else if s.isRoot d false then s.rootRestart d orbit
      else if (s.district d).bar.restartSeen then s
      else
        let s := s.modBar d fun b => { b with restartSeen := true, deadline := match b.deadline with | none => some orbit | some o => some o }
        s.sendUp d 0xA (s.common d true ++ leBytes 8 orbit) false
    else (s.modBar d fun b => { b with props := insertKey l orbit b.props }).advanceBar d

/-- BAR_GO, plain or RESTART (R275, R350 to R352). Ignored in HOLD. -/
def State.onBarGo (s : State) (d l p : Nat) (orbit : Nat) (restart : Bool) : State :=
  match s.job d with
  | none => s.badTree p d
  | some j =>
    if jobParent j false != some l then s.badTree p d
    else if s.held d || s.fenced d || (s.active d).isNone then s
    else if restart then (s.sendDown d 0xB (s.common d true ++ leBytes 8 orbit) false).takeRestart d orbit
    else if (s.district d).bar.rolledBack then s.fence d 0x18 0 (orbitInfo 0 orbit)
    else (s.sendDown d 0xB (s.common d false ++ leBytes 8 orbit) false).takeGo d orbit

/-- JOB_HOLD for the current step (R279). -/
def State.onJobHold (s : State) (d l p step origin cause : Nat) : State :=
  if step ≠ (s.district d).orb.step || s.held d || s.fenced d || (s.active d).isNone then s
  else
    let att := (s.district d).orb.attempt
    let s := s.holdFor d 0x46 p 0
    s.spreadHold d (some l) step att origin cause

end Sys2Proof.Machine
end

