-- ==== Sys2Proof/Machine/Time.lean ====
section
/-! DEFINITION. Time as the model keeps it (15 R412; log entry 37). -/

namespace Sys2Proof.Machine

/-- Time moves by `n` units of 1/5 × 2^−32 ns, so that 6.4 ns is exact (R412). -/
def Clock.advance (c : Clock) (n : Nat) : Clock :=
  { c with up := c.up + n, ns := (c.ns + (c.frac + n) / (5 * 2 ^ 32)) % 2 ^ 64, frac := (c.frac + n) % (5 * 2 ^ 32) }

/-- A cycle with no command: 6.4 ns of the reference, or 40 ns of the always-on oscillator (R412), which stops with the
island (R451). -/
def State.idle (s : State) : State :=
  let n := if !s.pwr.islandOn then 0 else if s.orb.refOk then 2 ^ 37 else 25 * 2 ^ 35
  { s with clk := { s.clk.advance n with ref := s.clk.ref + 1 } }

end Sys2Proof.Machine
end

