-- ==== Sys2Proof/Machine/Links.lean ====
section
/-! DEFINITION. Ports: link flits, arbitration, retry, training, cards and their checks (09 R253 to R260, R266 to R272, R280). -/

namespace Sys2Proof.Machine

/-- A NOTICE of a port (R372). -/
def State.portNotice (s : State) (p code info : Nat) : State := s.notice code (s.portDistrict p) p info

/-! ## Link flits (R253) -/

/-- Does the district that owns a port make it send FENCE (R280, R281)? -/
def State.sendsFence (s : State) (p : Nat) : Bool :=
  s.halted || match s.portDistrict p with
    | none => false
    | some d => s.fenced d || (s.district d).img.portsFence

/-- The link flit that a port sends; `nak` sets NAKV. A halted module sends its flags alone (R280). -/
def State.linkFlit (s : State) (p : Nat) (nak : Bool) : List Byte :=
  let x := s.port p
  let flags := put 0 1 (boolBit (s.sendsFence p)) + put 1 1 (boolBit s.halted) + put 2 1 (boolBit (x.state == 7))
  let more :=
    if s.halted then 0
    else (if x.gotFrame then put 3 1 1 + put 16 12 ((4095 + x.expected) % 4096) else 0) + (if nak then put 4 1 1 + put 32 12 x.expected else 0)
      + sumOf x.freed.zipIdx fun (v, i) => put (64 + 16 * i) 16 v
  let body := leBytes 60 (flags + more)
  body ++ leBytes 4 (crc32 body)

def State.sendFlit (s : State) (p : Nat) (nak : Bool) : State := s.emit (.flit p (linkSlot (s.linkFlit p nak)))

/-! ## Sending (R254, R256 to R260) -/

/-- Flits of a receiver's pool (R257). -/
def poolSize (cls : Nat) : Nat := if cls = 5 then 8192 else 3072

/-- Has the peer's pool room for the frame (R257)? -/
def Port.hasCredit (x : Port) (f : TxFrame) : Bool :=
  decide (f.flits + gap 16 (x.spent.getD f.cls 0) (x.peerFreed.getD f.cls 0) ≤ poolSize f.cls)

def framesFlits (fs : List TxFrame) : Nat := sumOf fs TxFrame.flits

/-- May a port send a new frame (R254)? -/
def Port.replayRoom (x : Port) : Bool := decide (gap 12 x.next x.base < 2048) && decide (framesFlits (x.replay.map (·.2)) < 8192)

/-- Is a frame a management frame (R273)? -/
def mgmtFrame (h : Nat) : Bool := hdrType h == 2 && (hdrOpcode h == 1 || hdrOpcode h == 2 || hdrOpcode h == 3 || hdrOpcode h == 0xD)

/-- What a port's state carries (R266, R268, R271). -/
def Port.carries (x : Port) (h : Nat) : Bool :=
  match x.state with
  | 4 => mgmtFrame h && hdrOpcode h != 0xD
  | 5 => mgmtFrame h
  | 6 => true
  | 7 => mgmtFrame h
  | 8 => hdrType h == 2 && hdrOpcode h == 1
  | _ => false

/-- ACTIVE member of a logical port with the fewest flits queued, the lowest port on a tie (R260). -/
def State.bestMember (s : State) (d l : Nat) : Option Nat :=
  let ps := (s.members d l).filter fun p => (s.port p).state == 6
  ps.foldl (fun b p => match b with
    | none => some p
    | some q => if framesFlits (s.port p).queue < framesFlits (s.port q).queue then some p else some q) none

/-- Frames of a class that members hold unacknowledged. -/
def State.unacked (s : State) (d l cls : Nat) : Nat :=
  sumOf (s.members d l) fun p => ((s.port p).replay.filter fun f => f.2.cls == cls).length + ((s.port p).queue.filter fun f => f.cls == cls).length

/-- Place the next frame of a class of a logical port on a member; it has its turn in the order of placing (R260; log entry
33). -/
def State.placeFrame (s : State) (p d l arb : Nat) : State :=
  if (s.port p).queue.any (·.arb == arb) then s
  else
    match (s.lane (laneKey d l arb)).queue, s.bestMember d l with
    | f :: rest, some q =>
      let transit := s.foreignTo q (hdrTag f.hdr)
      let cls := if transit then 5 else hdrVc f.hdr
      if 1024 ≤ s.unacked d l cls then s
      else
        let n := (s.lane (laneKey d l cls)).placed
        let h := setFld f.hdr 1 5 1 (boolBit transit)
        let s := s.modLane (laneKey d l arb) fun x => { x with queue := rest }
        let s := s.modLane (laneKey d l cls) fun x => { x with placed := n + 1 }
        s.modPort q fun x => { x with queue := x.queue ++ [{ f with cls := cls, hdr := h, turn := some (d, l, n) }] }
    | _, _ => s

/-- Is it a frame's turn: has every frame of its logical port and class that was placed before it left (R260)? -/
def State.itsTurn (s : State) (f : TxFrame) : Bool :=
  match f.turn with
  | none => true
  | some (d, l, n) => (List.range 24).all fun q => (s.port q).queue.all fun g => match g.turn with
    | none => true
    | some (d', l', m) => !(d' == d && l' == l && g.cls == f.cls && decide (m < n))

/-- The frame as it leaves, with its BSEQ (R260) and, in a PING, the reference-cycle count at sending (R272). -/
def State.asSent (s : State) (f : TxFrame) : TxFrame :=
  let f := if hdrType f.hdr = 2 && hdrOpcode f.hdr = 2 then { f with payload := leBytes 8 s.clk.ref } else f
  match f.turn with
  | none => f
  | some (d, l, _) => { f with hdr := setFld f.hdr 4 0 16 (s.lane (laneKey d l f.cls)).next, turn := none }

/-- The class of a frame that leaves moves to its next BSEQ. -/
def State.nextBseq (s : State) (f : TxFrame) : State :=
  match f.turn with
  | none => s
  | some (d, l, _) => s.modLane (laneKey d l f.cls) fun x => { x with next := (x.next + 1) % 2 ^ 16 }

/-- Send one frame: it enters the replay buffer under the next FSEQ (R254). -/
def State.transmit (s : State) (p : Nat) (f : TxFrame) : State :=
  let g := s.asSent f
  let (h, body) := g.image (s.port p).next
  let n := f.flits
  let s := s.nextBseq f
  let s := s.modPort p fun x =>
    { x with queue := x.queue.erase f, replay := x.replay ++ [(x.next, { g with who := none })], next := (x.next + 1) % 4096
             spent := x.spent.modify f.cls fun v => (v + n) % 2 ^ 16, lastCtl := f.arb == 4
             transitNow := x.transitNow || f.arb == 5 }
  let s := (s.count (ctrPort p 0) 1).count (ctrPort p 2) n
  let s := if f.arb = 5 then s.count (ctrPort p 13) n else s
  let s := match f.src with
    | none => s
    | some (q, cls, m) => s.freeFlits q cls m
  (s.frameLeft f).emit (.frame p (frameSlots h body))

/-- One visit of the deficit round robin (R258): the frame it would send, and the port with its pointer moved there. -/
def drrGo (ready : Nat → Option TxFrame) (weight : Nat → Nat) : Nat → Port → Port × Option TxFrame
  | 0, x => (x, none)
  | k + 1, x =>
    let c := x.drrAt
    match ready c with
    | none => drrGo ready weight k { x with drrAt := (c + 1) % 4, drrOn := false, deficit := x.deficit.set c 0 }
    | some f =>
      let x := if x.drrOn then x else { x with drrOn := true, deficit := x.deficit.modify c (· + weight c * 65) }
      if f.flits ≤ x.deficit.getD c 0 then (x, some f) else drrGo ready weight k { x with drrAt := (c + 1) % 4, drrOn := false }

/-- What a port sends at a frame boundary (R258). -/
def State.arbitrate (s : State) (p : Nat) : State :=
  let x := s.port p
  if s.halted || !x.replayRoom then s.sendFlit p false
  else if x.state ≠ 6 then
    match x.queue.find? fun f => x.carries f.hdr && x.hasCredit f with
    | some f => s.transmit p f
    | none => s.sendFlit p false
  else
    let entry := s.portEntry p
    let s := match entry with
      | none => s
      | some (d, e) => s.each (List.range 6) fun c t => t.placeFrame p d (peLport e) c
    let x := s.port p
    let first (c : Nat) : Option TxFrame := (x.queue.find? (·.arb == c)).bind fun f => if x.hasCredit f && s.itsTurn f then some f else none
    let weights := match entry with
      | none => 0
      | some (d, e) => fld (((s.active d).bind (·.lportEntry (peLport e))).getD 0) 4 0 16
    let (y, res) := drrGo first (fun c => bits weights (4 * c) 4) 6 x
    let tr := first 5
    let other := res.isSome || tr.isSome
    let share : Int := match entry with | none => 8 | some (_, e) => (peShare e : Int)
    let clamp (v : Int) : Int := max (-4160) (min 4160 v)
    match (first 4).filter fun _ => !(x.lastCtl && other) with
    | some f => s.transmit p f
    | none =>
      -- the round robin moves only now
      let s := s.modPort p fun _ => y
      let sendRes (f : TxFrame) (t : State) : State :=
        (t.modPort p fun z => { z with deficit := z.deficit.modify z.drrAt (· - f.flits) }).transmit p f
      match res, tr with
      | some r, some t =>
        if 0 ≤ y.dt then (s.modPort p fun z => { z with dt := clamp (z.dt - t.flits * (64 - share)) }).transmit p t
        else sendRes r (s.modPort p fun z => { z with dt := clamp (z.dt + r.flits * share) })
      | some r, none => sendRes r s
      | none, some t => s.transmit p t
      | none, none => s.sendFlit p false

def execFrameArbitrate (port : Fin 24) (s : State) : Host.Outcome State Fault Refusal :=
  .next (if 4 ≤ (s.port port).state && (s.port port).state ≤ 8 then s.arbitrate port else s)

/-! ## Planned lane swaps (12 R368) -/

/-- A message to the peer's Moon about a lane: 0 proposes its swap, 1 reports SELECTED, 2 agrees (log entry 39). -/
def State.laneMessage (s : State) (p kind lane : Nat) : State := s.portCtl p 0xD (leBytes 2 (0x100 * kind + lane))

/-- Have the Moons agreed on a swap that is not over? A proposal without an answer is made again. -/
def Port.swapping (x : Port) : Bool := x.swapRx.isSome || match x.swapTx with
  | none => false
  | some (.proposed _) => false
  | _ => true

/-- SELECTED has arrived: lane i stops carrying data and becomes the spare. -/
def State.laneSelected (s : State) (p : Nat) : State :=
  match (s.port p).swapTx with
  | some (.bridged _) => s.modPort p fun x => { x with swapTx := none }
  | _ => s

/-- A lane swap is abandoned: the bridge ends, and the tables keep the old map. -/
def State.dropLaneSwap (s : State) (p : Nat) : State :=
  (s.modPort p fun x => { x with swapTx := none, swapRx := none }).saveTables.portNotice p 0x48 0

/-! ## Training states (R255, R266) -/

/-- May tensor ports train: after stage 4 of start-up (15 R420), with their rails on, and not in DROWSE (15 R409)? -/
def State.mayTrain (s : State) : Bool :=
  s.powered && decide (5 ≤ s.pwr.stage) && s.pwr.state != .drowse

/-- Full training begins: the link's sequences and pools start anew (log entry 38). -/
def State.startTraining (s : State) (p : Nat) : State :=
  s.modPort p fun x =>
    { x with state := 1, dcause := 0, qcause := 0, cardSeen := false, cardHeld := false, echoes := 0, acked := 0, base := 0, next := 0, replay := []
             gotFrame := false, expected := 0, nakSent := false, resends := 0, failedRetrains := 0, freed := List.replicate 6 0
             peerFreed := List.replicate 6 0, spent := List.replicate 6 0 }

/-- The port enters CARD: its card and 16 PINGs (R266, R272). -/
def State.startCards (s : State) (p : Nat) : State :=
  let s := s.modPort p fun x => { x with state := 4, retrying := false, cardSeen := false, echoes := 0, rtt := 0, latValid := false }
  (s.sendCard p).sendPings p

/-- The port enters RETRAIN (R255). -/
def State.enterRetrain (s : State) (p info : Nat) : State :=
  let s := s.modPort p fun x => { x with state := 8, retrainEv := true, resends := 0, qcause := 0, cardSeen := false }
  let s := (s.count (ctrPort p 6) 1).portNotice p 0x41 info
  s.sendCard p

/-- The unacknowledged and queued frames of a port that goes dark move to other members, their BSEQ unchanged (R255, R260). -/
def State.moveFrames (s : State) (p : Nat) : State :=
  let x := s.port p
  let fs := (x.replay.map (·.2) ++ x.queue).filter fun f => !mgmtFrame f.hdr && !(hdrType f.hdr == 2 && hdrOpcode f.hdr == 4)
  let s := s.modPort p fun x => { x with replay := [], queue := [] }
  match s.portEntry p with
  | none => s
  | some (d, e) =>
    let ps := (s.members d (peLport e)).filter fun q => q != p && (s.port q).state != 0 && (s.port q).state != 9
    let ps := match ps.filter fun q => (s.port q).state == 6 with | [] => ps | qs => qs
    s.each fs fun f t =>
      match ps.foldl (fun b q => match b with
          | none => some q
          | some r => if framesFlits (t.port q).queue < framesFlits (t.port r).queue then some q else some r) none with
      | some q => t.modPort q fun y => { y with queue := y.queue ++ [f] }
      | none => match f.src with
        | some (q, cls, m) => t.freeFlits q cls m
        | none => t

/-- The port goes DOWN (R255) or is disabled (R282); `st` is 0 or 9. -/
def State.goDark (s : State) (p st dcause : Nat) : State :=
  let s := s.modPort p fun x => { x with state := st, dcause := dcause, qcause := 0, downEv := x.downEv || st == 0
                                         failedRetrains := 0, latValid := false, retrying := st == 0 && (x.retrying || dcause == 3) }
  let s := if st = 0 then (s.count (ctrPort p 7) 1).portNotice p 0x42 (portInfo dcause 0) else s
  (s.moveFrames p).portLost p 3

/-! ## Cards (R268, R269) -/

/-- Map that names a port for card checks: its district, PORT entry, JOB entry and standbys. While JOIN is 1 it is the loaded
one (R268). -/
def State.cardMap (s : State) (p : Nat) : Option (Nat × Nat × Option Nat × List Nat) :=
  let of (x : Option (Nat × Nat)) (img : Nat → Option Image) : Option (Nat × Nat × Option Nat × List Nat) :=
    x.bind fun (d, e) => (img d).map fun g => (d, e, g.job, (g.entries 9).map fun v => fld v 0 0 64)
  if s.orb.join then of (s.loadedEntry p) fun d => (s.district d).img.loaded else of (s.portEntry p) s.active

/-- First cause of R269 that applies to the card held, or none. -/
def State.cardCause (s : State) (p : Nat) (e : Nat) (job : Option Nat) (spares : List Nat) : Option Nat :=
  let c := leNat (s.port p).cardPeer
  let same := !peForeign e
  let orbit := fld c 28 0 64
  -- the module's own orbit when the card arrived (log entry 115)
  let own := (s.port p).cardOrbit
  let far := decide (orbit + 1 < own) || decide (own + 1 < orbit)
  if !(s.port p).cardHeld then some 1
  else if fld c 12 0 8 ≠ 3 then some 3
  else if fld c 0 0 64 ≠ peSerial e && !spares.contains (fld c 0 0 64) then some 4
  else if fld c 10 0 5 ≠ fld e 5 0 5 then some 5
  else if same && (fld c 11 0 1 == 0 || some (fld c 20 0 32) != job.map (fld · 4 0 32)) then some 6
  else if same && fld c 24 0 16 != fld e 16 0 16 then some 7
  else if same && !s.orb.join && own != 0 && orbit != 0 && far then some 8
  else if (s.port p).peerQuar then some 9
  else none

/-- Both cards of a port, QCAUSE and orbit as a record for the peer's Moon (R404). -/
def KeptCards.bytes (k : KeptCards) : List Byte :=
  (k.mine ++ List.replicate (128 - k.mine.length) 0#8) ++ (k.peer ++ List.replicate (128 - k.peer.length) 0#8)
    ++ leBytes 2 k.port ++ leBytes 6 k.qcause ++ leBytes 8 k.orbit

/-- The port enters QUARANTINE (R269, R271, R404). -/
def State.quarantine (s : State) (p cause : Nat) : State :=
  let x := s.port p
  let peer := if x.cardHeld then x.cardPeer else []
  let k : KeptCards := ⟨p, x.cardLocal, peer, cause, s.orbitNow⟩
  let s := { s with moon := { s.moon with cards := (s.moon.cards.filter fun (y : KeptCards) => y.port != p) ++ [k] } }
  let s := s.modPort p fun x => { x with state := 7, qcause := cause }
  if x.state = 7 then s
  else
    let s := (s.count (ctrPort p 18) 1).portNotice p 0x44 (leNat (peer.take 8))
    (s.portCtl p 0xD k.bytes).portLost p 4

/-- The port becomes ACTIVE (R269, R270): it drops what Moon kept, and sends a JOB_HOLD it owes (R279). A standby's serial is
reported in a NOTICE whose code the spec does not give (log entry 30). -/
def State.activate (s : State) (p d e : Nat) : State :=
  let x := s.port p
  let c := leNat x.cardPeer
  let s := { s with moon := { s.moon with cards := s.moon.cards.filter fun (y : KeptCards) => y.port != p } }
  let s := s.modPort p fun x => { x with state := 6, qcause := 0, accepted := x.cardPeer, major := 3, minor := min 1 (fld c 13 0 8), holdOwed := none }
  let s := if s.orb.join && s.orb.joinPort.isNone && !peForeign e then { s with orb := { s.orb with joinPort := some p } } else s
  let s := if fld c 0 0 64 = peSerial e then s
    else let (k, s) := s.draw; s.eventIn (Config.freeValue k % 256) .notice p (fld c 0 0 64) false d d
  match x.holdOwed with
  | none => s
  | some (step, att, origin, cause) =>
    if s.held d && (s.district d).orb.step == step then
      s.sendCtl d (peLport e) 0xC (common8 step att false ++ leBytes 2 origin ++ leBytes 1 cause)
    else s

/-- The outcome of a card exchange or of a commit's check (R268, R269). -/
def State.settle (s : State) (p : Nat) : State :=
  match s.cardMap p with
  | some (d, e, job, spares) =>
    match s.cardCause p e job spares with
    | some q => s.quarantine p q
    | none => s.activate p d e
  | none =>
    match s.tensorDistrict p with
    | none => s.modPort p fun x => { x with state := 5, qcause := 0 }
    | some d =>
      if (s.active d).isSome then s.quarantine p (if (s.port p).cardHeld then 2 else 1)
      else s.modPort p fun x => { x with state := 5, qcause := 0 }

/-- Trained ports under a changed joining map (R266, R268): while JOIN is 1 those in HELD or ACTIVE are checked against it; without
a join, an ACTIVE port that no active map names is HELD. -/
def State.joinPorts (s : State) : State :=
  s.each (List.range 24) fun p t =>
    let st := (t.port p).state
    if t.orb.join && (st == 5 || st == 6) then t.settle p
    else if st == 6 && (t.portEntry p).isNone then t.modPort p fun x => { x with state := 5, qcause := 0 }
    else t

/-- A card has arrived (R267, R268). -/
def State.takeCard (s : State) (p : Nat) (card : List Byte) : State :=
  if leNat (card.drop 124) ≠ crc32 (card.take 124) then s
  else
    let o := s.orbitNow
    let s := s.modPort p fun x => { x with cardPeer := card, cardOrbit := o, cardHeld := true, cardSeen := true }
    let x := s.port p
    if x.state = 4 then (if x.echoes = 16 then s.settle p else s)
    else if 5 ≤ x.state && x.state ≤ 7 then s.settle p
    else s

/-- An ECHO has arrived (R272). -/
def State.takeEcho (s : State) (p : Nat) (payload : List Byte) (now : Nat) : State :=
  let trip := now - leNat (payload.take 8) - leNat (payload.drop 8)
  let s := s.modPort p fun x =>
    let r := if x.echoes = 0 then trip else min x.rtt trip
    { x with echoes := min 16 (x.echoes + 1), rtt := r % 2 ^ 16, oneway := r / 2 % 2 ^ 16, latValid := x.latValid || x.echoes == 15 }
  let x := s.port p
  if x.state = 4 && x.echoes = 16 && x.cardSeen then s.settle p else s

/-! ## Retry (R254, R255) -/

/-- Is an FSEQ that of a frame sent and not acknowledged? -/
def Port.inFlight (x : Port) (n : Nat) : Bool := decide (gap 12 n x.base < gap 12 x.next x.base)

/-- Unacknowledged frames from FSEQ `n` on take consecutive numbers from there: the frames that a fence took out of the replay
buffer leave no gap (R280; log entry 116). -/
def Port.renumber (x : Port) (n : Nat) : Port :=
  let before (f : Nat × TxFrame) : Bool := decide (gap 12 f.1 x.base < gap 12 n x.base)
  let late := (x.replay.filter fun f => !before f).zipIdx.map fun (f, i) => ((n + i) % 4096, f.2)
  { x with replay := x.replay.filter before ++ late, next := (n + late.length) % 4096 }

/-- Resend unacknowledged frames from an FSEQ, or all; after 16 rounds without progress the port enters RETRAIN. -/
def State.resend (s : State) (p : Nat) (from' : Option Nat) : State :=
  let s := match from' with
    | none => s
    | some n => s.modPort p (·.renumber n)
  let x := s.port p
  let fs := match from' with
    | none => x.replay
    | some n => x.replay.dropWhile fun f => f.1 != n
  if fs.isEmpty then s
  else if 16 ≤ x.resends then s.enterRetrain p 0
  else
    let s := s.modPort p fun x => { x with resends := x.resends + 1, retryEv := true }
    let s := (s.count (ctrPort p 4) fs.length).portNotice p 0x40 0
    s.each fs fun (n, f) t => let (h, b) := f.image n; t.emit (.frame p (frameSlots h b))

def execRetryTimeout (port : Fin 24) (s : State) : Host.Outcome State Fault Refusal :=
  let x := s.port port
  .next (if s.halted || x.state < 4 || 7 < x.state then s else s.resend port none)

def execNakRepeat (port : Fin 24) (s : State) : Host.Outcome State Fault Refusal :=
  let x := s.port port
  .next (if s.halted || x.state < 4 || 7 < x.state || !x.nakSent then s else s.sendFlit port true)

/-- Take the fields of a link flit (R253). -/
def State.takeFlit (s : State) (p : Nat) (v : Nat) : State :=
  let x := s.port p
  let b (i : Nat) : Bool := fld v 0 i 1 == 1
  let ack := fld v 2 0 12
  let nak := fld v 4 0 12
  let acks := b 3 && x.inFlight ack
  let s := s.modPort p fun x =>
    { x with peerFence := b 0, peerHalt := b 1, peerQuar := b 2
             peerFreed := if b 1 then x.peerFreed else (List.range 6).map fun i => fld v (8 + 2 * i) 0 16
             acked := if acks then ack else x.acked
             base := if acks then (ack + 1) % 4096 else x.base
             replay := if acks then x.replay.filter fun f => decide (gap 12 ack x.base < gap 12 f.1 x.base) else x.replay
             resends := if acks then 0 else x.resends }
  let s := if b 4 then
      let s := s.count (ctrPort p 5) 1
      if (s.port p).inFlight nak then s.resend p (some nak) else s
    else s
  let s := if b 1 && !x.peerHalt then s.portLost p 2 else if b 0 && !x.peerFence then s.portLost p 1 else s
  if b 2 && (s.port p).state = 6 then s.quarantine p 9 else s

/-- A link flit whose CRC fails is ignored; a halted module takes none. -/
def execLinkFlit (port : Fin 24) (bytes : List Byte) (s : State) : Host.Outcome State Fault Refusal :=
  let x := s.port port
  .next (
    if s.halted || x.state < 4 || 7 < x.state || bytes.length ≠ 64 || leNat (bytes.drop 60) ≠ crc32 (bytes.take 60) then s
    else s.takeFlit port (leNat bytes))

/-! ## Lanes and training (R248, R249, R255) -/

/-- Does a lane of a port carry light (16 R438): DOWN is taken as without light, and in DROWSE logical lane 0 alone is lit (15
R409)? -/
def State.lit (s : State) (p lane : Nat) : Bool :=
  let x := s.port p
  s.powered && decide (2 ≤ s.pwr.stage) && x.state != 0 && x.state != 9 && (s.pwr.state != .drowse || lane == laneAt x.map 0)

def execLaneLoss (port : Fin 24) (lane : Nat) (s : State) : Host.Outcome State Fault Refusal :=
  let x := s.port port
  .next (
    if x.state < 4 || 7 < x.state then s
    else
      let works := (List.range 4).any fun i => laneAt x.map i == lane
      let s := if works && !x.spareUsed then ((s.modPort port (·.spareFor lane)).count (ctrPort port 19) 1).saveTables else s
      s.enterRetrain port (portInfo 0 lane))

def execRetrainEnd (port : Fin 24) (ok : Bool) (s : State) : Host.Outcome State Fault Refusal :=
  let x := s.port port
  .next (
    if x.state ≠ 8 then s
    else if ok then (s.modPort port fun x => { x with failedRetrains := 0 }).settle port
    else if 2 ≤ x.failedRetrains then s.goDark port 0 3
    else (s.modPort port fun x => { x with failedRetrains := x.failedRetrains + 1 }).enterRetrain port 0)

def execDownTrainingAttempt (port : Fin 24) (s : State) : Host.Outcome State Fault Refusal :=
  .next (if s.mayTrain && (s.port port).state = 0 && (s.port port).retrying then s.startTraining port else s)

def execLinkTrainingPhaseEnd (port : Fin 24) (ok : Bool) (map pol : Nat) (mix : Option Nat) (s : State) : Host.Outcome State Fault Refusal :=
  let x := s.port port
  .next (
    if !s.mayTrain then s
    else match x.state with
    | 0 => if ok && !x.retrying then s.startTraining port else s
    | 1 => if ok then s.modPort port fun x => { x with state := 2 } else s.goDark port 0 1
    | 2 =>
      match mix with
      | some lane => (s.modPort port fun x => { x with dcause := 2 }).portNotice port 0x43 (portInfo 2 lane)
      | none =>
        if ok then s.modPort port fun x => { x with state := 3, dcause := 0, map := map % 2 ^ 15, pol := pol % 32 }
        else s.goDark port 0 1
    | 3 => if ok then s.startCards port else s.goDark port 0 1
    | _ => s)

/-- Without a card 10 ms after CARD begins, it counts as no card (R266). -/
def execCardTimeout (port : Fin 24) (s : State) : Host.Outcome State Fault Refusal :=
  .next (if (s.port port).state = 4 && !(s.port port).cardSeen then s.settle port else s)

end Sys2Proof.Machine
end

