-- ==== Sys2Proof/Machine/Receive.lean ====
section
/-! DEFINITION. Frames that arrive (09 R252, R254, R256, R259 to R263, R273 to R279): acceptance, order, routes, and the CTL
frames. -/

namespace Sys2Proof.Machine

/-- Why a frame is bad (R252): TYPE, VC, LEN, slots, or CRC. -/
def frameBad (f : Frame) : Bool :=
  let h := leNat (f.bytes.take 32)
  let len := hdrLen h
  let n := flitsOf len
  let vcOk := (hdrType h == 1 && decide (hdrVc h < 4)) || (hdrType h == 2 && hdrVc h == 4)
  !vcOk || decide (4096 < len) || f.bytes.length != 64 * n || f.kinds != 0 :: List.replicate (n - 1) 1
    || fld h 28 0 32 != frameCrc (h % 2 ^ 224) ((f.bytes.drop 32).take len)

/-- RESTART of a tree frame (R349). -/
def isRestart (payload : List Byte) : Bool := bit (leNat (payload.take 8)) 40

/-- Row of the table that a good frame belongs to: 0 DATA or an opcode that R273 does not list, else the opcode; RESTART tree
frames are 0x1A and 0x1B. -/
def frameRow (h : Nat) (payload : List Byte) : Nat :=
  let op := hdrOpcode h
  if hdrType h = 1 then 0
  else if (op = 0xA || op = 0xB) && isRestart payload then 16 + op
  else if 1 ≤ op && op ≤ 0xD then op
  else 0

/-- Payload length of an opcode (R273). -/
def ctlLength (op : Nat) (payload : List Byte) : Bool :=
  let n := payload.length
  match op with
  | 1 => n == 128
  | 2 => n == 8
  | 3 => n == 16
  | 4 => n == 21
  | 5 => n == 11
  | 6 => n == 14
  | 7 => n == 14
  | 8 => decide (12 ≤ n) && n == 12 + 4 * leNat ((payload.drop 10).take 2)
  | 9 => decide (12 ≤ n) && n == 12 + 4 * leNat ((payload.drop 10).take 2)
  | 0xA => n == 16
  | 0xB => n == 16
  | 0xC => n == 11
  | 0xD => true
  | _ => false

/-! ## Acceptance (R254) -/

/-- A frame that is bad or out of sequence is discarded; the first one after an accepted frame is answered with a NAK. -/
def State.refuseFrame (s : State) (p : Nat) : State :=
  if (s.port p).nakSent then s else (s.modPort p fun x => { x with nakSent := true }).sendFlit p true

/-- Accept a frame in sequence; none when it is not accepted, or is a frame of another row. The header comes with its CRC
field zero. -/
def State.accept (s : State) (p : Nat) (f : Frame) (row : Nat) : State × Option (Nat × List Byte) :=
  let x := s.port p
  let h := leNat (f.bytes.take 32)
  let payload := (f.bytes.drop 32).take (hdrLen h)
  if s.halted || x.state < 4 || 8 < x.state then (s, none)
  else if frameBad f then ((s.count (ctrPort p 15) 1).refuseFrame p, none)
  else if frameRow h payload ≠ row then (s, none)
  else if hdrFseq h ≠ x.expected then (s.refuseFrame p, none)
  else
    let s := s.modPort p fun x => { x with gotFrame := true, expected := (x.expected + 1) % 4096, nakSent := false }
    let s := ((s.count (ctrPort p 1) 1).count (ctrPort p 3) (flitsOf payload.length)).sendFlit p false
    if x.carries h then (s, some (h % 2 ^ 224, payload))
    else (s.freeFlits p (if hdrTclass h then 5 else hdrVc h) (flitsOf payload.length), none)

/-! ## CTL frames for the district -/

/-- TX ring of a logical port whose PEER is an index (R229). -/
def State.txRing (s : State) (d l idx : Nat) : Option (Nat × Nat) :=
  (s.ringsOf d).find? fun (_, e) => reTx e && reLport e == l && rePeer e == idx

/-- ANNOUNCE (R229, R278): the ring starts as at an attempt (R236), under the district's attempt (log entry 27). -/
def State.onAnnounce (s : State) (d l : Nat) (payload : List Byte) : State :=
  match s.txRing d l (leNat ((payload.drop 8).take 2)) with
  | none => s
  | some (r, e) =>
    if leNat ((payload.drop 10).take 1) ≠ reLog2 e then
      (s.modRing r fun x => { x with state := 3 }).memFault d 0x24 2 r 0
    else if (s.ring r).state = 1 then s
    else
      (s.modRing r fun x => { x with state := 1, wp := 0, rp := 0, msgno := 0, attempt := (s.district d).orb.attempt, waited := false }).pump d r e

/-- CREDIT (R235, R273): the newest rp in ring order. -/
def State.onCredit (s : State) (d l attempt : Nat) (payload : List Byte) : State :=
  match s.txRing d l (leNat ((payload.drop 8).take 2)) with
  | none => s
  | some (r, e) =>
    let x := s.ring r
    let rp := leNat ((payload.drop 10).take 4)
    let ahead := gap 32 rp x.rp
    if x.state ≠ 1 || x.attempt ≠ attempt || 2 ^ 31 ≤ ahead || gap 32 x.wp x.rp < ahead then s
    else (((s.modRing r fun x => { x with rp := rp }).pump d r e).mirrorCredit d r).advanceBar d

/-- NACK_DEAD (R278). -/
def State.onNackDead (s : State) (d l attempt : Nat) (payload : List Byte) : State :=
  match s.txRing d l (leNat ((payload.drop 8).take 2)) with
  | none => s
  | some (r, _) => if (s.ring r).attempt ≠ attempt then s else (s.count (ctrRing r 6) 1).killRing d r

/-- A CTL frame that is no management frame, for the district (R273). -/
def State.onCtl (s : State) (d l p h : Nat) (payload : List Byte) : State :=
  let op := hdrOpcode h
  let c := leNat (payload.take 8)
  let step := bits c 0 24
  let att := bits c 24 16
  let o := (s.district d).orb
  let now := step == o.step && att == o.attempt
  if !(ctlLength op payload) then (s.count (ctrPort p 17) 1).portNotice p 0x47 0
  else
    let orbit := leNat (payload.drop 8)
    match op with
    | 5 => s.onAnnounce d l payload
    | 6 => s.onCredit d l att payload
    | 7 => s.onNackDead d l att payload
    | 8 => if now then s.onAmaxUp d l p payload else s
    | 9 => if now then s.onAmaxDown d l p payload else s
    | 0xA => if now then s.onBarUp d l p orbit (isRestart payload) else s
    | 0xB => if now then s.onBarGo d l p orbit (isRestart payload) else s
    | 0xC => s.onJobHold d l p step (leNat ((payload.drop 8).take 2)) (leNat ((payload.drop 10).take 1))
    | _ => s

/-! ## Routes (R256, R259, R262, R263) -/

/-- Discard a frame without a route: counted and reported. -/
def State.noRoute (s : State) (f : RxFrame) : State :=
  ((s.discardAt f.port).freeFlits f.port f.cls f.flits).portNotice f.port 0x47 0

/-- Direction of a relayed frame at a module of coordinates `c` (R262). -/
def relayDir (job c dest : Nat) : Option Nat :=
  let o := fld job 8 0 16
  (List.range 3).findSome? fun a =>
    let rs := relative c o a
    let rd := relative dest o a
    if rs = rd then none
    else
      let n := extentOf job a
      some (2 * a + if (rd + n - rs) % n ≤ n / 2 then 0 else 1)

/-- Pass a frame on over a logical port: its credits and BSEQ are given when it is placed. -/
def State.passOn (s : State) (d l arb : Nat) (f : RxFrame) : State :=
  let g : TxFrame := { arb := arb, cls := f.cls, hdr := f.hdr, payload := f.payload, src := some (f.port, f.cls, f.flits) }
  s.modLane (laneKey d l arb) fun x => { x with queue := x.queue ++ [g] }

/-- Route one frame in its order (R262). `e` is the PORT entry of its arrival port. -/
def State.route (s : State) (d e : Nat) (f : RxFrame) : State :=
  let tag := hdrTag f.hdr
  let job := s.job d
  let transit := match job with | none => true | some j => tag != fld j 4 0 32
  if transit ≠ hdrTclass f.hdr then s.noRoute f
  else if transit then
    let s := s.count (ctrPort f.port 14) f.flits
    match s.facing d (opposite (peDir e)) false with
    | none => s.noRoute f
    | some l =>
      let share := match (s.members d l).head?.bind s.portEntry with | some (_, x) => peShare x | none => 0
      if share = 0 then s.noRoute f else s.passOn d l 5 f
  else if hdrDest f.hdr = s.coord d then
    if s.fenced d then (s.discardAt f.port).freeFlits f.port f.cls f.flits
    else if hdrType f.hdr = 1 then s.deliverData d (peLport e) f
    else (s.freeFlits f.port f.cls f.flits).onCtl d (peLport e) f.port f.hdr f.payload
  else
    match (job.bind fun j => relayDir j (s.coord d) (hdrDest f.hdr)).bind fun dir => s.facing d dir true with
    | none => s.noRoute f
    | some l => s.passOn d l (hdrVc f.hdr) f

/-- Deliver what a class of a logical port holds in BSEQ order (R260). -/
def State.drain (d e k : Nat) : Nat → State → State
  | 0, s => s
  | n + 1, s =>
    let x := s.lane k
    match x.store.find? fun y => y.1 == x.expected with
    | none => s
    | some (b, f) =>
      let s := s.modLane k fun x => { x with expected := (x.expected + 1) % 2 ^ 16, store := x.store.filter (·.1 != b) }
      State.drain d e k n (s.route d e f)

/-- A frame accepted on a port, in its class (R260, R262). -/
def State.classed (s : State) (p h : Nat) (payload : List Byte) : State :=
  let cls := if hdrTclass h then 5 else hdrVc h
  let f : RxFrame := ⟨p, cls, flitsOf payload.length, h, payload⟩
  match s.portEntry p with
  | none => s.noRoute f
  | some (d, e) =>
    let k := laneKey d (peLport e) cls
    let x := s.lane k
    let b := hdrBseq h
    let ahead := gap 16 b x.expected
    if 2 ^ 15 ≤ ahead || x.store.any (·.1 == b) then s.freeFlits p cls f.flits
    else
      let s := s.modLane k fun x => { x with store := x.store ++ [(b, f)] }
      State.drain d e k (x.store.length + 1) s

/-- A frame that is routed: accepted, put in order, delivered. -/
def State.receive (s : State) (p : Nat) (f : Frame) (row : Nat) : State :=
  match s.accept p f row with
  | (s, none) => s
  | (s, some (h, payload)) => s.classed p h payload

/-- Does the TCLASS of a port's own frame disagree with the job tag under which the port stands (R256)? The frames of a card exchange
may precede the acceptance of this module's card (log entry 111). -/
def State.wrongClass (s : State) (p h : Nat) : Bool :=
  (s.port p).state == 6 && decide (3 < hdrOpcode h) && hdrTclass h != (hdrTag h != tagOf (s.portJob p))

/-- A frame that belongs to one port: its room is free at once (log entry 25). -/
def State.receivePort (s : State) (p : Nat) (f : Frame) (row : Nat) (act : List Byte → State → State) : State :=
  match s.accept p f row with
  | (s, none) => s
  | (s, some (h, payload)) =>
    let s := s.freeFlits p (if hdrTclass h then 5 else 4) (flitsOf payload.length)
    if s.wrongClass p h then (s.discardAt p).portNotice p 0x47 0
    else if ctlLength (hdrOpcode h) payload then act payload s
    else (s.count (ctrPort p 17) 1).portNotice p 0x47 0

/-! ## Beacons (R36, R274) -/

/-- The beacon that every ACTIVE SAME port sends 8 reference cycles after a tick; it carries the phase code of ORB_STEP. -/
def State.sendBeacons (s : State) : State :=
  s.each (List.range 24) fun p t =>
    match t.liveEntry p with
    | none => t
    | some (d, e) =>
      if (t.port p).state = 6 && !peForeign e && !t.halted then
        t.portCtl p 4 (t.common d false ++ leBytes 8 t.orb.number ++ leBytes 4 t.orb.period ++ leBytes 1 (t.district d).orb.phase.code)
      else t

/-- Is a port the one whose beacon a join takes: the first whose peer's card was accepted (R36), while it is ACTIVE (log entry
112)? -/
def State.joinsBy (s : State) (p : Nat) : Bool := match s.orb.joinPort with
  | none => true
  | some q => q == p || (s.port q).state != 6

/-- A beacon on an ACTIVE SAME port: a pending join takes its tick from it (log entry 36), else its orbit is compared. -/
def State.onBeacon (s : State) (p now : Nat) (payload : List Byte) : State :=
  let orbit := leNat ((payload.drop 8).take 8)
  let period := leNat ((payload.drop 16).take 4)
  match if s.orb.join then s.loadedEntry p else s.liveEntry p with
  | none => s
  | some (_, e) =>
    if (s.port p).state ≠ 6 || peForeign e then s
    else if s.orb.join then
      if s.orb.plan.isSome || !(s.port p).latValid || !s.joinsBy p then s
      else { s with orb := { s.orb with plan := some ⟨now - 8 - (s.port p).oneway + period, orbit + 1, period⟩ } }
    else if s.orb.run && (decide (orbit + 1 < s.orb.number) || decide (s.orb.number + 1 < orbit)) then s.quarantine p 8
    else s

/-! ## Rows -/

def execDataFrame (port : Fin 24) (f : Frame) (s : State) : Host.Outcome State Fault Refusal := .next (s.receive port f 0)
def execCard (port : Fin 24) (f : Frame) (s : State) : Host.Outcome State Fault Refusal :=
  .next (s.receivePort port f 1 fun b t => t.takeCard port b)
def execPing (port : Fin 24) (f : Frame) (turnaround : Nat) (s : State) : Host.Outcome State Fault Refusal :=
  .next (s.receivePort port f 2 fun b t => t.portCtl port 3 (b ++ leBytes 8 turnaround))
def execEcho (port : Fin 24) (f : Frame) (now : Nat) (s : State) : Host.Outcome State Fault Refusal :=
  .next (s.receivePort port f 3 fun b t => t.takeEcho port b now)
def execBeacon (port : Fin 24) (f : Frame) (now : Nat) (s : State) : Host.Outcome State Fault Refusal :=
  .next (s.receivePort port f 4 fun b t => t.onBeacon port now b)
def execAnnounce (port : Fin 24) (f : Frame) (s : State) : Host.Outcome State Fault Refusal := .next (s.receive port f 5)
def execCredit (port : Fin 24) (f : Frame) (s : State) : Host.Outcome State Fault Refusal := .next (s.receive port f 6)
def execNackDead (port : Fin 24) (f : Frame) (s : State) : Host.Outcome State Fault Refusal := .next (s.receive port f 7)
def execAmaxUp (port : Fin 24) (f : Frame) (s : State) : Host.Outcome State Fault Refusal := .next (s.receive port f 8)
def execAmaxDown (port : Fin 24) (f : Frame) (s : State) : Host.Outcome State Fault Refusal := .next (s.receive port f 9)
def execBarUp (port : Fin 24) (f : Frame) (s : State) : Host.Outcome State Fault Refusal := .next (s.receive port f 0xA)
def execBarGo (port : Fin 24) (f : Frame) (s : State) : Host.Outcome State Fault Refusal := .next (s.receive port f 0xB)
def execRestartBarUp (port : Fin 24) (f : Frame) (s : State) : Host.Outcome State Fault Refusal := .next (s.receive port f 0x1A)
def execRestartBarGo (port : Fin 24) (f : Frame) (s : State) : Host.Outcome State Fault Refusal := .next (s.receive port f 0x1B)
def execJobHold (port : Fin 24) (f : Frame) (s : State) : Host.Outcome State Fault Refusal := .next (s.receive port f 0xC)
/-! ## Messages of the peer's Moon (R368, R399, R404) -/

/-- A peer's Moon proposes a lane swap: this Moon agrees when the port is ACTIVE, its spare is free, and no swap is under way. Of
two proposals that cross, that of the lower lane stands (log entry 39). -/
def State.onProposal (s : State) (p lane : Nat) : State :=
  let x := s.port p
  let free := match x.swapTx with
    | none => true
    | some (.proposed i) => decide (lane ≤ i)
    | _ => false
  if !s.moon.running || x.state ≠ 6 || x.spareUsed || x.swapRx.isSome || !free || 4 ≤ lane then s
  else
    let s := s.modPort p fun x => { x with swapTx := some (.agreed lane), swapRx := some (.agreed lane) }
    s.saveTables.laneMessage p 2 lane

/-- The peer's Moon agrees to this Moon's proposal. -/
def State.onAgreement (s : State) (p lane : Nat) : State :=
  if s.moon.running && (s.port p).swapTx == some (.proposed lane) then
    (s.modPort p fun x => { x with swapTx := some (.agreed lane), swapRx := some (.agreed lane) }).saveTables
  else s

/-- A message of the peer's Moon: one of a lane swap is 2 bytes, lane and kind; any other is kept (R404; log entry 39). -/
def State.onMgmt (s : State) (p : Nat) (b : List Byte) : State :=
  let lane := leNat (b.take 1)
  if b.length = 2 then
    match leNat (b.drop 1) with
    | 0 => s.onProposal p lane
    | 1 => s.laneSelected p
    | 2 => s.onAgreement p lane
    | _ => s
  else { s with moon := { s.moon with mgmt := insertKey p b s.moon.mgmt } }

def execMgmt (port : Fin 24) (f : Frame) (s : State) : Host.Outcome State Fault Refusal :=
  .next (s.receivePort port f 0xD fun b t => t.onMgmt port b)

end Sys2Proof.Machine
end

