-- ==== Sys2Proof/Machine/Images.lean ====
section
/-! DEFINITION. Stage images: their file (10 R283 to R286), loading (R291 to R293), and what a commit makes active (R296 to
R303, 04 R120, R121, 13 R377, 12 R361). -/

namespace Sys2Proof.Machine

/-! ## The file -/

def imgDistrict (h : Nat) : Nat := fld h 6 0 2
def imgDelta (h : Nat) : Bool := fld h 6 2 1 == 1
def imgSigned (h : Nat) : Bool := fld h 6 3 1 == 1

/-- Entry size of a section (R284). -/
def entrySize (kind : Nat) : Nat :=
  match kind with
  | 2 => 24
  | 7 => 384
  | 8 => 16
  | 9 => 16
  | _ => 32

/-- Read core blocks (R285): the blocks, and the bytes left. -/
def readBlocks : Nat → List Byte → Option (List (Nat × List Nat) × List Byte)
  | 0, bs => some ([], bs)
  | n + 1, bs =>
    if bs.length < 32 then none
    else
      let h := leNat (bs.take 32)
      let k := fld h 4 0 13
      let rest := bs.drop 32
      if rest.length < 32 * k then none
      else
        let is := (chunks 32 k rest).map leNat
        match readBlocks n (rest.drop (32 * k)) with
        | none => none
        | some (more, left) => some ((h, is) :: more, left)

/-- Read one section of the framing of R284, after the type `after`: the section, and the bytes left; else the TYPE that
IMG_ERROR names, 0 where the header has none. -/
def readSection (after : Nat) (bs : List Byte) : Except Nat (Section × List Byte) :=
  if bs.length < 64 then .error 0
  else
    let h := leNat (bs.take 64)
    let kind := fld h 0 0 8
    let count := fld h 4 0 32
    let len := fld h 8 0 32
    let bad : Except Nat (Section × List Byte) := .error (if kind ≤ 10 then kind else 0)
    let zeros := fld h 1 0 24 == 0 && fld h 12 0 32 == 0 && (kind == 2 || fld h 16 0 384 == 0)
    if kind ≤ after || 10 < kind || len % 64 ≠ 0 || len < 64 || bs.length < len || !zeros then bad
    else
      let body := (bs.take len).drop 64
      let padOk (used : Nat) : Bool := decide (used ≤ body.length) && decide (body.length < used + 64) && (body.drop used).all (· == 0#8)
      if kind = 1 then
        if body.length < 64 * count / 2 then bad
        else match readBlocks count body with
        | none => bad
        | some (blocks, left) => if padOk (body.length - left.length) then .ok (⟨1, h, [], blocks⟩, bs.drop len) else bad
      else
        let n := entrySize kind
        if padOk (n * count) then .ok (⟨kind, h, (chunks n count body).map leNat, []⟩, bs.drop len) else bad

/-- Read `n` sections in ascending TYPE that end exactly where the image ends (R284). -/
def readSections : Nat → Nat → List Byte → Except Nat (List Section)
  | 0, _, bs => if bs.isEmpty then .ok [] else .error 0
  | n + 1, after, bs =>
    match readSection after bs with
    | .error k => .error k
    | .ok (x, rest) => (readSections n x.kind rest).map (x :: ·)

/-! ## Loading (R292, R293) -/

/-- Findings of a load: its LOAD_RESULT, CHECK and SECTION, or the image. -/
def State.loadFinding (s : State) (d : Nat) (bs : List Byte) : Except (Status × Nat × Nat) Image :=
  let g := (s.district d).img
  let h := leNat (bs.take 256)
  let zeros := fld h 6 4 4 == 0 && fld h 7 0 8 == 0 && fld h 12 4 12 == 0 && fld h 14 0 16 == 0 && fld h 28 0 32 == 0
    && fld h 80 0 128 == 0 && fld h 192 0 512 == 0 && (imgSigned h || (fld h 24 0 32 == 0 && fld h 96 0 768 == 0))
  let nsect := fld h 12 0 4
  let body := bs.drop 256
  let digest := (bs.drop 32).take 48
  if bs.length < 256 || fld h 0 0 32 ≠ 0x3154534B || fld h 4 0 8 ≠ 1 || fld h 5 0 8 ≠ 0 || !zeros then .error (.refusedInvalid, 0x10, 0)
  else if fld h 8 0 32 ≠ bs.length || 10 < nsect || (!imgDelta h && nsect != 10) then .error (.refusedInvalid, 0x11, 0)
  else match readSections nsect 0 body with
    | .error k => .error (.refusedInvalid, 0x11, k)
    | .ok secs =>
      if digest ≠ sha384 body then .error (.refusedInvalid, 0x12, 0)
      else if g.keyed && !(imgSigned h && fld h 24 0 32 == g.keyId
          && ecdsaVerify g.key (sha384 (bs.take 96)) (beNat ((bs.drop 96).take 48)) (beNat ((bs.drop 144).take 48))) then
        .error (.refusedAccess, 0x13, 0)
      else if imgDistrict h ≠ d then .error (.refusedAccess, 0x14, 0)
      else .ok ⟨h, digest, secs⟩

/-- The sections of a loaded image set the shadows of their fields (R305): ORB_PERIOD and ORB_BARRIER, and the TLK words of the
district's ports. -/
def State.loadShadows (s : State) (d : Nat) (g : Image) : State :=
  let has (k : Nat) : Bool := g.sections.any (·.kind == k)
  let s := if has 2 then { s with orb := { s.orb with periodSh := g.period, timeoutSh := g.timeout, leadSh := g.lead } } else s
  if has 5 then
    s.each ((List.range 24).filter fun p => s.portDistrict p == some d) fun p t =>
      t.modPort p fun x => { x with policySh := none, transitSh := none, serialSh := none }
  else s

/-- A load ends (R292): it reads the range that was given when it was accepted. -/
def State.endLoad (s : State) (d : Nat) : State :=
  let g := (s.district d).img
  let failed (st : Status) (check sect : Nat) : State := s.modImg d fun g =>
    { g with shadow := 0, loaded := none, loadResult := st.code, loadedEv := true, errSection := sect, errCheck := check, errEntry := 0, errOffset := 0, loadErr := none }
  if s.halted then failed .halted 0 0
  else if s.fenced d then failed .fenced 0 0
  else match g.loadErr with
    | some st => failed st 0 0
    | none =>
      match s.loadFinding d (s.bytes g.loadBase g.loadLen) with
      | .error (st, check, sect) => failed st check sect
      | .ok img => (s.modImg d fun g => { g with shadow := 2, loaded := some img, loadResult := Status.done.code, loadedEv := true }).loadShadows d img

/-- LOAD_END: the load in progress ends; while JOIN is 1 the ports are checked against the map it loaded (R268). -/
def execLoadEnd (d : Fin 4) (s : State) : Host.Outcome State Fault Refusal :=
  .next (
    if (s.district d).img.shadow ≠ 1 then s
    else
      let s := s.endLoad d
      if s.orb.join then s.joinPorts else s)

/-! ## What a commit makes active -/

/-- LINK_MAP entries after the port's shadow words: TLK_POLICY, TLK_TRANSIT, TLK_PEER_SERIAL (R282, R299, R305). -/
def amendPort (es : List Nat) (p : Nat) (x : Port) : List Nat :=
  let mine (e : Nat) : Bool := fld e 0 0 8 == 1 && fld e 2 0 5 == p
  let old := es.find? mine
  let fields (e : Nat) : Nat := match x.policySh with
    | none => e
    | some v => put 0 8 1 + put 8 2 (bits v 1 2) + put 16 5 p + put 24 5 (bits v 3 5) + put 32 3 (bits v 8 3) + put 35 1 (bits v 11 1)
        + put 40 5 (bits v 12 5) + put 48 6 (fld e 6 0 6) + put 64 64 (fld e 8 0 64) + put 128 16 (bits v 32 16)
  let share (e : Nat) : Nat := match x.transitSh with | none => e | some v => if v ≤ 32 then setFld e 6 0 6 v else e
  let serial (e : Nat) : Nat := match x.serialSh with | none => e | some v => setFld e 8 0 64 v
  let bound := match x.policySh with | none => old.isSome | some v => bit v 0
  let rest := es.filter fun e => !mine e
  let es := if bound then rest ++ [serial (share (fields (old.getD (put 48 6 8))))] else rest
  match x.policySh with
  | none => es
  | some v =>
    let isL (e : Nat) : Bool := fld e 0 0 8 == 2 && fld e 2 0 5 == bits v 3 5
    if !bound then es
    else if es.any isL then es.map fun e => if isL e then setFld e 4 0 16 (bits v 48 16) else e
    else es ++ [put 0 8 2 + put 8 2 (bits v 1 2) + put 16 5 (bits v 3 5) + put 32 16 (bits v 48 16)]

/-- Shadowed registers that a delta's sections do not set take effect on the sections it leaves (R299, R300, R305). -/
def State.amend (s : State) (d : Nat) (delta : Image) (x : Section) : Section :=
  let has (k : Nat) : Bool := delta.sections.any (·.kind == k)
  if x.kind = 2 && !has 2 then
    { x with header := setFld (setFld (setFld x.header 20 0 22 s.orb.periodSh) 28 0 16 s.orb.timeoutSh) 30 0 8 s.orb.leadSh }
  else if x.kind = 5 && !has 5 then
    let ps := (List.range 24).filter fun p => s.portDistrict p == some d
      && ((s.port p).policySh.isSome || (s.port p).transitSh.isSome || (s.port p).serialSh.isSome)
    { x with entries := ps.foldl (fun es p => amendPort es p (s.port p)) x.entries }
  else x

/-- The image that would be active after the commit of the loaded one (R296, R300). -/
def State.resulting (s : State) (d : Nat) : Option Image :=
  match (s.district d).img.loaded with
  | none => none
  | some g =>
    if imgDelta g.header then
      let pick (a : Image) (k : Nat) : Option Section := (g.sections.find? (·.kind == k + 1)).or (a.sections.find? (·.kind == k + 1))
      (s.active d).map fun a => ⟨a.header, a.digest, ((List.range 10).filterMap (pick a)).map (s.amend d g)⟩
    else some g

/-- A slot as it is first brought into use (R120). -/
def Slot.fresh (d e : Nat) : Slot :=
  { valid := true, format := fld e 2 0 4, rule := fld e 2 4 2, margin := fld e 3 0 3, hist := fld e 4 0 7, initScale := fld e 5 0 8
    district := d, scale := signed 8 (fld e 5 0 8), prevScale := signed 8 (fld e 5 0 8) }

/-- A slot whose entry changes but not its FORMAT (R121). -/
def Slot.changed (x : Slot) (e : Nat) : Slot :=
  let hist := fld e 4 0 7
  let y := { x with valid := true, rule := fld e 2 4 2, margin := fld e 3 0 3, hist := hist, initScale := fld e 5 0 8, ring := x.ring.drop (x.ring.length - hist) }
  { y with scale := y.scaleFor y.ring }

/-- One slot at a commit: `olds` are the entries it may keep state from; `restore` keeps only equal ones (R361), with their
counters at zero (R377) and without the running maximum and counts of the attempt that ended (log entry 100). -/
def State.commitSlot (s : State) (d : Nat) (olds : List Nat) (restore : Bool) (e : Nat) : State :=
  let k := fld e 0 0 12
  let fresh := (s.modSlot k fun _ => Slot.fresh d e).each (List.range 8) fun i t => t.setCount (ctrSlot k i) 0
  match olds.find? fun o => fld o 0 0 12 == k with
  | none => fresh
  | some o =>
    if o = e then
      if restore then
        (s.modSlot k fun x => { x with valid := true, amax := 0, combined := none, counts := List.replicate 7 0 }).each (List.range 8) fun i t => t.setCount (ctrSlot k i) 0
      else s.modSlot k fun x => { x with valid := true }
    else if restore || fld o 2 0 4 ≠ fld e 2 0 4 then fresh
    else s.modSlot k fun x => x.changed e

/-- Slots of the committed NUM_TABLE (R120, R121, R361, R377). -/
def State.commitSlots (s : State) (d : Nat) (olds news : List Nat) (restore : Bool) : State :=
  let s := s.each (olds.filter fun o => !(news.any fun e => fld e 0 0 12 == fld o 0 0 12)) fun o t => t.modSlot (fld o 0 0 12) fun _ => {}
  s.each news fun e t => t.commitSlot d olds restore e

/-- A queue or ring of RING_MAP starts anew or is gone; host commands that wait on it complete, as sends on a dead ring do
(R14, R240; log entry 101). -/
def State.clearRingEntry (s : State) (e : Nat) : State :=
  if fld e 0 0 8 = 3 then
    let ws := (s.queue (fld e 2 0 8)).waiting
    (s.modQueue (fld e 2 0 8) fun _ => {}).each ws fun w t => match w.2 with | some (.command k i) => t.finishCmd k i .done 0 | _ => t
  else
    let ws := (s.ring (fld e 2 0 12)).waiting
    (s.modRing (fld e 2 0 12) fun _ => {}).each ws fun m t => match m.who with | .command k i => t.finishCmd k i .done 0 | _ => t

/-- Rings and stage queues of the committed RING_MAP: what is new or changed starts anew, what is gone is gone, and every RX
ring is announced to its writer (R227, R229, R299). -/
def State.commitRings (s : State) (d : Nat) (olds news : List Nat) : State :=
  let gone := olds.filter fun e => !(news.contains e)
  let fresh := news.filter fun e => !(olds.contains e)
  let s := s.each (gone ++ fresh) fun e t => t.clearRingEntry e
  let att := (s.district d).orb.attempt
  let s := s.each (fresh.filter fun e => fld e 0 0 8 != 3) fun e t =>
    t.modRing (fld e 2 0 12) fun x => { x with state := if reTx e then 0 else 1, attempt := att }
  s.announceRings d

/-- Boxes that QUEUE_MAP entries declare. -/
def boxNumbers (es : List Nat) : List Nat := (es.filter fun e => fld e 0 0 8 != 1).map fun e => fld e 2 0 12

/-- A box as a commit of another QUEUE_MAP leaves it: its W1C bits stay (R11). -/
def Box.cleared (x : Box) : Box := { ovf := x.ovf, overs := x.overs }

/-- Boxes and dead-letter ring of the committed QUEUE_MAP (R210, R212, R217). -/
def State.commitBoxes (s : State) (d : Nat) (olds news : List Nat) : State :=
  if olds = news then s.each (boxNumbers news) fun b t => t.modBox b fun x => { x with high := x.items.length, rounds := 0 }
  else
    let s := s.each (boxNumbers olds) fun b t => (t.modBox b Box.cleared).count (ctrBox b 3) 1
    let s := s.each (boxNumbers news) fun b t => t.modBox b fun x => { x.cleared with state := 1 }
    let (base, log2) := match news.find? fun e => fld e 0 0 8 == 1 && fld e 1 0 2 == d with
      | none => (0, 0)
      | some e => (fld e 8 0 48, fld e 16 0 6)
    s.modPbx d fun p =>
      if p.dlrBase = base && p.dlrLog2 = log2 then p else { p with dlrBase := base, dlrLog2 := log2, dlrHead := 0, dlrTail := 0 }

/-- The high-water marks that count from a commit start from what is there (R217, R246). -/
def State.commitHighs (s : State) (d : Nat) : State :=
  let n := s.cells d
  let m := (s.mbInUse d).length
  let s := (s.modPbx d fun p => { p with high := n }).modMemd d fun x => { x with mbHigh := m }
  s.each (s.queuesOf d) fun (q, _) t => t.modQueue q fun x => { x with high := x.items.length }

/-- Shadowed registers of the district, and the values the sections set (R299, R305). -/
def State.commitShadows (s : State) (d : Nat) (g : Image) : State :=
  let s := s.each (s.coresOf d) fun n t => t.modCore n fun c => { c with idleGap := c.idleGapSh, replayMax := c.replayMaxSh }
  let s := s.modNum d fun n => { n with seed := n.seedSh }
  let s := s.modHost d fun h => { h with beBase := h.beBaseSh, beSize := h.beSizeSh }
  let s := s.modFlt d fun f => { f with rlead := f.rleadSh }
  let s := s.modMir d fun m => { m with send := m.sendSh, keep := m.keepSh, txRing := m.txRingSh, base := m.baseSh, size := m.sizeSh, dwBase := m.dwBaseSh, dwSize := m.dwSizeSh }
  { s with orb := { s.orb with period := g.period, periodSh := g.period, timeout := g.timeout, timeoutSh := g.timeout, lead := g.lead, leadSh := g.lead } }

/-- The district's ports at a commit: cards sent again when LINK_MAP changed or a fence ends, and the peers' cards checked; FENCE
clears (R268, R271, R281, R299). -/
def State.commitPorts (s : State) (d : Nat) (olds news : List Nat) (fenced : Bool) : State :=
  let ports (es : List Nat) : List Nat := (es.filter fun e => fld e 0 0 8 == 1).map fun e => fld e 2 0 5
  let mine := (List.range 24).filter fun p => (ports news).contains p || (ports olds).contains p || s.tensorDistrict p == some d
  let s := s.modImg d fun g => { g with portsFence := false }
  let s := s.each mine fun p t => t.modPort p fun x => { x with policySh := none, transitSh := none, serialSh := none }
  let s := if olds ≠ news || fenced then s.each (mine.filter fun p => decide (4 ≤ (s.port p).state) && decide ((s.port p).state ≤ 7)) fun p t => t.sendCard p else s
  s.each (mine.filter fun p => decide (5 ≤ (s.port p).state) && decide ((s.port p).state ≤ 7)) fun p t => t.settle p

/-- Replica index and count of the committed JOB entry (R190). -/
def State.commitJob (s : State) (d : Nat) (g : Image) : State :=
  s.modNum d fun n => match g.job with
    | none => { n with dpReplica := 0, dpReplicas := 0, dpValid := false }
    | some e => { n with dpReplica := fld e 12 0 10, dpReplicas := fld e 14 0 11, dpValid := true }

/-- The first step under a first image, or HOLD for a restore (R299, R361). -/
def State.firstStep (s : State) (d : Nat) (g : Image) : State :=
  let f := (s.district d).flt
  let step := if f.restArm then f.restStep else g.firstStep
  let s := s.modOrb d fun o => { o with step := step, index := 0, phase := g.phaseAt 0, attempt := s.orb.number % 2 ^ 16, rollbacks := 0 }
  let s := s.modBar d fun _ => {}
  let s := s.modMir d fun m => { m with slotsSent := 0, slotsNext := 0 }
  let s := s.modFlt d fun f => { f with gen := step, dirty := [], prevDirty := [], rewindable := false, noted := [], restArm := false, restore := f.restArm, receiving := [], stale := [] }
  if f.restArm then (s.modOrb d fun o => { o with phase := .hold }).countDist d 41 1 else s

/-- A commit takes effect (R299, R307). -/
def State.applyCommit (s : State) (d : Nat) : State :=
  match (s.district d).img.loaded, s.resulting d with
  | some l, some g =>
    let x := (s.district d).img
    let was := x.active
    let ent (k : Nat) : List Nat := match was with | none => [] | some a => a.entries k
    let restore := was.isNone && (s.district d).flt.restArm
    let oldNum := match was with | some a => a.entries 8 | none => if restore then x.oldNum else []
    let hash := if imgDelta l.header then sha384 ((x.hash ++ List.replicate (48 - x.hash.length) 0#8) ++ l.digest) else l.digest
    let s := if was.isNone then s.each (List.range 64) fun i t => t.setDist d i 0 else s
    let s := s.modImg d fun y =>
      { y with active := some g, loaded := none, shadow := 0, hash := hash
               activeId := if imgDelta l.header then y.activeId else fld l.header 16 0 64, oldNum := [] }
    let s := if was.isNone then s.firstStep d g else s
    let s := s.commitShadows d g
    let s := s.commitJob d g
    let s := s.commitSlots d oldNum (g.entries 8) restore
    let s := s.commitBoxes d (ent 3) (g.entries 3)
    let s := (s.commitRings d (ent 4) (g.entries 4)).commitHighs d
    s.commitPorts d (ent 5) (g.entries 5) x.portsFence
  | _, _ => s

/-- The outcome of a pending commit at its tick (R298): `rolled` when the step rolls back at this tick, `begun` when a step
begins or restarts. -/
def State.commitOutcome (s : State) (d : Nat) (rolled begun : Bool) : State :=
  let x := (s.district d).img
  let result : Status :=
    if s.halted then .halted
    else if s.fenced d then .fenced
    else if x.commit = 3 then .refusedInvalid
    else if rolled then .refusedBusy
    else if x.commit = 1 then .refusedBusy
    else if x.active.isSome && !begun then .refusedBusy
    else .done
  let s := if result = .done then s.applyCommit d else s
  let s := s.countDist d (if result = .done then 47 else 48) 1
  s.modImg d fun y => { y with commit := 0, target := 0, result := result.code, resultOrbit := s.orb.number % 2 ^ 32, committedEv := true }

end Sys2Proof.Machine
end

