-- ==== Sys2Proof/Machine/Tick.lean ====
section
/-! DEFINITION. What happens at an orbit tick (02 R40 to R51): steps, overruns, snapshots, commits, entries, and what falls on
a step boundary (12 R345, R350, R360, R364, R366, R368; 08 R221). -/

namespace Sys2Proof.Machine

/-! ## Overruns (R45 to R50) -/

/-- Is a core's work of an orbit still incomplete (R45, R65)? -/
def Core.busy (c : Core) : Bool :=
  match c.work with
  | none => false
  | some w => !(w.ended && c.outs.isEmpty && c.sendWait.isNone && c.unlinked.isEmpty)

/-- Cores whose program holds an instruction that `p` accepts. -/
def State.coresWith (s : State) (d : Nat) (p : Nat → Bool) : List Nat :=
  match s.active d with
  | none => []
  | some g => (g.sect 1).blocks.filterMap fun b => if b.2.any p then some (fld b.1 0 0 9) else none

/-- Cores on which a READ of a postbox waits: its senders, and those of the collection boxes whose OUT it is (R204). -/
def State.boxSenders (s : State) (d b : Nat) : List Nat :=
  let boxes := b :: ((s.boxesOf d).filter fun x => beCollection x.2 && beOut x.2 == b).map (·.1)
  s.coresWith d fun w => fld w 0 0 8 == 2 && boxes.contains (fld w 2 0 12)

/-- Cores on which an AWAIT of an ENQ item waits (R244). -/
def State.queueSenders (s : State) (d q : Nat) : List Nat :=
  s.coresWith d fun w => fld w 0 0 8 == 4 && fld w 1 0 4 == 0 && fld w 1 4 1 == 1 && fld w 2 0 8 == q

/-- Does a host command in progress put an item into a queue (R324)? -/
def State.hostFeeds (s : State) (d q : Nat) : Bool :=
  (s.district d).host.cmds.any fun c => c.done.isNone && fld c.entry 0 0 8 == 2 && fld c.entry 1 0 1 == 1 && fld c.entry 32 0 8 == q

/-- Cause code of an AWAIT blocked on a queue: PEER_LATE for the item of a host COPY, or where no core's COPY enqueues (R244, R324);
else that of the cores that do. -/
def State.awaitCause (s : State) (d q : Nat) (explained : Nat → Bool) : Nat :=
  let cores := s.queueSenders d q
  if s.hostFeeds d q || cores.isEmpty then 3 else if cores.any explained then 4 else 0

/-- Cause of an overrun (R48): the code with the most stalled cycles, the lower on a tie. -/
def State.overrunCause (s : State) (d : Nat) (t : CoreTime) (explained : Nat → Bool) : Nat :=
  let wait (cs : List Nat) : Nat := if cs.any explained then 4 else 0
  let items := (t.stalls.filter fun x => x.1 < 7) ++ t.reads.map (fun x => (wait (s.boxSenders d x.1), x.2))
    ++ t.sends.map (fun x => (wait [match s.boxOwner x.1 with | none => 512 | some (_, e) => beReader e], x.2))
    ++ t.awaits.map (fun x => (s.awaitCause d x.1 explained, x.2))
  let total (k : Nat) : Nat := sumOf (items.filter fun x => x.1 == k) (·.2)
  ((List.range 7).foldl (fun (b : Nat × Nat) k => if b.2 < total k then (k, total k) else b) (0, 0)).1

/-- Orbit of the work that a core is on. -/
def Core.orbit (c : Core) : Option Nat := c.work.map (·.orbit)

/-- Has a core overrun an orbit and been attributed an explained cause, with that work still late or since completed (R50)? -/
def Core.lateIn (c : Core) (orbit : Nat) : Bool :=
  (c.lateOrbit == some orbit && c.lateCause != 0) || (c.lateLast == some orbit && c.lastCause != 0)

/-- Does a core overrun an orbit for an explained cause, where `cs` are the causes found so far of the cores that overrun at
this tick (R204)? -/
def State.explainedIn (s : State) (cs : List (Nat × Nat)) (orbit : Option Nat) (c : Nat) : Bool :=
  let x := s.core c
  (x.orbit == orbit && (lookupKey c cs).any (· != 0)) || (x.lateLast.isSome && x.lateLast == orbit && x.lastCause != 0)

/-- Causes of the cores that overrun at a tick; a wait on a core that overran the same orbit for an explained cause is
CORE_LATE (R50, R204). `n` bounds the rounds. -/
def State.overrunCauses (s : State) (d : Nat) (ts : List CoreTime) : Nat → List (Nat × Nat) → List (Nat × Nat)
  | 0, cs => cs
  | n + 1, cs => s.overrunCauses d ts n (ts.map fun t => (t.core, s.overrunCause d t (s.explainedIn cs (s.core t.core).orbit)))

/-- The cycles that a core reported are counted (R376). -/
def State.countTimes (s : State) (t : CoreTime) : State :=
  let n := t.core
  let c := t.cycles
  (((s.count (ctrCore n 4) c.stall).count (ctrCore n 5) c.wait).count (ctrCore n 6) c.active).count (ctrCore n 8) c.tile

/-- Work that ended in time leaves its core; an overrun is recorded (R45). -/
def State.judgeCore (s : State) (n : Nat) (left : Nat) (causes : List (Nat × Nat)) : State :=
  let c := s.core n
  if c.work.isNone then s
  else if !c.busy && c.lateOrbit.isNone then
    s.modCore n fun c => { c with work := none, loops := [], slackMin := some (min left (c.slackMin.getD left)) }
  else
    let first := c.lateOrbit.isNone
    let s := s.modCore n fun c =>
      { c with lateOrbit := c.work.map (·.orbit), lateCause := (lookupKey n causes).getD 0, slackMin := some 0 }
    if first then s.count (ctrCore n 14) 1 else s

/-- An overrun fences the district (R48, R364): ORB_OVERRUN names it. -/
def State.overrunFence (s : State) (d n cause orbit : Nat) : State :=
  (s.modOrb d fun o => { o with ovFence := true, ovCause := cause, ovCore := n, ovOrbit := orbit % 2 ^ 32 }).fence d 0x15 n
    (orbitInfo cause s.orb.number)

/-- Order 2 of a tick for one district: ORB_SLACK, overruns of the ended orbit (`prev` its index), and work that is late a
second time. A mirror stream is work of index L − 2 (R357). -/
def State.judge (s : State) (d prev : Nat) (begun : Bool) (times : List CoreTime) : State :=
  let ns := (s.coresOf d).filter fun n => (s.core n).work.isSome
  let timeOf (n : Nat) : CoreTime := (times.find? (·.core == n)).getD ⟨n, 0, [], [], [], [], ⟨0, 0, 0, 0⟩⟩
  let overs := ns.filter fun n => (s.core n).busy || (s.core n).lateOrbit.isSome
  let twice := overs.filter fun n => match (s.core n).work with | none => false | some w => decide (w.orbit + 2 ≤ s.orb.number)
  let causes := s.overrunCauses d (overs.map timeOf) overs.length []
  let leftOf (n : Nat) : Nat := if overs.contains n then 0 else (timeOf n).left
  let best := ns.foldl (fun (b : Option (Nat × Nat)) n => match b with
    | none => some (leftOf n, n)
    | some (v, m) => if leftOf n < v then some (leftOf n, n) else some (v, m)) none
  let stream := (s.district d).mir.send && ((s.district d).mir.stat == 1 || (s.district d).mir.stat == 2)
  let len := match s.active d with | none => 0 | some g => g.stepLen
  let streamLate := stream && !begun && prev + 2 == len
  let streamTwice := stream && !begun && prev + 1 == len
  let s := s.modOrb d fun o => match best with
    | none => { o with minSlack := if streamLate then 0 else 0xFFFFFFFF, minCore := 0, late := streamLate }
    | some (v, n) => { o with minSlack := if streamLate then 0 else v % 2 ^ 32, minCore := n, late := !overs.isEmpty || streamLate }
  let s := s.each (times.filter fun t => (s.coresOf d).contains t.core) fun t u => u.countTimes t
  let s := s.each ns fun n t => t.judgeCore n (leftOf n) causes
  let lost (n : Nat) : Bool := (lookupKey n causes).getD 0 == 0
  let causeOf (n : Nat) : Nat := (lookupKey n causes).getD 0
  if (s.district d).flt.rollAt.isSome then
    match overs with
    | [] => s
    | n :: _ => s.overrunFence d n (causeOf n) (((s.core n).orbit).getD 0)
  else match twice with
  | [] =>
    if streamTwice then
      (s.modOrb d fun o => { o with ovRollback := true, ovCause := 3, ovCore := 0, ovOrbit := (s.orb.number - 2) % 2 ^ 32 }).rollback d 0x14 0 (orbitInfo 3 s.orb.number)
    else s
  | n :: rest =>
    let k := s.orb.number - 2
    match (n :: rest).find? lost with
    | some m =>
      -- the fence acts, and a rollback due at the same tick is logged (R19)
      let s := match (n :: rest).find? fun c => !lost c with
        | none => s
        | some c => s.event 0x14 .rollback (some d) c (orbitInfo (causeOf c) s.orb.number)
      s.overrunFence d m 0 k
    | none =>
      let cause := causeOf n
      (s.modOrb d fun o => { o with ovRollback := true, ovCause := cause, ovCore := n, ovOrbit := k % 2 ^ 32 }).rollback d 0x14 n (orbitInfo cause s.orb.number)

/-! ## Entering an orbit (R42, R43) -/

/-- Orbit index that the district's cores run: the step's, or the roll-forward's (R364). -/
def State.runIndex (s : State) (d : Nat) : Option Nat :=
  let x := s.district d
  if s.halted || x.flt.fenced then none
  else match x.flt.rollAt with
  | some i => if (match x.img.active with | none => true | some g => decide (g.evl ≤ i)) then none else some i
  | none => if x.orb.phase == .hold || x.bar.rolledBack || x.orb.phase == .none then none else some x.orb.index

/-- A core that is not busy enters the current orbit when it has a row for it. CORE_STATUS.ROW keeps the latest row while the
core has none (log entry 97). -/
def State.enterOrbit (s : State) (d n : Nat) : State :=
  match s.active d, s.runIndex d with
  | some g, some i =>
    if (s.core n).work.isSome then s
    else match g.rowAt n i with
    | none => s
    | some (j, e) =>
      s.modCore n fun c =>
        let c := { c with work := some ⟨s.orb.number, j, g.phaseAt i, false⟩, row := j }
        if c.tile.isSome then c else { c with loops := [], next := fld e 12 0 12 }
  | _, _ => s

/-- Is a core's late work complete? -/
def Core.caughtUp (c : Core) : Bool := c.work.isSome && !c.busy && c.lateOrbit.isSome

/-- The late work of a core is complete: it leaves the core, and its orbit and cause stay known (R50). -/
def Core.caught (c : Core) (cause : Nat) : Core :=
  { c with work := none, loops := [], lateOrbit := none, lateCause := 0, lateLast := c.orbit, lastCause := cause }

/-- Late work of cores of one district completes in one cycle (R46, R48): the overrun of the lowest core is reported, and the
cores enter the current orbit; an unexplained one fences. -/
def State.lateDone (s : State) (d : Nat) (times : List CoreTime) : State :=
  let ns := (s.coresOf d).filter fun n => (s.core n).caughtUp && times.any (·.core == n)
  let found : List (Nat × Nat × Nat) := ns.filterMap fun n =>
    match times.find? (·.core == n), (s.core n).orbit with
    | some t, some o => some (n, s.overrunCause d t fun m => (s.core m).lateIn o, o)
    | _, _ => none
  let s := s.each found fun x t => t.modCore x.1 fun c => c.caught x.2.1
  match found.find? fun x => x.2.1 == 0, found with
  | some x, _ => s.overrunFence d x.1 0 x.2.2
  | none, [] => s
  | none, x :: _ =>
    let s := s.absorbed d x.2.1 x.1 x.2.2
    if (s.district d).bar.arrived.isSome then s else s.each found fun y t => t.enterOrbit d y.1

def execLateWorkComplete (times : List CoreTime) (s : State) : Host.Outcome State Fault Refusal :=
  .next (s.each s.defined fun d t => if t.halted || t.fenced d then t else t.lateDone d times)

/-! ## Steps and attempts (R54, R56, R350) -/

/-- The L counters of the cores' slack (R376). -/
def State.latchSlack (s : State) (d : Nat) : State :=
  let ns := s.coresOf d
  let v (n : Nat) : Nat := ((s.core n).slackMin).getD (2 ^ 64 - 1)
  let best := ns.foldl (fun (b : Nat × Nat) n => if v n < b.1 then (v n, n) else b) (2 ^ 64 - 1, 0)
  let s := s.each ns fun n t => (t.setCount (ctrCore n 15) (v n)).modCore n fun c => { c with slackMin := none }
  (s.setDist d 37 best.1).setDist d 38 best.2

/-- What every attempt's first tick does (R54, R215, R236, R360). At a go tick, work of the BARRIER orbit goes on. -/
def State.beginAttempt (s : State) (d : Nat) (go : Bool) : State :=
  let s := s.modOrb d fun o => { o with index := 0, phase := .compute, attempt := s.orb.number % 2 ^ 16 }
  let s := s.modBar d fun _ => {}
  let s := if go then s else s.each (s.coresOf d) fun n t => t.modCore n fun c => { c with lateOrbit := none, lateLast := none }
  let s := s.reviveBoxes d
  s.resetRings d s.orb.number go

/-- Go tick G (R54, R124, R345, R377): the step is complete and the next begins. -/
def State.stepBegin (s : State) (d : Nat) : State :=
  let s := s.latchLedger d
  let s := s.latchSlack d
  let s := s.each (s.slotsOf d) fun k t => t.modSlot k Slot.next
  let step := stepAfter (s.district d).orb.step
  let s := s.modFlt d fun f => { f with prevDirty := f.dirty, dirty := [], rewindable := true, gen := step, noted := [] }
  let s := s.modOrb d fun o => { o with step := step, rollbacks := 0 }
  let s := s.countDist d 39 1
  s.beginAttempt d true

/-- Tick R of a restart or of a resume (R56, R329, R350). -/
def State.restart (s : State) (d : Nat) (resume : Bool) : State :=
  let s := if resume then
      (s.modOrb d fun o => { o with rollbacks := 0 }).modFlt d fun f => { f with restore := false, receiving := [] }
    else s
  let s := s.beginAttempt d false
  s.modHost d fun h => { h with refeed := true, refeedStep := (s.district d).orb.step, refeedOrbit := s.orb.number % 2 ^ 40 }

/-- What a tick is to a district's step: nothing new, its go tick, the restart after a rollback, or the resume from HOLD. -/
inductive TickKind where
  | plain
  | go
  | restart
  | resume
deriving DecidableEq, Repr

/-- Order 1 of a tick for one district. ORB_STEP.INDEX stays at L − 1 while the module waits for G (log entry 31). -/
def State.advanceStep (s : State) (d : Nat) : State × TickKind :=
  match s.active d with
  | none => (s, .plain)
  | some g =>
    let x := s.district d
    let now := s.orb.number
    if s.halted || x.flt.fenced then (s, .plain)
    else if x.orb.phase == .hold then
      if x.bar.resume == some now then (s.restart d true, .resume)
      else if x.flt.rollAsked then ((s.modFlt d fun f => { f with rollAsked := false, rollAt := some g.exch }).swapSlots d, .plain)
      else (s.modFlt d fun f => { f with rollAt := f.rollAt.map (· + 1) }, .plain)
    else if x.bar.rolledBack then
      if x.bar.restart == some now then
        if x.flt.copyBack.isSome then (s.rollbackHold d 0x17 0 (orbitInfo 0 now), .plain) else (s.restart d false, .restart)
      else (s, .plain)
    else if x.bar.go == some now then
      if !x.bar.down then (s.rollbackHold d 0x17 0 (orbitInfo 0 now), .plain) else (s.stepBegin d, .go)
    else if x.orb.phase == .barrier || x.orb.phase == .waitGo then
      (s.modOrb d fun o => { o with index := min (o.index + 1) (g.stepLen - 1) }, .plain)
    else
      let i := min (x.orb.index + 1) (g.stepLen - 1)
      (s.modOrb d fun o => { o with index := i, phase := g.phaseAt i }, .plain)

/-! ## What falls on a step boundary -/

/-- Physical quad behind a logical quad (R366). -/
def Sparing.phys (x : Sparing) (q : Nat) : Nat := (lookupKey q x.qmap).getD q

/-- One pending swap at a step boundary (R366); `ready` says that its copy is complete and the tables are written (R403). An
unassigned quad runs nothing, and is swapped like any other (R446). -/
def State.swapQuad (s : State) (w : Swap) (ready : Bool) : State :=
  let home := s.quadDistrict w.quad
  if ready then
    let old := s.spr.phys w.quad
    let s := { s with spr := { s.spr with qmap := insertKey w.quad w.spare s.spr.qmap, swaps := s.spr.swaps.filter fun (y : Swap) => y.quad != w.quad, testing := s.spr.testing ++ [old] } }
    let s := s.each (upFrom (4 * w.quad) 4) fun n t => t.modCore n fun c => { c with resident := none, groups := 0 }
    s.notice 0x60 home w.quad (put 0 8 old + put 8 8 w.spare)
  else match home with
    | some d => if w.forced then s.fence d 0x05 (4 * w.quad) 0 else s
    | none => s

/-- Pages retired or repaired change places at a step boundary (R221, R369). -/
def State.remapPages (s : State) : State :=
  let m := s.memc
  let new (x : Nat × Nat) : Bool := m.waiting.any fun y => y.1 == x.1
  let kept := (m.remaps.filter fun x => !(m.restoring.contains x.1) && !new x) ++ m.waiting.filter fun x => !(m.restoring.contains x.1)
  { s with memc := { m with remaps := kept, waiting := [], worn := m.worn ++ (m.remaps.filter new).map (·.2), restoring := [], freePages := m.freePages + m.restoring.length, retired := m.retired - m.restoring.length } }

/-- The swaps that a tick lets take place (R366): those of the districts whose go tick it is, and of a district that restarts
after a rollback of R97, which has reserved a spare for it; those of unassigned quads at any go tick (log entry 98). -/
def State.swapsAt (s : State) (kinds : List (Nat × TickKind)) : List Swap :=
  let forced (d : Nat) : Bool := s.spr.swaps.any fun (w : Swap) => w.forced && s.quadDistrict w.quad == some d
  s.spr.swaps.filter fun (w : Swap) => match s.quadDistrict w.quad with
    | none => kinds.any fun k => k.2 == .go
    | some d => kinds.any fun k => k.1 == d && (k.2 == .go || (k.2 != .plain && forced d))

/-- What falls on a step boundary: quads change places (R366), and pages where a step begins or restarts (R221). -/
def State.boundary (s : State) (kinds : List (Nat × TickKind)) (step : Bool) (ready : List Nat) : State :=
  let s := s.each (s.swapsAt kinds) fun w t => t.swapQuad w (t.moon.running && w.written && ready.contains w.quad)
  if step then s.remapPages else s

/-- A lane swap that the Moons agreed on starts at the next go tick (R368). -/
def State.startLaneSwaps (s : State) (d : Nat) : State :=
  s.each (List.range 24) fun p t =>
    if t.portDistrict p != some d then t
    else t.modPort p fun x =>
      let go (o : Option LaneSwap) : Option LaneSwap := match o with | some (.agreed i) => some (.bridged i) | y => y
      { x with swapTx := go x.swapTx, swapRx := go x.swapRx }

/-! ## The tick -/

/-- Does a district's bank hold the shadow at an offset of the SNP block (R375)? -/
def State.inBank (s : State) (d off : Nat) : Bool :=
  let own (x : Option (Nat × Nat)) : Bool := match x with | none => false | some (k, _) => k == d
  if off < 0x20000 then s.coreDistrict ((off - 0x10000) / 0x80) == some d
  else if off < 0x40000 then own (s.boxOwner ((off - 0x20000) / 0x20))
  else if off < 0x80000 then (s.slot ((off - 0x40000) / 0x40)).valid && (s.slot ((off - 0x40000) / 0x40)).district == d
  else if off < 0xC0000 then own (s.ringOwner ((off - 0x80000) / 0x40))
  else if off < 0xC2000 then own (s.queueOwner ((off - 0xC0000) / 0x20))
  else if off < 0xC3800 then (match s.portEntry ((off - 0xC2000) / 0x100) with | none => true | some (k, _) => k == d)
  else if off < 0xC5000 then true
  else s.hostDistrict ((off - 0xC5000) / 0x100) == some d

/-- A snapshot is taken (R379). -/
def State.takeSnapshot (s : State) (d : Nat) : State :=
  let mine := (List.range 64).map fun i => (0xC5400 + 8 * i, s.dcnt.get 0 (64 * d + i))
  let bank := mine.foldl (fun t e => insertKey e.1 e.2 t) (s.cnt.entries.filter fun c => s.inBank d c.1)
  s.modSnp d fun x =>
    { x with orbit := 0, state := 0, doneEv := true, seq := (x.seq + 1) % 2 ^ 32, step := (s.district d).orb.step, snapOrbit := s.orb.number, bank := ⟨bank⟩ }

/-- WAIT_ORBITs of a district that wait. -/
def State.orbitWaits (s : State) (d : Nat) : List Cmd :=
  (s.district d).host.cmds.filter fun c => c.done.isNone && c.stage == 1 && fld c.entry 0 0 8 == 9

/-- WAIT_ORBITs whose orbit has begun complete at its tick (11 R324). -/
def State.endWaits (s : State) (d : Nat) : State :=
  s.each ((s.orbitWaits d).filter fun c => decide (fld c.entry 16 0 64 ≤ s.orb.number)) fun c t => t.finishCmd d c.index .done t.orb.number

/-- Counting stops (R58, R379); a WAIT_ORBIT that waits finds the counter stopped (11 R324). -/
def State.stopCounting (s : State) : State :=
  let s := { s with orb := { s.orb with run := false, stop := false, number := 0, plan := none, accepted := none, joinPort := none } }
  let s := s.each s.defined fun d t => t.each (t.orbitWaits d) fun c u => u.finishCmd d c.index .refusedBusy 0
  s.each s.defined fun d t => if (t.district d).snp.state = 0 then t else t.modSnp d fun x => { x with orbit := 0, state := 0, missed := true }

/-- What a tick finds of a district: orbit index before it, whether a step begins at it, and whether the step had rolled back
before it. -/
structure TickMark where
  d : Nat
  prev : Nat
  kind : TickKind
  down : Bool
deriving DecidableEq, Repr

/-- A step begins or restarts. -/
def TickMark.begun (m : TickMark) : Bool := m.kind != .plain

/-- Has the district's step rolled back? -/
def State.isDown (s : State) (d : Nat) : Bool := (s.district d).bar.rolledBack || s.held d

/-- Order 1 of a tick for every district (R40). -/
def State.tickAdvance (s : State) (ds : List Nat) : State × List TickMark :=
  ds.foldl (fun (acc : State × List TickMark) d =>
    let m : TickMark := ⟨d, (acc.1.district d).orb.index, .plain, acc.1.isDown d⟩
    let (t, kind) := acc.1.advanceStep d
    (t, acc.2 ++ [{ m with kind := kind }])) (s, [])

/-- ORB_SLACK of a district without work in the orbit that ended (R59). -/
def State.noWork (s : State) (d : Nat) : State := s.modOrb d fun o => { o with minSlack := 0xFFFFFFFF, minCore := 0, late := false }

/-- Order 2 for one district. -/
def State.tickJudge (s : State) (m : TickMark) (times : List CoreTime) : State :=
  if (s.active m.d).isSome && !s.fenced m.d && !s.halted then s.judge m.d m.prev m.begun times else s.noWork m.d


/-- An orbit tick of a counting module (R39 to R42). -/
def State.tick (s : State) (times : List CoreTime) (ready : List Nat) : State :=
  let s := { s with orb := { s.orb with number := (s.orb.number + 1) % 2 ^ 64, lastTick := s.clk.ref }
                    ports := s.ports.map fun _ x => { x with transitActive := x.transitNow, transitNow := false } }
  let ds := s.defined
  let was := ds.map fun d => (d, s.runIndex d, (s.active d).isNone)
  let (s, marks) := s.tickAdvance ds
  let s := s.each marks fun m t => t.tickJudge m times
  let s := s.each ds fun d t => if (t.district d).snp.state != 0 && (t.district d).snp.orbit == t.orb.number then t.takeSnapshot d else t
  let s := s.each marks fun m t =>
    if (t.district m.d).img.commit != 0 && (t.district m.d).img.target == t.orb.number then t.commitOutcome m.d ((m.begun || !m.down) && t.isDown m.d) m.begun
    else t
  let began (d : Nat) (t : State) : Bool := marks.any (fun m => m.d == d && m.begun)
    || (was.any (fun w => w.1 == d && w.2.2) && (t.active d).isSome && !t.held d)
  let s := s.boundary (marks.map fun m => (m.d, m.kind)) (ds.any fun d => began d s) ready
  let s := s.each marks fun m t => if m.kind == .go then t.startLaneSwaps m.d else t
  let s := s.each ds fun d t => if began d t then t.startMirror d (marks.any fun m => m.d == d && m.kind == .go) else t
  let s := if marks.any (·.kind == .go) then { s with spr := { s.spr with since := s.spr.since + 1 } } else s
  let s := s.each ds fun d t =>
    match (t.district d).orb.phase with
    | .exchange => t.mirrorDw d
    | .update => t.mirrorDw d
    | .eval => t.mirrorDw d
    | .barrier => t.mirrorDw d
    | _ => t
  let moved (d : Nat) (t : State) : Bool := began d t || was.any fun w => w.1 == d && w.2.1 != t.runIndex d
  let s := s.each ds fun d t => if moved d t then t.each (t.coresOf d) fun n u => u.enterOrbit d n else t
  let s := s.each ds fun d t => t.endWaits d
  s.sendBeacons

def execOrbitTick (times : List CoreTime) (ready : List Nat) (s : State) : Host.Outcome State Fault Refusal :=
  .next (if !s.orb.run then s else if s.orb.stop then s.stopCounting else s.tick times ready)

end Sys2Proof.Machine
end

