-- ==== Sys2Proof/Machine/Orbits.lean ====
section
/-! DEFINITION. Marks, the start of counting, the barrier's events and the sparing of lanes and quads (02 R29 to R36, R54, R55,
R452; 12 R351, R367, R368). -/

namespace Sys2Proof.Machine

/-! ## Marks (R29 to R31, R34) -/

/-- Reference cycles between mark positions (R29). -/
def markSpacing : Nat := 156250

/-- What a run of high samples is (R29). -/
inductive Mark where
  | rack
  | epoch (tag : Nat)
  | malformed
deriving DecidableEq, Repr

/-- Tag of an epoch mark, from the samples after its guard (R29): 8 bits, most significant first, each held for 4 reference
cycles and read on its third. -/
def markTag (after : List Bool) : Nat := (List.range 8).foldl (fun t i => 2 * t + boolBit (after.getD (4 * i + 2) false)) 0

/-- Decode TICK samples from a leading edge on (R29): the run of high samples, then 4 cycles of guard and the tag of an epoch
mark. What follows the mark is low, or begins the next run. -/
def markOf (samples : List Bool) : Mark :=
  let run := (samples.takeWhile fun x => x).length
  let after := samples.drop run
  if 6 ≤ run && run ≤ 10 then .rack
  else if 28 ≤ run && run ≤ 36 && (after.take 4).all (!·) then .epoch (markTag (after.drop 4))
  else .malformed

/-- Is a leading edge in place after a recorded phase (R30)? -/
def inPlace (phase edge : Nat) : Bool :=
  let r := ((edge : Int) - phase) % markSpacing
  r == 0 || r == 1 || r == markSpacing - 1

/-- Mark position nearest to a leading edge (R31). An edge exactly halfway between two positions has no nearest one in the spec;
the model takes the later (log entry 96). -/
def markPosition (phase edge : Nat) : Int := ((edge : Int) - phase + markSpacing / 2) / markSpacing

/-- A tick slip (R30, R31): the second at consecutive positions halts the module. -/
def State.slip (s : State) (edge : Nat) : State :=
  let o := s.orb
  let s := { s with orb := { o with slip := true, slips := o.slips + 1 } }
  match o.phase with
  | none => s.notice 0x10 none 0 (orbitInfo 0 s.orbitNow)
  | some ph =>
    let p := markPosition ph edge
    let second := o.slipAt == some (p - 1) || o.slipAt == some (p + 1)
    let s := { s with orb := { s.orb with slipAt := some p } }
    let s := s.notice 0x10 none 0 (orbitInfo 0 s.orbitNow)
    if second then s.halt 0x11 none 0 (orbitInfo 0 s.orbitNow) else s

/-- A valid mark whose leading edge is at `edge` (R30, R34): `tag` for an epoch mark. -/
def State.goodMark (s : State) (edge : Nat) (tag : Option Nat) : State :=
  let o := s.orb
  let placed := match o.phase with | none => true | some ph => inPlace ph edge
  let s := { s with orb := { o with tickOk := true, lastTag := tag.getD o.lastTag, phase := some (o.phase.getD edge) } }
  if !placed then s.slip edge
  else if tag == some o.tag && o.arm && o.accepted.isNone then { s with orb := { s.orb with accepted := some edge } }
  else s

/-- TICK samples from a leading edge (R29 to R31, R34): the high run, the guard, the tag and what follows. While REFCLK is
absent nothing samples the line, so the model ignores them whole (log entry 102). -/
def execTickMark (run guardLow tag : List Bool) (edge : Nat) (s : State) : Host.Outcome State Fault Refusal :=
  .next (
    if !s.orb.refOk then s
    else match markOf (run ++ guardLow ++ tag) with
    | .malformed => s.slip edge
    | .rack => s.goodMark edge none
    | .epoch tag => s.goodMark edge (some tag))

/-- A window of 10.24 µs ends (R452); REFCLK that becomes present records a new phase (R30). -/
def execRefclkWindowEnd (edges : Nat) (s : State) : Host.Outcome State Fault Refusal :=
  let o := s.orb
  let ok := decide (1598 ≤ edges) && decide (edges ≤ 1602)
  let good := if ok then min 2 (o.good + 1) else 0
  let refOk := good == 2
  .next { s with orb := if refOk && !o.refOk then { o with good := good, refOk := true, phase := none, slipAt := none } else { o with good := good, refOk := refOk } }

/-- 4,000 µs without a valid mark (R60's ORB_TICK.TICK_OK). -/
def execTickOkTimeout (s : State) : Host.Outcome State Fault Refusal := .next { s with orb := { s.orb with tickOk := false } }

/-! ## Starting to count (R34, R36) -/

/-- Orbit 0 begins at E + 128 (R34). -/
def execOrbitStart (s : State) : Host.Outcome State Fault Refusal :=
  .next (
    match s.orb.accepted with
    | none => s
    | some e =>
      if s.orb.run || !s.orb.arm then s
      else
        ({ s with orb := { s.orb with run := true, arm := false, accepted := none, number := 0, epoch := s.clk.ns, startOrbit := 0, joined := false
                                      stop := false, lastTick := e + 128 } } : State).sendBeacons)

/-- The first tick of a join (R36). -/
def execJoinStart (s : State) : Host.Outcome State Fault Refusal :=
  .next (
    match s.orb.plan with
    | none => s
    | some j =>
      if s.orb.run || !s.orb.join then s
      else
        ({ s with orb := { s.orb with run := true, join := false, joined := true, plan := none, joinPort := none, number := j.orbit, period := j.period, periodSh := j.period
                                      startOrbit := j.orbit % 2 ^ 48, epoch := s.clk.ns, stop := false, lastTick := j.tick } } : State).sendBeacons)

/-! ## The barrier (R54, R55, R351) -/

/-- Is all work of indices up to L − 2 complete? -/
def State.atBarrier (s : State) (d : Nat) : Bool :=
  match s.active d with
  | none => false
  | some g =>
    decide (g.stepLen ≤ (s.district d).orb.index + 1) && s.mirrorDone d
      && (s.coresOf d).all fun n => match (s.core n).work with
        | none => true
        | some w => w.phase == .barrier || (!(s.core n).busy && (s.core n).lateOrbit.isNone)

/-- The module arrives at the barrier (R54, R275). -/
def State.arrive (s : State) (d : Nat) : State :=
  let s := s.modBar d fun b => { b with arrived := some s.orb.number }
  let s := s.modOrb d fun o => { o with phase := .barrier }
  (s.advanceAmax d).advanceBar d

def execBarrierArrive (d : Fin 4) (s : State) : Host.Outcome State Fault Refusal :=
  let b := (s.district d).bar
  .next (if s.halted || s.fenced d || s.held d || b.rolledBack || b.arrived.isSome || !s.orb.run || !s.atBarrier d then s else s.arrive d)

/-- No G by tick b + TIMEOUT (R55). -/
def execBarrierTimeout (d : Fin 4) (s : State) : Host.Outcome State Fault Refusal :=
  let b := (s.district d).bar
  .next (
    match b.arrived with
    | none => s
    | some at' => if s.halted || s.fenced d || b.go.isSome || s.orb.number < at' + s.orb.timeout then s else s.timeoutBarrier d s.orb.number)

/-- No restart orbit by the deadline, or a restart orbit whose tick the copy-back missed (R351). -/
def execRestartTimeout (d : Fin 4) (s : State) : Host.Outcome State Fault Refusal :=
  let b := (s.district d).bar
  let late := match b.restart, b.deadline with
    | some r, _ => decide (r ≤ s.orb.number)
    | none, some t => decide (t ≤ s.orb.number)
    | none, none => false
  .next (if s.halted || s.fenced d || !b.rolledBack || !late then s else s.rollbackHold d 0x17 0 (orbitInfo 0 (b.restart.getD s.orb.number)))

/-! ## Sparing at step boundaries (R366 to R368) -/

/-- Reserve a tested spare for a logical quad (R366); the tables are written before the swap (R403). -/
def State.reserveSpare (s : State) (quad : Nat) (forced : Bool) : State :=
  match s.spr.free with
  | [] => s
  | x :: rest => ({ s with spr := { s.spr with free := rest, swaps := s.spr.swaps ++ [⟨quad, x, forced, false⟩] } } : State).saveTables

/-- Moon's rotation: the next logical quad, every INTERVAL steps (R367). -/
def execQuadRotationSwap (s : State) : Host.Outcome State Fault Refusal :=
  let x := s.spr
  .next (
    if s.halted || !s.moon.running || x.interval = 0 || x.since < x.interval || x.free.isEmpty || x.swaps.any (fun (w : Swap) => w.quad == x.next) then s
    else
      let s := s.reserveSpare x.next false
      { s with spr := { s.spr with next := (x.next + 1) % 128, since := 0 } })

/-- SELECTED has arrived (R368). -/
def execLaneSwapSelected (port : Fin 24) (s : State) : Host.Outcome State Fault Refusal := .next (s.laneSelected port)

/-- The receiver selects the spare and reports SELECTED (R368). -/
def execSpareLaneSelect (port : Fin 24) (s : State) : Host.Outcome State Fault Refusal :=
  .next (match (s.port port).swapRx with
    | some (.bridged i) =>
      let s := s.modPort port fun x => { x.spareFor (laneAt x.map i) with swapRx := none }
      ((s.count (ctrPort port 19) 1).portNotice port 0x48 (portInfo 0 i)).laneMessage port 1 i
    | _ => s)

/-- SELECTED has not come within 1 ms: both ends drop the bridge (R368). -/
def execLaneSwapTimeout (port : Fin 24) (s : State) : Host.Outcome State Fault Refusal :=
  let bridged (o : Option LaneSwap) : Bool := match o with | some (.bridged _) => true | _ => false
  let x := s.port port
  .next (
    if bridged x.swapTx || bridged x.swapRx then
      s.dropLaneSwap port
    else s)

/-- The pre-FEC estimate of a second, and Moon's proposal of a planned swap (R368, R376; log entry 39). `est` and `spareEst` are
FP32 ratios. -/
def execPreFecEstimateUpdate (port : Fin 24) (lane est prbsBits prbsErr spareEst corrected uncorr : Nat) (s : State) : Host.Outcome State Fault Refusal :=
  let s := s.setCount (ctrPort port 10) (est % 2 ^ 32)
  let s := ((s.count (ctrPort port 11) prbsBits).count (ctrPort port 12) prbsErr).count (ctrPort port 8) corrected
  let s := s.count (ctrPort port 9) uncorr
  let x := s.port port
  let worse := fLt s.moon.cfg.threshold est && fLt spareEst s.moon.cfg.threshold
  .next (
    if s.halted || !s.moon.running || x.state ≠ 6 || x.spareUsed || x.swapping || !worse || 4 ≤ lane then s
    else (s.modPort port fun x => { x with swapTx := some (.proposed lane) }).laneMessage port 0 lane)

end Sys2Proof.Machine
end

