-- ==== Sys2Proof/Machine/Elem.lean ====
section
/-! DEFINITION. exp, log, tanh, σ, sin and cos of R137: the exact result for an FP32 argument, rounded once to FP32. Each
is bracketed between two dyadic bounds that are narrowed until both round to the same FP32 value. -/

namespace Sys2Proof.Machine

/-- Σ over i from `i`, `n` terms, of (±1)^i 2^p / ((2i + 1) z^(2i + 1)), for an integer z; `t` is 2^p / z^(2i + 1). -/
def atanInvGo (z2 : Nat) (alt : Bool) : Nat → Nat → Nat → Int → Int
  | 0, _, _, acc => acc
  | n + 1, i, t, acc =>
    let q : Int := ((t / (2 * i + 1) : Nat) : Int)
    atanInvGo z2 alt n (i + 1) (t / z2) (if alt && i % 2 == 1 then acc - q else acc + q)

/-- ln 2 × 2^p, below by at most p units. -/
def ln2Fix (p : Nat) : Nat := (2 * atanInvGo 9 false (p / 3 + 2) 0 (2 ^ p / 3) 0).toNat

/-- π × 2^p, within 64 × p units (Machin's sum). -/
def piFix (p : Nat) : Nat :=
  (16 * atanInvGo 25 true (p / 4 + 2) 0 (2 ^ p / 5) 0 - 4 * atanInvGo 57121 true (p / 15 + 2) 0 (2 ^ p / 239) 0).toNat

/-- Σ r^i / i! scaled by 2^p, from term `t` on, for 0 ≤ r < 2^p. -/
def expGo (p r : Nat) : Nat → Nat → Nat → Nat → Nat
  | 0, _, _, acc => acc
  | n + 1, i, t, acc => expGo p r n (i + 1) (t * r / 2 ^ p / (i + 1)) (acc + t)

/-- The fixed-point image floor(x × 2^p). -/
def fixOf (x : Dy) (p : Nat) : Int :=
  let k := x.e + (p : Int)
  if 0 ≤ k then x.m * ((2 ^ k.toNat : Nat) : Int) else x.m / ((2 ^ (-k).toNat : Nat) : Int)

/-- Bounds of exp(x) at precision p, for |x| < 128. -/
def expBounds (p : Nat) (x : Dy) : Dy × Dy :=
  let l := ln2Fix p
  let f := fixOf x p
  let k := f / (l : Int)
  let r := (f - k * (l : Int)).toNat
  let s := expGo p r (p / 4 + 8) 0 (2 ^ p) 0
  let err : Int := 2 ^ 20
  (⟨(s : Int) - err, k - (p : Int)⟩, ⟨(s : Int) + err, k - (p : Int)⟩)

/-- Quotient bounds of positive dyadics: floor, or floor + 1. -/
def quoDown (p : Nat) (a b : Dy) : Dy := ⟨a.m * ((2 ^ (2 * p) : Nat) : Int) / b.m, a.e - b.e - (2 * p : Int)⟩
def quoUp (p : Nat) (a b : Dy) : Dy := ⟨a.m * ((2 ^ (2 * p) : Nat) : Int) / b.m + 1, a.e - b.e - (2 * p : Int)⟩

/-- Bounds of log(x) at precision p, for x > 0. -/
def logBounds (p : Nat) (x : Dy) : Dy × Dy :=
  let k0 := x.log2
  let y0 : Dy := ⟨x.m, x.e - k0⟩
  let big := Dy.lt ⟨3, -1⟩ y0
  let k := if big then k0 + 1 else k0
  let y : Dy := if big then y0.scale (-1) else y0
  let num := fixOf (y.sub ⟨1, 0⟩) (p + 40)
  let den := fixOf (y.add ⟨1, 0⟩) (p + 40)
  let z : Int := num * ((2 ^ p : Nat) : Int) / den
  let zz : Nat := (z * z / ((2 ^ p : Nat) : Int)).toNat
  let a := logGo p zz (p / 2 + 4) 0 z.natAbs 0
  let s : Int := 2 * (if z < 0 then -(a : Int) else a) + k * (ln2Fix p : Int)
  let err : Int := 2 ^ 20
  (⟨s - err, -(p : Int)⟩, ⟨s + err, -(p : Int)⟩)
where
  /-- Σ z^(2i + 1) / (2i + 1) scaled by 2^p; `t` is z^(2i + 1). -/
  logGo (p zz : Nat) : Nat → Nat → Nat → Nat → Nat
    | 0, _, _, acc => acc
    | n + 1, i, t, acc => logGo p zz n (i + 1) (t * zz / 2 ^ p) (acc + t / (2 * i + 1))

/-- Bounds of tanh |x|, by (1 − e^(−2|x|)) / (1 + e^(−2|x|)). -/
def tanhBounds (p : Nat) (x : Dy) : Dy × Dy :=
  let t := expBounds p (x.abs.neg.scale 1)
  let one : Dy := ⟨1, 0⟩
  (quoDown p (one.sub t.2) (one.add t.2), quoUp p (one.sub t.1) (one.add t.1))

/-- Bounds of σ(x) from e^(−|x|). -/
def sigmaBounds (p : Nat) (x : Dy) : Dy × Dy :=
  let t := expBounds p x.abs.neg
  let one : Dy := ⟨1, 0⟩
  if x.m < 0 then (quoDown p t.1 (one.add t.1), quoUp p t.2 (one.add t.2))
  else (quoDown p one (one.add t.2), quoUp p one (one.add t.1))

/-- Alternating Taylor sum at precision p: `t` the running term, `i` its power, squared argument `rr`. -/
def trigGo (p rr : Nat) : Nat → Nat → Nat → Bool → Int → Int
  | 0, _, _, _, acc => acc
  | n + 1, i, t, neg, acc =>
    trigGo p rr n (i + 2) (t * rr / 2 ^ p / ((i + 1) * (i + 2))) (!neg) (if neg then acc - (t : Int) else acc + (t : Int))

/-- Bounds of sin(x) (`q` 0) or cos(x) (`q` 1): x = k × π/2 + r with |r| ≤ π/4 or so. -/
def trigBounds (p : Nat) (q : Nat) (x : Dy) : Dy × Dy :=
  let w := p + 140
  let h : Int := (piFix (w + 1) : Int) / 4
  let f := fixOf x w
  let k := (f + h / 2) / h
  let r := (f - k * h) / ((2 ^ 140 : Nat) : Int)
  let rr := r.natAbs * r.natAbs / 2 ^ p
  let quad := (k + (q : Int)) % 4
  let s : Int :=
    if quad % 2 = 0 then (let a := trigGo p rr (p / 4 + 8) 1 r.natAbs false 0; if r < 0 then -a else a)
    else trigGo p rr (p / 4 + 8) 0 (2 ^ p) false 0
  let s := if quad = 2 || quad = 3 then -s else s
  let err : Int := 2 ^ 20
  (⟨s - err, -(p : Int)⟩, ⟨s + err, -(p : Int)⟩)

/-- Narrow the bounds over rising precisions until both ends round alike. -/
def ziv (bounds : Nat → Dy × Dy) : List Nat → Nat
  | [] => 0
  | [p] => f32 (bounds p).1
  | p :: ps => let b := bounds p; if f32 b.1 == f32 b.2 then f32 b.1 else ziv bounds ps

def precisions : List Nat := [96, 160, 256, 512, 1024]

def fExp (x : Nat) : Nat :=
  let a := val32 x
  if a.isZero then fOne
  else if Dy.le ⟨89, 0⟩ a then fMax
  else if a.le ⟨-104, 0⟩ then 0
  else ziv (fun p => expBounds p a) precisions

/-- log of a value not above 0 is +0 (R137). -/
def fLog (x : Nat) : Nat :=
  let a := val32 x
  if a.m ≤ 0 then 0
  else if x == fOne then 0
  else ziv (fun p => logBounds p a) precisions

def fTanh (x : Nat) : Nat :=
  let a := val32 x
  if a.isZero then 0
  else if a.abs.lt ⟨1, -13⟩ then f32 a
  else
    let r := if Dy.le ⟨16, 0⟩ a.abs then fOne else ziv (fun p => tanhBounds p a) precisions
    if a.m < 0 then fNeg r else r

/-- σ, the logistic function. -/
def fSigma (x : Nat) : Nat :=
  let a := val32 x
  if a.isZero then 0x3F000000
  else if Dy.le ⟨18, 0⟩ a then fOne
  else if a.le ⟨-104, 0⟩ then 0
  else ziv (fun p => sigmaBounds p a) precisions

def fSin (x : Nat) : Nat :=
  let a := val32 x
  if a.isZero then 0
  else if a.abs.lt ⟨1, -13⟩ then f32 a
  else ziv (fun p => trigBounds p 0 a) precisions

def fCos (x : Nat) : Nat :=
  let a := val32 x
  if a.isZero then fOne else ziv (fun p => trigBounds p 1 a) precisions

end Sys2Proof.Machine
end

