-- ==== Sys2Proof/Machine/Flags.lean ====
section
/-! DEFINITION. Numeric accounting (04): decoding an operand element, converting a value to a storage format, and the
events, counts and maxima both leave behind (R105, R110, R112, R116 to R119, R122, R128, R134, R449). -/

namespace Sys2Proof.Machine

/-- The counts of R128, in the order of the slot counters of R376. -/
inductive NumEv where
  | values
  | saturated
  | flushed
  | windowOvf
  | decodeClamp
  | decodeFlush
  | nonfinite
deriving DecidableEq, Repr

def NumEv.idx : NumEv → Nat
  | .values => 0
  | .saturated => 1
  | .flushed => 2
  | .windowOvf => 3
  | .decodeClamp => 4
  | .decodeFlush => 5
  | .nonfinite => 6

/-- Bit of NUM_STATUS that an event sets (R134); VALUES sets none. -/
def NumEv.status : NumEv → Nat
  | .values => 0
  | .nonfinite => 1
  | .decodeClamp => 2
  | .decodeFlush => 4
  | .saturated => 8
  | .flushed => 16
  | .windowOvf => 32

/-- What a piece of numeric work leaves behind: events with their slot, and values offered to running maxima. -/
structure Acct where
  evs : List (Option Nat × NumEv) := []
  maxs : List (Nat × Nat) := []
deriving DecidableEq, Repr

def Acct.add (a b : Acct) : Acct := ⟨a.evs ++ b.evs, a.maxs ++ b.maxs⟩
def Acct.ev (slot : Nat) (es : List NumEv) : Acct := ⟨es.map fun e => (some slot, e), []⟩

/-- Largest BF16 value below 2^s (R112, R116). -/
def bf16Below (s : Int) : Dy := if -125 ≤ s then ⟨255, s - 8⟩ else ⟨((2 ^ (s + 133).toNat : Nat) : Int) - 1, -133⟩

/-- An operand of a pass: format, slot, scale exponent, band depth D (R111). -/
structure OpSpec where
  fmt : Fmt
  slot : Nat
  scale : Int
  depth : Int
deriving DecidableEq, Repr

/-- Largest finite value an operand admits, for an infinity (R105). -/
def OpSpec.clamp (o : OpSpec) : Dy := if o.fmt.width = 16 then bf16Below o.scale else o.fmt.top

/-- Decode one operand element, relative to the operand's scale (R105, R110, R112). `block` is the E8M0 byte of an MX
element's block; `first` marks the block's first element, at which a flush of the block is counted. -/
def OpSpec.decode (o : OpSpec) (code block : Nat) (first : Bool) : Dy × List NumEv :=
  let (x, bad) := match o.fmt.decode code with
    | .fin v => (v, [])
    | .inf neg => (if neg then o.clamp.neg else o.clamp, [NumEv.nonfinite])
    | .nan => (Dy.zero, [NumEv.nonfinite])
  if o.fmt.width = 16 then
    if !x.isZero && decide (o.scale ≤ x.log2) then
      let c := bf16Below o.scale
      ((if x.m < 0 then c.neg else c).scale (-o.scale), bad ++ [.decodeClamp])
    else (x.scale (-o.scale), bad)
  else if o.fmt.mx then
    if block = 255 then (Dy.zero, [.nonfinite])
    else
      let d : Int := (block : Int) - 127 - o.scale
      if 0 < d then
        let y := x.scale d
        if o.fmt.top.lt y.abs then ((if x.m < 0 then o.fmt.top.neg else o.fmt.top), bad ++ [.decodeClamp]) else (y, bad)
      else if d < -o.depth then (Dy.zero, bad ++ if first then [.decodeFlush] else [])
      else (x.scale d, bad)
  else (x, bad)

/-- A value decoded to FP32 for chain arithmetic: its operand scale applied (R146, R449). -/
def OpSpec.value (o : OpSpec) (code block : Nat) (first : Bool) : Nat × List NumEv :=
  let (v, es) := o.decode code block first
  (f32 (v.scale o.scale), es)

/-- A conversion under R116: value in the format's units, and whether it saturated or flushed. -/
def convert (f : Fmt) (top : Dy) (shift : Int) (mode : RMode) (v : Nat) : Dy × List NumEv :=
  let x := val32 v
  let u := x.scale (-shift)
  if top.lt u.abs then ((if u.m < 0 then top.neg else top), [.saturated])
  else
    let r := f.round mode u
    (r, if !x.isZero && r.isZero then [.flushed] else [])

/-- Block scale exponent of R119 for the values of one MX block. -/
def blockExp (f : Fmt) (s : Int) (vs : List Nat) : Int :=
  let a := vs.foldl (fun m v => m.max (val32 v).abs) Dy.zero
  if a.isZero then -127 else max (-127) (min s (a.log2 - f.target))

/-- Largest value a conversion admits: for BF16 the largest below the slot's ceiling (R116). -/
def convTop (f : Fmt) (s : Int) : Dy := if f.width = 16 then bf16Below s else f.top

/-- An element after conversion: its position, value in format units, scale exponent to apply, block exponent. -/
structure Conv where
  n : Nat
  u : Dy
  shift : Int
deriving DecidableEq, Repr

/-- FP32 value of a converted element (R149). -/
def Conv.value (c : Conv) : Nat := f32 (c.u.scale c.shift)

/-- Convert values at positions `n` to a format with a slot's scale (R116 to R119); MX blocks are the runs of 32 positions. -/
def convertAll (f : Fmt) (slot : Nat) (s : Int) (mode : Nat → RMode) (vs : List (Nat × Nat)) : List Conv × Acct :=
  let one (shift : Int) (x : Nat × Nat) : Conv × List NumEv :=
    let (u, es) := convert f (convTop f s) shift (mode x.1) x.2
    (⟨x.1, u, shift⟩, .values :: es)
  let shiftOf (n : Nat) : Int :=
    if f.mx then blockExp f s ((vs.filter fun x => x.1 / 32 == n / 32).map (·.2))
    else if f.width = 8 then s else 0
  let rs := vs.map fun x => one (shiftOf x.1) x
  (rs.map (·.1), ⟨rs.flatMap fun r => r.2.map fun e => (some slot, e), vs.map fun x => (slot, (val32 x.2).abs |> f32)⟩)

/-- Book what a piece of work left behind. `counted` is false for RCP and EVL passes and for best-effort work, whose events
are not counted and raise no maximum (R122, R128). -/
def State.book (s : State) (d : Nat) (unit info : Nat) (counted : Bool) (a : Acct) : State :=
  let s := s.each a.evs fun (slot, e) t =>
    let t := if e = .values then t else t.modNum d fun n =>
      { n with events := n.events ||| e.status, lastSlot := slot.getD n.lastSlot }
    match slot with
    | none => t
    | some k =>
      if counted then
        let t := t.modSlot k fun x => { x with counts := x.counts.modify e.idx (· + 1) }
        if 4 ≤ e.idx then t.count (ctrSlot k e.idx) 1 else t
      else t
  let s := if a.evs.any fun e => e.2 == .nonfinite then s.notice 0x0B (some d) unit info else s
  if counted then
    s.each a.maxs fun (k, v) t => t.modSlot k fun x => { x with amax := if fLt x.amax v then v else x.amax }
  else s

end Sys2Proof.Machine
end

