-- ==== Sys2Proof/Machine/Chain.lean ====
section
/-! DEFINITION. Fused chains (05): positions and element indices, stream reads, the row ledger, prologue and epilogue
operations, and the write of a released row. -/

namespace Sys2Proof.Machine

/-! ## Positions (R131, R141) -/

/-- Sum over enclosing loops, outermost level first, of iteration × step word of that level. -/
def levelSum (ls : List LoopSt) (w : Nat → Int) : Int :=
  (ls.reverse.zipIdx).foldl (fun a (l, j) => a + (l.iter : Int) * w j) 0

/-- Everything an epilogue or prologue reads besides its row: machine state, core, chain entry, pass, loops, environment. -/
structure Ctx where
  s : State
  core : Nat
  c : Nat
  p : PassI
  loops : List LoopSt
  env : Env

def Ctx.posRow (x : Ctx) (r : Nat) : Nat :=
  (((fld x.c 72 0 32 + r : Nat) : Int) + levelSum x.loops fun j => signed 32 (fld x.c (80 + 4 * j) 0 32)) % (2 ^ 32 : Int) |>.toNat

def Ctx.posCol (x : Ctx) (n : Nat) : Nat :=
  (((fld x.c 76 0 32 + n : Nat) : Int) + levelSum x.loops fun j => signed 32 (fld x.c (96 + 4 * j) 0 32)) % (2 ^ 32 : Int) |>.toNat

/-- Element index of output (r, n) (R131). -/
def Ctx.index (x : Ctx) (r n : Nat) : Nat :=
  (((fld x.c 24 0 64 + r * fld x.c 32 0 64 + n : Nat) : Int)
    + levelSum x.loops fun j => signed 64 (fld x.c (40 + 8 * j) 0 64)) % (2 ^ 64 : Int) |>.toNat

def Ctx.srMode (x : Ctx) (sr : Bool) (stream r n : Nat) : RMode :=
  if sr then .sr (srBits x.env.seed (x.index r n) x.env.step stream) else .rne

/-- Read `n` bytes of the core's SRAM. -/
def Ctx.rd (x : Ctx) (off n : Nat) : Nat := x.s.num (sramAddr x.core off) n

def Ctx.slotScale (x : Ctx) (k : Nat) : Int := (x.s.slot k).scale

/-! ## Streams (R142, R449) -/

/-- Format code of a stream's FMT: BF16, FP8 E4M3, FP8 E5M2 or FP32. -/
def streamFmt (f : Nat) : Fmt := if f = 0 then fmtBF16 else if f = 1 then fmtE4M3 false else if f = 2 then fmtE5M2 false else fmtFP32

/-- Descriptor of stream 1 to 3. -/
def Ctx.stream (x : Ctx) (i : Nat) : Nat := fld x.c (112 + 8 * (i - 1)) 0 64

/-- Offset of element (r, n) of a stream (R142), with the LOOP increment it follows. -/
def Ctx.streamOff (x : Ctx) (d r n : Nat) : Nat :=
  let f := bits d 32 4
  let size := if f = 0xC then 32 else if f = 0xD || f = 0xF then 4 else if f = 0 then 2 else 1
  let inc := match bits d 50 2 with
    | 1 => loopSum x.loops (·.incA)
    | 2 => loopSum x.loops (·.incW)
    | 3 => loopSum x.loops (·.incO)
    | _ => 0
  let base := moved (bits d 0 20) inc
  match bits d 48 2 with
  | 0 => base + r * bits d 20 12 * 64 + n * size
  | 1 => base + n * size
  | _ => base + r * bits d 20 12 * 64

/-- A decoded stream element: FP32 value and what its decoding leaves behind (R449). -/
def Ctx.streamVal (x : Ctx) (d r n : Nat) : Nat × Acct :=
  let f := bits d 32 4
  let fm := streamFmt f
  let slot := bits d 36 12
  let code := x.rd (x.streamOff d r n) (fm.width / 8)
  if f = 0xF then
    match fmtFP32.decode code with
    | .fin v => (f32 v, {})
    | .inf neg => (if neg then 0xFF7FFFFF else fMax, ⟨[(none, .nonfinite)], []⟩)
    | .nan => (0, ⟨[(none, .nonfinite)], []⟩)
  else
    let (v, es) := (OpSpec.mk fm slot (x.slotScale slot) 0).value code 0 false
    (v, Acct.ev slot es)

/-! ## The row ledger (R143, R154 to R158) -/

structure Rec where
  state : Nat
  part : Nat
  lid : Nat
  step : Nat
  kind : Nat
  lmode : Nat
  hit : Bool
  attempt : Nat
  max : Nat
  sumexp : Nat
  sum : Nat
  sumsq : Nat
  aux : Nat
  count : Nat
deriving DecidableEq, Repr

def recOf (e : Nat) : Rec :=
  ⟨bits e 0 2, bits e 2 4, bits e 6 12, bits e 18 24, bits e 42 2, bits e 44 3, bit e 47, bits e 48 16, bits e 64 32, bits e 96 32,
   bits e 128 32, bits e 160 32, bits e 192 32, bits e 224 32⟩

def Rec.word (r : Rec) : Nat :=
  put 0 2 r.state + put 2 4 r.part + put 6 12 r.lid + put 18 24 r.step + put 42 2 r.kind + put 44 3 r.lmode + put 47 1 (boolBit r.hit)
    + put 48 16 r.attempt + put 64 32 r.max + put 96 32 r.sumexp + put 128 32 r.sum + put 160 32 r.sumsq + put 192 32 r.aux
    + put 224 32 r.count

def Ctx.lid (x : Ctx) : Nat := fld x.c 136 20 12
def Ctx.lmode (x : Ctx) : Nat := fld x.c 141 4 3
def Ctx.part (x : Ctx) : Nat := fld x.c 141 0 4
def Ctx.parts (x : Ctx) : Nat := fld x.c 140 0 5

/-- Offset of the record of row r (R143). -/
def Ctx.recOff (x : Ctx) (r : Nat) : Nat := fld x.c 136 0 20 + gap 32 (x.posRow r) (fld x.c 152 0 32) * 32

/-- Does a record match the current STEP and ATTEMPT and a LID? Otherwise the cause of CORE_CHAIN_STATUS (R155, R162). -/
def Ctx.mismatch (x : Ctx) (r : Rec) (lid : Nat) : Option Nat :=
  if r.lid ≠ lid then some 3 else if r.step ≠ x.env.step || r.attempt ≠ x.env.attempt then some 4 else none

/-- A record that must be CLOSED and matching (NORM, GRAD, teacher records). -/
def Ctx.closed (x : Ctx) (r : Rec) (lid : Nat) : Option Nat := if r.state ≠ 2 then some 2 else x.mismatch r lid

/-- A record that must be OPEN and matching. -/
def Ctx.opened (x : Ctx) (r : Rec) : Option Nat := if r.state ≠ 1 then some 1 else x.mismatch r x.lid

/-- A record that ACCUM reads: OPEN, matching, with LMODE ATTN. DESIGN CHOICE (log entry 107): R162 names no cause for another
LMODE; it is reported as cause 1, a record not in the state that ACCUM requires. -/
def Ctx.openedAttn (x : Ctx) (r : Rec) : Option Nat := (x.opened r).or (if r.lmode = 1 then none else some 1)

/-- The record a FIRST contribution starts from (R155). -/
def Ctx.fresh (x : Ctx) : Rec :=
  ⟨1, x.part, x.lid, x.env.step, x.p.kind, x.lmode, false, x.env.attempt, 0, 0, 0, 0, 0, 0⟩

/-- Pairwise sum of a run, adding neighbours level by level (R157). -/
def treeSumGo : Nat → List Nat → Nat
  | 0, l => l.headD 0
  | n + 1, l => treeSumGo n ((chunks 2 (l.length / 2) l).map fun p => fAdd (p.getD 0 0) (p.getD 1 0))

/-- Tree sum over 2^k places, padded with +0. -/
def treeSum (k : Nat) (l : List Nat) : Nat := treeSumGo k (l ++ List.replicate (2 ^ k - l.length) 0)

/-- One output inside a contribution: column, value, live, and q, t of KL. -/
structure Out where
  n : Nat
  v : Nat
  live : Bool
  q : Nat
  t : Nat
deriving DecidableEq, Repr

/-- One contribution of a group of at most 64 columns (R157); also the group's m. -/
def Ctx.contribute (x : Ctx) (label : Int) (rec : Rec) (g : List Out) : Rec × Nat :=
  let lv := g.filter (·.live)
  if lv.isEmpty then (rec, rec.max)
  else
    let place (f : Out → Nat) : Nat := treeSum 6 (g.map fun o => if o.live then f o else 0)
    let cm := (lv.drop 1).foldl (fun m o => fMax2 m o.v) ((lv.head?.map (·.v)).getD 0)
    let m := if rec.count = 0 then cm else fMax2 rec.max cm
    let a := if rec.count = 0 then fOne else fExp (fSub rec.max m)
    let aux := if rec.lmode = 1 then (if rec.count = 0 then m else rec.max) else rec.aux
    let sumexp := fAdd (fMul rec.sumexp a) (place fun o => fExp (fSub o.v m))
    let sum := fAdd rec.sum (place (·.v))
    let sumsq := fAdd rec.sumsq (place fun o => fMul o.v o.v)
    let hit := if rec.lmode = 2 then lv.find? fun o => ((x.posCol o.n : Nat) : Int) == label else none
    let (aux, h) := match hit with
      | some o => (o.v, true)
      | none => (aux, rec.hit)
    let aux := if rec.lmode = 3 then fAdd aux (place fun o => fMul o.q (fSub o.t o.v)) else aux
    ({ rec with max := m, sumexp := sumexp, sum := sum, sumsq := sumsq, aux := aux, hit := h
                count := (rec.count + lv.length) % 2 ^ 32 }, m)

/-- Fold a row's outputs in groups of 64 columns, ascending; the m of each group with its outputs (R157). -/
def Ctx.foldRow (x : Ctx) (label : Int) (rec : Rec) (os : List Out) : Rec × List (Nat × List Out) :=
  let keys := (os.map fun o => o.n / 64).eraseDups
  keys.foldl (fun (r, acc) k =>
    let g := os.filter fun o => o.n / 64 == k
    let lo := k * 64
    let full := (List.range 64).map fun i => (g.find? fun o => o.n == lo + i).getD ⟨lo + i, 0, false, 0, 0⟩
    let (r', m) := x.contribute label r full
    (r', acc ++ [(m, g)])) (rec, [])

/-- Merge one partial into the home's record (R158). -/
def mergeRec (r q : Rec) : Rec :=
  if q.count = 0 then r
  else
    let m := fMax2 r.max q.max
    { r with
      max := m
      sumexp := fAdd (fMul r.sumexp (fExp (fSub r.max m))) (fMul q.sumexp (fExp (fSub q.max m)))
      sum := fAdd r.sum q.sum, sumsq := fAdd r.sumsq q.sumsq, count := (r.count + q.count) % 2 ^ 32
      aux := if r.lmode = 2 then (if q.hit then q.aux else r.aux) else if r.lmode = 3 then fAdd r.aux q.aux else r.aux
      hit := r.hit || (r.lmode == 2 && q.hit) }

/-- Finish a closed record by its mode (R158). -/
def finishRec (r : Rec) : Rec :=
  let lse := fAdd r.max (fLog r.sumexp)
  let r := { r with
    state := 2
    aux := if r.lmode = 2 then (if r.hit then fSub lse r.aux else 0) else if r.lmode = 3 then fAdd r.aux lse else r.aux }
  if r.count = 0 then { r with max := 0, sumexp := 0, sum := 0, sumsq := 0 } else r

/-! ## Epilogue (R147 to R149) -/

/-- GELU's constants: the FP32 values nearest 0.044715 and √(2/π). -/
def geluK1 : Nat := 0x3D372713
def geluK2 : Nat := 0x3F4C422A

/-- TABLE: 63 breakpoints and 64 pairs at TADDR (R148). -/
def Ctx.table (x : Ctx) (v : Nat) : Nat :=
  let t := fld x.c 160 0 20
  let j := ((List.range 63).filter fun i => fLe (f32 (val32 (x.rd (t + 4 * i) 4))) v).length
  fMulAdd (f32 (val32 (x.rd (t + 252 + 8 * j) 4))) v (f32 (val32 (x.rd (t + 256 + 8 * j) 4)))

/-- Activation functions (R148). -/
def Ctx.act (x : Ctx) (f v : Nat) : Nat :=
  match f with
  | 0 => fMax2 v 0
  | 1 =>
    let a := fMul v v
    let a := fMul a v
    let a := fMul a geluK1
    let a := fAdd v a
    let a := fMul a geluK2
    let a := fTanh a
    let a := fAdd fOne a
    let a := fMul v a
    fMul 0x3F000000 a
  | 2 => fMul v (fSigma v)
  | 3 => x.table v
  | _ => v

/-- round(v, spec) over a row (R149). -/
def Ctx.roundRow (x : Ctx) (spec stream r : Nat) (vs : List (Nat × Nat)) : List (Nat × Nat) × Acct :=
  let f := fmtOf (bits spec 0 4)
  let slot := bits spec 5 12
  let (cs, a) := convertAll f slot (x.slotScale slot) (fun n => x.srMode (bit spec 4) stream r n) vs
  (cs.map fun c => (c.n, c.value), a)

/-- A row on its way through an epilogue: outputs, ledger record, whether the record changed, accounts, ledger fault. -/
structure Row where
  vs : List (Nat × Nat)
  led : Rec
  touched : Bool
  acct : Acct
  fault : Option Nat
deriving DecidableEq, Repr

def Row.map (w : Row) (f : Nat → Nat → Nat) : Row := { w with vs := w.vs.map fun (n, v) => (n, f n v) }

/-- Apply a stream element to each output. -/
def Ctx.withStream (x : Ctx) (d r : Nat) (w : Row) (f : Nat → Nat → Nat) : Row :=
  let rs := w.vs.map fun (n, v) => let (t, a) := x.streamVal d r n; ((n, f v t), a)
  { w with vs := rs.map (·.1), acct := rs.foldl (fun a y => a.add y.2) w.acct }

/-- The record a contribution works on, or the fault of R156. -/
def Ctx.contribRec (x : Ctx) (first : Bool) (w : Row) : Except Nat Rec :=
  if first then .ok x.fresh
  else match x.opened w.led with
    | some c => .error c
    | none => .ok w.led

/-- Rotary pair of R145: cosine and sine of pos × f[i]. -/
def Ctx.rotary (x : Ctx) (pos i : Nat) : Nat × Nat :=
  let th := fMul (fNat pos) (f32 (val32 (x.rd (fld x.c 164 0 20 + 4 * i) 4)))
  (fCos th, fSin th)

/-- One epilogue operation at position j (1 to 10) on output row r; `partner` holds the paired array's results (R147). -/
def Ctx.epi (x : Ctx) (partner : List (Nat × Nat)) (r j op : Nat) (w : Row) : Row :=
  let sel := fld op 1 0 4
  let st := x.stream (fld op 1 4 2)
  let st2 := x.stream (fld op 1 6 2)
  let param := fld op 2 0 24
  let c0 := f32 (val32 (fld op 8 0 32))
  let first := bit param 0
  let srs := fld x.c 16 0 32
  match fld op 0 0 8 with
  | 0x01 => x.withStream st r w fAdd
  | 0x02 => w.map fun _ v => fMul v c0
  | 0x03 => w.map fun _ v => x.act sel v
  | 0x04 =>
    let g := w.vs.map fun (n, _) => (n, (lookupKey n partner).getD 0)
    let (g, a1) := if bit param 0 then x.roundRow (fld op 8 0 17) (srs + 2 * j - 1) r g else (g, {})
    let h := g.map fun (n, v) => (n, x.act sel v)
    let (h, a2) := if bit param 1 then x.roundRow (fld op 12 0 17) (srs + 2 * j) r h else (h, {})
    { w.map fun n v => fMul v ((lookupKey n h).getD 0) with acct := (w.acct.add a1).add a2 }
  | 0x05 => x.withStream st r w fAdd
  | 0x06 => w.map fun n v =>
      if philoxX0 x.env.seed (x.index r n) x.env.step (fld x.c 20 0 32) / 256 < param then 0 else fMul v c0
  | 0x07 =>
    let hd := bits param 0 16
    let at' (n : Nat) : Nat := (lookupKey n w.vs).getD 0
    w.map fun n v =>
      let pc := x.posCol n
      if pc % 2 = 0 then
        let (c, s) := x.rotary (x.posRow r) (pc % hd / 2)
        fSub (fMul v c) (fMul (at' (n + 1)) s)
      else
        let (c, s) := x.rotary (x.posRow r) ((pc - 1) % hd / 2)
        fAdd (fMul (if n = 0 then 0 else at' (n - 1)) s) (fMul v c)
  | 0x08 =>
    match x.contribRec first w with
    | .error c => { w with fault := some c }
    | .ok rc =>
      let (rc, _) := x.foldRow (-1) rc (w.vs.map fun (n, v) => ⟨n, v, true, 0, 0⟩)
      { w with led := rc, touched := true }
  | 0x09 =>
    match x.contribRec first w with
    | .error c => { w with fault := some c }
    | .ok rc =>
      let live (n : Nat) : Bool := !(bit param 1 && decide (x.posRow r < x.posCol n))
      let (rc, gs) := x.foldRow (-1) rc (w.vs.map fun (n, v) => ⟨n, v, live n, 0, 0⟩)
      let vs := gs.flatMap fun (m, g) => g.map fun o => (o.n, if o.live then fExp (fSub o.v m) else 0)
      { w with led := rc, touched := true, vs := vs }
  | 0x0A =>
    match x.openedAttn w.led with
    | some c => { w with fault := some c }
    | none =>
      let al := fExp (fSub w.led.aux w.led.max)
      if first then w else x.withStream st r w fun v o => fAdd (fMul o al) v
  | 0x0B =>
    let label := signed 32 (x.rd (x.streamOff st r 0) 4)
    if sel = 0 then
      match x.contribRec first w with
      | .error c => { w with fault := some c }
      | .ok rc =>
        let (rc, _) := x.foldRow label rc (w.vs.map fun (n, v) => ⟨n, v, true, 0, 0⟩)
        { w with led := rc, touched := true }
    else
      match x.closed w.led x.lid with
      | some c => { w with fault := some c }
      | none => w.map fun n v =>
          if label < 0 then 0
          else
            let q := fDiv (fExp (fSub v w.led.max)) w.led.sumexp
            fMul (fSub q (if ((x.posCol n : Nat) : Int) = label then fOne else 0)) c0
  | 0x0C =>
    let tr := recOf (x.rd (x.streamOff st2 r 0) 32)
    match x.closed tr (bits param 12 12) with
    | some c => { w with fault := some c }
    | none =>
      let ts := w.vs.map fun (n, _) => (n, x.streamVal st r n)
      let acct := ts.foldl (fun a t => a.add t.2.2) w.acct
      let tv (n : Nat) : Nat := ((lookupKey n ts).map (·.1)).getD 0
      let q (n : Nat) : Nat := fDiv (fExp (fSub (tv n) tr.max)) tr.sumexp
      if sel = 0 then
        match x.contribRec first w with
        | .error c => { w with fault := some c }
        | .ok rc =>
          let rc := if first && x.part == 0 then { rc with aux := fNeg (fAdd tr.max (fLog tr.sumexp)) } else rc
          let (rc, _) := x.foldRow (-1) rc (w.vs.map fun (n, v) => ⟨n, v, true, q n, tv n⟩)
          { w with led := rc, touched := true, acct := acct }
      else
        match x.closed w.led x.lid with
        | some c => { w with fault := some c }
        | none =>
          { w.map fun n v => fMul (fSub (fDiv (fExp (fSub v w.led.max)) w.led.sumexp) (q n)) c0 with acct := acct }
  | 0x0D =>
    match x.opened w.led with
    | some c => { w with fault := some c }
    | none =>
      let rows := fld x.c 148 0 20
      let off := x.recOff r - fld x.c 136 0 20
      let ps := (List.range (x.parts - 1)).map fun p => recOf (x.rd (fld x.c 144 0 20 + p * rows * 32 + off) 32)
      if ps.any fun q => (x.opened q).isSome then { w with fault := some 5 }
      else
        let rc := finishRec (ps.foldl mergeRec w.led)
        let w := { w with led := rc, touched := true }
        if sel = 1 then w.map fun _ v => fDiv v rc.sumexp else w
  | 0x0E =>
    let (vs, a) := x.roundRow (bits param 0 17) (srs + 2 * j - 1) r w.vs
    { w with vs := vs, acct := w.acct.add a }
  | _ => w

/-- Epilogue operations of the entry (R141). -/
def chainEpi (c : Nat) : List Nat := (List.range (fld c 3 0 4)).map fun i => fld c (216 + 16 * i) 0 128
def chainPro (c : Nat) : List Nat := (List.range (fld c 3 4 2)).map fun i => fld c (168 + 16 * i) 0 128
def chainOfmt (c : Nat) : Nat := fld c 12 0 4
def chainOSlot (c : Nat) : Nat := fld c 8 0 12
def chainASlot (c : Nat) : Nat := fld c 4 0 12
def chainWSlot (c : Nat) : Nat := fld c 6 0 12
def chainGSlot (c : Nat) : Nat := fld c 10 0 12
def chainTwrite (c : Nat) : Bool := fld c 12 5 1 == 1

/-- Run the epilogue operations on an output row, then the final conversion (R147). -/
def Ctx.epilogue (x : Ctx) (r : Nat) (vs partner : List (Nat × Nat)) : Row × List Conv :=
  let w : Row := ⟨vs, recOf (x.rd (x.recOff r) 32), false, {}, none⟩
  let w := (chainEpi x.c).zipIdx.foldl (fun w (op, i) => if w.fault.isSome then w else x.epi partner r (i + 1) op w) w
  let slot := chainOSlot x.c
  let (cs, a) := convertAll (fmtOf (chainOfmt x.c)) slot (x.slotScale slot)
    (fun n => x.srMode (fld x.c 12 4 1 == 1) (fld x.c 16 0 32) r n) w.vs
  ({ w with acct := w.acct.add a }, cs)

/-! ## Writing a row (R70, R106, R109, R147) -/

/-- Replace `len` bits at bit position `b` from a byte address. -/
def State.storeBits (s : State) (a b len v : Nat) : State :=
  let a := a + b / 8
  let b := b % 8
  let n := (b + len + 7) / 8
  let old := s.num a n
  s.store a (leBytes n (old - put b len (bits old b len) + put b len v))

/-- First 64-B line boundary at or after a number of bytes. -/
def lineUp (n : Nat) : Nat := (n + 63) / 64 * 64

/-- Write a converted row into a core's SRAM: elements, then MX block scales after the row's last element. -/
def writeRow (s : State) (core : Nat) (p : PassI) (c : Nat) (r cols : Nat) (cs : List Conv) : State :=
  let f := fmtOf (chainOfmt c)
  let base := sramAddr core p.oAddr
  if chainTwrite c then
    s.each cs fun e t => t.storeBits (base + e.n * p.oStride * 64) (r * f.width) f.width (f.encode e.u)
  else
    let row := base + r * p.oStride * 64
    let s := s.each cs fun e t => t.storeBits row (e.n * f.width) f.width (f.encode e.u)
    if f.mx then
      s.each ((cs.map (·.n / 32)).eraseDups.filterMap fun b => cs.find? fun e => e.n / 32 == b) fun e t =>
        t.store (row + lineUp ((cols * f.width + 7) / 8) + e.n / 32) [BitVec.ofInt 8 (e.shift + 127)]
    else s

end Sys2Proof.Machine
end

