-- ==== Sys2Proof/Machine/Pass.lean ====
section
/-! DEFINITION. One pass through the array, the matrix-vector path or diagonal mode (03 R70 to R98): operands, window
accumulation, the check, replay and release. -/

namespace Sys2Proof.Machine

/-- INFO of a core's event (R372). -/
def coreInfo (pc row cause : Nat) : Nat := put 0 24 pc + put 24 16 row + put 40 8 cause

/-- `len` bits at bit position `b` from a byte address. -/
def State.bitsAt (s : State) (a b len : Nat) : Nat := bits (s.num (a + b / 8) ((b % 8 + len + 7) / 8)) (b % 8) len

/-! ## Operands (R70, R82 to R84, R88, R106, R109) -/

/-- Band depth D of an operand of a pass (R111). -/
def bandDepth (afmt wfmt : Nat) (mine : Fmt) : Int :=
  let a := fmtOf afmt
  let w := fmtOf wfmt
  if mine.mx then ((79 - a.span - w.span) / (boolBit a.mx + boolBit w.mx) : Nat) else 0

def aSpec (s : State) (p : PassI) (c : Nat) : OpSpec :=
  let k := chainASlot c
  ⟨fmtOf p.afmt, k, (s.slot k).scale, bandDepth p.afmt p.wfmt (fmtOf p.afmt)⟩

def wSpec (s : State) (p : PassI) (slot : Nat) : OpSpec :=
  ⟨fmtOf p.wfmt, slot, (s.slot slot).scale, bandDepth p.afmt p.wfmt (fmtOf p.wfmt)⟩

/-- Activation elements of a row that meet weights: all K, or in QUARTER the first K of each half (R82). -/
def liveElems (p : PassI) : List Nat :=
  if p.shape = 1 then List.range p.k ++ upFrom (tileK p.afmt p.wfmt / 2) p.k else List.range p.k

/-- The last activation element of a row that meets weights; K is not 0. -/
def lastElem (p : PassI) : Nat := (if p.shape = 1 then tileK p.afmt p.wfmt / 2 else 0) + p.k - 1

/-- Elements a stored activation row holds (R82, R109). -/
def rowElems (p : PassI) : Nat := if p.shape = 1 then tileK p.afmt p.wfmt else p.k

/-- Code and block scale byte of stored activation element (r, e) in a format. -/
def aCode (s : State) (core : Nat) (p : PassI) (f : Fmt) (tread : Bool) (r e : Nat) : Nat × Nat :=
  let base := sramAddr core p.aAddr
  if tread then (s.bitsAt (base + e * p.aStride * 64) (r * f.width) f.width, 0)
  else
    let row := base + r * p.aStride * 64
    (s.bitsAt row (e * f.width) f.width,
      if f.mx then s.num (row + lineUp ((rowElems p * f.width + 7) / 8) + e / 32) 1 else 0)

/-- Code and block scale byte of weight (k, n) as stored for `core` (R70, R109); in DIAG `k` is the row of y (R88). -/
def wCode (s : State) (core : Nat) (p : PassI) (k n : Nat) : Nat × Nat :=
  let f := fmtOf p.wfmt
  let base := sramAddr core p.wAddr
  if p.shape = 5 then
    let row := base + k * p.wStride * 64
    (s.bitsAt row (n * f.width) f.width, if f.mx then s.num (row + lineUp ((p.k * f.width + 7) / 8) + n / 32) 1 else 0)
  else if p.trans then
    let row := base + n * p.wStride * 64
    (s.bitsAt row (k * f.width) f.width, if f.mx then s.num (row + lineUp ((p.k * f.width + 7) / 8) + k / 32) 1 else 0)
  else if f.mx then
    (s.bitsAt (base + (k + k / 32) * p.wStride * 64) (n * f.width) f.width,
      s.num (base + (33 * (k / 32) + 32) * p.wStride * 64 + n) 1)
  else (s.bitsAt (base + k * p.wStride * 64) (n * f.width) f.width, 0)

/-! ## Prologue (R145, R146) -/

/-- An activation row as the array receives it: element number and value relative to A_SLOT, or a ledger fault. -/
structure ARow where
  vals : List (Nat × Dy)
  acct : Acct
  fault : Option Nat

/-- NORM on a row (R145). -/
def Ctx.norm (x : Ctx) (op r : Nat) (vs : List (Nat × Nat)) : List (Nat × Nat) × Acct × Option Nat :=
  let rc := recOf (x.rd (x.recOff r) 32)
  match x.closed rc x.lid with
  | some c => (vs, {}, some c)
  | none =>
    let c := fNat rc.count
    let layer := fld op 1 0 4 == 0
    let mu := if rc.count = 0 || !layer then 0 else fDiv rc.sum c
    let var := if rc.count = 0 then 0 else if layer then fSub (fDiv rc.sumsq c) (fMul mu mu) else fDiv rc.sumsq c
    let sg := fRsqrt (fAdd (fMax2 var 0) (f32 (val32 (fld op 8 0 32))))
    let st := fld op 1 4 2
    let rs := vs.map fun (k, v) =>
      let y := fMul (fSub v mu) sg
      if st = 0 then ((k, y), ({} : Acct)) else let (g, a) := x.streamVal (x.stream st) r k; ((k, fMul y g), a)
    (rs.map (·.1), rs.foldl (fun a y => a.add y.2) {}, none)

/-- ROPE on a row (R145); the absent partner of a last odd element counts as +0. -/
def Ctx.ropePro (x : Ctx) (op r : Nat) (vs : List (Nat × Nat)) : List (Nat × Nat) :=
  let hd := fld op 2 0 16
  let at' (k : Nat) : Nat := (lookupKey k vs).getD 0
  vs.map fun (k, v) =>
    let (c, s) := x.rotary (x.posRow r) ((k / 2 * 2) % hd / 2)
    (k, if k % 2 = 0 then fSub (fMul v c) (fMul (at' (k + 1)) s) else fAdd (fMul (at' (k - 1)) s) (fMul v c))

/-- Band depth with which NORM and ROPE decode an MX IN_FMT. DESIGN CHOICE (log entry 106): R111 gives D for the operands of a
pass alone; a prologue's operand meets no product, and takes the whole 79 positions of the window. -/
def prologueDepth : Int := 79

/-- Row r of the activation operand, after the prologue; a pass with K = 0 broadcasts nothing (R74). -/
def Ctx.aRow (x : Ctx) (r : Nat) : ARow :=
  let pro := chainPro x.c
  let tread := pro.any fun o => fld o 0 0 8 == 0x23
  let ops := pro.filter fun o => fld o 0 0 8 != 0x23
  let spec := aSpec x.s x.p x.c
  let es := liveElems x.p
  if x.p.k = 0 then ⟨[], {}, none⟩
  else match ops.head? with
  | none =>
    let vs := es.map fun e =>
      let (c, b) := aCode x.s x.core x.p spec.fmt tread r e
      let (v, k) := spec.decode c b (e % 32 == 0)
      ((e, v), Acct.ev spec.slot k)
    ⟨vs.map (·.1), vs.foldl (fun a y => a.add y.2) {}, none⟩
  | some o =>
    let isNorm := fld o 0 0 8 == 0x21
    let inFmt := fmtOf (if isNorm then fld o 2 12 4 else fld o 2 16 4)
    let inSlot := if isNorm then fld o 2 0 12 else fld o 12 0 12
    let inSpec : OpSpec := ⟨inFmt, inSlot, x.slotScale inSlot, prologueDepth⟩
    let rd := es.map fun e =>
      let (c, b) := aCode x.s x.core x.p inFmt tread r e
      let (v, k) := inSpec.value c b (e % 32 == 0)
      ((e, v), Acct.ev inSlot k)
    let start : List (Nat × Nat) × Acct × Option Nat := (rd.map (·.1), rd.foldl (fun a y => a.add y.2) {}, none)
    let (vs, acct, fault) := ops.foldl (fun (vs, a, ft) op =>
      if ft.isSome then (vs, a, ft)
      else if fld op 0 0 8 = 0x21 then let (w, b, g) := x.norm op r vs; (w, a.add b, g)
      else (x.ropePro op r vs, a, ft)) start
    let (cs, ca) := convertAll spec.fmt spec.slot spec.scale (fun _ => .rne) vs
    let clamps := ca.evs.filterMap fun (k, e) => if e = .saturated then some (k, NumEv.decodeClamp) else none
    let out := cs.map fun c =>
      let (v, k) := spec.decode (spec.fmt.encode c.u) (c.shift + 127).toNat (c.n % 32 == 0)
      ((c.n, v), Acct.ev spec.slot k)
    ⟨out.map (·.1), (out.foldl (fun a y => a.add y.2) acct).add ⟨clamps, ca.maxs⟩, fault⟩

/-! ## Check units (R91 to R95) -/

/-- A group of columns and K positions that one check value covers. `ks` pairs weight position and activation element;
`core` is the core whose array, and whose SRAM, holds the weights. -/
structure CheckUnit where
  core : Nat
  cols : List Nat
  ks : List (Nat × Nat)

/-- The check units of a pass issued by `core`, weights in the SRAM R83 and R84 name. -/
def checkUnits (core : Nat) (p : PassI) : List CheckUnit :=
  let kt := tileK p.afmt p.wfmt
  let allK := (List.range p.k).map fun k => (k, k)
  let colsIn (lo n : Nat) : List Nat := (upFrom lo n).filter (· < p.n)
  match p.shape with
  | 1 => (List.range 2).map fun h =>
      ⟨core, ((List.range 2).filter fun j => bit p.qmask (2 * h + j)).flatMap fun j => upFrom (16 * (2 * h + j)) p.n,
        (List.range p.k).map fun k => (k, h * (kt / 2) + k)⟩
  | 2 => (List.range 4).map fun a =>
      ⟨core + a, colsIn (32 * (a % 2)) 32, allK.filter fun k => k.1 / kt % 2 == a / 2⟩
  | 3 => (List.range 8).map fun u => ⟨core, colsIn (32 * u) 32, allK⟩
  | _ => [⟨core, List.range p.n, allK⟩]

/-- Weights of a unit for output row r: by column, the decoded values in the order of its K positions. -/
def unitWeights (s : State) (p : PassI) (spec : OpSpec) (u : CheckUnit) (r : Nat) : List (Nat × List Dy) × Acct :=
  let ws := u.cols.map fun n =>
    let col := u.ks.map fun (k, _) =>
      if p.shape = 5 then
        if k = n then let (c, b) := wCode s u.core p r n; spec.decode c b (n % 32 == 0) else (Dy.zero, [])
      else let (c, b) := wCode s u.core p k n; spec.decode c b (k % 32 == 0)
    ((n, col.map (·.1)), Acct.ev spec.slot (col.flatMap (·.2)))
  (ws.map (·.1), ws.foldl (fun a y => a.add y.2) {})

/-- ρ of a dyadic value: (m × 2^(j mod 12)) mod 4,095. -/
def rho (x : Dy) : Nat := (x.m * ((2 ^ (x.e % 12).toNat : Nat) : Int) % 4095).toNat

/-- A 96-bit two's complement entry. -/
def wrap96 (x : Int) : Int := signed 96 (unsigned 96 x)

/-- A column's entry: the sum of its products on the window (R114). -/
def entryOf (wexp : Int) (as ws : List Dy) : Int := (List.zipWith (fun a w => (a.mul w).trunc wexp) as ws).foldl (· + ·) 0

/-- The check value of a unit for one row: the sum in window units for BF16, the rotated residue for narrow formats (R92,
R93). -/
def checkValue (p : PassI) (as : List Dy) (ws : List (Nat × List Dy)) : Int :=
  let cks := (List.range as.length).map fun i => ws.foldl (fun a w => a.add (w.2.getD i Dy.zero)) Dy.zero
  if p.afmt = 0 then (List.zipWith (fun a c => (a.mul c).trunc p.wexp) as cks).foldl (· + ·) 0
  else
    let x : Nat := (List.zipWith (fun a c => rho a * rho c) as cks).foldl (· + ·) 0 % 4095
    ((x * 2 ^ ((-p.wexp) % 12).toNat % 4095 : Nat) : Int)

/-- The bound of a BF16 check over `ka` K positions (R93, R95). -/
def checkBound (p : PassI) (ka : Nat) : Nat := (if p.shape = 4 then p.n + 1 else 33) * ka

/-- Does a sum of entries agree with a check value: by residue for narrow formats, within `bound` for BF16 (R92 to R95)?
DESIGN CHOICE (log entry 103): with no K position the bound is 0, which no difference is below; the row passes when the
difference is 0. -/
def checkAgrees (p : PassI) (bound : Nat) (sum x : Int) : Bool :=
  if p.afmt = 0 then
    let d := (wrap96 (sum - x)).natAbs
    if bound = 0 then d == 0 else decide (d < bound)
  else decide ((sum - x) % 4095 = 0)

/-! ## A pass -/

/-- Result columns of one row: FP32 results and window overflows (R115). -/
def roundRow (p : PassI) (shift : Int) (oslot : Nat) (es : List (Nat × Int)) : List (Nat × Nat) × Acct :=
  let rs := es.map fun (n, e) =>
    let u : Dy := ⟨e, p.wexp + shift⟩
    ((n, f32 u), if fmtFP32.top.lt u.abs then Acct.ev oslot [.windowOvf] else {})
  (rs.map (·.1), rs.foldl (fun a y => a.add y.2) {})

/-- A unit's part of one row: its array, its entries by column, its check value and the bound of its check. -/
structure UnitRow where
  array : Nat
  entries : List (Nat × Int)
  check : Int
  bound : Nat

/-- Sum of the values of a list of columns. -/
def sumCols (es : List (Nat × Int)) : Int := es.foldl (fun a e => a + e.2) 0

/-- The entries and the check value of one unit for a row, with the errors of an attempt. -/
def unitRow (p : PassI) (errs : List CellErr) (place i : Nat) (u : CheckUnit) (ws : List (Nat × List Dy)) (row : List (Nat × Dy)) : UnitRow :=
  let as : List Dy := u.ks.map fun k => (lookupKey k.2 row).getD Dy.zero
  let es : List (Nat × Int) := ws.map fun (n, w) =>
    (n, wrap96 ((errs.filter fun e : CellErr => e.place = place && e.unit = i && e.col = n).foldl (fun a e => a + e.delta) (entryOf p.wexp as w)))
  ⟨if p.shape = 3 then i / 2 else i, es, checkValue p as ws, checkBound p as.length⟩

/-- One array or gang of a pass for one row: outputs by column, and whether every check passes, with the errors of an attempt.
In QUAD and WIDE the check values of arrays 0 and 2, and of arrays 1 and 3, are added and compared again with the combined
outputs (R94). -/
def arrayRow (p : PassI) (errs : List CellErr) (place : Nat) (units : List (CheckUnit × List (Nat × List Dy))) (row : List (Nat × Dy)) :
    List (Nat × Int) × Bool :=
  let per : List UnitRow := units.zipIdx.map fun ((u, ws), i) => unitRow p errs place i u ws row
  let ganged := p.shape == 2 || p.shape == 3
  let cols := (per.flatMap fun x => x.entries.map (·.1)).eraseDups
  let sums := cols.map fun n => (n, sumCols (per.flatMap fun x => x.entries.filter (·.1 = n)))
  let comb := errs.filter fun e => ganged && place = 0 && e.place = 1
  let out := sums.map fun (n, e) => (n, wrap96 ((comb.filter (·.col = n)).foldl (fun a e => a + e.delta) e))
  let combined := !ganged || (List.range 2).all fun h =>
    let us := per.filter fun x => x.array % 2 == h
    let mine := (us.flatMap fun x => x.entries.map (·.1)).eraseDups
    checkAgrees p (us.foldl (fun a x => a + x.bound) 0) (sumCols (out.filter fun e => mine.contains e.1)) (us.foldl (fun a x => a + x.check) 0)
  (out, (per.all fun x => checkAgrees p x.bound (sumCols x.entries) x.check) && combined)

/-- Core whose epilogue takes a column (R83, R84). -/
def epiCore (core : Nat) (p : PassI) (n : Nat) : Nat := if p.shape = 2 then core + n / 32 else if p.shape = 3 then core + n / 64 else core

/-- A running pass: state, next row to release, rows' accounts, end. -/
structure PassRun where
  s : State
  next : Nat
  acct : Acct
  fault : Option Nat

/-- The fixed parts of a pass in execution. -/
structure PassJob where
  core : Nat
  pc : Nat
  p : PassI
  c : Nat
  loops : List LoopSt
  env : Env
  errs : PassErrs
  /-- state at the start of the pass, from which operands are read on every attempt (R96) -/
  s0 : State

def PassJob.ctx (j : PassJob) (s : State) (core : Nat) : Ctx := ⟨s, core, j.c, j.p, j.loops, j.env⟩

/-- K positions of one tile of a shape (R73). -/
def PassI.perTile (p : PassI) : Nat :=
  let t := tileK p.afmt p.wfmt
  if p.shape = 1 || p.shape = 3 then t / 2 else if p.shape = 2 then 2 * t else t

/-- Units with their weights for row r (the same for every row but in DIAG). -/
def PassJob.loaded (j : PassJob) (r slot : Nat) (core : Nat) : List (CheckUnit × List (Nat × List Dy)) × Acct :=
  let us := (checkUnits core j.p).map fun u => (u, unitWeights j.s0 j.p (wSpec j.s0 j.p slot) u r)
  (us.map fun (u, w) => (u, w.1), us.foldl (fun a u => a.add u.2.2) {})

/-- Core that holds the gate partner's array (R152). -/
def PassJob.partner (j : PassJob) : Nat := j.core / 4 * 4 + j.p.pair

/-- Did the two copies of the prologue or epilogue datapath disagree at a row of an attempt (R138)? -/
def PassJob.lock (j : PassJob) (att r : Nat) : Bool := j.errs.lockstep.any fun x => x.attempt == att && x.row == r
def PassJob.lockPro (j : PassJob) (att r : Nat) : Bool := j.errs.lockstep.any fun x => x.attempt == att && x.row == r && x.prologue

/-- The first row of an attempt whose check or lockstep comparison fails. A row without errors passes (R92, R93). -/
def PassJob.failing (j : PassJob) (att : Nat) : Option Nat :=
  (List.range j.p.m).find? fun r =>
    let errs := j.errs.cells.filter fun e => e.attempt = att && e.row = r
    j.lock att r || (!errs.isEmpty &&
      (let row := ((j.ctx j.s0 j.core).aRow r).vals
       let main := arrayRow j.p errs 0 (j.loaded r (chainWSlot j.c) j.core).1 row
       let part := if j.p.paired then (arrayRow j.p errs 2 (j.loaded r (chainGSlot j.c) j.partner).1 row).2 else true
       !(main.2 && part)))

/-- Release one row: its epilogues, its writes and its ledger record (R77, R139). -/
def PassJob.release (j : PassJob) (att : Nat) (x : PassRun) (r : Nat) : PassRun :=
  if x.fault.isSome then x
  else
    let p := j.p
    let errs := j.errs.cells.filter fun e => e.attempt = att && e.row = r
    let ar := (j.ctx j.s0 j.core).aRow r
    if ar.fault.isSome then { x with fault := ar.fault }
    else
      let sA := (j.s0.slot (chainASlot j.c)).scale
      let sW := (j.s0.slot (chainWSlot j.c)).scale
      let sG := (j.s0.slot (chainGSlot j.c)).scale
      let oslot := chainOSlot j.c
      let (vs, a1) := roundRow p (sA + sW) oslot (arrayRow p errs 0 (j.loaded r (chainWSlot j.c) j.core).1 ar.vals).1
      let (gs, a2) := if p.paired
        then roundRow p (sA + sG) oslot (arrayRow p errs 2 (j.loaded r (chainGSlot j.c) j.partner).1 ar.vals).1
        else ([], {})
      let x := { x with acct := (x.acct.add a1).add a2 }
      let cores := (vs.map fun v => epiCore j.core p v.1).eraseDups
      let x := cores.foldl (fun (x : PassRun) ec =>
        if x.fault.isSome then x
        else
          let ctx := j.ctx x.s ec
          let (w, cs) := ctx.epilogue r (vs.filter fun v => epiCore j.core p v.1 == ec) gs
          match w.fault with
          | some c => { x with fault := some c }
          | none =>
            let s := writeRow x.s ec p j.c r (if p.shape = 1 then 64 else p.n) cs
            let s := if w.touched then s.store (sramAddr ec (ctx.recOff r)) (leBytes 32 w.led.word) else s
            { x with s := s, acct := x.acct.add w.acct }) x
      { x with next := r + 1 }

/-- Decode events of the operands of one attempt that reached `rows` rows: weights on each load of a tile, activations on each
broadcast (R128). A row whose prologue copies disagreed takes no counter update (R138). -/
def PassJob.decodeAcct (j : PassJob) (att rows : Nat) (resident : Bool) : Acct :=
  let p := j.p
  let rs := List.range rows
  let acts : Acct := rs.foldl (fun (a : Acct) r => if j.lockPro att r then a else a.add ((j.ctx j.s0 j.core).aRow r).acct) {}
  let weights (slot core : Nat) : Acct :=
    if p.shape = 5 || p.shape = 4 then rs.foldl (fun (a : Acct) r => a.add (j.loaded r slot core).2) {}
    else
      let per := if p.shape = 1 || p.shape = 3 then 128 else 256
      let n := if p.k ≤ p.perTile then (if resident then 0 else 1) else ceilDiv rows per
      let one := (j.loaded 0 slot core).2
      (List.range n).foldl (fun (a : Acct) _ => a.add one) {}
  let w : Acct := if p.k = 0 then {} else (weights (chainWSlot j.c) j.core).add (if p.paired then weights (chainGSlot j.c) j.partner else {})
  if att = 0 || rows > 0 then acts.add w else {}

/-- Attempts of a pass: `left` replays may still be made (R96, R97). Answers the run, the replays made, and the row at
which no replay was left. A replay of a KEEP pass finds the tile that the attempt before it left (R80). -/
def PassJob.attempts (j : PassJob) (resident : Bool) : Nat → Nat → PassRun → PassRun × Nat × Option Nat
  | left, att, x =>
    let fail := j.failing att
    let stop := fail.getD j.p.m
    let x := (upFrom x.next (stop - x.next)).foldl (j.release att) x
    let rows := if x.fault.isSome then x.next + 1 else match fail with | none => j.p.m | some f => f + 1
    let x := { x with acct := x.acct.add (j.decodeAcct att rows resident) }
    match fail with
    | none => (x, att, none)
    | some f =>
      if x.fault.isSome then (x, att, none)
      else match left with
        | 0 => (x, att, some f)
        | n + 1 => j.attempts (resident || (j.p.keep && decide (j.p.k ≤ j.p.perTile))) n (att + 1) x

end Sys2Proof.Machine
end

