-- ==== Sys2Proof/Machine/Train.lean ====
section
/-! DEFINITION. Training descriptors (06 R176 to R188): their checks, the update, packing with error feedback, and the
exact sum of unpacking. -/

namespace Sys2Proof.Machine

/-- A training descriptor: its 128 B as a number. -/
abbrev Descr := Nat

def Descr.op (e : Descr) : Nat := fld e 0 0 8
def Descr.sel (e : Descr) : Nat := fld e 1 0 2
def Descr.ktop (e : Descr) : Nat := fld e 2 0 8
def Descr.useF (e : Descr) : Bool := fld e 3 0 1 == 1
def Descr.stream (e : Descr) : Nat := fld e 4 0 32
def Descr.count (e : Descr) : Nat := fld e 8 0 48
/-- A0 to A3. -/
def Descr.addr (e : Descr) (i : Nat) : Nat := fld e (16 + 8 * i) 0 48
/-- SLOT, SLOT2, SLOT3. -/
def Descr.slot (e : Descr) (i : Nat) : Nat := fld e (48 + 2 * i) 0 12
def Descr.eidx (e : Descr) : Nat := fld e 56 0 64
def Descr.sched (e : Descr) : Nat := fld e 64 0 48
def Descr.slen (e : Descr) : Nat := fld e 72 0 16
def Descr.step0 (e : Descr) : Nat := fld e 76 0 24
def Descr.ring (e : Descr) : Nat := fld e 64 0 12
def Descr.seq (e : Descr) : Nat := fld e 68 0 22
def Descr.f32 (e : Descr) (off : Nat) : Nat := Machine.f32 (val32 (fld e off 0 32))

/-- Bytes of one packed record (R183). -/
def Descr.recSize (e : Descr) : Nat :=
  match e.sel with
  | 0 => 512
  | 1 => ceilDiv (3 * e.ktop) 8 * 8
  | _ => 34

def Descr.adamw (e : Descr) : Bool := e.op == 1 && e.sel == 0

/-- Every byte run that must be zero is zero. -/
def zeroFields (e : Nat) (fs : List (Nat × Nat × Nat)) : Bool := fs.all fun f => fld e f.1 f.2.1 f.2.2 == 0

/-- Reserved fields, and fields that OP and SEL leave unused (R176, R177). -/
def Descr.unused (e : Descr) : List (Nat × Nat × Nat) :=
  [(1, 2, 6), (3, 1, 7), (8, 48, 16), (16, 48, 16), (24, 48, 16), (32, 48, 16), (40, 48, 16), (48, 12, 4), (50, 12, 4), (52, 12, 4), (54, 0, 16)]
    ++ (if e.op = 1 then
      [(2, 0, 8), (64, 48, 16), (74, 0, 16), (79, 0, 8), (104, 20, 12), (108, 0, 160)] ++ (if e.useF then [] else [(104, 0, 20)])
        ++ (if e.adamw then [] else [(32, 0, 48), (52, 0, 12), (88, 0, 96)])
    else
      [(3, 0, 1), (52, 0, 12), (64, 12, 4), (66, 0, 16), (68, 22, 10), (72, 0, 448)] ++ (if e.sel = 1 then [] else [(2, 0, 8)])
        ++ (if e.op = 2 then [(40, 0, 48), (64, 0, 12)]
          else [(4, 0, 32), (16, 0, 48), (32, 0, 48), (50, 0, 12), (56, 0, 64)]))

/-- Address ranges a descriptor names: start and length. -/
def Descr.ranges (e : Descr) : List (Nat × Nat) :=
  let n := e.count
  match e.op with
  | 1 => [(e.addr 0, 2 * n), (e.addr 1, 2 * n), (e.addr 3, 4 * n)] ++ if e.adamw then [(e.addr 2, 2 * n)] else []
  | 2 => [(e.addr 0, 2 * n), (e.addr 1, 2 * n), (e.addr 2, n / 256 * e.recSize)]
  | _ => [(e.addr 1, n / 256 * e.recSize), (e.addr 3, 4 * n)]

/-- Slots a descriptor names. -/
def Descr.slots (e : Descr) : List Nat :=
  match e.op with
  | 1 => [e.slot 0, e.slot 1] ++ if e.adamw then [e.slot 2] else []
  | 2 => [e.slot 0, e.slot 1]
  | _ => [e.slot 0]

/-- Why a descriptor is refused at run time, by CORE_TRAIN_STATUS.CAUSE (R177, R191): the lowest cause that applies. -/
def descrCause (s : State) (d core : Nat) (phase : Phase) (e : Descr) : Option Nat :=
  let opOk := (e.op == 1 && decide (e.sel ≤ 1)) || ((e.op == 2 || e.op == 3) && decide (e.sel ≤ 2))
  let topOk := e.op == 1 || e.sel != 1 || (decide (1 ≤ e.ktop) && decide (e.ktop ≤ 128))
  let inside (r : Nat × Nat) : Bool := r.2 == 0 || inSram core r.1 r.2 || s.inRegions d r.1 r.2
  if !(opOk && topOk && zeroFields e e.unused) then some 1
  else if e.op ≠ 1 && e.count % 256 ≠ 0 then some 2
  else if !(e.ranges.all inside && (e.op != 1 || s.inRegions d e.sched (16 * e.slen))) then some 3
  else if e.slots.any fun k => let t := s.slot k; !t.valid || t.district != d || t.format != 0 then some 4
  else if e.op = 1 && (e.ranges ++ [(e.sched, 16 * e.slen)]).any fun r => (s.regions d).any fun g => g.frozen && overlaps r.1 r.2 g.base g.size then some 5
  else if e.op = 1 && phase ≠ .update then some 6
  else if e.op = 1 && (e.slen = 0 || e.sched % 16 ≠ 0) then some 7
  else none

/-- A BF16 value of memory as FP32. DESIGN CHOICE (log entry 105): R105 speaks of the operands of a pass and R449 of streams; a
training descriptor takes a stored infinity as the largest FP32 value with its sign and a NaN as +0, and counts neither. -/
def State.bf16 (s : State) (a : Nat) : Nat := f32 (val32 (s.num a 2 * 65536))

/-- Convert to BF16 for a slot; the stored code and its account. -/
def toBf16 (s : State) (slot : Nat) (mode : RMode) (v : Nat) : Nat × Nat × Acct :=
  let (cs, a) := convertAll fmtBF16 slot (s.slot slot).scale (fun _ => mode) [(0, v)]
  match cs.head? with
  | none => (0, 0, a)
  | some c => (fmtBF16.encode c.u, f32 c.u, a)

/-- The schedule entry of a step: its number, and whether the table had ended (R180). -/
def schedEntry (e : Descr) (step : Nat) : Nat × Bool :=
  let k := gap 24 step e.step0
  if e.slen ≤ k then (e.slen - 1, true) else (k, false)

/-- Constants of an UPDATE: schedule entry and factor. -/
structure UpdK where
  lr : Nat
  bc1 : Nat
  bc2 : Nat
  wd : Nat
  f : Nat

/-- New w, m and v of one element (R179). -/
def updateElem (e : Descr) (k : UpdK) (w m v gs : Nat) : Nat × Nat × Nat :=
  let g := fMul gs (e.f32 100)
  let g := if e.useF then fMul g k.f else g
  let m := fAdd (fMul (e.f32 80) m) (fMul (e.f32 84) g)
  let v := if e.adamw then fAdd (fMul (e.f32 88) v) (fMul (e.f32 92) (fMul g g)) else v
  let u :=
    if e.adamw then
      let mh := fMul m k.bc1
      let vh := fMul v k.bc2
      let dn := fAdd (fMul vh (fRsqrt vh)) (e.f32 96)
      fDiv mh dn
    else m
  let t := fMul k.lr (fAdd u (fMul k.wd w))
  (fSub w t, m, v)

/-- Stochastic rounding of element i on stream STREAM + j. -/
def Descr.sr (e : Descr) (env : Env) (j i : Nat) : RMode :=
  .sr (srBits env.seed ((e.eidx + i) % 2 ^ 64) env.step ((e.stream + j) % 2 ^ 32))

/-- UPDATE of elements [lo, hi) (R179). -/
def updateRun (s : State) (env : Env) (core : Nat) (e : Descr) (lo hi : Nat) : State × Acct :=
  let (k, _) := schedEntry e env.step
  let rd (off : Nat) : Nat := f32 (val32 (s.num (e.sched + 16 * k + off) 4))
  let c : UpdK := ⟨rd 0, rd 4, rd 8, rd 12, f32 (val32 (s.num (sramAddr core (fld e 104 0 20)) 4))⟩
  (upFrom lo (hi - lo)).foldl (fun (s, a) i =>
    let (w, m, v) := updateElem e c (s.bf16 (e.addr 0 + 2 * i)) (s.bf16 (e.addr 1 + 2 * i))
      (if e.adamw then s.bf16 (e.addr 2 + 2 * i) else 0) (f32 (val32 (s.num (e.addr 3 + 4 * i) 4)))
    let put1 (s : State) (j ad v : Nat) : State × Acct :=
      let (code, _, a) := toBf16 s (e.slot j) (e.sr env j i) v
      (s.write env.district (ad + 2 * i) (leBytes 2 code), a)
    let (s, a1) := put1 s 0 (e.addr 0) w
    let (s, a2) := put1 s 1 (e.addr 1) m
    let (s, a3) := if e.adamw then put1 s 2 (e.addr 2) v else (s, {})
    (s, ((a.add a1).add a2).add a3)) (s, {})

/-- Indices of the KTOP elements of largest magnitude, ties to the lower index, in ascending order (R184). -/
def topIndices (k : Nat) (xs : List Nat) : List Nat :=
  let before (a b : Nat × Dy) : Bool := b.2.lt a.2 || (!a.2.lt b.2 && decide (a.1 < b.1))
  let ins (l : List (Nat × Dy)) (x : Nat × Dy) : List (Nat × Dy) := (l.takeWhile (before · x)) ++ [x] ++ (l.dropWhile (before · x))
  let sorted := (xs.zipIdx.map fun (v, i) => (i, (val32 v).abs)).foldl ins []
  let keep := (sorted.take k).map (·.1)
  (List.range xs.length).filter keep.contains

/-- PACK of block b (R184). -/
def packBlock (s : State) (env : Env) (e : Descr) (b : Nat) : State × Acct :=
  let ids := upFrom (256 * b) 256
  let xs := ids.map fun i => fAdd (s.bf16 (e.addr 0 + 2 * i)) (s.bf16 (e.addr 1 + 2 * i))
  let conv (v : Nat) : Nat × Nat × Acct := toBf16 s (e.slot 0) .rne v
  let (bytes, sent, a) : List Byte × List Nat × Acct :=
    match e.sel with
    | 0 =>
      let qs := xs.map conv
      (qs.flatMap fun q => leBytes 2 q.1, qs.map (·.2.1), qs.foldl (fun a q => a.add q.2.2) {})
    | 1 =>
      let ix := topIndices e.ktop xs
      let qs := ix.map fun i => (i, conv (xs.getD i 0))
      let body := qs.flatMap (fun q => leBytes 2 q.2.1) ++ ix.map (BitVec.ofNat 8 ·)
      (body ++ List.replicate (e.recSize - body.length) 0#8,
        (List.range 256).map fun i => ((lookupKey i qs).map (·.2.1)).getD 0, qs.foldl (fun a q => a.add q.2.2.2) {})
    | _ =>
      let sum := treeSum 8 (xs.map fun x => f32 (val32 x).abs)
      let (code, c, a) := conv (fMul sum (f32 ⟨1, -8⟩))
      let neg (x : Nat) : Bool := decide ((val32 x).m < 0)
      ((List.range 32).map (fun j => BitVec.ofNat 8 ((List.range 8).foldl (fun v i => v + put i 1 (boolBit (neg (xs.getD (8 * j + i) 0)))) 0))
        ++ leBytes 2 code, xs.map fun x => if neg x then fNeg c else c, a)
  let s := s.write env.district (e.addr 2 + b * e.recSize) bytes
  ((ids.zip (xs.zip sent))).foldl (fun (s, a) (i, x, q) =>
    let (code, _, a1) := toBf16 s (e.slot 1) (e.sr env 0 i) (fSub x q)
    (s.write env.district (e.addr 1 + 2 * i) (leBytes 2 code), a.add a1)) (s, a)

/-- Sent values of one packed record (R183); elements not sent are absent. -/
def recordVals (s : State) (e : Descr) (a : Nat) : List (Nat × Nat) :=
  match e.sel with
  | 0 => (List.range 256).map fun j => (j, s.bf16 (a + 2 * j))
  | 1 => (List.range e.ktop).map fun j => (s.num (a + 2 * e.ktop + j) 1, s.bf16 (a + 2 * j))
  | _ =>
    let c := s.bf16 (a + 32)
    (List.range 256).map fun j => (j, if bit (s.num (a + j / 8) 1) (j % 8) then fNeg c else c)

/-- Do the indices of a TOPK record ascend strictly (R186)? -/
def ascending : List Nat → Bool
  | a :: b :: r => decide (a < b) && ascending (b :: r)
  | _ => true

/-- A 128-bit two's complement accumulator (R187). -/
def wrap128 (x : Int) : Int := signed 128 (unsigned 128 x)

/-- UNPACK of block b from the records of every replica, in ascending ρ (R187). -/
def unpackBlock (s : State) (env : Env) (e : Descr) (srcs : List Nat) (b : Nat) : State :=
  let sc : Int := (s.slot (e.slot 0)).scale - 100
  let recs := srcs.map fun a => recordVals s e (a + b * e.recSize)
  s.each (List.range 256) fun j t =>
    let acc := recs.foldl (fun acc vs => wrap128 (acc + match lookupKey j vs with
      | none => 0
      | some v => (val32 v).trunc sc)) (0 : Int)
    t.write env.district (e.addr 3 + 4 * (256 * b + j)) (leBytes 4 (f32 ⟨acc, sc⟩))

end Sys2Proof.Machine
end

