-- ==== Sys2Proof/Machine/Ranges.lean ====
section
/-! DEFINITION. The ranges an instruction reads and writes (03 R69, R70, R73, R82 to R84; 05 R142, R143, R148), as device
addresses and lengths. -/

namespace Sys2Proof.Machine

/-- Bytes of a stored row of `n` elements, with the MX scales that follow it (R109). -/
def rowBytes (f : Fmt) (n : Nat) : Nat :=
  let b := (n * f.width + 7) / 8
  if f.mx then lineUp b + ceilDiv n 32 else b

def anyOverlap (as bs : List (Nat × Nat)) : Bool := as.any fun a => bs.any fun b => overlaps a.1 a.2 b.1 b.2

/-- Rows `n` of `len` bytes from `base`, `stride` 64-B lines apart. -/
def rowsAt (base n stride len : Nat) : List (Nat × Nat) :=
  if stride = 0 then (if n = 0 then [] else [(base, len)]) else (List.range n).map fun r => (base + r * stride * 64, len)

/-- Does a pass do work (R74)? -/
def PassI.live (p : PassI) : Bool := p.m != 0 && p.n != 0 && !(p.shape == 1 && p.qmask == 0)

/-- Activation rows of a pass, in the format in which they are stored (R70, R146). -/
def actRanges (core : Nat) (p : PassI) (c : Nat) : List (Nat × Nat) :=
  let pro := chainPro c
  let f := match (pro.filter fun o => fld o 0 0 8 != 0x23).head? with
    | none => fmtOf p.afmt
    | some o => fmtOf (if fld o 0 0 8 = 0x21 then fld o 2 12 4 else fld o 2 16 4)
  let base := sramAddr core p.aAddr
  if p.k = 0 then []
  else if pro.any fun o => fld o 0 0 8 == 0x23 then rowsAt base (rowElems p) p.aStride ((p.m * f.width + 7) / 8)
  else rowsAt base p.m p.aStride (rowBytes f (rowElems p))

/-- Weights that one array or gang of a pass reads, loaded for `core` (R70, R82 to R84, R88, R109). -/
def weightRanges (core : Nat) (p : PassI) : List (Nat × Nat) :=
  let f := fmtOf p.wfmt
  if p.k = 0 then []
  else (checkUnits core p).flatMap fun u =>
    let base := sramAddr u.core p.wAddr
    match u.cols.head?, u.cols.getLast? with
    | some lo, some hi =>
      let cut := lo * f.width / 8
      let len := ((hi + 1) * f.width + 7) / 8 - cut
      if p.shape = 5 then rowsAt base p.m p.wStride (rowBytes f p.k)
      else if p.trans then (u.cols.map fun n => (base + n * p.wStride * 64, rowBytes f p.k))
      else if f.mx then
        (u.ks.map fun k => (base + (k.1 + k.1 / 32) * p.wStride * 64 + cut, len))
          ++ ((u.ks.map (·.1 / 32)).eraseDups.map fun b => (base + (33 * b + 32) * p.wStride * 64 + lo, hi + 1 - lo))
      else u.ks.map fun k => (base + k.1 * p.wStride * 64 + cut, len)
    | _, _ => []

/-- Output columns of a pass (R82 to R84). -/
def outCols (p : PassI) : List Nat :=
  if p.shape = 1 then (List.range 4).flatMap fun q => if bit p.qmask q then upFrom (16 * q) p.n else [] else List.range p.n

/-- Cores whose epilogues write a pass's outputs, with their first and last columns. -/
def outCores (core : Nat) (p : PassI) : List (Nat × Nat × Nat) :=
  let cs := outCols p
  ((cs.map fun n => epiCore core p n).eraseDups).filterMap fun ec =>
    let mine := cs.filter fun n => epiCore core p n == ec
    match mine.head?, mine.getLast? with
    | some lo, some hi => some (ec, lo, hi)
    | _, _ => none

/-- Output rows, MX scales included (R70, R109, R147). -/
def outRanges (core : Nat) (p : PassI) (c : Nat) : List (Nat × Nat) :=
  let f := fmtOf (chainOfmt c)
  (outCores core p).flatMap fun (ec, lo, hi) =>
    let base := sramAddr ec p.oAddr
    if chainTwrite c then (upFrom lo (hi + 1 - lo)).map fun n => (base + n * p.oStride * 64, (p.m * f.width + 7) / 8)
    else
      let cut := lo * f.width / 8
      let main := rowsAt (base + cut) p.m p.oStride (((hi + 1) * f.width + 7) / 8 - cut)
      if f.mx then
        main ++ rowsAt (base + lineUp (((if p.shape = 1 then 64 else p.n) * f.width + 7) / 8) + lo / 32) p.m p.oStride (hi / 32 + 1 - lo / 32)
      else main

/-- Does the chain hold a ledger operation, or NORM, which reads the records (R143, R145)? -/
def chainLedger (c : Nat) : Bool := fld c 136 0 192 != 0

/-- Ledger records of the output rows (R143). -/
def ledgerRanges (x : Ctx) (core : Nat) (p : PassI) : List (Nat × Nat) :=
  if !chainLedger x.c then []
  else (outCores core p).flatMap fun (ec, _, _) => (List.range p.m).map fun r => (sramAddr ec (x.recOff r), 32)

/-- Streams that a chain's operations name, with whether a prologue operation names each (R142, R144). -/
def chainStreams (c : Nat) : List (Nat × Bool) :=
  let pro := ((chainPro c).filter fun o => fld o 0 0 8 == 0x21).map fun o => (fld o 1 4 2, true)
  let epi := (chainEpi c).flatMap fun o => [(fld o 1 4 2, false), (fld o 1 6 2, false)]
  (pro ++ epi).filter fun x => x.1 != 0

/-- Elements of the streams (R142). -/
def streamRanges (x : Ctx) (core : Nat) (p : PassI) : List (Nat × Nat) :=
  (chainStreams x.c).flatMap fun (i, pro) =>
    let d := x.stream i
    let size := let f := bits d 32 4; if f = 0xC then 32 else if f = 0xD || f = 0xF then 4 else if f = 0 then 2 else 1
    if bits d 52 2 = 1 then []
    else
      let spans : List (Nat × Nat × Nat) := if pro then (if p.k = 0 then [] else [(core, 0, lastElem p)]) else outCores core p
      spans.flatMap fun (ec, lo, hi) =>
        match bits d 48 2 with
        | 0 => (List.range p.m).map fun r => (sramAddr ec (x.streamOff d r lo), (hi + 1 - lo) * size)
        | 1 => [(sramAddr ec (x.streamOff d 0 lo), (hi + 1 - lo) * size)]
        | _ => (List.range p.m).map fun r => (sramAddr ec (x.streamOff d r 0), size)

/-- TABLE segments, rotary frequencies and the partials of a merge (R143, R145, R148, R158). -/
def constRanges (x : Ctx) (core : Nat) (p : PassI) : List (Nat × Nat) :=
  let cores := (outCores core p).map (·.1)
  let epi := chainEpi x.c
  let table := epi.any fun o => (fld o 0 0 8 == 3 || fld o 0 0 8 == 4) && fld o 1 0 4 == 3
  let ropes := ((chainPro x.c).filter fun o => fld o 0 0 8 == 0x22) ++ epi.filter fun o => fld o 0 0 8 == 7
  let parts := if epi.any fun o => fld o 0 0 8 == 0x0D then x.parts - 1 else 0
  let rows := fld x.c 148 0 20
  (if table then cores.map fun ec => (sramAddr ec (fld x.c 160 0 20), 764) else [])
    ++ (ropes.flatMap fun o => (addOnce cores core).map fun ec => (sramAddr ec (fld x.c 164 0 20), fld o 2 0 16 / 2 * 4))
    ++ cores.flatMap fun ec => (List.range parts).flatMap fun q => (List.range p.m).map fun r =>
      (sramAddr ec (fld x.c 144 0 20 + q * rows * 32 + (x.recOff r - fld x.c 136 0 20)), 32)

/-- Everything a pass reads and writes (R69). -/
def passReads (x : Ctx) : List (Nat × Nat) :=
  let p := x.p
  if !p.live then []
  else actRanges x.core p x.c ++ weightRanges x.core p ++ (if p.paired then weightRanges (x.core / 4 * 4 + p.pair) p else [])
    ++ streamRanges x x.core p ++ constRanges x x.core p ++ ledgerRanges x x.core p
def passWrites (x : Ctx) : List (Nat × Nat) :=
  if !x.p.live then [] else outRanges x.core x.p x.c ++ ledgerRanges x x.core x.p

/-! ## Outstanding instructions (R69) -/

def Core.outSrcs (c : Core) : List (Nat × Nat) := c.outs.flatMap (·.srcs)
def Core.outDsts (c : Core) : List (Nat × Nat) := c.outs.flatMap (·.dsts)

/-- May a READ, XFER or AWAIT start? -/
def Core.mayStart (c : Core) (srcs dsts : List (Nat × Nat)) : Bool :=
  decide (c.outs.length < 16) && !c.outsFull && !anyOverlap (srcs ++ dsts) c.outDsts && !anyOverlap dsts c.outSrcs

/-- May a SEND start? It is none of the 16 that a core keeps outstanding, and reads its source. -/
def Core.maySend (c : Core) (srcs : List (Nat × Nat)) : Bool := !anyOverlap srcs c.outDsts

/-- May a PASS broadcast its first row? -/
def Core.mayPass (c : Core) (reads writes : List (Nat × Nat)) : Bool :=
  !anyOverlap reads c.outDsts && !anyOverlap writes (c.outSrcs ++ c.outDsts)

/-- Lines of module memory that a write touches are counted by channel (R376). -/
def State.wroteLines (s : State) (a len : Nat) : State :=
  if len = 0 || isSram a then s
  else s.each (List.range ((a + len - 1) / 256 + 1 - a / 256)) fun i t =>
    let b := a / 256 + i
    let lo := max a (b * 256)
    let hi := min (a + len) ((b + 1) * 256)
    t.count (ctrChannel (channelOf (b * 256)) 1) ((hi - 1) / 64 + 1 - lo / 64)

end Sys2Proof.Machine
end

