-- ==== Sys2Proof/Machine/Cores.lean ====
section
/-! DEFINITION. The pass sequencer and the passes it issues (03 R64 to R98; 05 R138, R156; 11 R334). -/

namespace Sys2Proof.Machine

/-! ## Fetching (R65 to R69) -/

/-- The instruction a core would issue: district, the instruction with its increments applied, its program, best-effort or
not. -/
structure Fetched where
  d : Nat
  w : Nat
  prog : List Nat
  tile : Bool
deriving DecidableEq, Repr

def State.fetch (s : State) (n : Nat) : Option Fetched :=
  match s.coreDistrict n with
  | none => none
  | some d =>
    let c := s.core n
    let at' (prog : List Nat) (tile : Bool) : Option Fetched := prog[c.next]?.map fun w => ⟨d, stepped c.loops w, prog, tile⟩
    if s.halted || s.fenced d then none
    else match c.tile with
    | some t => at' t.prog true
    | none =>
      match c.work, s.active d with
      | some w, some g => if w.ended || c.sendWait.isSome then none else at' (g.prog n) false
      | _, _ => none

/-- The instruction a core would issue, when it has an opcode. -/
def State.fetchOp (s : State) (n op : Nat) : Option Fetched := (s.fetch n).filter fun f => fld f.w 0 0 8 == op

/-- The instruction is issued: PC names it (R102), whether it starts, waits or fails. -/
def State.issue (s : State) (n : Nat) : State := s.modCore n fun c => { c with pc := c.next }

/-- A READ, XFER or AWAIT is issued and waits; a 17th one waits for the oldest of the 16 outstanding (R69). -/
def State.waitIssue (s : State) (n : Nat) : State :=
  s.modCore n fun c => { c with pc := c.next, outsFull := c.outsFull || decide (16 ≤ c.outs.length) }

/-- The instruction is issued and complete: the next follows it. -/
def State.advanceCore (s : State) (n : Nat) : State := s.modCore n fun c => { c with pc := c.next, next := c.next + 1 }

/-- Row that a core's status registers and events name. -/
def State.coreEvent (s : State) (n row cause : Nat) : Nat := coreInfo (s.core n).next row cause

/-! ## Loops and END (R67, R68) -/

/-- Index after the ENDLOOP that closes the body at `i`; `depth` LOOPs are open inside it. -/
def skipBody (prog : List Nat) : Nat → Nat → Nat → Nat
  | 0, i, _ => i
  | k + 1, i, depth =>
    match (prog[i]?.map fun w => fld w 0 0 8) with
    | some 6 => skipBody prog k (i + 1) (depth + 1)
    | some 7 => if depth = 0 then i + 1 else skipBody prog k (i + 1) (depth - 1)
    | some _ => skipBody prog k (i + 1) depth
    | none => i

def execLoop (core : Fin 512) (s : State) : Host.Outcome State Fault Refusal :=
  .next (match s.fetchOp core 6 with
    | none => s
    | some f => s.modCore core fun c =>
      let count := fld f.w 1 0 24
      if count = 0 then { c with pc := c.next, next := skipBody f.prog f.prog.length (c.next + 1) 0 }
      else
        let l : LoopSt := ⟨c.next, count, 0, signed 24 (fld f.w 4 0 24), signed 24 (fld f.w 8 0 24), signed 24 (fld f.w 12 0 24)⟩
        { c with pc := c.next, next := c.next + 1, loops := l :: c.loops })

def execEndloop (core : Fin 512) (s : State) : Host.Outcome State Fault Refusal :=
  .next (match s.fetchOp core 7 with
    | none => s
    | some _ => s.modCore core fun c =>
      match c.loops with
      | [] => { c with pc := c.next, next := c.next + 1 }
      | l :: ls =>
        if l.left ≤ 1 then { c with pc := c.next, next := c.next + 1, loops := ls }
        else { c with pc := c.next, next := l.start + 1, loops := { l with left := l.left - 1, iter := l.iter + 1 } :: ls })

/-- A best-effort tile leaves its core, which takes up the orbit's work if it has any by now (R330). -/
def State.leaveTile (s : State) (d n : Nat) : State :=
  let entry : Nat := match s.active d, (s.core n).work with
    | some g, some w => fld ((g.entries 2).getD w.row 0) 12 0 12
    | _, _ => 0
  s.modCore n fun c => { c with tile := none, loops := [], next := entry }

/-- A tile's command finishes without its OUT copy (R334), and what the tile wrote is as before it (R16): the scratch window
always, module memory unless the tile was stopped at its cycle limit. -/
def State.abandonTile (s : State) (d n : Nat) (st : Status) : State :=
  match (s.core n).tile with
  | none => s
  | some t =>
    let s := if st = .refusedSize then s else s.each t.undo fun x u => u.store x.1 x.2
    ((s.store t.scratch.1 t.scratch.2).finishCmd d t.index st n).leaveTile d n

/-- What a tile is about to overwrite in module memory is kept until it ends (R16). -/
def State.keepForTile (s : State) (n a len : Nat) : State :=
  if isSram a then s
  else
    let bs := s.bytes a len
    s.modCore n fun c => { c with tile := c.tile.map fun t => { t with undo := (a, bs) :: t.undo } }

/-- A device address as a core's XFER uses it: in a tile, an address in a scratch window stands for that of the core that runs
the tile (R334; log entry 51). -/
def State.tileAddr (s : State) (n a : Nat) : Nat :=
  if (s.core n).tile.isSome && isSram a then sramAddr n ((a - sramBase) % MiB) else a

def execEndProg (core : Fin 512) (s : State) : Host.Outcome State Fault Refusal :=
  .next (match s.fetchOp core 0x0F with
    | none => s
    | some f =>
      let s := s.advanceCore core
      match (s.core core).tile with
      | some t =>
        (s.modHost f.d fun h => { h with outs := h.outs ++ [(t.index, core.val, t.outAddr, s.bytes (sramAddr core t.outOff) t.outLen, t.replayed)] }).leaveTile f.d core
      | none => s.modCore core fun c => { c with work := c.work.map fun w => { w with ended := true } })

/-! ## Errors of core SRAM (R64) -/

/-- A corrected error is logged; an uncorrectable one is recorded, and logged by the rollback it causes. The core whose SRAM
holds the word records it and is the event's UNIT; INFO names the instruction of core `n` that read the word (log entry 108). -/
def State.sramError (s : State) (d n : Nat) (e : EccErr) : State :=
  let s := s.modCore e.core fun c =>
    { c with sramCe := c.sramCe || !e.ue, sramUe := c.sramUe || e.ue, sramBank := e.off / 64 % 24, sramAddr := e.off / 64 * 64 }
  if e.ue then s else s.notice 0x01 (some d) e.core (s.coreEvent n 0 0)

/-- A step rollback that a core's instruction causes; a best-effort tile's command ends with REFUSED_BUSY (R334). -/
def State.coreRollback (s : State) (d n code info : Nat) : State :=
  let s := s.abandonTile d n .refusedBusy
  s.rollback d code n info

/-- A fence that a core's instruction causes; a best-effort tile's command ends with FENCED (R334). -/
def State.coreFence (s : State) (d n code info : Nat) : State := (s.abandonTile d n .fenced).fence d code n info

/-- What the SRAM errors of an instruction do: none when it completes, else the state after the rollback. -/
def State.sramErrors (s : State) (d n : Nat) (es : List EccErr) : State × Bool :=
  let info := s.coreEvent n 0 0
  let s := s.each es fun e t => t.sramError d n e
  match es.find? (·.ue) with
  | some e => ((s.abandonTile d n .refusedBusy).rollback d 0x02 e.core info, false)
  | none => (s, true)

/-! ## PASS (R70 to R98) -/

/-- Cores whose arrays a pass uses (R83 to R85, R152). -/
def PassI.arrays (p : PassI) (core : Nat) : List Nat :=
  if p.shape = 4 then []
  else if p.shape = 2 || p.shape = 3 then upFrom core 4
  else core :: if p.paired then [core / 4 * 4 + p.pair] else []

/-- Cores whose outstanding instructions a pass must not meet: those whose SRAM it reads or writes (R69). -/
def State.passCores (_ : State) (n : Nat) (p : PassI) : List Nat := addOnce (p.arrays n) n

/-- Tile that a pass leaves in its arrays (R80); a DIAG pass leaves none. -/
def PassI.tile (p : PassI) (core : Nat) : Resident := ⟨core, p.wAddr, p.wStride, p.wfmt, p.trans, decide (p.k ≤ p.perTile)⟩

/-- MACs of one execution of a pass. -/
def PassI.macs (p : PassI) : Nat :=
  let one := if p.shape = 5 then p.m * p.n else p.m * p.k * p.n
  let n := if p.shape = 1 then ((List.range 4).filter fun q => bit p.qmask q).length else if p.paired then 2 else 1
  one * n

/-- KMACS shows whole units of 1,024 (R376; log entry 42). -/
def State.countMacs (s : State) (n k : Nat) : State :=
  let m := (s.core n).macs + k
  (s.modCore n fun c => { c with macs := m % 1024 }).count (ctrCore n 1) (m / 1024)

/-- A check failed with no replay left (R97). -/
def State.exhausted (s : State) (d n info : Nat) : State :=
  let q := n / 4
  let mine (w : Swap) : Bool := w.quad == q
  if (s.core n).replayMax = 0 then s.coreFence d n 0x05 info
  else if s.spr.swaps.any mine then
    let swaps := s.spr.swaps.map fun (w : Swap) => if mine w then { w with forced := true } else w
    ({ s with spr := { s.spr with swaps := swaps } } : State).coreRollback d n 0x04 info
  else if s.spr.free.isEmpty then s.coreFence d n 0x05 info
  else (s.reserveSpare q true).coreRollback d n 0x04 info

/-- The failed checks and lockstep disagreements of a pass: status, counters and a REPLAY event for each replay made (R96,
R138). DESIGN CHOICE (log entry 104): for a ganged or PAIRED pass the issuing core's registers record them. -/
def State.passFailures (s : State) (d n : Nat) (j : PassJob) (replays : Nat) (last : Option Nat) : State :=
  let fails := (List.range replays).filterMap fun a => (j.failing a).map (a, ·)
  let all := fails ++ (match last with | none => [] | some r => [(replays, r)])
  match all.getLast? with
  | none => s
  | some (_, row) =>
    let lock := all.any fun x => j.lock x.1 x.2
    let s := s.modCore n fun c =>
      { c with checkFail := true, checkExhausted := c.checkExhausted || last.isSome, lastReplays := replays, lastPc := c.next, lastRow := row
               chainLockstep := c.chainLockstep || lock, chainPc := if lock then c.next else c.chainPc
               tile := c.tile.map fun t => { t with replayed := true } }
    let s := (s.count (ctrCore n 2) all.length).count (ctrCore n 3) replays
    s.each fails fun x t => t.event 0x03 .replay (some d) n (t.coreEvent n x.2 0)

/-- Broadcasts ramp the arrays up, and the loads leave their tile behind (R80, R89). -/
def State.useArrays (s : State) (n : Nat) (p : PassI) : State :=
  if p.k = 0 then s
  else s.each (p.arrays n) fun a t => t.modCore a fun c =>
    { c with groups := 8, resident := if p.shape = 5 then none else some (p.tile n) }

/-- A pass in full. -/
def State.runPass (s : State) (f : Fetched) (n : Nat) (errs : PassErrs) : State :=
  let p := passOf f.w
  let c := ((s.active f.d).bind (·.chain p.chain)).getD 0
  let core := s.core n
  let j : PassJob := ⟨n, core.next, p, c, core.loops, s.env f.d, errs, s⟩
  let ctx := j.ctx s n
  if !(s.passCores n p).all fun m => (s.core m).mayPass (passReads ctx) (passWrites ctx) then s.issue n
  else
    let (s, ok) := (s.issue n).sramErrors f.d n errs.ecc
    if !ok then s
    else
      let s := s.count (ctrCore n 0) 1
      if !p.live then s.advanceCore n
      else
        let resident := p.keep && core.resident == some (p.tile n) && (p.tile n).whole
        let (x, replays, last) := j.attempts resident core.replayMax 0 ⟨s, 0, {}, none⟩
        let s := x.s
        let s := (s.useArrays n p).countMacs n (p.macs * (replays + 1))
        let counted := decide (p.kind < 2) && !f.tile && (s.district f.d).flt.rollAt.isNone
        let s := s.book f.d n (s.coreEvent n 0 0) counted x.acct
        let s := s.passFailures f.d n j replays last
        match last with
        | some row => s.exhausted f.d n (s.coreEvent n row 0)
        | none =>
          match x.fault with
          | some cause =>
            let s := s.modCore n fun y => { y with chainLedger := true, chainCause := cause, chainLid := fld c 136 20 12, chainPc := y.next }
            s.coreFence f.d n 0x08 (s.coreEvent n x.next cause)
          | none => s.advanceCore n

def execPass (core : Fin 512) (errs : PassErrs) (s : State) : Host.Outcome State Fault Refusal :=
  .next (match s.fetchOp core 1 with
    | none => s
    | some f => s.runPass f core errs)

/-- An array idle for IDLE_GAP cycles ramps down (R89). -/
def execArrayRampDown (core : Fin 512) (s : State) : Host.Outcome State Fault Refusal :=
  .next (s.modCore core fun c => { c with groups := 0 })

end Sys2Proof.Machine
end

