-- ==== Sys2Proof/Machine/Boxes.lean ====
section
/-! DEFINITION. SEND, READ, postboxes and collection boxes (07 R197 to R215). -/

namespace Sys2Proof.Machine

/-! ## Messages -/

/-- The items of a SEND's message (R197). -/
def sendItems (s : State) (n w : Nat) : List BoxItem :=
  let words := fld w 1 0 3
  let count := fld w 4 0 11
  let stride := if fld w 8 20 12 = 0 then words else fld w 8 20 12
  (List.range count).map fun i =>
    { sender := n, words := (List.range words).map fun k => s.num (sramAddr n (fld w 8 0 20 + i * stride * 8 + 8 * k)) 8
      index := i, mlen := count, collected := false, cbox := 0 }

/-- What a SEND reads (R69, R197). -/
def sendRanges (n w : Nat) : List (Nat × Nat) :=
  let words := fld w 1 0 3
  let stride := if fld w 8 20 12 = 0 then words else fld w 8 20 12
  (List.range (fld w 4 0 11)).map fun i => (sramAddr n (fld w 8 0 20 + i * stride * 8), 8 * words)

/-- Items claimed for a postbox by messages that are not linked yet. -/
def State.claimed (s : State) (d b : Nat) : Nat :=
  sumOf (s.coresOf d) fun n => sumOf (s.core n).unlinked fun (x, is) => if x = b then is.length else 0

/-- May `k` more items go to a postbox (R203)? -/
def State.boxRoom (s : State) (d b k : Nat) : Bool :=
  match (s.active d).bind (·.boxEntry b) with
  | none => false
  | some e => decide ((s.box b).items.length + s.claimed d b + k ≤ beCapacity e) && decide (s.cells d + k ≤ s.quota d)

/-- The item slot that a READ writes (R199). -/
def readSlot (x : BoxItem) (tagged : Bool) : List Byte :=
  let ws := (List.range 4).flatMap fun i => leBytes 8 (x.words.getD i 0)
  if tagged then
    ws ++ leBytes 32 (put 0 9 x.sender + put 9 3 x.words.length + put 12 1 (boolBit x.collected) + put 13 1 (boolBit (x.index == 0))
      + put 14 1 (boolBit (x.index + 1 == x.mlen)) + put 16 11 x.mlen + put 32 12 x.cbox)
  else ws

/-- A READ completes; with FINAL its postbox is about to die (R198, R207). -/
def State.finalRead (s : State) (b : Nat) (final : Bool) : State := if final then s.modBox b fun x => { x with dying := true } else s

/-- One outstanding READ takes what its postbox holds (R202). -/
def State.feedRead (s : State) (n : Nat) (o : Outst) : State :=
  match o.kind with
  | .read b dst left tagged final =>
    let xs := (s.box b).items.take left
    if xs.isEmpty then s
    else
      let size := if tagged then 64 else 32
      let s := s.modBox b fun x => { x with items := x.items.drop xs.length }
      let s := s.each xs.zipIdx fun (x, i) t => t.store (sramAddr n (dst + i * size)) (readSlot x tagged)
      if xs.length = left then (s.modCore n fun c => c.complete fun y => decide (y = o)).finalRead b final
      else s.modCore n fun c => { c with outs := c.outs.map fun y =>
        if y = o then { y with kind := .read b (dst + xs.length * size) (left - xs.length) tagged final } else y }
  | _ => s

/-- Waiting READs of a postbox take its items, in the order of issue. -/
def State.feedReads (s : State) (d b : Nat) : State :=
  match (s.active d).bind (·.boxEntry b) with
  | none => s
  | some e =>
    let n := beReader e
    s.each ((s.core n).outs.filter fun o => match o.kind with | .read x _ _ _ _ => x == b | _ => false) fun o t => t.feedRead n o

/-- Link a message's items into a live postbox in one cycle (R200), or divert them from a dead one (R208). -/
def State.linkItems (s : State) (d b : Nat) (xs : List BoxItem) : State :=
  if (s.box b).state = 2 then s.each xs fun x t => t.deadLetter d b x 0
  else
    let s := s.modBox b fun x => { x with items := x.items ++ xs, high := max x.high (x.items.length + xs.length) }
    let s := (s.count (ctrBox b 0) 1).count (ctrBox b 1) xs.length
    (s.noteCells d).feedReads d b

/-! ## Collection boxes (R213, R214) -/

/-- Clamp of an FP32 lane. -/
def laneClamp : Int := ((2 ^ 118 : Nat) : Int) - 1

/-- A lane's value as it enters the accumulator, and whether it was clamped. -/
def laneIn (type : Nat) (unit : Int) (w : Nat) : Int × Bool :=
  match type with
  | 0 =>
    match fmtFP32.decode (w % 2 ^ 32) with
    | .nan => (0, false)
    | .inf neg => (if neg then -laneClamp else laneClamp, true)
    | .fin v =>
      let x := v.trunc unit
      if laneClamp < x then (laneClamp, true) else if x < -laneClamp then (-laneClamp, true) else (x, false)
  | 1 => (signed 32 (w % 2 ^ 32), false)
  | _ => (signed 64 (w % 2 ^ 64), false)

/-- A lane of the result, and whether it was clamped. -/
def laneOut (type : Nat) (unit acc : Int) : Nat × Bool :=
  match type with
  | 0 => (f32 ⟨acc, unit⟩, false)
  | 1 => (unsigned 64 acc, false)
  | _ =>
    let top : Int := ((2 ^ 63 : Nat) : Int) - 1
    if top < acc then (unsigned 64 top, true) else if acc < -top - 1 then (unsigned 64 (-top - 1), true) else (unsigned 64 acc, false)

/-- OVF of a lane: flag and NOTICE (R213, R372). -/
def State.laneOvf (s : State) (d b core lane : Nat) : State :=
  (s.modBox b fun x => { x with ovf := true }).notice 0x29 (some d) b (put 0 9 core + put 16 2 lane)

/-- Add a contribution's lanes to a round's sums. -/
def addLanes (acc xs : List Int) : List Int := xs.zipIdx.map fun (x, i) => acc.getD i 0 + x

/-- The current round is complete: its result waits for OUT, and the next round becomes current. -/
def State.endRound (s : State) (d b e core : Nat) : State :=
  let acc := (s.box b).accCur
  let outs := (List.range (beLanes e)).map fun j => laneOut (beType e j) (beUnit e) (acc.getD j 0)
  let s := s.each outs.zipIdx fun (o, j) t => if o.2 then t.laneOvf d b core j else t
  let item : BoxItem := { sender := 0, words := outs.map (·.1), index := 0, mlen := 1, collected := true, cbox := b }
  s.modBox b fun x => { x with results := x.results ++ [item], cur := x.next, accCur := x.accNext, next := [], accNext := [] }

/-- A contribution (R214). -/
def State.contribute (s : State) (d b e n w : Nat) : State :=
  let k := fld w 6 0 9
  let vals := (List.range (beLanes e)).map fun j => laneIn (beType e j) (beUnit e) (s.num (sramAddr n (fld w 8 0 20 + 8 * j)) 8)
  let x := s.box b
  if x.cur.contains k && x.next.contains k then (s.modBox b fun y => { y with overs := true }).boxFault d 1 b n
  else
    let s := s.each vals.zipIdx fun (v, j) t => if v.2 then t.laneOvf d b n j else t
    let s := s.count (ctrBox b 0) 1
    if x.cur.contains k then s.modBox b fun y => { y with next := y.next ++ [k], accNext := addLanes y.accNext (vals.map (·.1)) }
    else
      let s := s.modBox b fun y => { y with cur := y.cur ++ [k], accCur := addLanes y.accCur (vals.map (·.1)) }
      if (s.box b).cur.length = beN e then s.endRound d b e n else s

/-- A completed round is delivered to OUT once it has room; a dead OUT diverts it (R208, R214). -/
def execCollectionRoundDeliver (box : Nat) (s : State) : Host.Outcome State Fault Refusal :=
  .next (match s.boxOwner box with
    | none => s
    | some (d, e) =>
      let out := beOut e
      match (s.box box).results with
      | [] => s
      | x :: rest =>
        if s.halted || s.fenced d || !beCollection e || ((s.box out).state != 2 && !s.boxRoom d out 1) then s
        else
          let s := s.modBox box fun y => { y with results := rest, rounds := (y.rounds + 1) % 2 ^ 16 }
          (s.count (ctrBox box 1) 1).linkItems d out [x])

/-! ## SEND (R197, R203, R208) -/

/-- A SEND goes ahead: it contributes, is diverted, claims its cells or waits. The core has been advanced. -/
def State.sendGo (s : State) (d n w : Nat) : State :=
  let b := fld w 2 0 12
  match (s.active d).bind (·.boxEntry b) with
  | none => s
  | some e =>
    if fld w 4 0 11 = 0 then s
    else if beCollection e then s.contribute d b e n w
    else if (s.box b).state = 2 then s.each (sendItems s n w) fun x t => t.deadLetter d b x 0
    else if s.boxRoom d b (fld w 4 0 11) then (s.modCore n fun c => { c with unlinked := c.unlinked ++ [(b, sendItems s n w)] }).noteCells d
    else s.modCore n fun c => { c with sendWait := some w }

def execSend (core : Fin 512) (ecc : List EccErr) (s : State) : Host.Outcome State Fault Refusal :=
  .next (match s.fetchOp core 2 with
    | none => s
    | some f =>
      if !(s.core core).maySend (sendRanges core f.w) then s.issue core
      else
        let (s, ok) := (s.issue core).sramErrors f.d core ecc
        if ok then (s.advanceCore core).sendGo f.d core f.w else s)

/-- A waiting SEND tries again (R203). -/
def execSendClaim (core : Fin 512) (s : State) : Host.Outcome State Fault Refusal :=
  .next (match s.coreDistrict core, (s.core core).sendWait with
    | some d, some w =>
      if s.halted || s.fenced d then s else (s.modCore core fun c => { c with sendWait := none }).sendGo d core w
    | _, _ => s)

/-- A core's first claimed and filled message is linked: its messages go in the order of their SENDs (R200). -/
def execMessageLink (core : Fin 512) (s : State) : Host.Outcome State Fault Refusal :=
  .next (match s.coreDistrict core, (s.core core).unlinked with
    | some d, (b, xs) :: rest =>
      if s.halted || s.fenced d then s else (s.modCore core fun c => { c with unlinked := rest }).linkItems d b xs
    | _, _ => s)

/-! ## READ (R198, R202, R207, R209) -/

def execRead (core : Fin 512) (s : State) : Host.Outcome State Fault Refusal :=
  .next (match s.fetchOp core 3 with
    | none => s
    | some f =>
      let b := fld f.w 2 0 12
      let count := fld f.w 4 0 13
      let dst := fld f.w 8 0 20
      let final := fld f.w 1 0 1 == 1
      let tagged := fld f.w 1 1 1 == 1
      let dsts := [(sramAddr core dst, count * if tagged then 64 else 32)]
      if (s.box b).state = 2 then (s.issue core).boxFault f.d 2 b core
      else if !(s.core core).mayStart [] dsts then s.waitIssue core
      else if count = 0 then (s.advanceCore core).finalRead b final
      else
        let pc := (s.core core).next
        let s := (s.advanceCore core).modCore core fun c => { c with outs := c.outs ++ [⟨pc, .read b dst count tagged final, [], dsts⟩] }
        s.feedReads f.d b)

/-- Eight cycles after a FINAL READ (R207); a READ that still waits reads a dead postbox (R209). -/
def execPostboxDeath (box : Nat) (s : State) : Host.Outcome State Fault Refusal :=
  .next (match s.boxOwner box with
    | none => s
    | some (d, e) =>
      if s.halted || s.fenced d || !(s.box box).dying then s
      else
        let s := s.killBox d box 2
        let n := beReader e
        if (s.core n).outs.any fun o => match o.kind with | .read x _ _ _ _ => x == box | _ => false then s.boxFault d 2 box n else s)

end Sys2Proof.Machine
end

