-- ==== Sys2Proof/Machine/Xfer.lean ====
section
/-! DEFINITION. XFER and AWAIT (08 R226, R237 to R245), and the training descriptors that XFER runs (06 R176 to R188). -/

namespace Sys2Proof.Machine

def xferMode (w : Nat) : Nat := fld w 1 0 4
def xferEnq (w : Nat) : Bool := fld w 1 4 1 == 1
def xferSrci (w : Nat) : Bool := fld w 1 5 1 == 1
def xferTarget (w : Nat) : Nat := fld w 2 0 12
def xferLen (w : Nat) : Nat := fld w 4 0 32
def xferSlot (w : Nat) : Nat := fld w 8 0 20

/-- An XFER of one mode that a core would issue. -/
def State.fetchXfer (s : State) (n mode : Nat) : Option Fetched := (s.fetchOp n 4).filter fun f => xferMode f.w == mode

/-- The item that a slot names among those a core holds (R243): by HANDLE. -/
def State.heldItem (s : State) (n slot : Nat) : Option SItem :=
  let h := s.num (sramAddr n (slot + 28)) 4
  (s.core n).held.find? fun x => x.handle == h

/-- The item slot that an XFER with SRCI reads (R242, R245). -/
def xferSlots (n w : Nat) : List (Nat × Nat) := if xferSrci w then [(sramAddr n (xferSlot w), 32)] else []

/-- Source address of a COPY or SEND; none when a check of R243 fails. -/
def State.xferSource (s : State) (n w : Nat) : Option Nat :=
  if xferSrci w then
    match s.heldItem n (xferSlot w) with
    | none => none
    | some x =>
      let off := fld w 8 20 28 * 64
      if off + xferLen w ≤ x.len then some (x.addr + off) else none
  else some (s.tileAddr n (fld w 8 0 48))

/-- A run-time failure of R243, once the slot has been read (R64). -/
def State.xferFault (s : State) (d n w : Nat) (ecc : List EccErr) : State :=
  let (s, ok) := (s.issue n).sramErrors d n ecc
  if ok then s.memFault d 0x23 5 (xferTarget w) n else s

/-- A postmark with the step number inserted (R226). -/
def State.stamped (s : State) (d pm : Nat) : Nat := pm + (s.env d).step

/-! ## COPY (R237, R242) -/

def State.xferCopy (s : State) (f : Fetched) (n : Nat) (ecc : List EccErr) : State :=
  let slots := xferSlots n f.w
  let len := xferLen f.w
  let dst := s.tileAddr n (fld f.w 16 0 48)
  if !(s.core n).mayStart slots [(dst, len)] then s.waitIssue n
  else match s.xferSource n f.w with
  | none => s.xferFault f.d n f.w ecc
  | some src =>
    if !(s.core n).mayStart ((src, len) :: slots) [(dst, len)] then s.waitIssue n
    else
      let (s, ok) := (s.issue n).sramErrors f.d n ecc
      if !ok then s
      else
        let pc := (s.core n).next
        let s := (((s.advanceCore n).keepForTile n dst len).copy f.d src dst len).wroteLines dst len
        if !xferEnq f.w then s
        else
          let q := xferTarget f.w % 256
          let x : SItem := { addr := dst, len := len, ringed := false, ring := 0, unit := 0, lcnt := 0, postmark := s.stamped f.d (fld f.w 24 0 64)
                             src := 0, queue := q, useMb := true, host := false, handle := 0 }
          let s := s.modCore n fun c => { c with outs := c.outs ++ [⟨pc, .enqueue x, [(src, len)], [(dst, len)]⟩] }
          s.enqueue f.d q x (some (.core n))

def execXferCopy (core : Fin 512) (ecc : List EccErr) (s : State) : Host.Outcome State Fault Refusal :=
  .next (match s.fetchXfer core 0 with
    | none => s
    | some f => s.xferCopy f core ecc)

/-! ## SEND, FORWARD, RELEASE (R242) -/

/-- Give a core's message to a TX ring of the image; it completes when its last unit is in the replay buffer. -/
def State.coreMessage (s : State) (d n r pm len lcnt addr : Nat) (srcs : List (Nat × Nat)) : State :=
  match (s.active d).bind (·.ringEntry r) with
  | none => s
  | some e =>
    let pc := (s.core n).next
    let k := s.nextSerial r
    let s := (s.advanceCore n).modCore n fun c => { c with outs := c.outs ++ [⟨pc, .send r k, srcs, []⟩] }
    s.giveMessage d r e (.core n) pm len lcnt [] addr false

def execXferSend (core : Fin 512) (ecc : List EccErr) (s : State) : Host.Outcome State Fault Refusal :=
  .next (match s.fetchXfer core 1 with
    | none => s
    | some f =>
      let slots := xferSlots core f.w
      if !(s.core core).mayStart slots [] then s.waitIssue core
      else match s.xferSource core f.w with
      | none => s.xferFault f.d core f.w ecc
      | some src =>
        let srcs := (src, xferLen f.w) :: slots
        if !(s.core core).mayStart srcs [] then s.waitIssue core
        else
          let (s, ok) := (s.issue core).sramErrors f.d core ecc
          if ok then s.coreMessage f.d core (xferTarget f.w) (s.stamped f.d (fld f.w 24 0 64)) (xferLen f.w) (fld f.w 16 0 16) src srcs
          else s)

def execXferForward (core : CoreRead) (s : State) : Host.Outcome State Fault Refusal :=
  let ecc := core.ecc
  let core := core.core
  .next (match s.fetchXfer core 2 with
    | none => s
    | some f =>
      let slot := (sramAddr core (xferSlot f.w), 32)
      if !(s.core core).mayStart [slot] [] then s.waitIssue core
      else match s.heldItem core (xferSlot f.w) with
      | none => s.xferFault f.d core f.w ecc
      | some x =>
        let srcs := [slot, (x.addr, x.len)]
        if !(s.core core).mayStart srcs [] then s.waitIssue core
        else
          let (s, ok) := (s.issue core).sramErrors f.d core ecc
          if ok then s.coreMessage f.d core (xferTarget f.w) x.postmark x.len x.lcnt x.addr srcs else s)

/-- The hold of an item ends: a ring record is released (R235, R242). -/
def State.releaseItem (s : State) (d : Nat) (x : SItem) : State := if x.ringed then s.release d x.ring x.unit else s

def execXferRelease (core : CoreRead) (s : State) : Host.Outcome State Fault Refusal :=
  let ecc := core.ecc
  let core := core.core
  .next (match s.fetchXfer core 4 with
    | none => s
    | some f =>
      if !(s.core core).mayStart [(sramAddr core (xferSlot f.w), 32)] [] then s.waitIssue core
      else match s.heldItem core (xferSlot f.w) with
      | none => s.xferFault f.d core f.w ecc
      | some x =>
        let (s, ok) := (s.issue core).sramErrors f.d core ecc
        if ok then ((s.advanceCore core).modCore core fun c => { c with held := c.held.filter fun y => decide (y ≠ x) }).releaseItem f.d x
        else s)

/-! ## AWAIT and stage queues (R238, R244) -/

def execAwaitItem (core : Fin 512) (s : State) : Host.Outcome State Fault Refusal :=
  .next (match s.fetchOp core 5 with
    | none => s
    | some f =>
      let q := fld f.w 2 0 8
      let slot := fld f.w 4 0 20
      let dsts := [(sramAddr core slot, 32)]
      if !(s.core core).mayStart [] dsts then s.waitIssue core
      else
        let pm := s.stamped f.d (fld f.w 8 0 64)
        let pc := (s.core core).next
        let s := s.advanceCore core
        match s.takeItem core q slot pm with
        | some t => t
        | none => s.modCore core fun c => { c with outs := c.outs ++ [⟨pc, .await q slot pm, [], dsts⟩] })

/-- The item at the front of those that wait enters its queue once a cell is free (R238). -/
def execStageEnqueue (queue : Nat) (s : State) : Host.Outcome State Fault Refusal :=
  .next (match s.queueOwner queue with
    | none => s
    | some (d, e) =>
      match (s.queue queue).waiting with
      | [] => s
      | (x, who) :: rest =>
        if s.halted || s.fenced d || !s.queueRoom d queue e then s
        else
          let s := (s.modQueue queue fun z => { z with waiting := rest }).enter d queue x
          match who with
          | none => s
          | some w => s.complete w (OutKind.isEnqueue x))

/-! ## Training descriptors (R176 to R188) -/

/-- Sources and destinations of a descriptor (R69). -/
def Descr.srcs (core : Nat) (e : Descr) : List (Nat × Nat) :=
  e.ranges ++ if e.op = 1 then (e.sched, 16 * e.slen) :: (if e.useF then [(sramAddr core (fld e 104 0 20), 4)] else []) else []
def Descr.dsts (e : Descr) : List (Nat × Nat) :=
  let n := e.count
  match e.op with
  | 1 => [(e.addr 0, 2 * n), (e.addr 1, 2 * n)] ++ if e.adamw then [(e.addr 2, 2 * n)] else []
  | 2 => [(e.addr 1, 2 * n), (e.addr 2, n / 256 * e.recSize)]
  | _ => [(e.addr 3, 4 * n)]

/-- Phase of the orbit that the district's cores run. -/
def State.corePhase (s : State) (d : Nat) : Phase :=
  match s.active d, s.runIndex d with
  | some g, some i => g.phaseAt i
  | _, _ => .none

/-- A descriptor or a record is refused (R177, R186). -/
def State.refuseTraining (s : State) (d n pc code cause : Nat) (seq : Option Nat) : State :=
  let s := s.modCore n fun c =>
    { c with trainDesc := c.trainDesc || seq.isNone, trainRecord := c.trainRecord || seq.isSome, trainCause := cause, trainPc := pc
             trainSeq := seq.getD c.trainSeq }
  (s.count (ctrCore n 13) 1).fence d code n (coreInfo pc 0 cause)

/-- Groups below a bound: those that disagreed once, and the first that disagreed twice (R178). -/
def badGroups (errs : TrainErrs) (n : Nat) : List Nat × Option Nat :=
  let gs := errs.groups.filter (· < n)
  let twice := (List.range n).find? fun g => decide (2 ≤ (gs.filter (· == g)).length)
  (gs.eraseDups.filter fun g => match twice with | none => true | some t => decide (g ≤ t), twice)

/-- Disagreements of a descriptor: counters, a REPLAY event for each recomputed group, and a ROLLBACK at a second one (R178).
Answers whether the descriptor completes. -/
def State.groupErrors (s : State) (d n pc : Nat) (errs : TrainErrs) (groups : Nat) : State × Bool :=
  let (once, twice) := badGroups errs groups
  let fails := once.length + (if twice.isSome then 1 else 0)
  let s := (s.count (ctrCore n 2) fails).count (ctrCore n 3) once.length
  let s := s.each once fun g t => t.event 0x06 .replay (some d) n (coreInfo pc g 0)
  match twice with
  | none => (s, true)
  | some g => (s.coreRollback d n 0x07 (coreInfo pc g 0), false)

/-- Groups that are written before a second disagreement stops a descriptor. -/
def doneGroups (errs : TrainErrs) (groups : Nat) : Nat := ((badGroups errs groups).2).getD groups

/-- Book a descriptor's conversions; in a roll-forward they are discarded (R364). -/
def State.bookTraining (s : State) (d n pc : Nat) (a : Acct) : State :=
  s.book d n (coreInfo pc 0 0) (s.district d).flt.rollAt.isNone a

/-- The start of a TRAIN of one OP: hazards, SRAM errors and the checks of R177. `k` runs it. -/
def State.startDescr (s : State) (n : Nat) (errs : TrainErrs) (op : Nat → Bool) (k : State → Fetched → Descr → State) : State :=
  match s.fetchXfer n 3 with
  | none => s
  | some f =>
    let at' := sramAddr n (xferSlot f.w)
    let e : Descr := s.num at' 128
    if !(s.core n).mayStart [(at', 128)] [] then s.waitIssue n
    else if !op e.op then s
    else match descrCause s f.d n (s.corePhase f.d) e with
    | some cause => (s.issue n).refuseTraining f.d n (s.core n).next 0x09 cause none
    | none =>
      if !(s.core n).mayStart ((at', 128) :: e.srcs n) e.dsts then s.waitIssue n
      else
        let (s, ok) := (s.issue n).sramErrors f.d n errs.ecc
        if ok then k s f e else s

/-- UPDATE (R179, R180). -/
def State.runUpdate (s : State) (f : Fetched) (n : Nat) (errs : TrainErrs) (e : Descr) : State :=
  let pc := (s.core n).next
  let s := s.count (ctrCore n 9) 1
  if e.count = 0 then s.advanceCore n
  else
    let env := s.env f.d
    let groups := ceilDiv e.count 64
    let hi := min e.count (doneGroups errs groups * 64)
    let s := if (schedEntry e env.step).2 then
        (s.modCore n fun c => { c with trainSched := true, trainPc := pc }).notice 0x0C (some f.d) n (coreInfo pc 0 0)
      else s
    let (s, a) := updateRun s env n e 0 hi
    let s := (s.bookTraining f.d n pc a).count (ctrCore n 10) hi
    let s := s.each e.dsts fun r t => t.wroteLines r.1 r.2
    let (s, ok) := s.groupErrors f.d n pc errs groups
    if ok then s.advanceCore n else s

def execTrainUpdate (core : Fin 512) (errs : TrainErrs) (s : State) : Host.Outcome State Fault Refusal :=
  .next (s.startDescr core errs (fun op => op != 2 && op != 3) fun t f e => t.runUpdate f core errs e)

/-- PACK (R184): whole blocks of 256. -/
def State.runPack (s : State) (f : Fetched) (n : Nat) (errs : TrainErrs) (e : Descr) : State :=
  let pc := (s.core n).next
  let s := s.count (ctrCore n 9) 1
  let groups := e.count / 64
  let blocks := doneGroups errs groups / 4
  let env := s.env f.d
  let (s, a) := (List.range blocks).foldl (fun (x : State × Acct) b => let (t, c) := packBlock x.1 env e b; (t, x.2.add c)) (s, {})
  let s := (s.bookTraining f.d n pc a).count (ctrCore n 11) (256 * blocks)
  let s := s.each e.dsts fun r t => t.wroteLines r.1 r.2
  let (s, ok) := s.groupErrors f.d n pc errs groups
  if ok then s.advanceCore n else s

def execTrainPack (core : Fin 512) (errs : TrainErrs) (s : State) : Host.Outcome State Fault Refusal :=
  .next (s.startDescr core errs (· == 2) fun t f e => t.runPack f core errs e)

/-- The GRX message of a replica for an exchange chunk (R186): in the stage queue that RING feeds, or held from it by the
core. -/
def State.grxItem (s : State) (d n : Nat) (e : Descr) (rho : Nat) : Option SItem :=
  match (s.active d).bind (·.ringEntry e.ring) with
  | none => none
  | some r =>
    let pm := (s.env d).step + put 24 16 rho + put 40 2 1 + put 42 22 e.seq
    let q := reQueue r
    ((s.queue q).items.find? fun x => x.postmark == pm).or ((s.core n).held.find? fun x => x.queue == q && x.postmark == pm)

/-- Records of every replica in ascending ρ: none for the module's own; absent while one has not come, or while an earlier
XFER of the core still reads it (R186, R188). -/
def State.grxAll (s : State) (d n : Nat) (e : Descr) : Option (List (Option SItem)) :=
  let x := (s.district d).num
  (List.range x.dpReplicas).foldr (fun rho acc =>
    match acc with
    | none => none
    | some l =>
      if rho = x.dpReplica then some (none :: l)
      else match s.grxItem d n e rho with
        | none => none
        | some i => if anyOverlap [(i.addr, i.len)] (s.core n).outSrcs then none else some (some i :: l)) (some [])

/-- Why the records are refused (R186). -/
def grxCause (s : State) (e : Descr) (is : List (Option SItem)) : Option Nat :=
  let k := e.count / 256
  if is.any fun i => match i with | none => false | some x => x.len != k * e.recSize then some 8
  else if e.sel = 1 && is.any fun i =>
      let a := match i with | none => e.addr 1 | some x => x.addr
      (List.range k).any fun b => !ascending ((List.range e.ktop).map fun j => s.num (a + b * e.recSize + 2 * e.ktop + j) 1) then some 9
  else none

/-- A consumed message leaves its queue or its hold, and its record is released (R188). -/
def State.consume (s : State) (d n : Nat) (x : SItem) : State :=
  let s := s.modQueue x.queue fun z => { z with items := z.items.filter fun y => decide (y ≠ x) }
  let s := s.modCore n fun c => { c with held := c.held.filter fun y => decide (y ≠ x) }
  s.releaseItem d x

/-- UNPACK with every record at hand (R186 to R188). Answers whether it completes. -/
def State.sumRecords (s : State) (d n pc : Nat) (errs : TrainErrs) (e : Descr) (is : List (Option SItem)) : State × Bool :=
  match grxCause s e is with
  | some cause => (s.refuseTraining d n pc 0x0A cause (some e.seq), false)
  | none =>
    let groups := e.count / 64
    let blocks := doneGroups errs groups / 4
    let srcs := is.map fun i => match i with | none => e.addr 1 | some x => x.addr
    let env := s.env d
    let s := s.each (List.range blocks) fun b t => unpackBlock t env e srcs b
    let s := (s.count (ctrCore n 12) (256 * blocks * is.length)).wroteLines (e.addr 3) (4 * 256 * blocks)
    let (s, ok) := s.groupErrors d n pc errs groups
    if !ok then (s, false) else (s.each (is.filterMap id) fun x t => t.consume d n x, true)

/-- UNPACK is issued: it runs, waits for records, or in a roll-forward with replicas completes at once (R364). -/
def State.runUnpack (s : State) (f : Fetched) (n : Nat) (errs : TrainErrs) (e : Descr) : State :=
  let pc := (s.core n).next
  let s := s.count (ctrCore n 9) 1
  if e.count = 0 || ((s.district f.d).flt.rollAt.isSome && decide (1 < (s.district f.d).num.dpReplicas)) then s.advanceCore n
  else match s.grxAll f.d n e with
  | none => (s.advanceCore n).modCore n fun c => { c with outs := c.outs ++ [⟨pc, .unpack e, e.srcs n, e.dsts⟩] }
  | some is =>
    let (s, ok) := s.sumRecords f.d n pc errs e is
    if ok then s.advanceCore n else s

/-- The first outstanding UNPACK of a core whose records have all come. -/
def State.readyUnpack (s : State) (d n : Nat) : Option (Outst × Descr × List (Option SItem)) :=
  let ready (c : Core) (o : Outst) : Option (Outst × Descr × List (Option SItem)) :=
    match o.kind with
    | .unpack e => (({ s with cores := s.cores.set n { c with outs := c.outs.takeWhile fun y => decide (y ≠ o) } } : State).grxAll d n e).map fun is => (o, e, is)
    | _ => none
  (s.core n).outs.findSome? (ready (s.core n))

def execTrainUnpack (core : Fin 512) (errs : TrainErrs) (s : State) : Host.Outcome State Fault Refusal :=
  .next (match s.coreDistrict core with
    | none => s
    | some d =>
      if s.halted || s.fenced d then s
      else match s.readyUnpack d core with
      | some (o, e, is) =>
        let (s, ok) := s.sramErrors d core errs.ecc
        if !ok then s
        else
          let (s, done) := s.sumRecords d core o.pc errs e is
          if done then s.modCore core fun c => c.complete fun y => decide (y = o) else s
      | none => s.startDescr core errs (· == 3) fun t f e => t.runUnpack f core errs e)

end Sys2Proof.Machine
end

