-- ==== Sys2Proof/Machine/CheckProg.lean ====
section
/-! DEFINITION. Cross-checks of CORE_PROG and CHAIN_TABLE (10 R304; 03 R66 to R74; 04 R111, R113, R118; 05 R152, R159, R161;
07 R196; 08 R243). -/

namespace Sys2Proof.Machine

/-! ## Findings (R304) -/

/-- A failed cross-check: section, whether it lies in the section header, entry, offset, CHECK. -/
structure Finding where
  sect : Nat
  header : Bool
  entry : Nat
  off : Nat
  check : Nat
deriving DecidableEq, Repr

/-- Order in which findings are reported (R304). -/
def Finding.before (a b : Finding) : Bool :=
  let key (f : Finding) : List Nat := [f.sect, 1 - boolBit f.header, f.entry, f.off, f.check]
  decide (List.lt (key a) (key b))

/-- A requirement on one field of an entry. -/
def need (sect entry off check : Nat) (ok : Bool) : List Finding := if ok then [] else [⟨sect, false, entry, off, check⟩]
def needHeader (sect off check : Nat) (ok : Bool) : List Finding := if ok then [] else [⟨sect, true, 0, 0xC00 + off, check⟩]

/-- Reserved fields must be zero. -/
def reserved (sect entry check e : Nat) (rs : List (Nat × Nat × Nat)) : List Finding :=
  rs.flatMap fun r => need sect entry r.1 check (fld e r.1 r.2.1 r.2.2 == 0)

/-- Findings of the entries of a section, each with its index. -/
def perEntry (es : List Nat) (f : Nat → Nat → List Finding) : List Finding := es.zipIdx.flatMap fun (e, i) => f i e

/-- Indices of entries whose key an earlier entry has. -/
def repeated (ks : List Nat) : List Nat := ks.zipIdx.filterMap fun (k, i) => if (ks.take i).contains k then some i else none

/-! ## Loops (R68) -/

/-- LOOPs open around an instruction, innermost first: count and the three increments. -/
abbrev Loops := List (Nat × Int × Int × Int)

/-- Every instruction of a straight run with the LOOPs open around it, and whether loops are well nested there. -/
def nested : List Nat → Nat → Loops → List (Nat × Nat × Loops × Bool)
  | [], _, _ => []
  | w :: ws, i, ls =>
    match fld w 0 0 8 with
    | 6 => (i, w, ls, decide (ls.length < 4)) ::
        nested ws (i + 1) ((fld w 1 0 24, signed 24 (fld w 4 0 24), signed 24 (fld w 8 0 24), signed 24 (fld w 12 0 24)) :: ls)
    | 7 => (i, w, ls, !ls.isEmpty) :: nested ws (i + 1) (ls.drop 1)
    | 0x0F => (i, w, ls, ls.isEmpty) :: nested ws (i + 1) []
    | _ => (i, w, ls, true) :: nested ws (i + 1) ls

/-- Does the body run at all? -/
def Loops.runs (ls : Loops) : Bool := ls.all fun l => l.1 != 0

/-- How an address moves: for each open LOOP its count and what one iteration adds. -/
abbrev Moves := List (Nat × Int)

def Loops.moves (ls : Loops) (f : Int × Int × Int → Int) : Moves := ls.map fun l => (l.1, f l.2)
def Loops.a (ls : Loops) : Moves := ls.moves (·.1)
def Loops.w (ls : Loops) : Moves := ls.moves (·.2.1)
def Loops.o (ls : Loops) : Moves := ls.moves (·.2.2)

/-- Least and greatest shift over all iterations. -/
def Moves.span (m : Moves) : Int × Int :=
  m.foldl (fun b l => let t := ((l.1 : Int) - 1) * l.2; (b.1 + min 0 t, b.2 + max 0 t)) (0, 0)

/-- The shift of every iteration (R68). -/
def Moves.shifts : Moves → List Int
  | [] => [0]
  | (n, k) :: m => (List.range n).flatMap fun (i : Nat) => (Moves.shifts m).map fun x => x + (i : Int) * k

/-- A range of SRAM offsets in every iteration: `n` rows of `len` bytes, `stride` bytes apart. -/
structure Hull where
  off : Int
  n : Nat
  stride : Nat
  len : Nat
  moves : Moves
deriving DecidableEq, Repr

/-- `n` rows of `len` bytes, `stride` lines apart, moved by increments. -/
def hull (off n stride len : Nat) (m : Moves) : Option Hull := if n = 0 || len = 0 then none else some ⟨off, n, stride * 64, len, m⟩

/-- First byte, and the byte after the last, over all iterations. -/
def Hull.lo (h : Hull) : Int := h.off + h.moves.span.1
def Hull.hi (h : Hull) : Int := h.off + ((h.n - 1) * h.stride + h.len : Nat) + h.moves.span.2

def Hull.inSram (h : Hull) : Bool := decide (0 ≤ h.lo) && decide (h.hi ≤ (sramSize : Int))

/-- Does the range meet [lo, lo + len) in some iteration? Its extremes are asked first. -/
def Hull.meets (h : Hull) (lo len : Nat) : Bool :=
  len != 0 && decide (h.lo < ((lo + len : Nat) : Int)) && decide ((lo : Int) < h.hi)
    && h.moves.shifts.any fun x => (List.range h.n).any fun r =>
      let a := h.off + x + (r * h.stride : Nat)
      decide (a < ((lo + len : Nat) : Int)) && decide ((lo : Int) < a + h.len)

/-- Inside core SRAM and outside the best-effort window. -/
def Hull.sound (win : Nat × Nat) (h : Hull) : Bool := h.inSram && !h.meets win.1 win.2

/-- Best-effort scratch window as a shadow or an active value names it (R333). -/
def window (base size : Nat) : Nat × Nat := (base * 65536, size * 65536)

/-- Requirements on a hull: inside core SRAM, and outside the best-effort window. -/
def needHull (sect entry off check : Nat) (win : Nat × Nat) (h : Option Hull) : List Finding :=
  match h with
  | none => []
  | some h => need sect entry off check h.inSram ++ need sect entry off 0x0B (!h.meets win.1 win.2)

/-! ## The operands of a PASS -/

def lastCol (p : PassI) : Nat := ((outCols p).getLast?.map (· + 1)).getD 0

def actHull (p : PassI) (c : Nat) (by' : Moves) : Option Hull :=
  let pro := chainPro c
  let f := match (pro.filter fun o => fld o 0 0 8 != 0x23).head? with
    | none => fmtOf p.afmt
    | some o => fmtOf (if fld o 0 0 8 = 0x21 then fld o 2 12 4 else fld o 2 16 4)
  if p.k = 0 then none
  else if pro.any fun o => fld o 0 0 8 == 0x23 then hull p.aAddr (rowElems p) p.aStride ((p.m * f.width + 7) / 8) by'
  else hull p.aAddr p.m p.aStride (rowBytes f (rowElems p)) by'

def weightHull (p : PassI) (by' : Moves) : Option Hull :=
  let f := fmtOf p.wfmt
  let row := (lastCol p * f.width + 7) / 8
  if p.k = 0 then none
  else if p.shape = 5 then hull p.wAddr p.m p.wStride (rowBytes f p.k) by'
  else if p.trans then hull p.wAddr (lastCol p) p.wStride (rowBytes f p.k) by'
  else if f.mx then hull p.wAddr (33 * ((p.k - 1) / 32) + 33) p.wStride (max row (lastCol p)) by'
  else hull p.wAddr p.k p.wStride row by'

def outHull (p : PassI) (c : Nat) (by' : Moves) : Option Hull :=
  let f := fmtOf (chainOfmt c)
  if chainTwrite c then hull p.oAddr (lastCol p) p.oStride ((p.m * f.width + 7) / 8) by'
  else hull p.oAddr p.m p.oStride (rowBytes f (if p.shape = 1 then 64 else lastCol p)) by'

/-- How a position moves, with the step words of a chain from `off` on: the outermost LOOP takes the first (R131, R141). -/
def posMoves (c off : Nat) (ls : Loops) : Moves := ls.reverse.zipIdx.map fun (l, j) => (l.1, signed 32 (fld c (off + 4 * j) 0 32))

/-- The records of a pass's rows from a base address, over all iterations (R141, R143). -/
def recHull (p : PassI) (c base : Nat) (ls : Loops) : Option Hull :=
  let row0 : Nat := gap 32 (fld c 72 0 32) (fld c 152 0 32)
  let m := posMoves c 80 ls
  if p.m = 0 then none
  else if (row0 : Int) + m.span.1 < 0 then some ⟨-1, 1, 0, 1, []⟩
  else some ⟨((base + 32 * row0 : Nat) : Int), p.m, 32, 32, m.map fun x => (x.1, 32 * x.2)⟩

/-- A frequency of a chain's rotary operations. -/
def freqHull (c i : Nat) : Option Hull := hull (fld c 164 0 20 + 4 * i) 1 0 4 []

/-- The rotary frequencies that a pass reads (R145, R147): all HD / 2 of them where those are sound, else each one that an
element or a column names in some iteration. -/
def ropeHulls (sound : Hull → Bool) (p : PassI) (c : Nat) (ls : Loops) : List (Option Hull) :=
  let all (hd : Nat) : Option Hull := hull (fld c 164 0 20) 1 0 (hd / 2 * 4) []
  let fits (hd : Nat) : Bool := match all hd with | none => true | some h => sound h
  let pro := (chainPro c).filter fun o => fld o 0 0 8 == 0x22
  let epi := (chainEpi c).filter fun o => fld o 0 0 8 == 7
  (pro.flatMap fun o =>
    let hd := fld o 2 0 16
    if p.k = 0 then [] else if fits hd then [all hd] else (liveElems p).map fun k => freqHull c (k / 2 * 2 % hd / 2))
    ++ epi.flatMap fun o =>
      let hd := fld o 2 0 16
      if fits hd then [all hd]
      else (posMoves c 96 ls).shifts.flatMap fun x => (outCols p).map fun n =>
        freqHull c ((((fld c 76 0 32 + n : Nat) : Int) + x) % (2 ^ 32 : Int) |>.toNat |> (· % hd / 2))

/-- Stream, table, frequency and record ranges of a pass's chain (R142, R143, R145, R148). -/
def chainHulls (sound : Hull → Bool) (p : PassI) (c : Nat) (ls : Loops) : List (Option Hull) :=
  let streams := (chainStreams c).map fun (i, pro) =>
    let d := fld c (112 + 8 * (i - 1)) 0 64
    let f := bits d 32 4
    let size := if f = 0xC then 32 else if f = 0xD || f = 0xF then 4 else if f = 0 then 2 else 1
    let by' := match bits d 50 2 with | 1 => ls.a | 2 => ls.w | 3 => ls.o | _ => []
    let cols := if pro then (if p.k = 0 then 0 else lastElem p + 1) else lastCol p
    if bits d 52 2 = 1 then none
    else match bits d 48 2 with
    | 0 => hull (bits d 0 20) p.m (bits d 20 12) (cols * size) by'
    | 1 => hull (bits d 0 20) 1 0 (cols * size) by'
    | _ => hull (bits d 0 20) p.m (bits d 20 12) size by'
  let epi := chainEpi c
  let table := epi.any fun o => (fld o 0 0 8 == 3 || fld o 0 0 8 == 4) && fld o 1 0 4 == 3
  let recs : List (Option Hull) := if !chainLedger c then [] else
    recHull p c (fld c 136 0 20) ls :: if epi.any fun o => fld o 0 0 8 == 0x0D then
      (List.range (fld c 140 0 5 - 1)).map fun q => recHull p c (fld c 144 0 20 + q * fld c 148 0 20 * 32) ls else []
  streams ++ (if table then [hull (fld c 160 0 20) 1 0 764 []] else []) ++ ropeHulls sound p c ls ++ recs

/-- Start addresses of a chain, by the offset of the field: its table, its frequencies, its streams and its ledger, where an
operation uses them or the field is not zero (R161, R333). -/
def chainBases (c : Nat) : List (Nat × Option Hull) :=
  let epi := chainEpi c
  let pro := chainPro c
  let table := epi.any fun o => (fld o 0 0 8 == 3 || fld o 0 0 8 == 4) && fld o 1 0 4 == 3
  let rope := (pro.any fun o => fld o 0 0 8 == 0x22) || epi.any fun o => fld o 0 0 8 == 7
  let close := epi.any fun o => fld o 0 0 8 == 0x0D
  let used := (chainStreams c).map (·.1)
  let at' (off len : Nat) (on : Bool) : List (Nat × Option Hull) := if on || fld c off 0 20 != 0 then [(off, hull (fld c off 0 20) 1 0 len [])] else []
  at' 160 764 table ++ at' 164 4 rope ++ at' 136 32 (chainLedger c) ++ at' 144 32 (chainLedger c && close && decide (1 < fld c 140 0 5))
    ++ (List.range 3).flatMap fun k => if bits (fld c (112 + 8 * k) 0 64) 52 2 = 1 then [] else at' (112 + 8 * k) 1 (used.contains (k + 1))

/-! ## PASS -/

/-- Codes of the ledger operations (R159). -/
def ledgerOps : List Nat := [0x08, 0x09, 0x0A, 0x0B, 0x0C, 0x0D, 0x21]

def log2Ceil (n : Nat) : Nat := ((List.range 17).find? fun g => decide (n ≤ 2 ^ g)).getD 17

/-- WEXP that a pass must have or exceed (R111, R113). -/
def wexpOk (p : PassI) : Bool :=
  let a := fmtOf p.afmt
  let w := fmtOf p.wfmt
  if p.afmt = 0 then p.k == 0 || decide ((log2Ceil p.k : Int) - 95 ≤ p.wexp)
  else p.wexp == (a.lsb - bandDepth p.afmt p.wfmt a) + (w.lsb - bandDepth p.afmt p.wfmt w)

/-- Limits of R73 on shape, K, N, TRANS and formats, by the offset of the field. -/
def shapeFindings (e core : Nat) (p : PassI) : List Finding :=
  let kt := tileK p.afmt p.wfmt
  let most := match p.shape with | 0 => 32 | 1 => 16 | 2 => 64 | 3 => 256 | 4 => 4096 | _ => 32
  need 1 e 1 3 (!((p.shape == 2 || p.shape == 3) && core % 4 != 0)) ++ need 1 e 1 3 (!(p.trans && decide (3 ≤ p.shape)))
    ++ need 1 e 2 3 (p.shape != 4 || (decide (p.afmt ≤ 2) && decide (p.wfmt ≤ 2))) ++ need 1 e 3 3 (p.shape == 1 || p.qmask == 0)
    ++ need 1 e 6 3 (match p.shape with | 1 => decide (p.k ≤ kt / 2) | 4 => decide (p.k ≤ 4096) | 5 => p.k == p.n | _ => true)
    ++ need 1 e 8 3 (decide (p.n ≤ most))

/-- Does a rounding point of a chain convert to an MX format (R118, R149)? -/
def chainMxPoint (c : Nat) : Bool := (chainEpi c).any fun o => (fld o 0 0 8 == 0x0E && (fmtOf (fld o 2 0 4)).mx)
  || (fld o 0 0 8 == 4 && ((fld o 2 0 1 == 1 && (fmtOf (fld o 8 0 4)).mx) || (fld o 2 1 1 == 1 && (fmtOf (fld o 12 0 4)).mx)))

/-- A PASS in everything but its own reserved fields. -/
def passFindings (g : Image) (e core : Nat) (w : Nat) (ls : Loops) (win : Nat × Nat) : List Finding :=
  let p := passOf w
  let limits := shapeFindings e core p ++ need 1 e 10 3 (wexpOk p)
  match g.chain p.chain with
  | none => limits ++ need 1 e 12 3 false
  | some c =>
    let ops := ((chainPro c) ++ chainEpi c).map fun o => fld o 0 0 8
    let gates := (ops.filter (· == 4)).length
    let mxOut := (fmtOf (chainOfmt c)).mx
    let even := (outCores core p).all fun x => ((outCols p).filter fun n => epiCore core p n == x.1).length % 32 == 0
    limits ++ need 1 e 8 3 (!(mxOut || chainMxPoint c) || even)
      ++ need 1 e 14 3 (if p.paired then p.shape == 0 && gates == 1 && p.pair != core % 4 else gates == 0)
      ++ need 1 e 1 3 (!((p.shape == 2 || p.shape == 3) && ops.any ledgerOps.contains))
      ++ if !p.live || !ls.runs then [] else
        needHull 1 e 16 3 win (actHull p c ls.a) ++ needHull 1 e 20 3 win (weightHull p ls.w) ++ needHull 1 e 24 3 win (outHull p c ls.o)
          ++ (chainHulls (·.sound win) p c ls).flatMap fun h => needHull 1 e 12 6 win h

/-! ## SEND, READ (R196) -/

def sendFindings (g : Image) (e d w : Nat) (ls : Loops) (win : Nat × Nat) : List Finding :=
  let words := fld w 1 0 3
  let count := fld w 4 0 11
  let stride := if fld w 8 20 12 = 0 then words else fld w 8 20 12
  let span := if count = 0 then 0 else (count - 1) * stride * 8 + words * 8
  reserved 1 e 3 w [(1, 3, 5), (2, 12, 4), (4, 11, 5), (6, 9, 7), (12, 0, 160)]
    ++ need 1 e 1 3 (decide (1 ≤ words) && decide (words ≤ 4)) ++ need 1 e 4 3 (decide (count ≤ 1024)) ++ need 1 e 8 3 (fld w 8 0 3 == 0)
    ++ (match g.boxEntry (fld w 2 0 12) with
      | none => need 1 e 2 3 false
      | some b =>
        need 1 e 2 3 (fld b 1 0 2 == d) ++ if beCollection b then
          need 1 e 4 3 (count == 1) ++ need 1 e 1 3 (words == beLanes b) ++ need 1 e 6 3 (decide (fld w 6 0 9 < beN b))
        else need 1 e 4 3 (decide (count ≤ beCapacity b)) ++ need 1 e 6 3 (fld w 6 0 9 == 0))
    ++ if ls.runs then needHull 1 e 8 3 win (hull (fld w 8 0 20) 1 0 span ls.a) else []

def readFindings (g : Image) (e d core w : Nat) (ls : Loops) (win : Nat × Nat) : List Finding :=
  let tagged := fld w 1 1 1 == 1
  let size := if tagged then 64 else 32
  reserved 1 e 3 w [(1, 2, 6), (2, 12, 4), (4, 13, 3), (6, 0, 16), (8, 20, 12), (12, 0, 160)]
    ++ need 1 e 4 3 (decide (fld w 4 0 13 ≤ 4096)) ++ need 1 e 8 3 (fld w 8 0 20 % size == 0)
    ++ (match g.boxEntry (fld w 2 0 12) with
      | none => need 1 e 2 3 false
      | some b => need 1 e 2 3 (fld b 1 0 2 == d && !beCollection b && beReader b == core))
    ++ if ls.runs then needHull 1 e 8 3 win (hull (fld w 8 0 20) 1 0 (fld w 4 0 13 * size) ls.o) else []

/-! ## XFER, AWAIT (R243) -/

/-- The quads that the image's XCHECK claims (R289). -/
def Image.xcheck (g : Image) (k : Nat) : Option Nat := (g.entries 10).find? fun e => fld e 0 0 8 == k
def Image.quadClaim (g : Image) : Nat := match g.xcheck 1 with | none => 0 | some e => fld e 16 0 128

/-- The logical core whose SRAM holds a device address. -/
def sramCore (a : Nat) : Nat := (a - sramBase) / MiB

/-- Is a device range inside the places that R242 allows? -/
def placeOk (s : State) (g : Image) (d a len : Nat) : Bool :=
  let rs := g.regions
  if len = 0 then true
  else if isSram a then
    inSram (sramCore a) a len && s.coreDistrict (sramCore a) == some d
  else coverGo rs (rs.length + 1) a len

/-- Does a property hold of a device address in every iteration? `whole lo hi`, where it answers, says so of all addresses from
`lo` to `hi` at once. -/
def everyAddr (a : Nat) (m : Moves) (whole : Nat → Nat → Bool) (ok : Nat → Bool) : Bool :=
  let lo := (a : Int) + m.span.1
  let hi := (a : Int) + m.span.2
  decide (0 ≤ lo) && (whole lo.toNat hi.toNat || m.shifts.all fun x => ok ((a : Int) + x).toNat)

/-- A device range in every iteration: inside the places of R242, SRAM of a core in a claimed quad (R289), and out of the
best-effort window of whichever core it lies in (R333). -/
def needPlace (s : State) (g : Image) (d e off a len : Nat) (m : Moves) (win : Nat × Nat) : List Finding :=
  let oneCore (lo hi : Nat) : Bool := isSram lo && inSram (sramCore lo) lo (hi - lo + len)
  let oneRegion (lo hi : Nat) : Bool := !isSram lo && g.regions.any fun r => within lo (hi - lo + len) r.base r.size
  let clear (x : Nat) : Bool := !isSram x || !overlaps ((x - sramBase) % MiB) len win.1 win.2
  let claimed (x : Nat) : Bool := len = 0 || !isSram x || bit g.quadClaim (sramCore x / 4)
  need 1 e off 3 (everyAddr a m (fun lo hi => (oneCore lo hi && placeOk s g d lo len) || oneRegion lo hi) (placeOk s g d · len))
    ++ need 1 e off 0x0B (everyAddr a m (fun lo hi => (oneCore lo hi && claimed lo) || oneRegion lo hi) claimed)
    ++ need 1 e off 0x0B (len = 0 || everyAddr a m
        (fun lo hi => (oneCore lo hi && !overlaps ((lo - sramBase) % MiB) (hi - lo + len) win.1 win.2) || oneRegion lo hi) clear)

def xferFindings (s : State) (g : Image) (e d w : Nat) (ls : Loops) (win : Nat × Nat) : List Finding :=
  let mode := xferMode w
  let enq := xferEnq w
  let srci := xferSrci w
  let copyOrSend := mode == 0 || mode == 1
  let slot (size : Nat) : List Finding := if ls.runs then needHull 1 e 8 3 win (hull (xferSlot w) 1 0 size (if srci then [] else ls.a)) else []
  reserved 1 e 3 w [(1, 6, 2), (2, 12, 4), (8, 48, 16), (16, 48, 16)]
    ++ need 1 e 1 3 (decide (mode ≤ 4) && (mode == 0 || !enq) && (copyOrSend || !srci))
    ++ need 1 e 4 3 (copyOrSend || xferLen w == 0)
    ++ need 1 e 16 3 (mode == 0 || (mode == 1 && fld w 16 16 32 == 0) || fld w 16 0 48 == 0)
    ++ need 1 e 24 3 (if mode == 1 || (mode == 0 && enq) then fld w 24 0 24 == 0 else fld w 24 0 64 == 0)
    ++ need 1 e 8 3 (copyOrSend || fld w 8 20 28 == 0)
    ++ need 1 e 8 3 (!copyOrSend || srci || fld w 8 0 6 == 0) ++ need 1 e 16 3 (mode != 0 || fld w 16 0 6 == 0)
    ++ (match mode with
      | 0 => if enq then need 1 e 2 3 (decide (xferTarget w < 256) && match g.queueEntry (xferTarget w) with | none => false | some q => fld q 1 0 2 == d)
             else need 1 e 2 3 (xferTarget w == 0)
      | 1 => (match g.ringEntry (xferTarget w) with
        | none => need 1 e 2 3 false
        | some r => need 1 e 2 3 (reTx r && fld r 1 0 2 == d) ++ need 1 e 4 9 (decide (unitsFor (xferLen w) ≤ reUnits r - 1)))
          ++ need 1 e 16 3 (fld w 16 0 16 == 0 || (decide (32 * fld w 16 0 16 ≤ xferLen w) && (xferLen w - 32 * fld w 16 0 16) % 32 == 0))
      | 2 => need 1 e 2 3 (match g.ringEntry (xferTarget w) with | none => false | some r => reTx r && fld r 1 0 2 == d)
      | _ => need 1 e 2 3 (xferTarget w == 0))
    ++ (if copyOrSend && !srci then (if ls.runs then needPlace s g d e 8 (fld w 8 0 48) (xferLen w) ls.a win else []) else slot (if mode == 3 then 128 else 32))
    ++ if mode == 0 && ls.runs then needPlace s g d e 16 (fld w 16 0 48) (xferLen w) ls.o win else []

def awaitFindings (g : Image) (e d w : Nat) (ls : Loops) (win : Nat × Nat) : List Finding :=
  reserved 1 e 3 w [(1, 0, 8), (2, 8, 8), (4, 20, 12), (16, 0, 128)]
    ++ need 1 e 2 3 (match g.queueEntry (fld w 2 0 8) with | none => false | some q => fld q 1 0 2 == d)
    ++ need 1 e 4 3 (fld w 4 0 20 % 32 == 0) ++ need 1 e 8 3 (fld w 8 0 24 == 0)
    ++ if ls.runs then needHull 1 e 4 3 win (hull (fld w 4 0 20) 1 0 32 ls.o) else []

/-! ## CORE_PROG -/

/-- Refused values and reserved fields of R66, R67, R70 to R72. -/
def wordFindings (e w : Nat) : List Finding :=
  match fld w 0 0 8 with
  | 1 =>
    let p := passOf w
    reserved 1 e 2 w [(3, 4, 4), (12, 12, 4), (14, 3, 5), (15, 0, 8), (28, 0, 32), (16, 0, 6), (20, 0, 6), (24, 0, 6)]
      ++ need 1 e 1 2 (decide (p.shape ≤ 5)) ++ need 1 e 2 2 (decide (p.afmt ≤ 7) && decide (p.wfmt ≤ 7) && ((p.afmt == 0) == (p.wfmt == 0)))
  | 6 => reserved 1 e 2 w [(4, 24, 8), (8, 24, 8), (12, 24, 8), (16, 0, 128), (4, 0, 6), (8, 0, 6), (12, 0, 6)]
  | 7 => reserved 1 e 2 w [(1, 0, 248)]
  | 0x0F => reserved 1 e 2 w [(1, 0, 248)]
  | 2 => []
  | 3 => []
  | 4 => []
  | 5 => []
  | _ => need 1 e 0 2 false

/-- What an instruction breaks beyond its own fields. -/
def instrFindings (s : State) (g : Image) (d core e w : Nat) (ls : Loops) (win : Nat × Nat) : List Finding :=
  match fld w 0 0 8 with
  | 1 => passFindings g e core w ls win
  | 2 => sendFindings g e d w ls win
  | 3 => readFindings g e d core w ls win
  | 4 => xferFindings s g e d w ls win
  | 5 => awaitFindings g e d w ls win
  | _ => []

/-- Core blocks (R285) and their instructions; `entries` are the orbit table's starting points on the core. -/
def progFindings (s : State) (g : Image) (d : Nat) (claim : Nat) (win : Nat × Nat) : List Finding :=
  let bs := (g.sect 1).blocks
  let cores := bs.map fun b => fld b.1 0 0 9
  bs.zipIdx.flatMap fun (b, bi) =>
    let core := fld b.1 0 0 9
    let e0 := bi * 4096
    let starts := ((g.entries 2).filter fun r => fld r 0 0 9 == core).map fun r => fld r 12 0 12
    let later := (starts.filter (· != 0)).eraseDups.flatMap fun k =>
      (nested (b.2.drop k) k []).flatMap fun x => need 1 (e0 + x.1) 0 3 x.2.2.2
    reserved 1 e0 2 b.1 [(0, 9, 7), (2, 0, 16), (4, 13, 19), (8, 0, 192)] |>.map (fun f => { f with off := 0x800 + f.off })
      |>.append (need 1 e0 0x804 2 (!b.2.isEmpty && decide (b.2.length ≤ 4096)))
      |>.append (need 1 e0 0x800 2 ((cores.take bi).all (· < core)))
      |>.append (need 1 e0 0x800 0x0B (bit (s.district d).defn.quads (core / 4) && bit claim (core / 4)))
      |>.append ((nested b.2 0 []).flatMap fun (i, w, ls, ok) =>
        wordFindings (e0 + i) w ++ need 1 (e0 + i) 0 3 ok ++ instrFindings s g d core (e0 + i) w ls win)
      |>.append later

/-! ## CHAIN_TABLE (R161, R120) -/

/-- FIELD findings of an entry: reserved fields and refused values of R141 to R144. -/
def chainFields (i c : Nat) : List Finding :=
  let pro := fld c 3 4 2
  let epi := fld c 3 0 4
  let ofmt := chainOfmt c
  reserved 7 i 2 c [(0, 12, 4), (2, 2, 6), (3, 6, 2), (4, 12, 4), (6, 12, 4), (8, 12, 4), (10, 12, 4), (12, 6, 2), (13, 0, 24), (140, 5, 3), (141, 7, 1),
      (142, 0, 16), (156, 0, 32), (160, 20, 12), (164, 20, 12), (160, 0, 6), (164, 0, 6), (376, 0, 64), (144, 20, 12), (148, 20, 12), (136, 0, 5)]
    ++ need 7 i 12 2 (decide (ofmt ≤ 7) || ofmt == 15)
    ++ (List.range 3).flatMap (fun k =>
      let d := fld c (112 + 8 * k) 0 64
      let f := bits d 32 4
      need 7 i (112 + 8 * k) 2 (bits d 52 2 == 1 || ((decide (f ≤ 2) || f == 0xC || f == 0xD || f == 0xF) && bits d 48 2 != 3 && decide (bits d 52 2 ≤ 1)
        && bits d 54 10 == 0 && bits d 0 6 == 0)))
    ++ (List.range 3).flatMap (fun k => reserved 7 i 2 c [(168 + 16 * k + 5, 0, 24)])
    ++ (List.range 10).flatMap (fun k => reserved 7 i 2 c [(216 + 16 * k + 5, 0, 24)])
    ++ need 7 i 3 6 (decide (epi ≤ 10) && decide (pro ≤ 3))
    ++ (List.range 3).flatMap (fun k => need 7 i (168 + 16 * k) 6 (decide (k < pro) || fld c (168 + 16 * k) 0 128 == 0))
    ++ (List.range 10).flatMap (fun k => need 7 i (216 + 16 * k) 6 (decide (k < epi) || fld c (216 + 16 * k) 0 128 == 0))

/-- An operation names a stream just where it takes one (R145, R147). -/
def streamNamed (o : Nat) (second : Bool) : Bool :=
  let k := if second then fld o 1 6 2 else fld o 1 4 2
  let code := fld o 0 0 8
  if second then (k != 0) == (code == 0x0C)
  else code == 0x21 || (k != 0) == [0x01, 0x04, 0x05, 0x0A, 0x0B, 0x0C].contains code

/-- The stream that an operation names is there and fits it in FMT, SHAPE and SRC (R145, R147). -/
def streamFits (c o : Nat) (second : Bool) : Bool :=
  let k := if second then fld o 1 6 2 else fld o 1 4 2
  let d := fld c (112 + 8 * (k - 1)) 0 64
  let f := bits d 32 4
  let sh := bits d 48 2
  let src := bits d 52 2
  let elem := decide (f ≤ 2) || f == 0xF
  k == 0 || (d != 0 && if second then src == 0 && f == 0xC && sh == 2
    else match fld o 0 0 8 with
    | 0x01 => src == 0 && sh == 1 && elem
    | 0x04 => src == 1
    | 0x05 => src == 0 && sh == 0 && elem
    | 0x0A => src == 0 && sh == 0 && f == 0xF
    | 0x0B => src == 0 && sh == 2 && f == 0xD
    | 0x0C => src == 0 && sh == 0 && elem
    | 0x21 => src == 0 && sh == 1 && elem
    | _ => true)

/-- Findings of one operation at its offset, and of its streams at theirs. -/
def opFindings (i c off o : Nat) (ok : Bool) : List Finding :=
  need 7 i off 6 (ok && streamNamed o false && streamNamed o true)
    ++ need 7 i (112 + 8 * (fld o 1 4 2 - 1)) 6 (streamFits c o false) ++ need 7 i (112 + 8 * (fld o 1 6 2 - 1)) 6 (streamFits c o true)

/-- Refused SEL, PARAM and codes of one operation; `first` says that it decodes the stored activation (R145, R146). -/
def opOk (o : Nat) (pro first : Bool) : Bool :=
  let sel := fld o 1 0 4
  let hd := fld o 2 0 16
  let spec (x : Nat) : Bool := decide (bits x 0 4 ≤ 7)
  match fld o 0 0 8 with
  | 0x21 => pro && decide (sel ≤ 1) && decide (fld o 2 12 4 ≤ 7)
  | 0x22 => pro && hd % 2 == 0 && decide (2 ≤ hd) && (!first || decide (fld o 2 16 4 ≤ 7))
  | 0x23 => pro
  | 0x03 => !pro && decide (sel ≤ 3)
  | 0x04 => !pro && decide (sel ≤ 4) && (fld o 2 0 1 == 0 || spec (fld o 8 0 17)) && (fld o 2 1 1 == 0 || spec (fld o 12 0 17))
  | 0x07 => !pro && hd % 2 == 0 && decide (2 ≤ hd)
  | 0x0B => !pro && decide (sel ≤ 1)
  | 0x0C => !pro && decide (sel ≤ 1)
  | 0x0D => !pro && decide (sel ≤ 1)
  | 0x0E => !pro && spec (fld o 2 0 17)
  | k => !pro && decide (1 ≤ k) && decide (k ≤ 0x0A)

/-- CHAIN findings of an entry (R151, R159, R161). -/
def chainRules (i c : Nat) : List Finding :=
  let pro := chainPro c
  let epi := chainEpi c
  let code (o : Nat) : Nat := fld o 0 0 8
  let all := pro ++ epi
  let names := (all.map fun o => fld o 1 4 2) ++ all.map (fun o => fld o 1 6 2) |>.filter (· != 0)
  let led := ((pro.map code).filter (0x20 ≤ ·) ++ (epi.map code).filter (· < 0x20)).any ledgerOps.contains
  let lmode := fld c 141 4 3
  let attnOnly (o : Nat) : Bool := code o == 0x0A || (code o == 0x0D && fld o 1 0 4 == 1)
  let contrib (o : Nat) : Bool := code o == 8 || code o == 9 || ((code o == 0x0B || code o == 0x0C) && fld o 1 0 4 == 0)
  let proCodes := pro.map code
  pro.zipIdx.flatMap (fun (o, k) => opFindings i c (168 + 16 * k) o (opOk o true (k == 0)))
    ++ epi.zipIdx.flatMap (fun (o, k) => opFindings i c (216 + 16 * k) o (opOk o false false))
    ++ (List.range (proCodes.length - 1)).flatMap (fun k => need 7 i (168 + 16 * (k + 1)) 6 (decide (proCodes.getD k 0 < proCodes.getD (k + 1) 0)))
    ++ need 7 i 112 6 (decide (names.length ≤ 3) && names.eraseDups.length == names.length)
    ++ (List.range 3).flatMap (fun k => need 7 i (112 + 8 * k) 6 (names.contains (k + 1) || fld c (112 + 8 * k) 0 64 == 0))
    ++ (if led then
        need 7 i 136 6 (chainLedger c) ++ need 7 i 140 2 (decide (1 ≤ fld c 140 0 5) && decide (fld c 140 0 5 ≤ 16))
          ++ need 7 i 141 2 (decide (fld c 141 0 4 < fld c 140 0 5) && decide (lmode ≤ 3))
          ++ need 7 i 148 2 (decide (1 ≤ fld c 148 0 20) && decide (fld c 148 0 20 ≤ 24576))
      else need 7 i 136 6 (!chainLedger c))
    ++ epi.zipIdx.flatMap (fun (o, k) =>
      need 7 i (216 + 16 * k) 6 (!attnOnly o || lmode == 1)
        ++ need 7 i (216 + 16 * k) 6 (code o != 0x0D || (fld c 141 0 4 == 0 && (lmode != 1 || fld c 140 0 5 == 1)
          && !((epi.drop (k + 1)).any contrib))))
    ++ need 7 i 216 6 (decide ((epi.filter contrib).length ≤ 1))
    ++ need 7 i 12 6 (!(((fmtOf (chainOfmt c)).mx || chainMxPoint c) && chainTwrite c))

/-- Does the stream `st` of ACCUM name, for every output of a pass in every iteration, the bytes that the output is written to
(R147)? -/
def aliases (c st : Nat) (p : PassI) (ls : Loops) : Bool :=
  let cols := (outCols p).length
  let follow : Moves := match bits st 50 2 with | 1 => ls.a | 2 => ls.w | 3 => ls.o | _ => []
  let moved (m : Moves) : List Int := (m.filter fun x => decide (1 < x.1)).map (·.2)
  let still (m : Moves) : Bool := (moved m).all (· == 0)
  let single := decide (p.m ≤ 1) && decide (cols ≤ 1)
  !p.live || !ls.runs || (chainOfmt c == 15 && bits st 0 20 == p.oAddr && (moved follow == moved ls.o || (still follow && still ls.o))
    && (single || (!chainTwrite c && (decide (p.m ≤ 1) || bits st 20 12 == p.oStride))))

/-- Conditions that tie a chain to the passes that name it: TREAD's formats, and ACCUM's aliasing (R161). -/
def chainUse (i c : Nat) (pls : List (PassI × Loops)) : List Finding :=
  let ps := pls.map (·.1)
  let pro := chainPro c
  let tread := pro.any fun o => fld o 0 0 8 == 0x23
  let inFmt : Option Nat := (pro.filter fun o => fld o 0 0 8 != 0x23).head?.map fun o => if fld o 0 0 8 = 0x21 then fld o 2 12 4 else fld o 2 16 4
  let accum := (chainEpi c).find? fun o => fld o 0 0 8 == 0x0A
  let aliased (x : PassI × Loops) : Bool := match accum with
    | none => true
    | some o => aliases c (fld c (112 + 8 * (fld o 1 4 2 - 1)) 0 64) x.1 x.2
  need 7 i 168 6 (!(tread && ((match inFmt with | some f => (fmtOf f).mx | none => false) || ps.any fun p => (fmtOf p.afmt).mx)))
    ++ need 7 i 216 6 (pls.all aliased)

/-- A format that the spec defines; a refused code is reported at its own field and not compared with a slot. -/
def knownFmt (f : Nat) : Option Nat := if f ≤ 7 || f = 15 then some f else none

/-- Slot fields that a chain uses: offset, slot, format served; none where the format is a pass's (R120). -/
def chainSlots (c : Nat) : List (Nat × Nat × Option Nat) :=
  let pro := chainPro c
  let first := (pro.filter fun o => fld o 0 0 8 != 0x23).head?
  let proSlots := pro.zipIdx.flatMap fun (o, k) =>
    match fld o 0 0 8 with
    | 0x21 => [(168 + 16 * k, fld o 2 0 12, knownFmt (fld o 2 12 4))]
    | 0x22 => if first == some o then [(168 + 16 * k, fld o 12 0 12, knownFmt (fld o 2 16 4))] else []
    | _ => []
  let spec (off x : Nat) : Nat × Nat × Option Nat := (off, bits x 5 12, knownFmt (bits x 0 4))
  let epiSlots := (chainEpi c).zipIdx.flatMap fun (o, k) =>
    match fld o 0 0 8 with
    | 0x04 => (if fld o 2 0 1 = 1 then [spec (216 + 16 * k) (fld o 8 0 17)] else []) ++ if fld o 2 1 1 = 1 then [spec (216 + 16 * k) (fld o 12 0 17)] else []
    | 0x0E => [spec (216 + 16 * k) (fld o 2 0 17)]
    | _ => []
  let streams := (List.range 3).filterMap fun k =>
    let d := fld c (112 + 8 * k) 0 64
    if d != 0 && bits d 52 2 == 0 && decide (bits d 32 4 ≤ 2) then some (112 + 8 * k, bits d 36 12, some (bits d 32 4)) else none
  [(4, chainASlot c, none), (6, chainWSlot c, none), (8, chainOSlot c, knownFmt (chainOfmt c))]
    ++ (if (chainEpi c).any fun o => fld o 0 0 8 == 4 then [(10, chainGSlot c, none)] else []) ++ proSlots ++ epiSlots ++ streams

/-- NUMERIC findings of an entry (R120), with the passes that name it. -/
def chainNumeric (g : Image) (d i c : Nat) (ps : List PassI) : List Finding :=
  let slotOf (k : Nat) : Option Nat := (g.entries 8).find? fun e => fld e 0 0 12 == k
  (chainSlots c).flatMap (fun (off, k, f) => need 7 i off 0x0D (match slotOf k with
    | none => false
    | some e => fld e 6 0 2 == d && match f with | none => true | some x => fld e 2 0 4 == x))
    ++ ps.flatMap fun p =>
      let has (off k fmt : Nat) : List Finding := need 7 i off 0x0D (match slotOf k with | none => true | some e => fld e 2 0 4 == fmt)
      has 4 (chainASlot c) p.afmt ++ has 6 (chainWSlot c) p.wfmt ++ if p.paired then has 10 (chainGSlot c) p.wfmt else []

def chainFindings (g : Image) (d : Nat) (win : Nat × Nat) : List Finding :=
  let passes := (g.sect 1).blocks.flatMap fun b => ((nested b.2 0 []).filter fun x => fld x.2.1 0 0 8 == 1).map fun x => (passOf x.2.1, x.2.2.1)
  let es := g.entries 7
  perEntry es fun i c =>
    let ps := passes.filter fun p => p.1.chain == fld c 0 0 12
    chainFields i c ++ chainRules i c ++ chainUse i c ps ++ chainNumeric g d i c (ps.map (·.1)) ++ need 7 i 2 0x0B (fld c 2 0 2 == d)
      ++ (chainBases c).flatMap fun x => needHull 7 i x.1 6 win x.2

end Sys2Proof.Machine
end

