-- ==== Sys2Proof/Machine/Checks.lean ====
section
/-! DEFINITION. Cross-checks of the other sections and of the shadowed registers, and the end of the checks of a commit (10 R286
to R289, R295 to R298, R304; 02 R38, R43, R44; 04 R120; 07 R196; 08 R224, R228; 09 R265; 12 R353, R356). -/

namespace Sys2Proof.Machine

/-- Requirement on an entry of a section other than CORE_PROG, under FIELD. -/
def needField (sect i off : Nat) (ok : Bool) : List Finding := need sect i off 2 ok

/-- The image that a district's commit in state ARMED would make active (R297). -/
def State.armed (s : State) (d : Nat) : Option Image := if (s.district d).img.commit = 2 then s.resulting d else none

/-- Images that other districts claim resources with (R297). -/
def State.otherClaims (s : State) (d : Nat) : List (Nat × Image) :=
  (s.defined.filter (· != d)).flatMap fun k => ((s.active k).toList ++ (s.armed k).toList).map (k, ·)

/-- Largest claim of each other district, summed. -/
def State.otherSum (s : State) (d : Nat) (f : Nat → Image → Nat) : Nat :=
  sumOf (s.defined.filter (· != d)) fun k => ((s.active k).toList ++ (s.armed k).toList).foldl (fun m g => max m (f k g)) 0

/-! ## XCHECK (R289) -/

def Image.portClaim (g : Image) : Nat := match g.xcheck 2 with | none => 0 | some e => fld e 8 0 24

def xcheckFindings (s : State) (g : Image) (d : Nat) : List Finding :=
  let es := g.entries 10
  let p := (g.sect 2).header
  let df := (s.district d).defn
  (if [1, 2, 3].all fun k => (g.xcheck k).isSome then [] else [⟨10, false, 0, 0, 1⟩])
    ++ (repeated (es.map fun e => fld e 0 0 8)).flatMap (fun i => need 10 i 0 2 false)
    ++ perEntry es fun i e =>
      match fld e 0 0 8 with
      | 1 => reserved 10 i 2 e [(1, 0, 120)] ++ need 10 i 16 0x0B (fld e 16 0 128 ||| df.quads == df.quads)
          ++ need 10 i 16 0x0C ((s.otherClaims d).all fun x => fld e 16 0 128 &&& x.2.quadClaim == 0)
      | 2 => reserved 10 i 2 e [(1, 0, 56), (11, 0, 8), (12, 0, 160)] ++ need 10 i 8 0x0B (fld e 8 0 24 ||| df.tensor == df.tensor)
          ++ need 10 i 8 0x0C ((s.otherClaims d).all fun x => fld e 8 0 24 &&& x.2.portClaim == 0)
      | 3 =>
        reserved 10 i 2 e [(1, 0, 56), (11, 0, 8), (23, 0, 72)] ++ need 10 i 8 0x0F (fld e 8 0 24 == fld p 16 0 24)
          ++ need 10 i 12 0x0F (fld e 12 0 32 == fld p 20 0 22) ++ need 10 i 16 0x0F (fld e 16 0 32 == (match g.job with | none => 0 | some j => fld j 4 0 32))
          ++ need 10 i 20 0x0F (fld e 20 0 16 == fld p 28 0 16) ++ need 10 i 22 0x0F (fld e 22 0 8 == fld p 30 0 8)
      | _ => need 10 i 0 2 false

/-! ## ORBIT_TABLE (R286, R287, R43, R44) -/

/-- Cycles available in an orbit (R44). -/
def cyclesIn (period : Nat) : Int := ((period * 69300 / 15625 : Nat) : Int) - 16

def orbitHeader (s : State) (g : Image) (d : Nat) : List Finding :=
  let h := (g.sect 2).header
  let l := g.stepLen
  let others := (s.defined.filter (· != d)).any fun k => (s.active k).isSome
  let same (f : Image → Nat) : Bool := (s.otherClaims d).all fun x => f x.2 == f g
  ([(19, 0, 8), (20, 22, 10), (27, 0, 8), (31, 0, 8), (35, 0, 8), (39, 0, 8), (43, 0, 168)].flatMap fun (o, lo, n) => needHeader 2 o 2 (fld h o lo n == 0))
    ++ needHeader 2 16 0x0F (decide (2 ≤ l)) ++ needHeader 2 20 0x0F (decide (1250 ≤ g.period) && decide (g.period ≤ 2500000))
    ++ needHeader 2 28 0x0F (g.timeout != 0) ++ needHeader 2 30 0x0F (g.lead != 0)
    ++ needHeader 2 32 2 (decide (1 ≤ g.exch)) ++ needHeader 2 36 2 (decide (g.exch ≤ g.upd)) ++ needHeader 2 40 2 (decide (g.upd ≤ g.evl) && decide (g.evl + 1 ≤ l))
    ++ needHeader 2 20 0x0C (same Image.period && (!others || s.orb.period == g.period))
    ++ needHeader 2 28 0x0C (same Image.timeout && (!others || s.orb.timeout == g.timeout))
    ++ needHeader 2 30 0x0C (same Image.lead && (!others || s.orb.lead == g.lead))

/-- Instructions that the program from ENTRY reaches, up to END; none when the block ends first. -/
def reached : List (Nat × Nat × Loops × Bool) → Option (List Nat)
  | [] => none
  | (_, w, ls, _) :: r => if fld w 0 0 8 = 0x0F then some [] else (reached r).map fun l => if ls.runs then w :: l else l

def rowFindings (s : State) (g : Image) (d : Nat) : List Finding :=
  let es := g.entries 2
  let first (e : Nat) : Nat := fld e 4 0 24
  let run (e : Nat) : Nat := fld e 8 0 24
  perEntry es fun i e =>
    let core := fld e 0 0 9
    let prog := g.prog core
    let ph := fld e 2 0 3
    let span := [first e, first e + run e - 1] ++ [g.exch, g.upd, g.evl, g.stepLen - 1].filter fun b => first e < b && b < first e + run e
    reserved 2 i 2 e [(0, 9, 7), (2, 3, 5), (3, 0, 8), (4, 24, 8), (8, 24, 8), (12, 12, 20), (16, 24, 8), (20, 24, 8)]
      ++ need 2 i 2 2 (decide (1 ≤ ph) && decide (ph ≤ 5)) ++ need 2 i 8 2 (run e != 0) ++ need 2 i 16 2 (fld e 16 0 24 != 0)
      ++ need 2 i 16 4 (decide (((fld e 16 0 24 + fld e 20 0 24 : Nat) : Int) ≤ cyclesIn g.period))
      ++ need 2 i 0 0x0B (bit (s.district d).defn.quads (core / 4) && bit g.quadClaim (core / 4))
      ++ need 2 i 4 5 (decide (first e + run e ≤ g.stepLen))
      ++ need 2 i 2 5 (run e == 0 || span.all fun k => (g.phaseAt k).code == ph)
      ++ need 2 i 4 5 (!((es.take i).any fun o => fld o 0 0 9 == core && overlaps (first e) (run e) (first o) (run o)))
      ++ need 2 i 12 5 (decide (fld e 12 0 12 < prog.length))
      ++ (match reached (nested (prog.drop (fld e 12 0 12)) 0 []) with
        | none => need 2 i 12 5 false
        | some ws => need 2 i 12 5 (ph == 1 || ph == 2 || !(ws.any fun w => fld w 0 0 8 == 1 && (passOf w).kind != 3)))

/-! ## QUEUE_MAP (R194 to R196) -/

def queueFindings (s : State) (g : Image) (d : Nat) : List Finding :=
  let es := g.entries 3
  let recs := es.filter fun e => fld e 0 0 8 == 1
  let quota := match g.queueDist d with | none => 0 | some e => fld e 4 0 18
  let key (e : Nat) : Nat := if fld e 0 0 8 = 1 then 4096 + fld e 1 0 2 else fld e 2 0 12
  let dup := repeated (es.map key)
  let others := s.otherSum d fun _ x => ((x.entries 3).filter fun e => fld e 0 0 8 == 3).length
  let many := (es.zipIdx.filter fun x => fld x.1 0 0 8 == 3).drop (256 - others)
  let sum := sumOf recs (fun e => fld e 4 0 18) + s.otherSum d fun k x => match x.queueDist k with | none => 0 | some e => fld e 4 0 18
  (dup.flatMap fun i => need 3 i 2 7 false) ++ (many.flatMap fun x => need 3 x.2 0 7 false)
    ++ perEntry es fun i e =>
      let mine := need 3 i 1 0x0B (fld e 1 0 2 == d)
      match fld e 0 0 8 with
      | 1 =>
        let n := fld e 16 0 6
        reserved 3 i 2 e [(1, 2, 6), (2, 0, 16), (4, 18, 14), (8, 48, 16), (16, 6, 2), (17, 0, 120)] ++ mine
          ++ needField 3 i 4 (decide (fld e 4 0 18 ≤ 131072)) ++ needField 3 i 16 (decide (16 ≤ n) && decide (n ≤ 32))
          ++ needField 3 i 8 (fld e 8 0 48 % 2 ^ n == 0) ++ need 3 i 8 7 (coverGo g.regions (g.regions.length + 1) (fld e 8 0 48) (2 ^ n))
          ++ need 3 i 4 0x0C (decide (sum ≤ 131072))
      | 2 =>
        reserved 3 i 2 e [(1, 2, 6), (2, 12, 4), (4, 18, 14), (8, 9, 7), (10, 0, 16), (12, 0, 8), (13, 0, 8), (15, 0, 8), (16, 12, 4), (18, 0, 112)]
          ++ mine ++ need 3 i 4 7 (quota != 0) ++ needField 3 i 4 (decide (1 ≤ beCapacity e) && (quota == 0 || decide (beCapacity e ≤ quota)))
          ++ need 3 i 8 7 (bit (s.district d).defn.quads (beReader e / 4)) ++ need 3 i 8 0x0B (bit g.quadClaim (beReader e / 4))
          ++ need 3 i 1 7 (recs.any fun r => fld r 1 0 2 == fld e 1 0 2)
          ++ need 3 i 2 0x0B ((s.otherClaims d).all fun x => (x.2.boxEntry (fld e 2 0 12)).isNone)
      | 3 =>
        let n := beLanes e
        reserved 3 i 2 e [(1, 2, 6), (2, 12, 4), (4, 0, 32), (8, 0, 16), (10, 10, 6), (12, 3, 5), (15, 0, 8), (16, 12, 4), (18, 0, 112)]
          ++ mine ++ needField 3 i 10 (decide (1 ≤ beN e) && decide (beN e ≤ 512)) ++ needField 3 i 12 (decide (1 ≤ n) && decide (n ≤ 4))
          ++ needField 3 i 13 ((List.range 4).all fun j => if j < n then beType e j != 3 else beType e j == 0)
          ++ need 3 i 16 7 (match g.boxEntry (beOut e) with | none => false | some o => fld o 0 0 8 == 2 && fld o 1 0 2 == fld e 1 0 2)
          ++ need 3 i 1 7 (recs.any fun r => fld r 1 0 2 == fld e 1 0 2)
          ++ need 3 i 2 0x0B ((s.otherClaims d).all fun x => (x.2.boxEntry (fld e 2 0 12)).isNone)
      | _ => needField 3 i 0 false

/-! ## RING_MAP (R227, R228) -/

def ringFindings (s : State) (g : Image) (d : Nat) : List Finding :=
  let es := g.entries 4
  let quota := match g.queueDist d with | none => 0 | some e => fld e 4 0 18
  let key (e : Nat) : Nat := if fld e 0 0 8 = 3 then 4096 + fld e 2 0 12 else fld e 2 0 12
  let others (k : Nat) : Nat := s.otherSum d fun _ x => ((x.entries 4).filter fun e => fld e 0 0 8 == k).length
  let many (k : Nat) : List Finding := ((es.zipIdx.filter fun x => fld x.1 0 0 8 == k).drop (256 - others k)).flatMap fun x => need 4 x.2 0 9 false
  let rx := es.zipIdx.filter fun x => fld x.1 0 0 8 == 1
  let rings := g.regions.filter fun r => r.use == 7
  ((repeated (es.map key)).flatMap fun i => need 4 i 2 9 false) ++ many 1 ++ many 2 ++ many 3
    ++ perEntry es fun i e =>
      let kind := fld e 0 0 8
      let mine := need 4 i 1 0x0B (fld e 1 0 2 == d)
      let size := 2 ^ reLog2 e
      let ring := needField 4 i 4 (decide (16 ≤ reLog2 e) && decide (reLog2 e ≤ 32)) ++ needField 4 i 5 (decide (reLport e ≤ 23) && decide (reVc e ≤ 3))
        ++ need 4 i 5 9 (match g.lportEntry (reLport e) with | none => false | some l => fld l 1 0 2 == d)
        ++ need 4 i 2 0x0B ((s.otherClaims d).all fun x => (x.2.ringEntry (fld e 2 0 12)).isNone)
      match kind with
      | 1 =>
        reserved 4 i 2 e [(1, 2, 6), (2, 12, 4), (4, 6, 2), (7, 0, 8), (8, 48, 16), (16, 0, 16), (18, 0, 16), (20, 0, 32), (24, 0, 64)] ++ mine ++ ring
          ++ need 4 i 8 9 (reBase e % size == 0) ++ need 4 i 8 9 (rings.any fun r => within (reBase e) size r.base r.size)
          ++ need 4 i 6 9 (match g.queueEntry (reQueue e) with | none => false | some q => fld q 1 0 2 == d)
          ++ need 4 i 8 9 (!((rx.filter fun x => x.2 < i).any fun x => overlaps (reBase e) size (reBase x.1) (2 ^ reLog2 x.1)))
      | 2 =>
        reserved 4 i 2 e [(1, 2, 6), (2, 12, 4), (4, 6, 2), (6, 0, 8), (7, 0, 8), (8, 0, 64), (16, 12, 4), (18, 0, 16), (20, 0, 32), (24, 0, 64)] ++ mine ++ ring
      | 3 =>
        reserved 4 i 2 e [(1, 2, 6), (2, 8, 8), (4, 0, 8), (5, 0, 8), (6, 0, 8), (7, 0, 8), (8, 0, 64), (16, 0, 16), (18, 0, 16), (20, 18, 14), (24, 0, 64)]
          ++ mine ++ need 4 i 20 9 (quota != 0) ++ needField 4 i 20 (decide (1 ≤ reCapacity e) && (quota == 0 || decide (reCapacity e ≤ quota)))
          ++ need 4 i 2 0x0B ((s.otherClaims d).all fun x => (x.2.queueEntry (fld e 2 0 8)).isNone)
      | _ => needField 4 i 0 false

/-! ## LINK_MAP (R264, R265, R190) -/

/-- Is a coordinate inside the job's extent? -/
def inExtent (job c : Nat) : Bool := (List.range 3).all fun a => decide (relative c (fld job 8 0 16) a < extentOf job a)

def linkFindings (s : State) (g : Image) (d : Nat) : List Finding :=
  let es := g.entries 5
  let job := g.job
  let ports := es.filter fun e => fld e 0 0 8 == 1
  let df := (s.district d).defn
  let key (e : Nat) : Nat := fld e 0 0 8 * 64 + (if fld e 0 0 8 = 3 then fld e 1 0 2 else fld e 2 0 5)
  let membersOf (l : Nat) : List Nat := ports.filter fun e => peLport e == l
  let sameLport (l : Nat) : Bool := (membersOf l).any fun e => !peForeign e
  let facing (dir : Nat) : Bool := ports.any fun e => peDir e == dir
  ((repeated (es.map key)).flatMap fun i => need 5 i 2 0x0A false)
    ++ perEntry es fun i e =>
      let mine := need 5 i 1 0x0B (fld e 1 0 2 == d)
      match fld e 0 0 8 with
      | 3 =>
        let kids (amax : Bool) : List Nat := jobChildren e amax
        let tree (amax : Bool) : Bool := (kids amax).all (fun l => sameLport l && jobParent e amax != some l)
        let parent (amax : Bool) : Bool := match jobParent e amax with | none => true | some l => sameLport l
        reserved 5 i 2 e [(1, 2, 6), (12, 10, 6), (14, 11, 5), (16, 6, 2), (17, 6, 2), (18, 0, 16), (20, 24, 8), (24, 24, 8), (28, 0, 32)] ++ mine
          ++ needField 5 i 4 (fld e 4 0 32 != 0) ++ need 5 i 2 0x0A (inExtent e (fld e 2 0 16))
          ++ need 5 i 14 0x0A (decide (1 ≤ fld e 14 0 11) && decide (fld e 14 0 11 ≤ 1024)) ++ need 5 i 12 0x0A (decide (fld e 12 0 10 < fld e 14 0 11))
          ++ need 5 i 16 0x0A ((fld e 16 5 1 == 0 || fld e 16 0 5 == 0) && parent false) ++ need 5 i 17 0x0A ((fld e 17 5 1 == 0 || fld e 17 0 5 == 0) && parent true)
          ++ need 5 i 20 0x0A (tree false) ++ need 5 i 24 0x0A (tree true)
      | 2 =>
        let ms := membersOf (fld e 2 0 5)
        let dirs := (ms.filter fun m => !peForeign m).map peDir
        let rivals := ports.any fun m => !peForeign m && peLport m < fld e 2 0 5 && dirs.contains (peDir m)
        reserved 5 i 2 e [(1, 2, 6), (2, 5, 3), (3, 0, 8), (6, 0, 208)] ++ mine ++ needField 5 i 2 (decide (fld e 2 0 5 ≤ 23))
          ++ needField 5 i 4 ((List.range 4).all fun j => fld e 4 (4 * j) 4 != 0)
          ++ need 5 i 2 0x0A (decide (1 ≤ ms.length) && decide (ms.length ≤ 8))
          ++ need 5 i 2 0x0A (!rivals)
      | 1 =>
        let p := fld e 2 0 5
        let same := !peForeign e
        let first := (membersOf (peLport e)).headD e
        reserved 5 i 2 e [(1, 2, 6), (2, 5, 3), (3, 5, 3), (4, 4, 4), (5, 5, 3), (6, 6, 2), (7, 0, 8), (18, 0, 112)] ++ mine
          ++ needField 5 i 2 (decide (p ≤ 23)) ++ needField 5 i 4 (decide (peDir e ≤ 5)) ++ needField 5 i 6 (decide (peShare e ≤ 32))
          ++ needField 5 i 8 (peSerial e != 0) ++ needField 5 i 16 (same || fld e 16 0 16 == 0)
          ++ need 5 i 4 0x0A (peDir e == peDir first && peForeign e == peForeign first) ++ need 5 i 6 0x0A (peShare e == peShare first)
          ++ need 5 i 16 0x0A (fld e 16 0 16 == fld first 16 0 16)
          ++ need 5 i 2 0x0B (bit df.tensor p && bit g.portClaim p)
          ++ need 5 i 2 0x0C ((s.otherClaims d).all fun x => (x.2.portEntry p).isNone)
          ++ need 5 i 3 0x0A ((g.lportEntry (peLport e)).isSome) ++ need 5 i 4 0x0A (same || facing (opposite (peDir e)))
          ++ (if same then match job with
            | none => need 5 i 4 0x0A false
            | some j => need 5 i 16 0x0A (inExtent j (fld e 16 0 16) && fld e 16 0 16 == neighbourCoord j (fld j 2 0 16) (peDir e))
          else [])
      | _ => needField 5 i 0 false

/-! ## MEM_MAP (R223, R224) -/

def memFindings (s : State) (g : Image) (d : Nat) : List Finding :=
  let es := g.entries 6
  let df := (s.district d).defn
  let shares := es.filter fun e => fld e 0 0 8 == 1
  let regs := es.zipIdx.filter fun x => fld x.1 0 0 8 == 2
  let sum := sumOf (shares.take 1) (fun e => fld e 2 0 7) + s.otherSum d fun _ x => sumOf (((x.entries 6).filter fun e => fld e 0 0 8 == 1).take 1) fun e => fld e 2 0 7
  let size (e : Nat) : Nat := fld e 16 0 20 * MiB
  let base (e : Nat) : Nat := fld e 8 0 48
  let need8 (i off : Nat) (ok : Bool) : List Finding := need 6 i off 8 ok
  let kept := regs.filter fun x => fld x.1 3 0 4 == 2 || fld x.1 3 0 4 == 3 || (fld x.1 3 0 4 == 1 && fld x.1 3 4 1 == 0)
  let total := sumOf kept fun x => size x.1
  let journals := regs.filter fun x => fld x.1 3 0 4 == 8
  let journalOk := kept.isEmpty || (journals.length == 1 && decide (total ≤ sumOf journals fun x => size x.1))
  (match kept.head? with | none => [] | some x => need8 x.2 3 journalOk)
    ++ ((regs.drop 256).flatMap fun x => need8 x.2 0 false)
    ++ perEntry es fun i e =>
      let mine := need 6 i 1 0x0B (fld e 1 0 2 == d)
      match fld e 0 0 8 with
      | 1 => reserved 6 i 2 e [(1, 2, 6), (2, 7, 1), (3, 0, 8), (4, 0, 32), (8, 0, 64), (16, 0, 32), (20, 0, 96)] ++ mine
          ++ need8 i 1 (!((es.take i).any fun o => fld o 0 0 8 == 1 && fld o 1 0 2 == fld e 1 0 2))
          ++ needField 6 i 2 (decide (1 ≤ fld e 2 0 7) && decide (fld e 2 0 7 ≤ 64)) ++ need 6 i 2 0x0C (decide (sum ≤ 64))
      | 2 =>
        reserved 6 i 2 e [(1, 2, 6), (2, 0, 8), (3, 5, 3), (4, 0, 32), (8, 48, 16), (16, 20, 12), (20, 0, 96)] ++ mine
          ++ needField 6 i 3 (decide (fld e 3 0 4 ≤ 8)) ++ needField 6 i 8 (base e % MiB == 0) ++ needField 6 i 16 (decide (1 ≤ fld e 16 0 20) && decide (fld e 16 0 20 ≤ 753664))
          ++ need8 i 8 (decide (base e + size e ≤ memEnd)) ++ need8 i 8 (!((regs.filter fun x => x.2 < i).any fun x => overlaps (base e) (size e) (base x.1) (size x.1)))
          ++ need8 i 1 (shares.any fun h => fld h 1 0 2 == fld e 1 0 2) ++ need8 i 3 (fld e 3 4 1 == 0 || fld e 3 0 4 == 1)
          ++ need 6 i 8 0x0B (within (base e) (size e) (df.baseGib * 2 ^ 30) (df.sizeGib * 2 ^ 30))
      | _ => needField 6 i 0 false

/-! ## NUM_TABLE, SPARE_LIST (R120, R288) -/

def numFindings (s : State) (g : Image) (d : Nat) : List Finding :=
  let es := g.entries 8
  ((repeated (es.map fun e => fld e 0 0 12)).flatMap fun i => need 8 i 0 0x0D false)
    ++ perEntry es fun i e =>
      let f := fld e 2 0 4
      reserved 8 i 2 e [(0, 12, 4), (2, 6, 2), (3, 3, 5), (4, 7, 1), (6, 2, 78)] ++ needField 8 i 2 ((decide (f ≤ 7) || f == 15) && decide (fld e 2 4 2 ≤ 2))
        ++ needField 8 i 4 (decide (1 ≤ fld e 4 0 7) && decide (fld e 4 0 7 ≤ 64)) ++ needField 8 i 5 (fld e 5 0 8 != 128)
        ++ need 8 i 2 0x0D (f != 15 || fld e 2 4 2 == 0) ++ need 8 i 5 0x0D (f != 15 || fld e 5 0 8 == 0) ++ need 8 i 6 0x0B (fld e 6 0 2 == d)
        ++ need 8 i 0 0x0B ((s.otherClaims d).all fun x => (x.2.entries 8).all fun o => fld o 0 0 12 != fld e 0 0 12)

def spareFindings (s : State) (g : Image) : List Finding :=
  let es := g.entries 9
  ((repeated (es.map fun e => fld e 0 0 64)).flatMap fun i => need 9 i 0 0x0E false) ++ needHeader 9 4 0x0E (decide (es.length ≤ 256))
    ++ perEntry es fun i e => reserved 9 i 2 e [(8, 0, 64)] ++ need 9 i 0 0x0E (fld e 0 0 64 != 0 && fld e 0 0 64 != s.moon.serial)

/-! ## Shadowed registers (R305) -/

/-- A register's finding, by its CSR offset. -/
def needReg (off check : Nat) (ok : Bool) : List Finding := if ok then [] else [⟨15, false, bits off 12 24, bits off 0 12, check⟩]

def registerFindings (s : State) (g : Image) (d : Nat) : List Finding :=
  let x := s.district d
  let m := x.mir
  let inUse (base size : Nat) (uses : List Nat) : Bool := g.regions.any fun r => uses.contains r.use && within (base * MiB) (size * MiB) r.base r.size
  ((List.range 24).flatMap fun p => needReg (0x600208 + 0x4000 * p) 2 (s.portDistrict p != some d || decide ((s.port p).transitSh.getD 0 ≤ 32)))
    ++ needReg 0x300058 2 (decide (x.host.beBaseSh ≤ 11) && decide (x.host.beSizeSh ≤ 4) && decide (x.host.beBaseSh + x.host.beSizeSh ≤ 12))
    ++ needReg 0x900020 0x0F (x.flt.rleadSh != 0 && decide (g.lead ≤ x.flt.rleadSh))
    ++ needReg (0xA00100 + 0x40 * d) 9 (!m.sendSh || match g.ringEntry m.txRingSh with
      | none => false
      | some e => reTx e && fld e 1 0 2 == d && reVc e == 3 && decide (21 ≤ reLog2 e))
    ++ needReg (0xA00108 + 0x40 * d) 2 (!(m.keepSh || m.sendSh) || m.sizeSh != 0)
    ++ needReg (0xA00108 + 0x40 * d) 8 (!m.keepSh || inUse m.baseSh m.sizeSh [0])
    ++ needReg (0xA00110 + 0x40 * d) 2 (!(m.keepSh || m.sendSh) || m.dwSizeSh != 0)
    ++ needReg (0xA00110 + 0x40 * d) 8 (!m.sendSh || inUse m.dwBaseSh m.dwSizeSh [4])
    ++ (s.coresOf d).flatMap fun n => needReg (0x10000008 + 0x10000 * n) 2 (decide (16 ≤ (s.core n).idleGapSh))

/-! ## The checks of a commit (R296, R304) -/

def allFindings (s : State) (d : Nat) (g : Image) : List Finding :=
  let h := (s.district d).host
  let win := window h.beBaseSh h.beSizeSh
  progFindings s g d g.quadClaim win ++ orbitHeader s g d ++ rowFindings s g d ++ queueFindings s g d ++ ringFindings s g d ++ linkFindings s g d
    ++ memFindings s g d ++ chainFindings g d win ++ numFindings s g d ++ spareFindings s g ++ xcheckFindings s g d ++ registerFindings s g d

/-- The failure that is reported: the first in the order of R304. -/
def worst (fs : List Finding) : Option Finding :=
  fs.foldl (fun b f => match b with | none => some f | some x => if f.before x then some f else some x) none

/-- The checks end: ARMED, or DOOMED with IMG_ERROR (R296). -/
def State.endChecks (s : State) (d : Nat) : State :=
  match s.resulting d with
  | none => s
  | some g =>
    match worst (allFindings s d g) with
    | none => s.modImg d fun x => { x with commit := 2 }
    | some f => s.modImg d fun x => { x with commit := 3, errSection := f.sect, errCheck := f.check, errEntry := f.entry, errOffset := f.off }

def execCommitChecksEnd (d : Fin 4) (s : State) : Host.Outcome State Fault Refusal :=
  .next (if (s.district d).img.commit = 1 then s.endChecks d else s)

end Sys2Proof.Machine
end

