-- ==== Sys2Proof/Machine/Regs.lean ====
section
/-! DEFINITION. The registers of the module as a CSR read shows them (17 R443 to R445, and the field maps of each block's
chapter). `o` is the offset within a block. -/

namespace Sys2Proof.Machine

def flag (i : Nat) (b : Bool) : Nat := put i 1 (boolBit b)

/-- Register `j` of a run of bytes: bytes 8j to 8j + 7, byte 8j lowest. -/
def bytesReg (bs : List Byte) (j : Nat) : Nat := leNat ((bs.drop (8 * j)).take 8)

/-! ## GLB, PWR, MOON (14, 15) -/

def State.glbRead (s : State) (o : Nat) : Nat :=
  match o with
  | 0x000 => put 0 16 0x0512 + put 16 8 0xA1
  | 0x008 => put 0 12 s.pwr.pstrap + put 12 2 s.pwr.bootsel + flag 14 s.pwr.stable
  | 0x010 => s.clk.ns
  | _ => 0

/-- IDLE is read while every array is gated (R407). During start-up the field holds its reset value. -/
def State.powerCode (s : State) : Nat :=
  match s.pwr.state with
  | .drowse => 2
  | .sleep => 2
  | _ => if s.pwr.stage = 7 && s.cores.entries.all (fun c => c.2.groups == 0) then 1 else 0

def targetCode (t : PowerState) : Nat :=
  match t with
  | .drowse => 2
  | .sleep => 3
  | _ => 0

def State.pwrRead (s : State) (o : Nat) : Nat :=
  let p := s.pwr
  match o with
  | 0x000 => put 0 2 s.powerCode + flag 2 p.changing + flag 3 p.halted
  | 0x008 => put 0 2 (targetCode p.target)
  | 0x010 => put 1 3 p.resetLast + flag 4 p.memKept
  | 0x018 => put 0 7 p.trip + put 8 3 p.first + put 16 8 p.coolMax
  | 0x020 => put 0 3 p.stage + flag 3 p.stopped + put 4 4 p.fail + put 8 8 p.rail + put 32 32 p.ms
  | 0x028 => put 0 4 p.io
  | _ => 0

def State.moonRead (s : State) (o : Nat) : Nat :=
  let m := s.moon
  match o with
  | 0x000 => put 0 2 m.fw + put 2 2 m.lifecycle + flag 4 m.unlocked + flag 5 (!m.owner.isEmpty) + put 8 16 m.restarts
      + put 24 8 m.sessions.length + put 32 32 m.boot
  | 0x008 => put 0 32 m.version + put 32 6 m.svn + put 38 6 m.minSvn
  | 0x010 => 0x48545258
  | 0x018 => m.serial
  | 0x020 => put 0 11 m.power + put 11 11 m.cfg.limitW + put 22 10 m.coreMhz
  | 0x028 => put 0 8 m.dieMax + put 8 8 m.cfg.throttle + put 16 8 m.inlet + put 24 8 m.outlet
  | _ => 0

/-! ## ORB (02) -/

def State.orbRead (s : State) (d o : Nat) : Nat :=
  let m := s.orb
  let x := (s.district d).orb
  match o with
  | 0x000 => flag 0 m.run + flag 1 m.arm + flag 2 m.join + put 8 8 m.tag
  | 0x008 => put 0 22 m.period
  | 0x010 => s.orbitNow
  | 0x018 => m.epoch
  | 0x020 => put 0 32 x.minSlack + put 32 9 x.minCore + flag 41 x.late
  | 0x028 => flag 0 x.ovNotice + flag 1 x.ovRollback + flag 2 x.ovFence + flag 3 x.ovTimeout + put 8 8 x.ovCause + put 16 9 x.ovCore
      + put 28 2 x.rollbacks + put 32 32 x.ovOrbit
  | 0x030 => put 0 16 m.timeout + put 16 8 m.lead
  | 0x040 => put 0 24 x.step + put 24 3 x.phase.code + put 32 32 x.index
  | 0x048 => flag 0 m.refOk + flag 1 m.tickOk + flag 2 m.joined + flag 3 m.slip + put 8 8 m.lastTag + put 16 48 m.startOrbit
  | _ => 0

/-! ## IMG (10) -/

def State.imgRead (s : State) (d o : Nat) : Nat :=
  let g := (s.district d).img
  if 0x020 ≤ o && o ≤ 0x048 then bytesReg g.hash ((o - 0x020) / 8)
  else if 0x060 ≤ o && o ≤ 0x088 then (match g.loaded with | none => 0 | some l => bytesReg l.digest ((o - 0x060) / 8))
  else match o with
  | 0x000 => g.base
  | 0x008 => g.len
  | 0x010 => put 0 48 g.target
  | 0x018 => put 0 2 g.shadow + flag 2 (match g.loaded with | none => false | some l => imgDelta l.header) + flag 3 g.active.isSome + put 4 2 g.commit
      + put 8 8 g.loadResult + put 16 8 g.result + flag 24 g.loadedEv + flag 25 g.committedEv + put 32 32 g.resultOrbit
  | 0x050 => g.activeId
  | 0x058 => put 0 4 g.errSection + put 8 8 g.errCheck + put 16 24 g.errEntry + put 40 12 g.errOffset
  | 0x090 => flag 0 g.keyed + put 32 32 g.keyId
  | _ => 0

/-! ## DST, HST (11) -/

def State.tilesOn (s : State) (d : Nat) : Nat := ((s.coresOf d).filter fun n => (s.core n).tile.isSome).length

def State.dstRead (s : State) (d o : Nat) : Nat :=
  let f := (s.district d).defn
  let h := (s.district d).host
  match o with
  | 0x000 => flag 0 f.valid + flag 1 h.refeed + flag 2 h.badTail + flag 3 h.beStop + put 8 7 h.cmds.length + put 16 10 (s.tilesOn d)
  | 0x008 => bits f.quads 0 64
  | 0x010 => bits f.quads 64 64
  | 0x018 => put 0 24 f.tensor + put 24 4 f.host
  | 0x020 => put 0 10 f.baseGib + put 16 10 f.sizeGib
  | 0x028 => put 0 48 h.cmdBase + put 48 5 h.cmdLog2 + flag 53 h.cmdEn
  | 0x030 => h.cmdTail
  | 0x038 => h.cmdHead
  | 0x040 => put 0 48 h.cplBase + put 48 5 h.cplLog2 + flag 53 h.cplEn
  | 0x048 => h.cplTail
  | 0x050 => h.cplHead
  | 0x058 => put 0 4 h.beBase + put 8 3 h.beSize
  | 0x060 => put 0 24 h.refeedStep + put 24 40 h.refeedOrbit
  | _ => 0

def State.hostPort (s : State) (p : Nat) : HostPort := s.hosts.get {} p

/-- One host port's registers; the IPv6 address is kept in network order, its first byte highest. -/
def State.hstRead (s : State) (p o : Nat) : Nat :=
  let x := s.hostPort p
  let v6 := beBytes 16 x.ipv6
  match o with
  | 0x000 => flag 0 x.link + put 1 2 ((s.hostDistrict p).getD 0) + put 4 9 x.connected
  | 0x008 => put 0 32 x.ipv4 + flag 32 x.ipv4Valid
  | 0x010 => bytesReg v6 0
  | 0x018 => bytesReg v6 1
  | 0x020 => put 0 8 x.pfcEn + put 8 3 x.rocePrio + put 11 6 x.roceDscp + put 17 6 x.cnpDscp + flag 23 x.ecnEn
  | _ => 0

/-! ## MEM (08) -/

/-- Registers of one RX or TX ring. -/
def State.ringRead (s : State) (r : Nat) (stat : Bool) : Nat :=
  match s.ringOwner r with
  | none => 0
  | some (_, e) =>
    let x := s.ring r
    if stat then put 0 2 (if reTx e then 2 else 1) + put 2 2 x.state + put 8 25 (x.credits e) + put 48 16 x.attempt
    else put 0 32 x.wp + put 32 32 x.rp

/-- A stage queue's register; its dead state is that of R240. -/
def State.queueRead (s : State) (q : Nat) : Nat :=
  match s.queueOwner q with
  | none => 0
  | some (d, _) =>
    let x := s.queue q
    put 0 18 x.items.length + put 18 18 x.high + flag 36 (s.queuesDead d) + put 38 2 d

/-- Committed bandwidth share (R223). -/
def State.share (s : State) (d : Nat) : Nat :=
  match (s.entries d 6).find? fun e => fld e 0 0 8 == 1 && fld e 1 0 2 == d with
  | none => 0
  | some e => fld e 2 0 7

def State.memDistRead (s : State) (d : Nat) : Nat :=
  let m := (s.district d).mem
  put 0 7 (s.share d) + put 8 8 (s.regions d).length + put 16 9 (s.mbInUse d).length + put 25 9 m.mbHigh + flag 34 m.fault + put 35 4 m.cause
    + put 40 12 m.index + put 52 9 m.fcore

def State.memRead (s : State) (d o : Nat) : Nat :=
  if 0x100 ≤ o && o < 0x140 then (if o % 0x10 = 0 then s.memDistRead ((o - 0x100) / 0x10) else 0)
  else if 0x10000 ≤ o && o < 0x20000 then s.ringRead ((o - 0x10000) / 0x10) (o % 0x10 == 8)
  else if 0x20000 ≤ o && o < 0x20800 then s.queueRead ((o - 0x20000) / 8)
  else match o with
  | 0x000 => flag 0 s.memc.trained + put 8 7 s.memc.channels
  | 0x008 =>
    let m := (s.district d).mem
    flag 0 m.ce + flag 1 m.retry + flag 2 m.ue + flag 3 m.tag + put 8 7 m.channel + put 15 1 m.sub + put 16 42 m.line
  | 0x010 => put 0 16 s.memc.retired + put 16 16 s.memc.freePages
  | 0x018 => put 0 8 s.memc.scrubHours + put 32 32 s.memc.passes
  | _ => 0

/-! ## TLK (09) -/

/-- TLK_POLICY of the active PORT entry, and of the shadow when it has been written (R305). -/
def State.policyWord (s : State) (p : Nat) : Nat :=
  match s.portEntry p with
  | none => 0
  | some (d, e) =>
    let w := match (s.active d).bind (·.lportEntry (peLport e)) with | none => 0 | some l => fld l 4 0 16
    put 0 1 1 + put 1 2 d + put 3 5 (peLport e) + put 8 3 (peDir e) + flag 11 (peForeign e) + put 12 5 (fld e 5 0 5) + put 32 16 (fld e 16 0 16) + put 48 16 w

/-- One tensor port's registers. -/
def State.tlkRead (s : State) (p o : Nat) : Nat :=
  let x := s.port p
  let bound := s.portEntry p
  if 0x100 ≤ o && o < 0x180 then bytesReg x.cardLocal ((o - 0x100) / 8)
  else if 0x180 ≤ o && o < 0x200 then bytesReg x.cardPeer ((o - 0x180) / 8)
  else match o with
  | 0x000 =>
    put 0 4 x.state + flag 4 (s.sendsFence p) + flag 5 s.halted + flag 6 x.peerFence + flag 7 x.peerHalt + flag 8 x.peerQuar
      + put 12 4 x.qcause + put 16 3 x.dcause + put 40 4 x.minor + put 44 4 x.major
      + (match bound with
        | none => put 33 2 ((s.tensorDistrict p).getD 0)
        | some (d, e) => put 24 5 (peLport e) + put 29 3 (peDir e) + flag 32 (peForeign e) + put 33 2 d + flag 35 true)
  | 0x008 => put 0 15 x.map + put 15 5 x.pol + flag 20 x.spareUsed
  | 0x010 => flag 0 x.retryEv + flag 1 x.retrainEv + flag 2 x.downEv + put 16 12 x.acked + put 28 12 x.next + put 40 12 x.replay.length
  | 0x018 => put 0 16 x.oneway + flag 16 x.latValid + put 32 16 x.rtt
  | 0x020 => flag 0 x.disable
  | 0x200 => s.policyWord p
  | 0x208 => put 0 6 (match bound with | none => 8 | some (_, e) => peShare e) + flag 8 x.transitActive
  | 0x210 => (match bound with | none => 0 | some (_, e) => peSerial e)
  | _ => 0

/-! ## PBX (07) -/

def State.boxRead (s : State) (b : Nat) (rounds : Bool) : Nat :=
  match s.boxOwner b with
  | none => 0
  | some (d, e) =>
    let x := s.box b
    if rounds then
      (if beCollection e then put 0 10 x.cur.length + put 10 10 x.next.length + put 20 16 x.rounds + flag 36 x.ovf + flag 37 x.overs
        + flag 38 (!x.results.isEmpty) else 0)
    else put 0 18 x.items.length + put 18 18 x.high + put 36 2 x.state + flag 38 (beCollection e) + put 40 2 d

def State.pbxRead (s : State) (d o : Nat) : Nat :=
  if 0x100 ≤ o && o < 0x200 then
    let n := (o - 0x100) / 0x40
    let p := (s.district n).pbx
    match (o - 0x100) % 0x40 with
    | 0x00 => put 0 18 (s.cells n) + put 18 18 p.high + flag 36 p.firstDead + flag 37 p.fault + put 38 2 p.cause + put 40 12 p.fbox + put 52 9 p.fcore
    | 0x08 => put 0 48 p.dlrBase + put 48 6 p.dlrLog2
    | 0x10 => p.dlrHead
    | 0x18 => p.dlrTail
    | 0x20 => p.dlrDrop
    | _ => 0
  else if 0x10000 ≤ o && o < 0x20000 then s.boxRead ((o - 0x10000) / 0x10) (o % 0x10 == 8)
  else if o = 0 then (s.district d).pbx.deadCnt
  else 0

/-! ## SNP (13), FLT, SPR (12) -/

def State.snpRead (s : State) (d o : Nat) : Nat :=
  let x := (s.district d).snp
  if 0x10000 ≤ o then x.bank.get 0 o
  else match o with
  | 0x000 => put 0 48 x.orbit
  | 0x008 => put 0 1 x.state + flag 1 x.doneEv + flag 2 x.missed + put 16 16 x.seq
  | 0x010 => put 0 32 x.seq + put 32 24 x.step
  | 0x018 => x.snapOrbit
  | _ => 0

/-- FLT_RECOVERY.BUSY: a copy-back, restore or roll-forward runs, or a reset waits for its copy-back (R341). -/
def FltDist.busy (f : FltDist) : Bool := f.copyBack.isSome || !f.receiving.isEmpty || f.rollAt.isSome || f.rollAsked

def State.fltRead (s : State) (d o : Nat) : Nat :=
  let f := (s.district d).flt
  if 0x1000 ≤ o && o < 0x3000 then bits (f.entries.get 0 ((o - 0x1000) / 0x20)) (64 * ((o - 0x1000) % 0x20 / 8)) 64
  else match o with
  | 0x000 => f.head
  | 0x008 => f.tail
  | 0x010 => put 0 5 f.seen + flag 5 f.fenced + flag 6 s.halted + flag 7 (s.held d) + put 8 8 f.lastCode + put 16 32 f.lost
  | 0x018 => flag 0 f.rewindable + flag 1 f.busy + flag 2 f.restore + flag 3 f.journalLost + put 8 24 f.gen + put 32 24 f.stale.length
  | 0x020 => put 0 8 f.rlead
  | 0x030 => flag 0 f.restArm + put 8 24 f.restStep
  | _ => 0

def State.sprRead (s : State) (o : Nat) : Nat :=
  if 0x100 ≤ o && o < 0x200 then
    let m := (s.district ((o - 0x100) / 0x40)).mir
    match (o - 0x100) % 0x40 with
    | 0x00 => flag 0 m.send + flag 1 m.keep + put 2 12 m.txRing
    | 0x08 => put 0 28 m.base + put 28 28 m.size
    | 0x10 => put 0 28 m.dwBase + put 28 28 m.dwSize
    | 0x18 => put 0 2 m.stat + put 2 24 m.statStep + put 26 28 m.pages
    | 0x20 => flag 14 m.serving + put 32 32 m.sent
    | _ => 0
  else if 0x1000 ≤ o && o < 0x1400 then
    let q := (o - 0x1000) / 8
    put 0 8 (s.spr.phys q) + flag 8 (s.spr.swaps.any fun w => w.quad == q)
  else match o with
  | 0x000 => put 0 3 s.spr.free.length + put 3 3 s.spr.testing.length + put 8 8 s.spr.retired.length
      + put 16 8 ((List.range 24).filter fun p => (s.port p).spareUsed).length + put 24 16 s.spr.ppr
  | 0x008 => put 0 16 s.spr.interval + put 16 7 s.spr.next
  | _ => 0

/-! ## NUM (04, 06) -/

def State.slotRead (s : State) (k : Nat) (amax : Bool) : Nat :=
  let x := s.slot k
  if !x.valid then 0
  else if amax then put 0 32 x.amax + put 32 32 x.lastAmax
  else put 0 4 x.format + put 4 2 x.rule + put 6 3 x.margin + put 16 7 x.hist + put 24 8 (unsigned 8 x.scale) + put 32 2 x.district + flag 34 true
    + put 40 7 x.ring.length

def State.numRead (s : State) (d o : Nat) : Nat :=
  if o < 0x020 then (s.district (o / 8)).num.seed
  else if 0x028 ≤ o && o ≤ 0x040 then
    let n := (s.district ((o - 0x028) / 8)).num
    put 0 10 n.dpReplica + put 16 11 n.dpReplicas + flag 32 n.dpValid
  else if 0x10000 ≤ o && o < 0x20000 then s.slotRead ((o - 0x10000) / 0x10) (o % 0x10 == 8)
  else if o = 0x020 then put 0 6 (s.district d).num.events + put 16 12 (s.district d).num.lastSlot
  else 0

/-! ## CORE (03, 05, 06) -/

/-- CORE_STATUS.STATE: DRAINED while a swap under R97 waits (R100); WAIT while a READ or AWAIT is outstanding. The states
GANGED and REPLAY last only within a pass, which one command covers. -/
def State.coreState (s : State) (n : Nat) : Nat :=
  let c := s.core n
  if s.spr.swaps.any fun w => w.quad == n / 4 && w.forced then 5
  else if c.outs.any fun o => match o.kind with | .read _ _ _ _ _ => true | .await _ _ _ => true | _ => false then 2
  else if c.tile.isSome || c.busy then 1
  else 0

/-- Repair state of the physical array behind a logical core (R102). -/
def State.repairOf (s : State) (n : Nat) : Repair := s.spr.repairs.get {} (4 * s.spr.phys (n / 4) + n % 4)

def State.coreRead (s : State) (n o : Nat) : Nat :=
  let c := s.core n
  match o with
  | 0x000 => put 0 3 (s.coreState n) + flag 3 (c.groups == 8) + put 4 4 c.groups + put 8 24 c.pc + put 32 16 c.row
  | 0x008 => put 0 8 c.idleGap
  | 0x010 => put 0 2 c.replayMax
  | 0x018 => flag 0 c.checkFail + flag 1 c.checkExhausted + put 2 2 c.lastReplays + put 8 24 c.lastPc + put 32 16 c.lastRow
  | 0x020 =>
    let r := s.repairOf n
    flag 0 r.rowSpare + put 1 5 r.row + flag 6 r.colSpare + put 7 5 r.col + flag 12 r.checked + flag 13 r.field
  | 0x028 => flag 0 c.sramCe + flag 1 c.sramUe + put 2 5 c.sramBank + put 8 20 c.sramAddr
  | 0x030 => flag 0 c.chainLedger + flag 1 c.chainLockstep + put 4 4 c.chainCause + put 8 12 c.chainLid + put 32 24 c.chainPc
  | 0x038 => flag 0 c.trainDesc + flag 1 c.trainRecord + flag 2 c.trainSched + put 4 4 c.trainCause + put 8 24 c.trainPc + put 32 22 c.trainSeq
  | _ => 0

/-! ## Blocks and rights (R443, R444) -/

inductive Block where
  | glb | orb | img | dst | hst | mem | tlk | pbx | snp | flt | spr | num | pwr | moon | core
deriving DecidableEq, Repr

/-- Block of a CSR offset, and the offset within it. -/
def blockOf (off : Nat) : Option (Block × Nat) :=
  let o := off % 0x100000
  match off / 0x100000 with
  | 0 => some (.glb, o)
  | 1 => some (.orb, o)
  | 2 => some (.img, o)
  | 3 => some (.dst, o)
  | 4 => some (.hst, o)
  | 5 => some (.mem, o)
  | 6 => some (.tlk, o)
  | 7 => some (.pbx, o)
  | 8 => some (.snp, o)
  | 9 => some (.flt, o)
  | 10 => some (.spr, o)
  | 11 => some (.num, o)
  | 12 => some (.pwr, o)
  | 13 => some (.moon, o)
  | _ => if 0x10000000 ≤ off && off < 0x12000000 then some (.core, off - 0x10000000) else none

/-- May a host of district `d` reach an offset with a read or a write (R9, R59, R102, R134, R190, R217, R246, R282, R373, R422;
log entry 49)? -/
def State.mayReach (s : State) (d : Nat) (b : Block) (o : Nat) (write : Bool) : Bool :=
  let own (x : Option (Nat × Nat)) : Bool := match x with | none => true | some (k, _) => k == d
  match b with
  | .glb => !(write && o / 8 * 8 == 0x010)
  | .pwr => !(write && [0x008, 0x010, 0x018, 0x028].contains (o / 8 * 8))
  | .orb => !(write && o / 8 * 8 == 0) || allDistricts.all fun k =>
      k == d || (!(s.active k).isSome && (s.district k).img.shadow != 1 && (s.district k).img.commit == 0)
  | .hst => decide (0x40000 ≤ o) || (!write && s.hostDistrict (o / 0x10000) == some d)
  | .mem =>
    if 0x100 ≤ o && o < 0x140 then (o - 0x100) / 0x10 == d
    else if 0x10000 ≤ o && o < 0x20000 then own (s.ringOwner ((o - 0x10000) / 0x10))
    else if 0x20000 ≤ o && o < 0x20800 then own (s.queueOwner ((o - 0x20000) / 8))
    else true
  | .tlk =>
    if 24 * 0x4000 ≤ o then true
    else match s.portEntry (o / 0x4000) with
    | none => !write
    | some (k, _) => k == d
  | .pbx =>
    if 0x100 ≤ o && o < 0x200 then (o - 0x100) / 0x40 == d
    else if 0x10000 ≤ o && o < 0x20000 then own (s.boxOwner ((o - 0x10000) / 0x10))
    else true
  | .spr =>
    if 0x100 ≤ o && o < 0x200 then (o - 0x100) / 0x40 == d
    else !(write && (o / 8 * 8 == 0 || o / 8 * 8 == 8 || (0x1000 ≤ o && o < 0x1400)))
  | .num =>
    if o < 0x020 then o / 8 == d
    else if 0x028 ≤ o && o < 0x048 then !write && (o - 0x028) / 8 == d
    else if 0x10000 ≤ o && o < 0x20000 then !(s.slot ((o - 0x10000) / 0x10)).valid || (s.slot ((o - 0x10000) / 0x10)).district == d
    else true
  | .core => s.coreDistrict (o / 0x10000) == some d
  | _ => true

/-- The word of an aligned register (R445); an unassigned offset reads zero (R9). -/
def State.regValue (s : State) (d : Nat) (b : Block) (o : Nat) : Nat :=
  match b with
  | .glb => s.glbRead o
  | .orb => s.orbRead d o
  | .img => s.imgRead d o
  | .dst => s.dstRead d o
  | .hst => if o < 0x40000 then s.hstRead (o / 0x10000) (o % 0x10000) else 0
  | .mem => s.memRead d o
  | .tlk => if o < 24 * 0x4000 then s.tlkRead (o / 0x4000) (o % 0x4000) else 0
  | .pbx => s.pbxRead d o
  | .snp => s.snpRead d o
  | .flt => s.fltRead d o
  | .spr => s.sprRead o
  | .num => s.numRead d o
  | .pwr => s.pwrRead o
  | .moon => s.moonRead o
  | .core => s.coreRead (o / 0x10000) (o % 0x10000)

/-- A CSR read of device address `a` (R7, R8, R15). -/
def State.csrRead (s : State) (moon : Bool) (d a : Nat) : Status × Nat :=
  if a < csrBase then (.refusedAccess, 0)
  else match blockOf (a - csrBase) with
  | none => (.refusedAccess, 0)
  | some (b, o) =>
    if !moon && !s.mayReach d b o false then (.refusedAccess, 0)
    else if a % 8 ≠ 0 then (.refusedInvalid, 0)
    else (.done, s.regValue d b o)

end Sys2Proof.Machine
end

