-- ==== Sys2Proof/Machine/Csr.lean ====
section
/-! DEFINITION. CSR writes: shadowed registers (10 R305, R306), registers with behaviour of their own, and the commands that
write them. A write answers its status and the state after it; a refused write leaves the state as it was (R16). -/

namespace Sys2Proof.Machine

/-- A W1C bit after a write (R11). -/
def w1c (old : Bool) (v i : Nat) : Bool := old && !bit v i

/-- Is an SH write refused (R305)? `sect` is the section that sets the field, 0 for none. -/
def State.shBusy (s : State) (d sect : Nat) : Bool :=
  let g := (s.district d).img
  g.commit != 0 || (sect != 0 && match g.loaded with | none => false | some l => l.sections.any (·.kind == sect))

/-- An SH write: refused while busy, else the shadow takes the value. -/
def State.shWrite (s : State) (d sect : Nat) (f : State → State) : Status × State :=
  if s.shBusy d sect then (.refusedBusy, s) else (.done, f s)

/-- A register write without conditions. -/
def wrote (s : State) : Status × State := (.done, s)

/-! ## ORB (02 R34 to R36, R55, R56, R59, R60, R306, 12 R355) -/

def State.orbCtrl (s : State) (v : Nat) : Status × State :=
  let o := s.orb
  let arm := bit v 1
  let join := bit v 2
  let stop := bit v 3
  let tag := bits v 8 8
  if arm && (join || o.periodSh < 1250 || 2500000 < o.periodSh) then (.refusedInvalid, s)
  else if (arm || join) && o.run then (.refusedBusy, s)
  else if o.arm && tag ≠ o.tag then (.refusedBusy, s)
  else if stop && s.defined.any fun d => (s.active d).isSome then (.refusedBusy, s)
  else if !arm && o.arm && o.accepted.isSome then (.refusedBusy, s)
  else
    let o := { o with tag := tag, arm := arm, period := if arm then o.periodSh else o.period, join := join
                      plan := if join then o.plan else none, stop := o.stop || (stop && o.run) }
    let t : State := { s with orb := if o.run then { o with arm := false, join := false } else { o with joinPort := if join then o.joinPort else none } }
    (.done, if s.orb.join = t.orb.join then t else t.joinPorts)

def State.orbResume (s : State) (d v : Nat) : Status × State :=
  let go := bits v 0 48
  if !s.held d || go ≤ s.orb.number + 1 then (.refusedInvalid, s)
  else if (s.district d).flt.busy || !(s.district d).flt.stale.isEmpty then (.refusedBusy, s)
  else (.done, s.modBar d fun b => { b with resume := some go })

def State.orbWrite (s : State) (d o v : Nat) : Status × State :=
  match o with
  | 0x000 => s.orbCtrl v
  | 0x008 => if s.orb.run then (.refusedBusy, s) else s.shWrite d 2 fun s => { s with orb := { s.orb with periodSh := bits v 0 22 } }
  | 0x028 => wrote (s.modOrb d fun x => { x with ovNotice := w1c x.ovNotice v 0, ovRollback := w1c x.ovRollback v 1
                                                 ovFence := w1c x.ovFence v 2, ovTimeout := w1c x.ovTimeout v 3 })
  | 0x030 => if s.orb.run then (.refusedBusy, s)
    else s.shWrite d 2 fun s => { s with orb := { s.orb with timeoutSh := bits v 0 16, leadSh := bits v 16 8 } }
  | 0x038 => s.orbResume d v
  | 0x048 => wrote { s with orb := { s.orb with slip := w1c s.orb.slip v 3 } }
  | _ => wrote s

/-! ## IMG (10 R291, R295, R301) -/

/-- Is a range module memory that the district may load from (R291)? -/
def State.loadable (s : State) (d a len : Nat) : Bool :=
  if (s.active d).isSome then s.inRegions d a len
  else
    let f := (s.district d).defn
    len == 0 || within a len (f.baseGib * 2 ^ 30) (f.sizeGib * 2 ^ 30)

def State.imgLoad (s : State) (d orbit : Nat) : Status × State :=
  let g := (s.district d).img
  if s.halted then (.halted, s)
  else if s.fenced d then (.fenced, s)
  else if !s.loadable d g.base g.len then (.refusedAccess, s)
  else if g.base % 64 ≠ 0 || g.len % 64 ≠ 0 || orbit ≠ 0 then (.refusedInvalid, s)
  else if 134217728 < g.len then (.refusedSize, s)
  else if g.shadow = 1 || g.commit ≠ 0 then (.refusedBusy, s)
  else if g.len = 0 then (.doneEmpty, s)
  else (.done, s.modImg d fun g => { g with shadow := 1, loaded := none, loadBase := g.base, loadLen := g.len, loadErr := none, errSection := 0, errCheck := 0, errEntry := 0, errOffset := 0 })

def State.imgCommit (s : State) (d orbit : Nat) : Status × State :=
  let g := (s.district d).img
  if s.halted then (.halted, s)
  else if s.fenced d then (.fenced, s)
  else if g.shadow = 0 then (.refusedInvalid, s)
  else if g.active.isNone && (match g.loaded with | none => false | some l => imgDelta l.header) then (.refusedInvalid, s)
  else if orbit ≤ s.orb.number then (.refusedInvalid, s)
  else if !s.orb.run || g.shadow = 1 || g.commit ≠ 0 then (.refusedBusy, s)
  else (.done, s.modImg d fun g => { g with commit := 1, target := orbit })

def State.imgCancel (s : State) (d : Nat) : Status × State :=
  if (s.district d).img.commit = 0 then (.doneEmpty, s) else (.done, s.modImg d fun g => { g with commit := 0, target := 0 })

def State.imgWrite (s : State) (d o v : Nat) : Status × State :=
  match o with
  | 0x000 => wrote (s.modImg d fun g => { g with base := bits v 0 48 })
  | 0x008 => wrote (s.modImg d fun g => { g with len := bits v 0 32 })
  | 0x010 => match bits v 48 2 with
    | 1 => s.imgLoad d (bits v 0 48)
    | 2 => s.imgCommit d (bits v 0 48)
    | 3 => s.imgCancel d
    | _ => (.refusedInvalid, s)
  | 0x018 => wrote (s.modImg d fun g => { g with loadedEv := w1c g.loadedEv v 24, committedEv := w1c g.committedEv v 25 })
  | _ => wrote s

/-! ## DST (11 R322, R327, R336) -/

/-- Distance of two 32-bit positions, modulo 2^32. -/
def ahead (a b : Nat) : Nat := gap 32 a b

/-- Is a new tail refused (R322)? -/
def HostDist.badTailFor (h : HostDist) (v : Nat) : Bool :=
  !h.cmdEn || decide (2 ^ h.cmdLog2 < ahead v h.cmdHead) || decide (ahead v h.cmdHead < ahead h.cmdTail h.cmdHead)

def State.cmdTail (s : State) (d v : Nat) : Status × State :=
  if (s.district d).host.badTailFor (bits v 0 32) then (.refusedInvalid, s)
  else (.done, s.modHost d fun h => { h with cmdTail := bits v 0 32 })

def State.cplHead (s : State) (d v : Nat) : Status × State :=
  let h := (s.district d).host
  if ahead h.cplTail h.cplHead < ahead (bits v 0 32) h.cplHead then (.refusedInvalid, s)
  else (.done, s.modHost d fun h => { h with cplHead := bits v 0 32 })

/-- Is a ring word with EN = 1 refused (R336)? `entry` is the entry size; `small` says that the pair would not fit. -/
def State.badRing (s : State) (d v entry : Nat) (small : Bool) : Bool :=
  let f := (s.district d).defn
  let log2 := bits v 48 5
  let size := entry * 2 ^ log2
  bit v 53 && (decide (log2 < 6) || decide (16 < log2) || bits v 0 48 % size != 0
    || !within (bits v 0 48) size (f.baseGib * 2 ^ 30) (f.sizeGib * 2 ^ 30) || small)

def State.cmdRing (s : State) (d v : Nat) : Status × State :=
  let h := (s.district d).host
  if s.badRing d v 64 (h.cplEn && decide (h.cplLog2 < bits v 48 5)) then (.refusedInvalid, s)
  else if h.cmdEn && (bit v 53 || !h.cmds.isEmpty) then (.refusedBusy, s)
  else (.done, s.modHost d fun h =>
    let h := { h with cmdBase := bits v 0 48, cmdLog2 := bits v 48 5, cmdEn := bit v 53 }
    if bit v 53 then { h with cmdHead := 0, cmdTail := 0 } else h)

def State.cplRing (s : State) (d v : Nat) : Status × State :=
  let h := (s.district d).host
  if s.badRing d v 32 (h.cmdEn && decide (bits v 48 5 < h.cmdLog2)) then (.refusedInvalid, s)
  else if h.cplEn && (bit v 53 || !h.cmds.isEmpty) then (.refusedBusy, s)
  else (.done, s.modHost d fun h =>
    let h := { h with cplBase := bits v 0 48, cplLog2 := bits v 48 5, cplEn := bit v 53 }
    if bit v 53 then { h with cplHead := 0, cplTail := 0 } else h)

def State.dstWrite (s : State) (d o v : Nat) : Status × State :=
  match o with
  | 0x000 => wrote (s.modHost d fun h => { h with refeed := w1c h.refeed v 1, badTail := w1c h.badTail v 2, beStop := w1c h.beStop v 3 })
  | 0x028 => s.cmdRing d v
  | 0x030 => s.cmdTail d v
  | 0x040 => s.cplRing d v
  | 0x050 => s.cplHead d v
  | 0x058 => s.shWrite d 0 fun s => s.modHost d fun h => { h with beBaseSh := bits v 0 4, beSizeSh := bits v 8 3 }
  | _ => wrote s

/-! ## MEM, TLK, PBX (08, 09 R282, 07 R210, R212, R217) -/

def State.memWrite (s : State) (d o v : Nat) : Status × State :=
  if o = 0x008 then wrote (s.modMemd d fun m => { m with ce := w1c m.ce v 0, retry := w1c m.retry v 1, ue := w1c m.ue v 2, tag := w1c m.tag v 3 })
  else if 0x100 ≤ o && o < 0x140 && o % 0x10 = 0 then wrote (s.modMemd ((o - 0x100) / 0x10) fun m => { m with fault := w1c m.fault v 34 })
  else wrote s

/-- Is a port in a SAME logical port of a district with an active image? -/
def State.portInUse (s : State) (p : Nat) : Bool :=
  match s.portEntry p with
  | none => false
  | some (_, e) => !peForeign e

/-- TLK_CTRL: DISABLE, and RETRAIN of a trained port. -/
def State.tlkCtrl (s : State) (p v : Nat) : Status × State :=
  let x := s.port p
  if (bit v 0 || bit v 1) && s.portInUse p then (.refusedBusy, s)
  else
    let s := s.modPort p fun y => { y with disable := bit v 0 }
    if bit v 0 then (.done, if x.state = 9 then s else s.goDark p 9 4)
    else if x.state = 9 then (.done, if s.mayTrain then s.startTraining p else s.modPort p fun y => { y with state := 0, dcause := 0 })
    else if bit v 1 && 4 ≤ x.state && x.state ≤ 7 then (.done, s.enterRetrain p 0)
    else (.done, s)

def State.tlkWrite (s : State) (d p o v : Nat) : Status × State :=
  let owner := (s.portDistrict p).getD d
  match o with
  | 0x010 => wrote (s.modPort p fun x => { x with retryEv := w1c x.retryEv v 0, retrainEv := w1c x.retrainEv v 1, downEv := w1c x.downEv v 2 })
  | 0x020 => s.tlkCtrl p v
  | 0x200 => s.shWrite owner 5 fun s => s.modPort p fun x => { x with policySh := some v }
  | 0x208 => s.shWrite owner 5 fun s => s.modPort p fun x => { x with transitSh := some (bits v 0 6) }
  | 0x210 => s.shWrite owner 5 fun s => s.modPort p fun x => { x with serialSh := some v }
  | _ => wrote s

def State.pbxFlush (s : State) (moon : Bool) (d v : Nat) : Status × State :=
  if bit v 16 then
    if s.fenced d then (.fenced, s) else (.done, s.each (s.boxesOf d) fun (b, _) t => t.flushBox b false)
  else match s.boxOwner (bits v 0 12) with
    | none => if s.fenced d then (.fenced, s) else (.refusedInvalid, s)
    | some (k, _) =>
      if s.fenced k && (moon || k == d) then (.fenced, s)
      else if !moon && k ≠ d then (.refusedAccess, s)
      else (.done, s.flushBox (bits v 0 12) false)

/-- Records that a district's dead-letter ring holds (R210). -/
def PbxDist.records (p : PbxDist) : Nat := if p.dlrLog2 < 6 then 0 else 2 ^ (p.dlrLog2 - 6)

def State.dlrTail (s : State) (n v : Nat) : Status × State :=
  let p := (s.district n).pbx
  let t := bits v 0 27
  if p.records < gap 27 p.dlrHead t then (.refusedInvalid, s) else (.done, s.modPbx n fun p => { p with dlrTail := t })

def State.pbxWrite (s : State) (moon : Bool) (d o v : Nat) : Status × State :=
  if o = 0x008 then s.pbxFlush moon d v
  else if 0x100 ≤ o && o < 0x200 then
    let n := (o - 0x100) / 0x40
    match (o - 0x100) % 0x40 with
    | 0x00 => wrote (s.modPbx n fun p => { p with firstDead := w1c p.firstDead v 36, fault := w1c p.fault v 37 })
    | 0x18 => s.dlrTail n v
    | _ => wrote s
  else if 0x10000 ≤ o && o < 0x20000 && o % 0x10 = 8 then
    let b := (o - 0x10000) / 0x10
    if (s.boxOwner b).isSome then wrote (s.modBox b fun x => { x with ovf := w1c x.ovf v 36, overs := w1c x.overs v 37 }) else wrote s
  else wrote s

/-! ## SNP (13 R378) -/

def State.snpReq (s : State) (d v : Nat) : Status × State :=
  let orbit := bits v 0 48
  let wait := (s.district d).snp.state ≠ 0
  if s.fenced d then (.fenced, s)
  else if orbit = 0 then
    if wait then (.done, s.modSnp d fun x => { x with orbit := 0, state := 0 }) else (.doneEmpty, s)
  else if orbit ≤ s.orb.number then (.refusedInvalid, s)
  else if !s.orb.run || wait then (.refusedBusy, s)
  else (.done, s.modSnp d fun x => { x with orbit := orbit, state := 1 })

def State.snpWrite (s : State) (d o v : Nat) : Status × State :=
  match o with
  | 0x000 => s.snpReq d v
  | 0x008 => wrote (s.modSnp d fun x => { x with doneEv := w1c x.doneEv v 1, missed := w1c x.missed v 2 })
  | _ => wrote s

/-! ## FLT, SPR (12 R341, R354, R361, R362, R364) -/

/-- A district's slots with the scales and rings of the previous generation (R354). -/
def State.oldScales (s : State) (d : Nat) : State :=
  { s with slots := s.slots.map fun _ x => if x.valid && x.district == d then { x with scale := x.prevScale, ring := x.prevRing } else x }

/-- REWIND: the previous generation is copied back, slots and step go one step back. -/
def State.rewind (s : State) (d : Nat) : Status × State :=
  let f := (s.district d).flt
  if !s.held d || !f.rewindable then (.refusedInvalid, s)
  else if f.busy then (.refusedBusy, s)
  else
    let s := s.oldScales d
    let s := s.modOrb d fun o => { o with step := stepBefore o.step }
    let step := (s.district d).orb.step
    (.done, s.modFlt d fun f => { f with rewindable := false, gen := step, copyBack := if f.prevDirty.isEmpty then none else some .rewind })

/-- ROLLFWD: asked for, and begun at the next tick. -/
def State.rollfwd (s : State) (d : Nat) : Status × State :=
  let f := (s.district d).flt
  if !s.held d || f.busy || f.stale.isEmpty then (.refusedInvalid, s) else (.done, s.modFlt d fun f => { f with rollAsked := true })

/-- A district reset begins with the copy-back of the current generation (R341). -/
def State.districtReset (s : State) (d : Nat) : Status × State :=
  if s.halted then (.halted, s)
  else if !s.fenced d && !s.held d && (s.active d).isSome then (.refusedBusy, s)
  else if (s.district d).flt.resetting then (.done, s)
  else
    let s := (s.stopDistrict d).loseCmds d
    (.done, s.modFlt d fun f => { f with resetting := true, copyBack := if f.dirty.isEmpty then none else some .reset })

def State.fltCmd (s : State) (moon : Bool) (d v : Nat) : Status × State :=
  match bits v 0 2 with
  | 1 => s.rewind d
  | 2 => s.rollfwd d
  | 3 => if moon then s.districtReset d else (.refusedAccess, s)
  | _ => (.refusedInvalid, s)

def State.fltTail (s : State) (d v : Nat) : Status × State :=
  if 256 < ahead (s.district d).flt.head (bits v 0 32) then (.refusedInvalid, s) else (.done, s.modFlt d fun f => { f with tail := bits v 0 32 })

def State.fltRestore (s : State) (d v : Nat) : Status × State :=
  if (s.active d).isSome then (.refusedBusy, s) else (.done, s.modFlt d fun f => { f with restArm := bit v 0, restStep := bits v 8 24 })

def State.fltWrite (s : State) (moon : Bool) (d o v : Nat) : Status × State :=
  match o with
  | 0x008 => s.fltTail d v
  | 0x010 => wrote (s.modFlt d fun f => { f with seen := f.seen - (f.seen &&& bits v 0 5) })
  | 0x020 => s.shWrite d 0 fun s => s.modFlt d fun f => { f with rleadSh := bits v 0 8 }
  | 0x028 => s.fltCmd moon d v
  | 0x030 => s.fltRestore d v
  | _ => wrote s

/-- Does a ring index name an open CKP TX ring of the district? -/
def State.ckpRing (s : State) (d r : Nat) : Bool :=
  match s.ringOwner r with
  | none => false
  | some (k, e) => k == d && reTx e && reVc e == 3 && (s.ring r).state == 1

def State.serve (s : State) (n v : Nat) : Status × State :=
  let r := bits v 0 12
  let what := bits v 12 2
  if s.fenced n then (.fenced, s)
  else if !s.held n || !s.ckpRing n r || what = 0 || what = 3 then (.refusedInvalid, s)
  else if (s.district n).mir.serving then (.refusedBusy, s)
  else (.done, s.startServe n r what)

def State.sprWrite (s : State) (o v : Nat) : Status × State :=
  if 0x100 ≤ o && o < 0x200 then
    let n := (o - 0x100) / 0x40
    match (o - 0x100) % 0x40 with
    | 0x00 => s.shWrite n 0 fun s => s.modMir n fun m => { m with sendSh := bit v 0, keepSh := bit v 1, txRingSh := bits v 2 12 }
    | 0x08 => s.shWrite n 0 fun s => s.modMir n fun m => { m with baseSh := bits v 0 28, sizeSh := bits v 28 28 }
    | 0x10 => s.shWrite n 0 fun s => s.modMir n fun m => { m with dwBaseSh := bits v 0 28, dwSizeSh := bits v 28 28 }
    | 0x20 => s.serve n v
    | _ => wrote s
  else wrote s

/-! ## NUM, CORE (03, 04) -/

def State.numWrite (s : State) (d o v : Nat) : Status × State :=
  if o < 0x020 then s.shWrite (o / 8) 0 fun s => s.modNum (o / 8) fun n => { n with seedSh := v }
  else if o = 0x020 then wrote (s.modNum d fun n => { n with events := n.events - (n.events &&& bits v 0 6) })
  else wrote s

def State.coreWrite (s : State) (d n o v : Nat) : Status × State :=
  let owner := (s.coreDistrict n).getD d
  match o with
  | 0x008 => s.shWrite owner 0 fun s => s.modCore n fun c => { c with idleGapSh := bits v 0 8 }
  | 0x010 => s.shWrite owner 0 fun s => s.modCore n fun c => { c with replayMaxSh := bits v 0 2 }
  | 0x018 => wrote (s.modCore n fun c => { c with checkFail := w1c c.checkFail v 0, checkExhausted := w1c c.checkExhausted v 1 })
  | 0x028 => wrote (s.modCore n fun c => { c with sramCe := w1c c.sramCe v 0, sramUe := w1c c.sramUe v 1 })
  | 0x030 => wrote (s.modCore n fun c => { c with chainLedger := w1c c.chainLedger v 0, chainLockstep := w1c c.chainLockstep v 1 })
  | 0x038 => wrote (s.modCore n fun c => { c with trainDesc := w1c c.trainDesc v 0, trainRecord := w1c c.trainRecord v 1, trainSched := w1c c.trainSched v 2 })
  | _ => wrote s

/-! ## GLB, PWR (15 R408, R412, R418, R422) -/

def State.timeWrite (s : State) (v : Nat) : Status × State :=
  if s.orb.run then (.refusedBusy, s) else (.done, { s with clk := { s.clk with ns := v % 2 ^ 64 } })

/-- Does a district forbid DROWSE (R408)? -/
def State.engaged (s : State) (d : Nat) : Bool :=
  let x := s.district d
  x.img.active.isSome || x.img.shadow == 1 || x.img.commit != 0 || !x.host.cmds.isEmpty || x.flt.restore

/-- PWR_CTRL.TARGET (R408, R411). -/
def State.pwrTarget (s : State) (v : Nat) : Status × State :=
  let p := s.pwr
  let t := bits v 0 2
  let cur := match p.state with | .drowse => 2 | .sleep => 3 | _ => 0
  if t = 1 || (t = 3 && cur == 0) then (.refusedInvalid, s)
  else if t = 2 && cur ≠ 2 && s.defined.any s.engaged then (.refusedBusy, s)
  else if p.changing then (.refusedBusy, s)
  else if t = cur then (.doneEmpty, s)
  else (.done, { s with pwr := { p with changing := true, target := if t = 2 then .drowse else if t = 3 then .sleep else .run } })

/-- PWR_RESET.WARM (R418). -/
def State.warmReset (s : State) (v : Nat) : Status × State :=
  let p := s.pwr
  if !bit v 0 then (.done, s)
  else if p.offCause = 3 || !p.memKept then (.refusedInvalid, s)
  else if p.halted || p.state == .drowse || s.defined.all fun d => (s.active d).isNone then (.done, { s with pwr := { p with warmPending := true } })
  else (.refusedBusy, s)

def State.coolMax (s : State) (v : Nat) : Status × State :=
  let c := bits v 16 8
  if c < 45 || 70 < c then (.refusedInvalid, s) else (.done, { s with pwr := { s.pwr with coolMax := c } })

def State.pwrWrite (s : State) (o v : Nat) : Status × State :=
  match o with
  | 0x008 => s.pwrTarget v
  | 0x010 => s.warmReset v
  | 0x018 => s.coolMax v
  | 0x028 => wrote { s with pwr := { s.pwr with io := bits v 0 4 } }
  | _ => wrote s

/-! ## Any CSR write -/

/-- A write to an aligned register; RO registers and unassigned offsets discard it (R9, R11). -/
def State.regPut (s : State) (moon : Bool) (d : Nat) (b : Block) (o v : Nat) : Status × State :=
  match b with
  | .glb => if o = 0x010 then s.timeWrite v else wrote s
  | .orb => s.orbWrite d o v
  | .img => s.imgWrite d o v
  | .dst => s.dstWrite d o v
  | .hst => wrote s
  | .mem => s.memWrite d o v
  | .tlk => if o < 24 * 0x4000 then s.tlkWrite d (o / 0x4000) (o % 0x4000) v else wrote s
  | .pbx => s.pbxWrite moon d o v
  | .snp => s.snpWrite d o v
  | .flt => s.fltWrite moon d o v
  | .spr => s.sprWrite o v
  | .num => s.numWrite d o v
  | .pwr => s.pwrWrite o v
  | .moon => wrote s
  | .core => s.coreWrite d (o / 0x10000) (o % 0x10000) v

/-- A CSR write of device address `a` (R7, R8, R15). -/
def State.csrWrite (s : State) (moon : Bool) (d a v : Nat) : Status × State :=
  if a < csrBase then (.refusedAccess, s)
  else match blockOf (a - csrBase) with
  | none => (.refusedAccess, s)
  | some (b, o) =>
    if !moon && !s.mayReach d b o true then (.refusedAccess, s)
    else if a % 8 ≠ 0 then (.refusedInvalid, s)
    else s.regPut moon d b o v

/-- Does a host port take requests: its link is up and start-up has reached stage 7 (R420; log entry 117)? -/
def State.hostUp (s : State) (p : Nat) : Bool := (s.hostPort p).link && s.pwr.stage == 7

/-- A requester's rights: Moon for a district's copy, or a host of its port's district. None when its port takes no requests
(R308, R400, R420). -/
def State.rights (s : State) (r : Requester) : Option (Bool × Option Nat) :=
  match r with
  | .moon d => some (true, some d.val)
  | .host p => if s.hostUp p then some (false, s.hostDistrict p) else none

/-- What a host port answers before the request is looked at: a halt, a fence, no district, or a module in DROWSE (R317,
R409, R446). -/
def State.portGate (s : State) (d : Option Nat) : Option Status :=
  match d with
  | none => some (if s.halted then .halted else .refusedAccess)
  | some d =>
    if s.halted then some .halted
    else if s.fenced d then some .fenced
    else if s.pwr.state == .drowse then some .refusedBusy
    else none

/-- A requester's CSR write at an offset of CSR space: its completion leaves the module. -/
def State.regWrite (s : State) (r : Requester) (off v : Nat) : State :=
  match s.rights r with
  | none => s
  | some (true, d) => let (st, t) := s.csrWrite true (d.getD 0) (csrBase + off) v; t.emit (.access r (csrBase + off) st 0)
  | some (false, d) =>
    match s.portGate d with
    | some st => s.emit (.access r (csrBase + off) st 0)
    | none => let (st, t) := s.csrWrite false (d.getD 0) (csrBase + off) v; t.emit (.access r (csrBase + off) st 0)

/-! ## Commands that write registers -/

/-- ORB_CTRL words: the bit that names the command is forced, the other bits are the written word's. -/
def forceBit (v i : Nat) (b : Bool) : Nat := if b then v ||| 2 ^ i else v - (v &&& 2 ^ i)

def execOrbArm (r : Requester) (v : W64) (s : State) : Host.Outcome State Fault Refusal :=
  .next (s.regWrite r 0x100000 (forceBit v.toNat 1 true))
def execOrbDisarm (r : Requester) (v : W64) (s : State) : Host.Outcome State Fault Refusal :=
  .next (s.regWrite r 0x100000 (forceBit v.toNat 1 false))
def execOrbJoin (r : Requester) (v : W64) (s : State) : Host.Outcome State Fault Refusal :=
  .next (s.regWrite r 0x100000 (forceBit v.toNat 2 true))
def execOrbJoinWithdraw (r : Requester) (v : W64) (s : State) : Host.Outcome State Fault Refusal :=
  .next (s.regWrite r 0x100000 (forceBit v.toNat 2 false))
def execOrbStop (r : Requester) (v : W64) (s : State) : Host.Outcome State Fault Refusal :=
  .next (s.regWrite r 0x100000 (forceBit v.toNat 3 true))
def execOrbResume (r : Requester) (v : W64) (s : State) : Host.Outcome State Fault Refusal := .next (s.regWrite r 0x100038 v.toNat)

/-- Offsets of the registers with SH fields (R445). -/
def isShadowed (off : Nat) : Bool :=
  match blockOf off with
  | some (.orb, o) => o == 0x008 || o == 0x030
  | some (.dst, o) => o == 0x058
  | some (.tlk, o) => decide (o < 24 * 0x4000) && [0x200, 0x208, 0x210].contains (o % 0x4000)
  | some (.flt, o) => o == 0x020
  | some (.spr, o) => decide (0x100 ≤ o) && decide (o < 0x200) && [0x00, 0x08, 0x10].contains ((o - 0x100) % 0x40)
  | some (.num, o) => decide (o < 0x020) && o % 8 == 0
  | some (.core, o) => o % 0x10000 == 0x008 || o % 0x10000 == 0x010
  | _ => false

/-- A write to an SH register; at another register it is no such write. -/
def execShFieldWrite (r : Requester) (addr : Nat) (v : W64) (s : State) : Host.Outcome State Fault Refusal :=
  .next (if isShadowed addr then s.regWrite r addr v.toNat else s)

def execRegisterWrite (r : Requester) (addr : Nat) (v : W64) (s : State) : Host.Outcome State Fault Refusal := .next (s.regWrite r addr v.toNat)

def execPbxFlushBox (r : Requester) (box : Nat) (s : State) : Host.Outcome State Fault Refusal := .next (s.regWrite r 0x700008 (bits box 0 12))
def execPbxFlushAll (r : Requester) (s : State) : Host.Outcome State Fault Refusal := .next (s.regWrite r 0x700008 0x10000)
def execDlrTailWrite (r : Requester) (n : Fin 4) (v : W64) (s : State) : Host.Outcome State Fault Refusal :=
  .next (s.regWrite r (0x700118 + 0x40 * n.val) v.toNat)

def execTlkDisable (r : Requester) (port : Fin 24) (v : W64) (s : State) : Host.Outcome State Fault Refusal :=
  .next (s.regWrite r (0x600020 + 0x4000 * port.val) (forceBit v.toNat 0 true))
def execTlkEnable (r : Requester) (port : Fin 24) (v : W64) (s : State) : Host.Outcome State Fault Refusal :=
  .next (s.regWrite r (0x600020 + 0x4000 * port.val) (forceBit v.toNat 0 false))
def execTlkRetrain (r : Requester) (port : Fin 24) (v : W64) (s : State) : Host.Outcome State Fault Refusal :=
  .next (s.regWrite r (0x600020 + 0x4000 * port.val) (forceBit v.toNat 1 true))

def execCmdTailWrite (r : Requester) (v : W64) (s : State) : Host.Outcome State Fault Refusal := .next (s.regWrite r 0x300030 v.toNat)
def execCplHeadWrite (r : Requester) (v : W64) (s : State) : Host.Outcome State Fault Refusal := .next (s.regWrite r 0x300050 v.toNat)
def execCmdRingWrite (r : Requester) (v : W64) (s : State) : Host.Outcome State Fault Refusal := .next (s.regWrite r 0x300028 v.toNat)
def execCplRingWrite (r : Requester) (v : W64) (s : State) : Host.Outcome State Fault Refusal := .next (s.regWrite r 0x300040 v.toNat)

/-- IMG_COMMIT words: OP is the command's. -/
def withOp (v op : Nat) : Nat := bits v 0 48 + put 48 2 op

def execImgLoad (r : Requester) (v : W64) (s : State) : Host.Outcome State Fault Refusal := .next (s.regWrite r 0x200010 (withOp v.toNat 1))
def execImgCommit (r : Requester) (v : W64) (s : State) : Host.Outcome State Fault Refusal := .next (s.regWrite r 0x200010 (withOp v.toNat 2))
def execImgCancel (r : Requester) (v : W64) (s : State) : Host.Outcome State Fault Refusal := .next (s.regWrite r 0x200010 (withOp v.toNat 3))
def execSnpReqWrite (r : Requester) (v : W64) (s : State) : Host.Outcome State Fault Refusal := .next (s.regWrite r 0x800000 v.toNat)

def execRewind (r : Requester) (s : State) : Host.Outcome State Fault Refusal := .next (s.regWrite r 0x900028 1)
def execRollfwd (r : Requester) (s : State) : Host.Outcome State Fault Refusal := .next (s.regWrite r 0x900028 2)
def execDreset (r : Requester) (s : State) : Host.Outcome State Fault Refusal := .next (s.regWrite r 0x900028 3)
def execFltTailWrite (r : Requester) (v : W64) (s : State) : Host.Outcome State Fault Refusal := .next (s.regWrite r 0x900008 v.toNat)
def execFltRestoreWrite (r : Requester) (v : W64) (s : State) : Host.Outcome State Fault Refusal := .next (s.regWrite r 0x900030 v.toNat)
def execSprServe (r : Requester) (n : Fin 4) (v : W64) (s : State) : Host.Outcome State Fault Refusal :=
  .next (s.regWrite r (0xA00120 + 0x40 * n.val) v.toNat)

def execPwrResetWarm (r : Requester) (s : State) : Host.Outcome State Fault Refusal := .next (s.regWrite r 0xC00010 1)
def execPwrTargetRun (r : Requester) (s : State) : Host.Outcome State Fault Refusal := .next (s.regWrite r 0xC00008 0)
def execPwrTargetDrowse (r : Requester) (s : State) : Host.Outcome State Fault Refusal := .next (s.regWrite r 0xC00008 2)
def execPwrTargetSleep (r : Requester) (s : State) : Host.Outcome State Fault Refusal := .next (s.regWrite r 0xC00008 3)
def execGlbTimeWrite (r : Requester) (v : W64) (s : State) : Host.Outcome State Fault Refusal := .next (s.regWrite r 0x000010 v.toNat)

end Sys2Proof.Machine
end

