-- ==== Sys2Proof/Machine/Lines.lean ====
section
/-! DEFINITION. Lines and pages of module memory (08 R218 to R222; 12 R367, R369; 11 R453): reads checked, retried, retired,
scrubbed and repaired. The codeword that comes back is an operand (log entry 21). -/

namespace Sys2Proof.Machine

/-- Channel of a line. -/
def lineChannel (line : Nat) : Nat := channelOf (64 * line)

/-- What the check of a codeword finds (R219): its sub-channel, and whether it is the address tag that differs. -/
inductive LineCheck where
  | good
  | corrected (sub : Nat)
  | bad (tag : Bool) (sub : Nat)
deriving DecidableEq, Repr

/-- Check a codeword: up to three wrong symbols are corrected, then the tag that `reached` was written with is held against the
line that was issued, and against the district it was issued for; the scrubber issues for none (log entry 109). -/
def State.checkLine (s : State) (d : Option Nat) (line reached : Nat) (wrong : List Nat) : LineCheck :=
  let sub := wrong.headD 0 / 36
  let alien := match d with
    | none => false
    | some k => s.lineDistrict reached != some k
  if 3 < wrong.length then .bad false sub
  else if alien || Config.tagFold reached % 2 ^ 14 ≠ Config.tagFold line % 2 ^ 14 then .bad true (Config.tagSub % 2)
  else if wrong.isEmpty then .good
  else .corrected sub

/-- An uncorrectable error of the shared fabric (R337, R340). -/
def State.fabricError (s : State) (d : Nat) (tied : Bool) : State := if tied then s.fence d 0x65 0 0 else s.halt 0x66 none 0 0

/-- MEM_ECC of the district whose line it is. -/
def State.eccEvent (s : State) (d line sub : Nat) (f : MemDist → MemDist) : State :=
  s.modMemd d fun m => { f m with channel := lineChannel line, sub := sub % 2, line := line }

/-- A corrected line is written back, counted and reported. -/
def State.corrected (s : State) (d line sub : Nat) : State :=
  let c := lineChannel line
  let s := ((s.count (ctrChannel c 1) 1).count (ctrChannel c 2) 1).eccEvent d line sub fun m => { m with ce := true }
  s.notice 0x30 (some d) c line

/-- The first failure of a read: it is re-issued once (R220). -/
def State.reissue (s : State) (d line sub : Nat) (tag : Bool) : State :=
  let s := (s.count (ctrChannel (lineChannel line) 3) 1).eccEvent d line sub fun m => { m with retry := true, tag := tag }
  { s with memc := { s.memc with retries := addOnce s.memc.retries (line, d) } }

/-- What one line read finds (R220). -/
def State.lineFound (s : State) (d line : Nat) (c : LineCheck) : State :=
  match c with
  | .good => s
  | .corrected sub => s.corrected d line sub
  | .bad tag sub => s.reissue d line sub tag

/-- One line read for a district, or by the scrubber in it. -/
def State.lineRead (s : State) (d line : Nat) (scrub : Bool) (o : LineOutcome) : State :=
  let s := s.count (ctrChannel (lineChannel line) 0) 1
  match o with
  | .codeword reached wrong => s.lineFound d line (s.checkLine (if scrub then none else some d) line reached wrong)
  | .fabric tied => s.fabricError d tied

/-- Can memory be read at all? -/
def State.memoryUp (s : State) : Bool := !s.halted && !s.memc.selfRefresh

def execMemLineRead (line : Nat) (d : Fin 4) (o : LineOutcome) (s : State) : Host.Outcome State Fault Refusal :=
  .next (if s.memoryUp then s.lineRead d line false o else s)

/-- Does a rollback refill the line (R220): a region whose USE is written again in the step, or a page the journal holds? -/
def State.refilled (s : State) (d line : Nat) : Bool :=
  let a := 64 * line
  (match s.regionOf d a 64 with
    | none => false
    | some r => r.use == 5 || r.use == 6 || r.use == 4 || r.use == 7)
    || (match s.pageIndex d a with
      | none => false
      | some i => (s.district d).flt.dirty.contains i)

/-- The reader of a line that stayed uncorrectable (R220, R292, R316, R453). -/
def State.failReader (s : State) (who : Reader) (st : Status) : State :=
  match who with
  | .core _ => s
  | .none => s
  | .host port qp => s.emit (.answer (.nak port qp (if st = .fenced then .operational else .rnr)))
  | .load d => s.modImg d fun g => if g.shadow = 1 then { g with loadErr := some st } else g
  | .entry d =>
    let o := s.orbitNow
    s.modHost d fun h =>
      if ahead h.cmdTail h.cmdHead = 0 then h
      else
        let lost : Cmd := { index := h.cmdHead, entry := 0, unread := true, done := some (st, 0, o) }
        { h with cmdHead := ahead (h.cmdHead + 1) 0, cmds := if st = .fenced then h.cmds else h.cmds ++ [lost] }
  | .command d i => if st = .fenced then s else s.finishCmd d i st 0

/-- A line that was read again stays uncorrectable (R220): a rollback where it is refilled, else a fence. -/
def State.lineLost (s : State) (d line sub : Nat) (tag : Bool) (who : Reader) : State :=
  let c := lineChannel line
  let s := (s.count (ctrChannel c 4) 1).eccEvent d line sub fun m => { m with ue := true, tag := tag }
  if s.refilled d line then (s.failReader who .refusedBusy).rollback d 0x31 c line
  else
    let s := s.failReader who .fenced
    (s.modMemd d fun m => { m with fault := true, cause := 6, index := 0, fcore := match who with | .core n => n | _ => 0 }).fence d 0x32 c line

/-- What the second read of a line finds (R220). -/
def State.lineAgain (s : State) (d line : Nat) (who : Reader) (c : LineCheck) : State :=
  match c with
  | .good => s.notice 0x30 (some d) (lineChannel line) line
  | .corrected sub => s.corrected d line sub
  | .bad tag sub => s.lineLost d line sub tag who

def execMemReadRetry (line : Nat) (d : Fin 4) (o : LineOutcome) (who : Reader) (s : State) : Host.Outcome State Fault Refusal :=
  .next (
    if !s.memoryUp || !s.memc.retries.contains (line, d.val) then s
    else
      let s := { s with memc := { s.memc with retries := s.memc.retries.erase (line, d.val) } }
      let s := s.count (ctrChannel (lineChannel line) 0) 1
      match o with
      | .codeword reached wrong => s.lineAgain d line who (s.checkLine (some d) line reached wrong)
      | .fabric tied => (s.failReader who (if tied then .fenced else .halted)).fabricError d tied)

/-! ## Scrubbing (R222) -/

/-- Lines of all 768 GiB. -/
def allLines : Nat := reserveEnd / 64

def execScrubLine (d : Fin 4) (o : LineOutcome) (s : State) : Host.Outcome State Fault Refusal :=
  .next (
    if !s.memoryUp then s
    else
      let line := s.memc.scrubAt
      let c := lineChannel line
      let s := ((s.count (ctrChannel c 5) 1).count (ctrChannel c 6) 1).lineRead d line true o
      if line + 1 < allLines then { s with memc := { s.memc with scrubAt := line + 1 } }
      else
        let s := s.each (List.range 96) fun k t => t.setCount (ctrChannel k 6) 0
        { s with memc := { s.memc with scrubAt := 0, passes := (s.memc.passes + 1) % 2 ^ 32 } })

/-! ## Pages (R221, R369) -/

/-- Lowest spare page that no page uses and that was not retired itself. -/
def MemCtl.spare (m : MemCtl) : Nat :=
  let used := (m.remaps ++ m.waiting).map (·.2) ++ m.worn
  let first := memEnd / MiB
  ((upFrom first (used.length + 1)).find? fun p => !used.contains p).getD first

/-- Moon retires a page, or the spare page that stands for it; not while a remap of the page waits (log entry 110). -/
def execPageRetire (page : Nat) (s : State) : Host.Outcome State Fault Refusal :=
  .next (
    let m := s.memc
    let gone := (m.waiting.any fun x => x.1 == page) || m.restoring.contains page
    let c := channelOf (page * MiB)
    if s.halted || !s.moon.running || memEnd / MiB ≤ page || gone then s
    else if m.freePages = 0 then s.notice 0x34 none c page
    else
      let s := { s with memc := { m with waiting := m.waiting ++ [(page, m.spare)], freePages := m.freePages - 1, retired := m.retired + 1 } }
      s.saveTables.notice 0x33 none c page)

/-- Is a district running a step, a copy-back, a serve, a restore or a roll-forward (R369)? -/
def State.engagedMemory (s : State) (d : Nat) : Bool :=
  let x := s.district d
  (x.img.active.isSome && !x.flt.fenced && x.orb.phase != .hold) || x.flt.busy || x.flt.restore || x.mir.serving

def execPostPackageRepair (page : Nat) (ok : Bool) (s : State) : Host.Outcome State Fault Refusal :=
  .next (
    let m := s.memc
    if s.halted || !s.moon.running || s.defined.any s.engagedMemory || !(m.remaps.any fun x => x.1 == page) || m.restoring.contains page then s
    else
      let s := if ok then { s with memc := { m with restoring := m.restoring ++ [page] }, spr := { s.spr with ppr := (s.spr.ppr + 1) % 2 ^ 16 } } else s
      s.saveTables.notice 0x35 none (channelOf (page * MiB)) page)

/-! ## Quads in test (R100, R367) -/

/-- What an array's finding does (R100): its repair state, or none when the quad is to be retired. -/
def Repair.after (x : Repair) (o : TestResult) : Option Repair :=
  match o with
  | .column _ i => if x.colSpare then none else some { x with colSpare := true, col := i % 32, field := true }
  | .row _ i => if x.rowSpare then none else some { x with rowSpare := true, row := i % 32, field := true }
  | .failed => none
  | .pass => some x

def execQuadTestEnd (quad : Nat) (o : TestResult) (s : State) : Host.Outcome State Fault Refusal :=
  .next (
    if s.halted || !s.moon.running || !s.spr.testing.contains quad then s
    else
      let x := s.spr
      let testing := x.testing.erase quad
      let key : Nat := 4 * quad + match o with | .column a _ => a % 4 | .row a _ => a % 4 | _ => 0
      let y : Sparing := match (x.repairs.get {} key).after o with
        | some r => { x with testing := testing, free := x.free ++ [quad], repairs := if o = .pass then x.repairs else x.repairs.set key r }
        | none => { x with testing := testing, retired := x.retired ++ [quad] }
      ({ s with spr := y } : State).saveTables.notice 0x61 none 0 (put 0 8 quad))

/-! ## The persistent log (R371, R385) -/

/-- Records that the log partition holds. -/
def logCapacity : Nat := 3932160

/-- Append one entry under the next SEQ; a full log first loses its oldest sector of 1,024 records. -/
def Moon.append (m : Moon) (e : Nat) : Moon :=
  let log := if logCapacity ≤ m.log.length then m.log.drop 1024 else m.log
  { m with log := log ++ [(m.nextSeq, e, m.boot)], nextSeq := m.nextSeq + 1 }

/-- Moon copies a ring's entries that it has not copied yet; those overwritten meanwhile are lost (R382). -/
def execLogFlashCopy (d : Fin 4) (s : State) : Host.Outcome State Fault Refusal :=
  .next (
    if !s.moon.running then s
    else
      let f := (s.district d).flt
      let n := min 256 (ahead f.head (s.moon.copied.getD d 0))
      let es := (List.range n).map fun i => f.entries.get 0 ((2 ^ 32 - n + f.head + i) % 256)
      let m := es.foldl Moon.append s.moon
      { s with moon := { m with copied := m.copied.set d f.head } })

end Sys2Proof.Machine
end

