-- ==== Sys2Proof/Machine/Restore.lean ====
section
/-! DEFINITION. The end of a copy-back, of a district reset and of a roll-forward, and the records of mirror and restore
streams (12 R341, R346, R354, R358 to R364; 07 R207, R450). -/

namespace Sys2Proof.Machine

/-! ## Copy-back (R346, R354) -/

/-- Pages that a copy-back in progress returns from their slots. -/
def FltDist.copying (f : FltDist) : List Nat := match f.copyBack with
  | some .rewind => f.prevDirty
  | some _ => f.dirty
  | none => []

def execCopybackDone (d : Fin 4) (unreadable : List Nat) (s : State) : Host.Outcome State Fault Refusal :=
  let f := (s.district d).flt
  .next (
    if s.halted || f.copyBack.isNone then s
    else
      let pages := f.copying.filter fun i => !unreadable.contains i
      let s := s.each pages fun i t =>
        ((t.move (t.slotAddr d i) (t.pageAddr d i) MiB).countLines 7 (s.slotAddr d i) MiB).countLines 7 (s.pageAddr d i) MiB
      let lost := f.copying.any unreadable.contains
      let s := s.modFlt d fun f => match f.copyBack with
        | some .rewind => { f with copyBack := none, prevDirty := [] }
        | _ => { f with copyBack := none, dirty := [] }
      if lost then
        let a := s.slotAddr d ((f.copying.find? unreadable.contains).getD 0)
        (s.modFlt d fun f => { f with journalLost := true }).fence d 0x32 (channelOf a) (a / 64)
      else s)

/-! ## District reset (R341, R450) -/

/-- Ports of a district without a LINK_MAP: trained ones enter HELD (R266). -/
def State.unbindPorts (s : State) (ps : List Nat) : State :=
  s.each ps fun p t => t.modPort p fun x => if x.state = 6 || x.state = 7 then { x with state := 5, qcause := 0 } else x

/-- The image is dropped with what it declared and has not sent; the shadow, memory and slot state stay. -/
def State.dropImage (s : State) (d : Nat) : State :=
  let s := s.takeBack fun f => f.own == some d
  let ps := (List.range 24).filter fun p => match s.portEntry p with | some (k, _) => k == d | none => false
  let s := s.each (s.boxesOf d) fun (b, e) t => if beCollection e then t else t.killBox d b 1
  let s := s.each (s.queuesOf d) fun (q, _) t => t.modQueue q fun _ => {}
  let s := s.each (s.ringsOf d) fun (r, _) t => t.modRing r fun _ => {}
  let s := s.each (s.coresOf d) fun n t => t.modCore n fun c => { c with held := [], lateOrbit := none, lateLast := none, slackMin := none }
  let s := { s with windows := ⟨s.windows.entries.filter fun w => w.1 / 256 != d || w.1 % 256 == 0⟩
                    slots := s.slots.map fun _ x => if x.district == d then { x with valid := false } else x }
  let s := s.modHost d fun h => { h with cmdEn := false, cplEn := false, cmds := [], outs := [] }
  let o := s.orbitNow
  let s := s.modImg d fun g =>
    let g := if g.commit = 0 then g else { g with commit := 0, target := 0, result := Status.fenced.code, resultOrbit := o % 2 ^ 32, committedEv := true }
    { g with active := none, hash := [], activeId := 0, oldNum := match g.active with | some a => a.entries 8 | none => g.oldNum }
  let s := s.modOrb d fun x => { x with phase := .none, index := 0 }
  let s := s.modNum d fun n => { n with dpReplica := 0, dpReplicas := 0, dpValid := false }
  s.unbindPorts ps

/-- The FENCED bit of a district's cards has become 0 (R268): its trained ports send their card again; a card exchange that the
fence stopped (R280) begins anew. -/
def State.cardsAfterFence (s : State) (d : Nat) : State :=
  s.each ((List.range 24).filter fun p => s.tensorDistrict p == some d) fun p t =>
    let st := (t.port p).state
    if st = 4 then t.startCards p else if 5 ≤ st && st ≤ 7 then t.sendCard p else t

def execDistrictResetDone (d : Fin 4) (s : State) : Host.Outcome State Fault Refusal :=
  let f := (s.district d).flt
  .next (
    if s.halted || !f.resetting || f.copyBack.isSome then s
    else
      let s := s.dropImage d
      let s := s.modFlt d fun f => { f with fenced := false, resetting := false, restore := false, receiving := [], stale := [] }
      let s := if f.fenced then s.cardsAfterFence d else s
      s.notice 0x67 (some d) 0 0)

/-! ## Roll-forward (R364) -/

/-- Every index up to EVAL − 1 has run, and no core is busy. -/
def execRollfwdEnd (d : Fin 4) (s : State) : Host.Outcome State Fault Refusal :=
  let overs : Bool := match (s.district d).flt.rollAt, s.active d with
    | some i, some g => decide (g.evl ≤ i)
    | _, _ => false
  .next (
    if s.halted || s.fenced d || !overs || (s.coresOf d).any fun n => (s.core n).busy then s
    else
      let s := (s.swapSlots d).dropMaxima d
      s.modFlt d fun f => { f with rollAt := none, stale := [], restore := false })

/-! ## Records of the mirror engine (R358, R359, R363) -/

/-- A record as the engine reads it: ring entry, address of its descriptor, unit, data length. -/
structure EngineRec where
  d : Nat
  e : Nat
  unit : Nat
  desc : Nat
  data : Nat
deriving DecidableEq, Repr

/-- The oldest record of a ring that waits for the engine. -/
def State.engineRec (s : State) (r : Nat) : Option EngineRec :=
  match s.ringOwner r, (s.ring r).recs.find? fun x => x.engine && !x.released with
  | some (d, e), some x =>
    let a := reBase e + x.unit % reUnits e * 256 + 64
    some ⟨d, e, x.unit, s.num a 64, a + 64⟩
  | _, _ => none

def edType (n : Nat) : Nat := fld n 0 0 8
def edUse (n : Nat) : Nat := fld n 1 0 4
def edLen (n : Nat) : Nat := fld n 4 0 21
def edGen (n : Nat) : Nat := fld n 8 0 24
def edAddr (n : Nat) : Nat := fld n 16 0 48
def edMoff (n : Nat) : Nat := fld n 24 0 28
def edCount (n : Nat) : Nat := fld n 28 0 32

/-- Is a descriptor's length one that R358 allows? -/
def edSound (n : Nat) : Bool := edLen n % 64 == 0 && decide (edLen n ≤ MiB) && (edType n != 4 || edLen n == 0)

/-- A record fault (R359, R363). -/
def State.recordFault (s : State) (d r : Nat) : State := s.fence d 0x28 r 0

/-- Directory entry of a mirror page (R359). -/
def dirEntry (n : Nat) : Nat := put 0 24 (edGen n) + put 24 28 (edAddr n / MiB) + put 52 3 (edType n) + put 55 1 1 + put 56 4 (edUse n)

def execMirrorRecord (ring : Nat) (s : State) : Host.Outcome State Fault Refusal :=
  .next (match s.engineRec ring with
    | none => s
    | some x =>
      let m := (s.district x.d).mir
      let n := x.desc
      if s.halted || s.fenced x.d || (s.district x.d).flt.restore then s
      else if !m.keep || !edSound n || !([1, 2, 3, 4].contains (edType n)) || (edType n != 4 && m.size ≤ edMoff n + 1) then s.recordFault x.d ring
      else
        let s := if edType n = 4 then s
          else
            let s := s.move x.data ((m.base + edMoff n) * MiB) (edLen n)
            let s := if edType n = 1 then s.modMir x.d fun m => { m with heldSlots := insertKey (edMoff n) (edLen n, edCount n) m.heldSlots } else s
            s.store ((m.base + m.size - 1) * MiB + 8 * edMoff n) (leBytes 8 (dirEntry n))
        s.release x.d ring x.unit)

/-- A slot takes the held step's fields of a SLOT entry (R363). -/
def Slot.restored (x : Slot) (e : Nat) (same : Bool) : Slot :=
  let ring (at' n : Nat) : List Nat := (List.range n).map fun i => fld e (at' + 4 * i) 0 32
  let nowScale := signed 8 (fld e 2 0 8)
  let oldScale := signed 8 (fld e 3 0 8)
  let nowRing := ring 8 (min 64 (fld e 4 0 8))
  let oldRing := ring 264 (min 64 (fld e 5 0 8))
  if same then { x with scale := nowScale, ring := nowRing, prevScale := oldScale, prevRing := oldRing }
  else { x with scale := oldScale, ring := oldRing, prevScale := nowScale, prevRing := nowRing }

/-- One restore record: the state after it, or none for a record fault. -/
def State.restoreOne (s : State) (d n data : Nat) : Option State :=
  let held := (s.district d).orb.step
  let same := edGen n == held
  let region (use : Nat) : Bool := match s.regionOf d (edAddr n) (edLen n) with | none => false | some r => r.use == use
  match edType n with
  | 1 =>
    let es := (List.range (edCount n)).map fun i => s.num (data + 528 * i) 528
    let known := es.all fun e => (s.slot (fld e 0 0 12)).valid && (s.slot (fld e 0 0 12)).district == d
    if (same || edGen n == stepAfter held) && decide (528 * edCount n ≤ edLen n) && known then
      some (s.each es fun e t => t.modSlot (fld e 0 0 12) fun x => x.restored e same)
    else none
  | 5 =>
    let old := stepAfter (edGen n) == held
    let page := edAddr n / MiB
    if (same || old) && region (edUse n) then
      some ((s.move data (edAddr n) (edLen n)).modFlt d fun f => { f with stale := if same then f.stale.erase page else addOnce f.stale page })
    else none
  | 3 => if region 4 then some (s.move data (edAddr n) (edLen n)) else none
  | 4 => some s
  | _ => none

def execRestoreRecord (ring : Nat) (s : State) : Host.Outcome State Fault Refusal :=
  .next (match s.engineRec ring with
    | none => s
    | some x =>
      if s.halted || s.fenced x.d || !(s.district x.d).flt.restore then s
      else if !edSound x.desc then s.recordFault x.d ring
      else match s.restoreOne x.d x.desc x.data with
        | none => s.recordFault x.d ring
        | some t => (t.modFlt x.d fun f =>
            { f with receiving := if edType x.desc = 4 then f.receiving.erase ring else addOnce f.receiving ring }).release x.d ring x.unit)

end Sys2Proof.Machine
end

