-- ==== Sys2Proof/Machine/Host.lean ====
section
/-! DEFINITION. The host ports: RoCEv2 requests, connections, congestion, flow control and neighbour discovery (11 R313 to R322,
R446). A request counts as one packet with its payload's bytes (log entry 50). -/

namespace Sys2Proof.Machine

def State.modHostPort (s : State) (p : Nat) (f : HostPort → HostPort) : State := { s with hosts := s.hosts.set p (f (s.hostPort p)) }
def State.modQp (s : State) (p qp : Nat) (f : Qp → Qp) : State :=
  match lookupKey qp (s.hostPort p).qps.entries with
  | none => s
  | some q => s.modHostPort p fun x => { x with qps := x.qps.set qp (f q) }
def State.qp (s : State) (p qp : Nat) : Option Qp := lookupKey qp (s.hostPort p).qps.entries

/-! ## Answers (R316) -/

/-- What a status is answered with; the READ's data, if any. -/
def answerOf (port qp : Nat) (st : Status) (data : Option (List Byte)) : Answer :=
  match st with
  | .refusedAccess => .nak port qp .access
  | .refusedInvalid => .nak port qp .invalid
  | .refusedSize => .nak port qp .invalid
  | .refusedBusy => .nak port qp .rnr
  | .fenced => .nak port qp .operational
  | .halted => .nak port qp .operational
  | _ => match data with | none => .ack port qp | some bs => .data port qp bs

/-- Counter of a NAK by its syndrome (R376). -/
def nakCounter : Nak → Nat
  | .access => 4
  | .invalid => 5
  | .rnr => 6
  | .operational => 7

/-- An answer leaves, or waits while its priority is paused (R313, R315). -/
def State.giveAnswer (s : State) (p : Nat) (a : Answer) : State :=
  let x := s.hostPort p
  let s := match a with | .nak _ _ n => s.count (ctrHost p (nakCounter n)) 1 | _ => s
  let len := match a with | .data _ _ bs => bs.length | _ => 0
  let s := (s.count (ctrHost p 1) 1).count (ctrHost p 3) len
  if x.paused.contains x.rocePrio then s.modHostPort p fun x => { x with queued := x.queued ++ [a] } else s.emit (.answer a)

/-- A microsecond of `Clock.up`. -/
def microsecond : Nat := 5000 * 2 ^ 32

/-- A request arrives: counted; an ECN mark is answered with a CNP, at most one per QP in 50 µs (R315). -/
def State.arrived (s : State) (p qp len : Nat) (ce : Bool) : State :=
  let s := (s.count (ctrHost p 0) 1).count (ctrHost p 2) len
  if !ce then s
  else
    let s := s.count (ctrHost p 10) 1
    let x := s.hostPort p
    let due := match s.qp p qp with
      | none => false
      | some q => match q.cnpAt with | none => true | some t => decide (50 * microsecond + t ≤ s.clk.up)
    if x.ecnEn && due then
      let now := s.clk.up
      ((s.modQp p qp fun q => { q with cnpAt := some now }).count (ctrHost p 8) 1).emit (.answer (.cnp p qp x.cnpDscp))
    else s

/-- A request of a QP: the port must be in service, and the QP known unless the port is unassigned (R446); what the port refuses
at once (R317, R409, R446), else the request's own effect, which answers a status and data. -/
def State.request (s : State) (p qp len : Nat) (ce : Bool) (f : Nat → State → State × Status × Option (List Byte)) : State :=
  if !s.hostUp p || ((s.qp p qp).isNone && (s.hostDistrict p).isSome) then s
  else
    let s := s.arrived p qp len ce
    match s.portGate (s.hostDistrict p) with
    | some st => s.giveAnswer p (answerOf p qp st none)
    | none =>
      let (t, st, data) := f ((s.hostDistrict p).getD 0) s
      t.giveAnswer p (answerOf p qp st data)

/-! ## Windows and keys (R318, R319) -/

/-- Bytes of the best-effort scratch window on a core (R333). -/
def State.beWindow (s : State) (d : Nat) : Nat × Nat := window (s.district d).host.beBase (s.district d).host.beSize

/-- Memory range of a district. -/
def State.inRange (s : State) (d a len : Nat) : Bool :=
  let f := (s.district d).defn
  within a len (f.baseGib * 2 ^ 30) (f.sizeGib * 2 ^ 30)

/-- Where a host may work: the memory range, or the SRAM of one of the district's cores outside the scratch window. -/
def State.hostPlace (s : State) (d a len : Nat) : Bool :=
  if isSram a then
    let n := (a - sramBase) / MiB
    let w := s.beWindow d
    inSram n a len && s.coreDistrict n == some d && !overlaps ((a - sramBase) % MiB) len w.1 w.2
  else s.inRange d a len

/-- Does the control window cover the range: CSR space, or one of the two rings? -/
def State.inControl (s : State) (d a len : Nat) : Bool :=
  let h := (s.district d).host
  decide (csrBase ≤ a) || (h.cmdEn && within a len h.cmdBase (64 * 2 ^ h.cmdLog2)) || (h.cplEn && within a len h.cplBase (32 * 2 ^ h.cplLog2))

/-- May the key reach the range (R319, checks 1 to 3)? -/
def State.keyOk (s : State) (d rkey a len : Nat) (write : Bool) : Bool :=
  let w := bits rkey 0 8
  bits rkey 8 2 == d && match lookupKey (256 * d + w) s.windows.entries with
    | none => false
    | some x => x.tag == bits rkey 10 22 && (if write then x.write else x.read)
        && (if w = 0 then s.inControl d a len else within a len x.base x.size)

/-- May a CSR access of the control window go ahead (R319, check 4, after the rights)? -/
def State.csrShape (s : State) (d a len : Nat) (write : Bool) : Status :=
  match blockOf (a - csrBase) with
  | none => .refusedAccess
  | some (b, o) => if !s.mayReach d b o write then .refusedAccess else if len ≠ 8 || a % 8 ≠ 0 then .refusedInvalid else .done

/-- An RDMA WRITE that passed the port. -/
def State.rdmaPut (s : State) (d rkey a : Nat) (data : List Byte) : State × Status :=
  if data.isEmpty then (s, .doneEmpty)
  else if !s.keyOk d rkey a data.length true then (s, .refusedAccess)
  else if 2 ^ 31 < data.length then (s, .refusedInvalid)
  else if csrBase ≤ a then
    match s.csrShape d a data.length true with
    | .done => let (st, t) := s.csrWrite false d a (leNat data); (t, st)
    | st => (s, st)
  else ((s.write d a data).wroteLines a data.length, .done)

/-- An RDMA READ that passed the port; DIRTY pages are read as the step began (R347). -/
def State.rdmaGet (s : State) (d rkey a len : Nat) : Status × List Byte :=
  if len = 0 then (.doneEmpty, [])
  else if !s.keyOk d rkey a len false then (.refusedAccess, [])
  else if 2 ^ 31 < len then (.refusedInvalid, [])
  else if csrBase ≤ a then
    match s.csrShape d a len false with
    | .done => let (st, v) := s.csrRead false d a; (st, leBytes 8 v)
    | st => (st, [])
  else (.done, if isSram a then s.bytes a len else s.oldBytes d a len)

/-! ## Requests -/

def execRdmaWrite (port : Fin 4) (qp rkey addr : Nat) (data : List Byte) (ce : Bool) (s : State) : Host.Outcome State Fault Refusal :=
  .next (s.request port qp data.length ce fun d s => let (t, st) := s.rdmaPut d rkey addr data; (t, st, none))

/-- An immediate tail (R322): it is the new tail, or ignored. -/
def State.immediateTail (s : State) (d p v : Nat) : State :=
  if (s.district d).host.badTailFor v then (s.modHost d fun h => { h with badTail := true }).notice 0x51 (some d) p v
  else s.modHost d fun h => { h with cmdTail := v }

/-- The immediate counts once the data has been placed; a refused or empty WRITE places none. -/
def execRdmaWriteImm (port : Fin 4) (qp rkey addr : Nat) (data : List Byte) (imm : W32) (ce : Bool) (s : State) : Host.Outcome State Fault Refusal :=
  .next (s.request port qp data.length ce fun d s =>
    let (t, st) := s.rdmaPut d rkey addr data
    (if st = .done then t.immediateTail d port imm.toNat else t, st, none))

/-- READs of a QP whose answers wait on a paused priority (R313). -/
def HostPort.reads (x : HostPort) (qp : Nat) : Nat :=
  (x.queued.filter fun a => match a with | .data _ q _ => q == qp | _ => false).length

/-- A READ; the 17th outstanding one of a QP breaks a limit of R313. -/
def execRdmaRead (port : Fin 4) (qp rkey addr len : Nat) (ce : Bool) (s : State) : Host.Outcome State Fault Refusal :=
  .next (s.request port qp 0 ce fun d s =>
    let (st, bs) := s.rdmaGet d rkey addr len
    if st ≠ .refusedAccess && 16 ≤ (s.hostPort port).reads qp then (s, .refusedInvalid, none) else (s, st, some bs))

/-- Append entries at the tail of the command ring (R322). -/
def State.appendEntries (s : State) (d : Nat) (data : List Byte) : State × Status :=
  let h := (s.district d).host
  let size := 2 ^ h.cmdLog2
  let n := data.length / 64
  if !h.cmdEn || data.length % 64 ≠ 0 || 2 ^ 31 < data.length then (s, .refusedInvalid)
  else if n = 0 then (s, .doneEmpty)
  else if size < ahead h.cmdTail h.cmdHead + n then (s, .refusedBusy)
  else
    let s := s.each (chunks 64 n data).zipIdx fun (bs, i) t => t.store (h.cmdBase + (h.cmdTail + i) % size * 64) bs
    (s.modHost d fun h => { h with cmdTail := (h.cmdTail + n) % 2 ^ 32 }, .done)

/-- A SEND, or a request of the QP that is not `supported`: its opcode, transport, path MTU or partition key is none of R313's. -/
def execRoceSend (port : Fin 4) (qp : Nat) (data : Option (List Byte)) (ce : Bool) (s : State) : Host.Outcome State Fault Refusal :=
  .next (s.request port qp (data.getD []).length ce fun d s =>
    match data with
    | none => (s, .refusedInvalid, none)
    | some bs => let (t, st) := s.appendEntries d bs; (t, st, none))

/-! ## Connections (R313) -/

/-- Line rate of a host port in Mb/s. -/
def lineRate : Nat := 400000

/-- Addresses that wait take effect when no QP is connected (R314, R400). -/
def execCmReq (port : Fin 4) (remote : Nat) (s : State) : Host.Outcome State Fault Refusal :=
  .next (
    let x := s.hostPort port
    let free := (List.range 256).find? fun q => (s.qp port q).isNone
    if !s.hostUp port then s
    else match s.portGate (s.hostDistrict port), free with
      | none, some q =>
        let n : Qp := { connected := false, remote := remote, alpha := ⟨1, 1⟩, rc := ⟨lineRate, 1⟩, rt := ⟨lineRate, 1⟩, quiet := 0, cnpAt := none }
        (s.modHostPort port fun x => { x with qps := x.qps.set q n }).emit (.answer (.rep port q remote))
      | _, _ => (s.count (ctrHost port 14) 1).emit (.answer (.rej port remote)))

/-- The QP connects: α is 1 and Rc the line rate (R315). -/
def Qp.connect (q : Qp) : Qp :=
  if q.connected then q else { q with connected := true, alpha := ⟨1, 1⟩, rc := ⟨lineRate, 1⟩, rt := ⟨lineRate, 1⟩, quiet := 0 }

def execCmRtu (port : Fin 4) (qp : Nat) (s : State) : Host.Outcome State Fault Refusal :=
  .next (if s.hostUp port then s.modQp port qp Qp.connect else s)

def execCmDreq (port : Fin 4) (qp : Nat) (s : State) : Host.Outcome State Fault Refusal :=
  .next (
    if !s.hostUp port || (s.qp port qp).isNone then s
    else (s.modHostPort port fun x => HostPort.takeAddress { x with qps := ⟨x.qps.entries.filter fun e => e.1 != qp⟩ }).emit (.answer (.drep port qp)))

/-! ## Congestion (R315) -/

def Frac.half (a b : Frac) : Frac := ⟨a.num * b.den + b.num * a.den, 2 * a.den * b.den⟩

/-- Rt = Rc; Rc = Rc × (1 − α/2); α = α × (1 − 1/256) + 1/256. -/
def Qp.onCnp (q : Qp) : Qp :=
  { q with rt := q.rc, rc := ⟨q.rc.num * (2 * q.alpha.den - q.alpha.num), q.rc.den * 2 * q.alpha.den⟩
           alpha := ⟨q.alpha.num * 255 + q.alpha.den, q.alpha.den * 256⟩, quiet := 0 }

/-- Each 55 µs without a CNP. -/
def Qp.onQuiet (q : Qp) : Qp :=
  let rt : Frac := if q.quiet < 5 then q.rt else ⟨q.rt.num + 40 * q.rt.den, q.rt.den⟩
  { q with alpha := ⟨q.alpha.num * 255, q.alpha.den * 256⟩, rt := rt, rc := rt.half q.rc, quiet := q.quiet + 1 }

def execCnp (port : Fin 4) (qp : Nat) (s : State) : Host.Outcome State Fault Refusal :=
  .next (if (s.hostPort port).link then (s.count (ctrHost port 9) 1).modQp port qp Qp.onCnp else s)

def execRateIncreaseTimer (port : Fin 4) (qp : Nat) (s : State) : Host.Outcome State Fault Refusal := .next (s.modQp port qp Qp.onQuiet)

/-! ## Priority flow control (R313, R315) -/

def execPfcPause (port : Fin 4) (prio : Nat) (s : State) : Host.Outcome State Fault Refusal :=
  .next (
    let x := s.hostPort port
    if !x.link then s
    else
      let s := s.count (ctrHost port 11) 1
      if 8 ≤ prio || !bit x.pfcEn prio then s
      else
        let now := s.clk.up
        s.modHostPort port fun x => { x with paused := addOnce x.paused prio, pausedAt := if x.paused.isEmpty then now else x.pausedAt })

/-- A pause ends; what waited on the priority leaves. -/
def execPfcPauseExpiry (port : Fin 4) (prio : Nat) (s : State) : Host.Outcome State Fault Refusal :=
  .next (
    let x := s.hostPort port
    if !x.paused.contains prio then s
    else
      let left := x.paused.erase prio
      let s := s.modHostPort port fun x => { x with paused := left }
      let s := if left.isEmpty then s.count (ctrHost port 12) ((s.clk.up - x.pausedAt) / microsecond) else s
      if prio = x.rocePrio then (s.modHostPort port fun x => { x with queued := [] }).each x.queued fun a t => t.emit (.answer a) else s)

/-- A priority paused for 100 ms: its frames are discarded, counted and reported. -/
def execPfcPauseTimeout (port : Fin 4) (prio : Nat) (s : State) : Host.Outcome State Fault Refusal :=
  .next (
    let x := s.hostPort port
    if !x.paused.contains prio then s
    else
      let n := if prio = x.rocePrio then x.queued.length else 0
      let s := s.modHostPort port fun x => if prio = x.rocePrio then { x with queued := [] } else x
      (s.count (ctrHost port 13) n).notice 0x50 (s.hostDistrict port) port prio)

/-! ## Links and neighbours (R317, R336, R420, R446) -/

def execHostLinkUp (port : Fin 4) (s : State) : Host.Outcome State Fault Refusal :=
  .next (if s.pwr.stage < 6 || !s.pwr.railsOn then s else s.modHostPort port fun x => { x with link := true })
def execHostLinkDown (port : Fin 4) (s : State) : Host.Outcome State Fault Refusal := .next (s.modHostPort port fun x => { x with link := false })

/-- ARP and IPv6 neighbour discovery for one of the port's addresses, in every district's state. -/
def execNeighbourDiscovery (port : Fin 4) (addr : Nat) (s : State) : Host.Outcome State Fault Refusal :=
  .next (
    let x := s.hostPort port
    if x.link && ((x.ipv4Valid && addr == x.ipv4) || (x.ipv6 != 0 && addr == x.ipv6)) then s.emit (.answer (.neighbour port addr x.mac)) else s)

end Sys2Proof.Machine
end

