-- ==== Sys2Proof/Machine/Commands.lean ====
section
/-! DEFINITION. Host commands: their start, what each does, and their completions (11 R320 to R328, R453). -/

namespace Sys2Proof.Machine

/-! ## Entries (R323, R324) -/

def ceOp (e : Nat) : Nat := fld e 0 0 8
def ceEnq (e : Nat) : Bool := fld e 1 0 1 == 1
def ceLen (e : Nat) : Nat := fld e 4 0 32
def ceTag (e : Nat) : Nat := fld e 8 0 64
def ceA (e : Nat) : Nat := fld e 16 0 64
def ceB (e : Nat) : Nat := fld e 24 0 64
def ceC (e : Nat) : Nat := fld e 32 0 64
def ceD (e : Nat) : Nat := fld e 40 0 64

/-- Fields of a TILE's D. -/
def ceInLen (e : Nat) : Nat := bits (ceD e) 0 20
def ceOutLen (e : Nat) : Nat := bits (ceD e) 20 20
def ceOutOff (e : Nat) : Nat := bits (ceD e) 40 20

/-- Fields outside an opcode's use: offset, low bit, length. A postmark's STEP is zero (R226). -/
def ceUnused (e : Nat) : List (Nat × Nat × Nat) :=
  let enq := (1, 0, 1)
  let len := (4, 0, 32)
  let a := (16, 0, 64)
  let b := (24, 0, 64)
  let c := (32, 0, 64)
  let d := (40, 0, 64)
  [(1, 1, 7), (2, 0, 16), (48, 0, 128)] ++ match ceOp e with
    | 1 => [enq, len, a, b, c, d]
    | 2 => if ceEnq e then [(32, 8, 56), (40, 0, 24)] else [c, d]
    | 3 => [enq, (40, 60, 4)]
    | 4 => [enq, (24, 12, 4), (24, 32, 32), c, (40, 0, 24)]
    | 5 => [enq, len, (32, 24, 40), d]
    | 6 => [enq, len, a, b, (32, 32, 32), d]
    | 7 => [enq, len, b, c, d]
    | 8 => [enq, len, b, d]
    | 9 => [enq, len, b, c, d]
    | _ => []

def ceSound (e : Nat) : Bool := zeroFields e (ceUnused e)

/-- The first refusal that applies (R15). -/
def firstRefusal (access invalid size busy : Bool) : Option Status :=
  if access then some .refusedAccess
  else if invalid then some .refusedInvalid
  else if size then some .refusedSize
  else if busy then some .refusedBusy
  else none

/-! ## Starting (R325, R327) -/

/-- Source and destination ranges of a command. -/
def ceSrcs (e : Nat) : List (Nat × Nat) :=
  match ceOp e with
  | 2 => [(ceA e, ceLen e)]
  | 3 => [(ceA e, 32 * ceLen e), (ceB e, ceInLen e)]
  | 4 => [(ceA e, ceLen e)]
  | _ => []
def ceDsts (e : Nat) : List (Nat × Nat) :=
  match ceOp e with
  | 2 => [(ceB e, ceLen e)]
  | 3 => [(ceC e, ceOutLen e)]
  | _ => []

/-- Does a command wait for one in progress? -/
def ceWaits (e old : Nat) : Bool := anyOverlap (ceSrcs e ++ ceDsts e) (ceDsts old) || anyOverlap (ceDsts e) (ceSrcs old)

/-- Commands that have started and not finished. -/
def HostDist.running (h : HostDist) : List Cmd := h.cmds.filter fun c => c.done.isNone

/-- The entry of ring index `i`, as memory holds it (R322). -/
def State.cmdEntry (s : State) (d i : Nat) : Nat :=
  let h := (s.district d).host
  s.num (h.cmdBase + i % 2 ^ h.cmdLog2 * 64) 64

/-- May the command at the head start? -/
def State.mayStartCmd (s : State) (d : Nat) : Bool :=
  let h := (s.district d).host
  let e := s.cmdEntry d h.cmdHead
  s.memoryUp && !s.fenced d && h.cmdEn && h.cplEn && h.cmdHead != h.cmdTail && decide (h.cmds.length < 64)
    && decide (h.cmds.length < 2 ^ h.cplLog2 - ahead h.cplTail h.cplHead)
    && h.running.all fun c => ceOp c.entry != 9 && !ceWaits e c.entry

/-- The command at the head starts; an opcode of no command finishes it at once. -/
def execCommandStart (d : Fin 4) (s : State) : Host.Outcome State Fault Refusal :=
  .next (
    if !s.mayStartCmd d then s
    else
      let i := (s.district d).host.cmdHead
      let e := s.cmdEntry d i
      let s := s.modHost d fun h => { h with cmdHead := ahead (h.cmdHead + 1) 0, cmds := h.cmds ++ [{ index := i, entry := e }] }
      if 1 ≤ ceOp e && ceOp e ≤ 9 then s else s.finishCmd d i .refusedInvalid 0)

/-- The started command of a ring index, when it has the opcode, has not finished and stands at a stage; its entry. -/
def State.cmdAt (s : State) (d i op stage : Nat) : Option Nat :=
  ((s.district d).host.running.find? fun c => c.index == i && ceOp c.entry == op && c.stage == stage).map (·.entry)

/-- Move a command to a stage. -/
def State.cmdStage (s : State) (d i stage : Nat) : State :=
  s.modHost d fun h => { h with cmds := h.cmds.map fun c => if c.index = i && c.done.isNone then { c with stage := stage } else c }

/-! ## The commands -/

def execNop (d : Fin 4) (index : Nat) (s : State) : Host.Outcome State Fault Refusal :=
  .next (match s.cmdAt d index 1 0 with
    | none => s
    | some e => s.finishCmd d index (if ceSound e then .done else .refusedInvalid) 0)

/-- Data of a range that a command reads: module memory as the step began (R347). -/
def State.cmdData (s : State) (d a len : Nat) : List Byte := if isSram a then s.bytes a len else s.oldBytes d a len

/-- District that declares a stage queue or a ring is another one: the request is refused for want of rights. -/
def foreign (owner : Option (Nat × Nat)) (d : Nat) : Bool := match owner with | some (k, _) => k != d | none => false

/-- May a command of the district work on the range? An empty range touches nothing. -/
def State.cmdPlace (s : State) (d a len : Nat) : Bool := len == 0 || s.hostPlace d a len

def State.cmdCopy (s : State) (d i e : Nat) : State :=
  let q := ceC e % 256
  let len := ceLen e
  let owner := s.queueOwner q
  match firstRefusal (!s.cmdPlace d (ceA e) len || !s.cmdPlace d (ceB e) len || (ceEnq e && foreign owner d))
      (!ceSound e || (ceEnq e && owner.isNone)) false false with
  | some st => s.finishCmd d i st 0
  | none =>
    if len = 0 then s.finishCmd d i .doneEmpty 0
    else
      let s := (s.write d (ceB e) (s.cmdData d (ceA e) len)).wroteLines (ceB e) len
      if !ceEnq e then s.finishCmd d i .done 0
      else
        let x : SItem := { addr := ceB e, len := len, ringed := false, ring := 0, unit := 0, lcnt := 0, postmark := s.stamped d (ceD e)
                           src := 0, queue := q, useMb := true, host := true, handle := 0 }
        (s.cmdStage d i 2).enqueue d q x (some (.command d i))

def execCopy (d : Fin 4) (index : Nat) (s : State) : Host.Outcome State Fault Refusal :=
  .next (match s.cmdAt d index 2 0 with
    | none => s
    | some e => s.cmdCopy d index e)

def State.cmdMsg (s : State) (d i e : Nat) : State :=
  let r := bits (ceB e) 0 12
  let len := ceLen e
  let owner := s.ringOwner r
  let tx := match owner with | some (_, x) => reTx x | none => false
  let units := match owner with | some (_, x) => reUnits x | none => 0
  match firstRefusal (!s.cmdPlace d (ceA e) len || (tx && foreign owner d)) (!ceSound e || !tx) (decide (units < unitsFor len + 1)) false with
  | some st => s.finishCmd d i st 0
  | none =>
    match owner with
    | none => s
    | some (_, x) =>
      (s.cmdStage d i 2).giveMessage d r x (.command d i) (s.stamped d (ceD e)) len (bits (ceB e) 16 16) [] (ceA e) false

def execMsg (d : Fin 4) (index : Nat) (s : State) : Host.Outcome State Fault Refusal :=
  .next (match s.cmdAt d index 4 0 with
    | none => s
    | some e => s.cmdMsg d index e)

/-- Indices of windows that are not open in a district. -/
def State.freeWindows (s : State) (d : Nat) : List Nat :=
  (upFrom 1 255).filter fun w => (lookupKey (256 * d + w) s.windows.entries).isNone

/-- WINDOW_OPEN (R318, R324). The spec orders REFUSED_BUSY and DONE_EMPTY of a size of 0 nowhere; the model refuses first
(log entry 99). -/
def State.windowOpen (s : State) (d i e : Nat) : State :=
  let tag := bits (ceC e) 0 22
  let read := bit (ceC e) 22
  let write := bit (ceC e) 23
  let w := (s.freeWindows d).head?
  match firstRefusal (!s.cmdPlace d (ceA e) (ceB e))
      (!ceSound e || tag == 0 || !(read || write) || ceA e % 4096 != 0 || ceB e % 4096 != 0) false w.isNone with
  | some st => s.finishCmd d i st 0
  | none =>
    if ceB e = 0 then s.finishCmd d i .doneEmpty 0
    else
      let n := w.getD 0
      ({ s with windows := s.windows.set (256 * d + n) ⟨tag, ceA e, ceB e, read, write⟩ } : State).finishCmd d i .done (put 0 8 n + put 8 2 d + put 10 22 tag)

def execWindowOpen (d : Fin 4) (index : Nat) (s : State) : Host.Outcome State Fault Refusal :=
  .next (match s.cmdAt d index 5 0 with
    | none => s
    | some e => s.windowOpen d index e)

/-- WINDOW_CLOSE acts when it executes (log entry 73). -/
def State.windowClose (s : State) (d i e : Nat) : State :=
  let n := bits (ceC e) 0 8
  let key := 256 * d + n
  let mine := match lookupKey key s.windows.entries with | none => false | some x => n != 0 && x.tag == bits (ceC e) 10 22
  match firstRefusal (bits (ceC e) 8 2 != d) (!ceSound e || !mine) false false with
  | some st => s.finishCmd d i st 0
  | none => ({ s with windows := ⟨s.windows.entries.filter fun w => w.1 != key⟩ } : State).finishCmd d i .done 0

def execWindowClose (d : Fin 4) (index : Nat) (s : State) : Host.Outcome State Fault Refusal :=
  .next (match s.cmdAt d index 6 0 with
    | none => s
    | some e => s.windowClose d index e)

def execCsrRead (d : Fin 4) (index : Nat) (s : State) : Host.Outcome State Fault Refusal :=
  .next (match s.cmdAt d index 7 0 with
    | none => s
    | some e =>
      let (st, v) := s.csrRead false d (ceA e)
      if st = .refusedAccess || ceSound e then s.finishCmd d index st v else s.finishCmd d index .refusedInvalid 0)

def execCsrWrite (d : Fin 4) (index : Nat) (s : State) : Host.Outcome State Fault Refusal :=
  .next (match s.cmdAt d index 8 0 with
    | none => s
    | some e =>
      let (st, t) := s.csrWrite false d (ceA e) (ceC e)
      if st = .refusedAccess || ceSound e then t.finishCmd d index st 0 else s.finishCmd d index .refusedInvalid 0)

/-- The command waits for its orbit; the tick of that orbit completes it (R324). -/
def execWaitOrbit (d : Fin 4) (index : Nat) (s : State) : Host.Outcome State Fault Refusal :=
  .next (match s.cmdAt d index 9 0 with
    | none => s
    | some e =>
      match firstRefusal false (!ceSound e) false (!s.orb.run) with
      | some st => s.finishCmd d index st 0
      | none => if ceA e ≤ s.orb.number then s.finishCmd d index .done s.orb.number else s.cmdStage d index 1)

/-! ## Completions (R326, R453) -/

/-- The 32 bytes of a completion entry. -/
def completionEntry (c : Cmd) (log2 : Nat) (st : Status) (detail orbit : Nat) : List Byte :=
  let known (v : Nat) : Nat := if c.unread then 0 else v
  leBytes 8 (known (ceTag c.entry)) ++ leBytes 4 c.index ++ leBytes 1 st.code ++ leBytes 1 (known (ceOp c.entry))
    ++ leBytes 1 (1 - bits c.index log2 1) ++ leBytes 1 0 ++ leBytes 8 (known detail) ++ leBytes 8 (orbit % 2 ^ 48)

/-- The oldest command's completion is posted once it has finished. -/
def execCompletionPost (d : Fin 4) (s : State) : Host.Outcome State Fault Refusal :=
  .next (
    let h := (s.district d).host
    match h.cmds with
    | [] => s
    | c :: rest =>
      match c.done with
      | none => s
      | some (st, detail, orbit) =>
        if !s.memoryUp || s.fenced d || !h.cplEn then s
        else
          let a := h.cplBase + h.cplTail % 2 ^ h.cplLog2 * 32
          let s := (s.store a (completionEntry c h.cplLog2 st detail orbit)).wroteLines a 32
          (s.modHost d fun h => { h with cmds := rest, cplTail := ahead (h.cplTail + 1) 0 }).countDist d 49 1)

end Sys2Proof.Machine
end

