-- ==== Sys2Proof/Machine/Tiles.lean ====
section
/-! DEFINITION. Best-effort tiles: the check at their start, dispatch, stop and OUT copy (11 R330 to R335). -/

namespace Sys2Proof.Machine

/-! ## The check (R332, R333) -/

/-- Instructions of a tile: 32 bytes each from the command's A. -/
def State.tileProg (s : State) (e : Nat) : List Nat := (chunks 32 (ceLen e) (s.bytes (ceA e) (32 * ceLen e))).map leNat

def Hull.inside (win : Nat × Nat) (h : Hull) : Bool := decide ((win.1 : Int) ≤ h.lo) && decide (h.hi ≤ ((win.1 + win.2 : Nat) : Int))

/-- Ranges that a hull list covers lie in the scratch window. -/
def hullsInside (win : Nat × Nat) (hs : List (Option Hull)) : Bool := hs.all fun h => match h with | none => true | some h => h.inside win

/-- A PASS of a tile: its own rules, its shape, its chain and every range. -/
def tilePassOk (g : Image) (w : Nat) (ls : Loops) (win : Nat × Nat) : Bool :=
  let p := passOf w
  let c := (g.chain p.chain).getD 0
  let ops := (chainPro c ++ chainEpi c).map fun o => fld o 0 0 8
  let partner := (chainStreams c).any fun x => bits (fld c (112 + 8 * (x.1 - 1)) 0 64) 52 2 == 1
  [0, 1, 4, 5].contains p.shape && !p.paired && (passFindings g 0 0 w ls (0, 0)).isEmpty && !ops.any ledgerOps.contains && !partner
    && hullsInside win ((chainBases c).map (·.2))
    && (!p.live || !ls.runs || hullsInside win ([actHull p c ls.a, weightHull p ls.w, outHull p c ls.o] ++ chainHulls (·.inside win) p c ls))

/-- Does a device range lie in the scratch window of one of the district's cores? -/
def State.inScratch (s : State) (d a len : Nat) (win : Nat × Nat) : Bool :=
  let n := (a - sramBase) / MiB
  isSram a && s.coreDistrict n == some d && within a len (sramAddr n win.1) win.2

/-- An XFER COPY of a tile: one end in the scratch window, the other in a region, in every iteration. -/
def State.tileCopyOk (s : State) (g : Image) (d w : Nat) (ls : Loops) (win : Nat × Nat) : Bool :=
  let len := xferLen w
  let scratch (a : Nat) (m : Moves) : Bool :=
    everyAddr a m (fun lo hi => s.inScratch d lo (hi - lo + len) win) fun x => s.inScratch d x len win
  let region (a : Nat) (m : Moves) : Bool :=
    everyAddr a m (fun lo hi => !isSram lo && g.regions.any fun r => within lo (hi - lo + len) r.base r.size) fun x => !isSram x && placeOk s g d x len
  let src := fld w 8 0 48
  let dst := fld w 16 0 48
  xferMode w == 0 && !xferEnq w && !xferSrci w && (xferFindings s g 0 d w ls (0, 0)).isEmpty
    && (!ls.runs || (scratch src ls.a && region dst ls.o) || (region src ls.a && scratch dst ls.o))

/-- Instructions with the loops around them: allowed, sound and inside the window. -/
def State.tileProgOk (s : State) (g : Image) (d : Nat) (prog : List Nat) (win : Nat × Nat) : Bool :=
  (prog.getLast?.map fun w => fld w 0 0 8) == some 0x0F && (nested prog 0 []).all fun (_, w, ls, ok) =>
    ok && (wordFindings 0 w).isEmpty && match fld w 0 0 8 with
      | 1 => tilePassOk g w ls win
      | 4 => s.tileCopyOk g d w ls win
      | 6 => true
      | 7 => true
      | 0x0F => true
      | _ => false

/-- IN and OUT ranges (R332). -/
def State.tileRangesOk (s : State) (d e : Nat) (win : Nat × Nat) : Bool :=
  decide (ceInLen e ≤ win.2) && decide (ceOutOff e + ceOutLen e ≤ win.2) && s.inRegions d (ceB e) (ceInLen e) && s.inRegions d (ceC e) (ceOutLen e)

def State.tileSound (s : State) (d e : Nat) : Bool :=
  let win := s.beWindow d
  match s.active d with
  | none => false
  | some g => ceSound e && decide (ceLen e ≤ 64) && win.2 != 0 && s.tileRangesOk d e win && s.tileProgOk g d (s.tileProg e) win

/-- A started TILE is checked: it finishes at once, or waits for a core. -/
def State.cmdTile (s : State) (d i e : Nat) : State :=
  if ceLen e = 0 then
    s.finishCmd d i (if ceSound e && (s.active d).isSome && (s.beWindow d).2 != 0 then .doneEmpty else .refusedInvalid) 0
  else match firstRefusal (!s.hostPlace d (ceA e) (32 * ceLen e)) (!s.tileSound d e) false false with
  | some st => s.finishCmd d i st 0
  | none => s.cmdStage d i 1

def execTile (d : Fin 4) (index : Nat) (s : State) : Host.Outcome State Fault Refusal :=
  .next (match s.cmdAt d index 3 0 with
    | none => s
    | some e => s.cmdTile d index e)

/-! ## Dispatch (R330, R331) -/

/-- Has a core no latency-critical work left in the orbit? -/
def Core.idleLc (c : Core) : Bool := !c.busy && c.lateOrbit.isNone

/-- Is a core free for best-effort work? -/
def State.freeCore (s : State) (n : Nat) : Bool :=
  (upFrom (n / 4 * 4) 4).all (fun m => (s.core m).idleLc) && (s.core n).tile.isNone && !(s.spr.swaps.any fun w => w.quad == n / 4 && w.forced)

/-- The tile at the front of a district's TILE commands, if it has been checked. -/
def State.nextTile (s : State) (d : Nat) : Option Cmd :=
  ((s.district d).host.running.find? fun c => ceOp c.entry == 3 && c.stage != 2).filter fun c => c.stage == 1

/-- Issue the tile at the front to the lowest free core: its IN range is copied into the window, and it starts. `toTick` is
the count of reference cycles to the next orbit tick. -/
def execTileDispatch (d : Fin 4) (toTick : Nat) (s : State) : Host.Outcome State Fault Refusal :=
  .next (
    match s.nextTile d, (s.coresOf d).find? s.freeCore with
    | some c, some n =>
      if s.halted || s.fenced d || toTick < 1024 then s
      else
        let e := c.entry
        let win := s.beWindow d
        let t : Tile := { district := d.val, index := c.index, prog := s.tileProg e, replayed := false, outAddr := ceC e,
                          outOff := win.1 + ceOutOff e, outLen := ceOutLen e,
                          scratch := (sramAddr n win.1, s.bytes (sramAddr n win.1) win.2) }
        let s := s.move (ceB e) (sramAddr n win.1) (ceInLen e)
        let s := (s.modCore n fun x => { x with tile := some t, next := 0, loops := [] }).count (ctrCore n 7) 1
        s.cmdStage d c.index 2
    | _, _ => s)

/-! ## Stop and OUT (R334) -/

/-- Lines that a copy in progress wrote before its tile was stopped: a free value. -/
def State.cutCopy (s : State) (n : Nat) : State :=
  match s.fetchXfer n 0 with
  | none => s
  | some f =>
    let (k, s) := s.draw
    let len := Config.tileLines k % (xferLen f.w / 64 + 1) * 64
    let dst := s.tileAddr n (fld f.w 16 0 48)
    if len = 0 then s else (s.copy f.d (s.tileAddr n (fld f.w 8 0 48)) dst len).wroteLines dst len

/-- A tile reaches 4,096 cycles. -/
def execTileStop (core : Fin 512) (s : State) : Host.Outcome State Fault Refusal :=
  .next (match (s.core core).tile with
    | none => s
    | some t =>
      if s.halted || s.fenced t.district then s
      else
        let d := t.district
        let port := ((List.range 4).find? fun p => bit (s.district d).defn.host p).getD 0
        let s := s.cutCopy core
        let s := (s.modHost d fun h => { h with beStop := true }).notice 0x52 (some d) port t.index
        s.abandonTile d core .refusedSize)

/-- The OUT copy of a tile is written. -/
def execTileOutDone (d : Fin 4) (index : Nat) (s : State) : Host.Outcome State Fault Refusal :=
  .next (
    match (s.district d).host.outs.find? fun x => x.1 == index with
    | none => s
    | some (_, n, dst, bs, replayed) =>
      if s.halted || s.fenced d then s
      else
        let s := s.modHost d fun h => { h with outs := h.outs.filter fun x => x.1 != index }
        let s := if bs.isEmpty then s else (s.write d dst bs).wroteLines dst bs.length
        s.finishCmd d index (if replayed then .doneReplayed else .done) n)

end Sys2Proof.Machine
end

