-- ==== Sys2Proof/Machine/Power.lean ====
section
/-! DEFINITION. Comparators, resets, start-up and power states (15 R406 to R422, R451; 02 R32), the boot ROM's choice (14 R386 to
R388) and the two output pins (15 R421, 16 R429). -/

namespace Sys2Proof.Machine

def State.modPwr (s : State) (f : Power → Power) : State := { s with pwr := f s.pwr }

/-! ## Output pins -/

/-- Are the pins high-impedance (R429)? -/
def State.pinsFloat (s : State) : Bool := !s.pwr.islandOn

/-- HALT_N is driven low (R421, R429, R451). -/
def State.haltLow (s : State) : Bool := s.pwr.islandOn && (s.pwr.heldReset || !s.pwr.padsReleased || s.pwr.halted)

/-- ALERT_N is driven low (R421, R429, R451). -/
def State.alertLow (s : State) : Bool :=
  s.haltLow || (s.pwr.islandOn && (s.pwr.stopped || s.moon.fw == 3 || s.defined.any fun d => s.fenced d))

/-! ## Comparators (R32, R413) -/

/-- A comparator trips: its bit and FIRST are latched, start-up ends, and the module halts. At stage 1 start-up waits (R421). The
island has power in every state (R406), so a bit is latched also where nothing else has power to halt. -/
def State.trip (s : State) (i code : Nat) : State :=
  if !s.pwr.islandOn then s
  else
    let s := s.modPwr fun p => { p with trip := p.trip ||| 2 ^ i, first := if p.trip = 0 then i else p.first }
    if !s.powered then s
    else
      let s := s.modPwr fun p => { p with stopped := true, fail := 2 }
      if s.pwr.stage = 1 then s else s.halt code none 0 (put 16 8 i)

def execLossOfTick (refclk : Bool) (s : State) : Host.Outcome State Fault Refusal :=
  .next (
    if !s.orb.run then s
    else
      let s := s.trip (if refclk then 6 else 5) 0x12
      if refclk then s.stopCounting else s)

def execDieHot (s : State) : Host.Outcome State Fault Refusal := .next (s.trip 0 0x62)
def execDieCrit (s : State) : Host.Outcome State Fault Refusal :=
  .next (if s.powered then (s.trip 1 0x62).modPwr fun p => { p with critPending := true } else s.trip 1 0x62)
def execVinUv (s : State) : Host.Outcome State Fault Refusal := .next (s.trip 2 0x62)
def execVinOv (s : State) : Host.Outcome State Fault Refusal := .next (s.trip 3 0x62)
def execCoolant (s : State) : Host.Outcome State Fault Refusal := .next (s.trip 4 0x62)

/-! ## Resets (R415 to R418, R451) -/

/-- Sparing, pages and ports after a reset: as the soft-repair tables in force have them (R383, R403). -/
def RepairTables.sparing (t : RepairTables) (interval : Nat) : Sparing :=
  { free := t.free, retired := t.retired, qmap := t.qmap, repairs := t.repairs, interval := interval }
def RepairTables.memory (t : RepairTables) (scrubHours : Nat) : MemCtl :=
  let n := t.pages.length + t.worn.length
  { retired := n, freePages := 32768 - n, remaps := t.pages, worn := t.worn, scrubHours := scrubHours }
def RepairTables.ports (t : RepairTables) : Tbl Port := ⟨t.lanes.map fun (p, map, used) => (p, { map := map, spareUsed := used })⟩

/-- Moon after a reset: fuses, flash, and what the flash holds (R383, R396, R405). -/
def Moon.kept (m : Moon) : Moon :=
  { lifecycle := m.lifecycle, boot := m.boot, minSvn := m.minSvn, serial := m.serial, owner := m.flash.keys.inForce.content.owner
    cfg := m.flash.config.inForce.content.cfg, flash := m.flash, log := m.log, nextSeq := m.nextSeq }

/-- District `d` after a reset: as District.whole or undefined, with its registered key (R308, R405). -/
def State.keptDistrict (s : State) (d : Nat) : District :=
  let x : District := if d = 0 then District.whole else {}
  match lookupKey d s.moon.flash.keys.inForce.content.keys with
  | none => x
  | some (id, key) => { x with img := { keyed := true, keyId := id, key := key } }

/-- Everything that a reset clears, cleared (R417); `warm` keeps module memory, in self-refresh. Fuses, flash and what its copies in
force hold stay (R383, R403). -/
def State.wiped (s : State) (warm : Bool) : State :=
  let tables := s.moon.flash.tables.inForce.content
  let config := s.moon.flash.config.inForce.content
  { pending := s.pending, free := s.free, out := s.out, clk := s.clk
    mem := if warm then s.mem.filter fun c => !isSram c.1 else []
    pwr := { trip := s.pwr.trip, first := s.pwr.first, coolMax := s.pwr.coolMax, resetLast := s.pwr.resetLast, memKept := s.pwr.memKept
             islandOn := s.pwr.islandOn, padsReleased := s.pwr.padsReleased }
    spr := tables.sparing config.interval
    memc := { tables.memory config.scrubHours with selfRefresh := warm }
    dist := ⟨allDistricts.map fun d => (d, s.keptDistrict d)⟩
    ports := tables.ports
    hosts := config.hosts
    moon := s.moon.kept
    jtag := { held := s.jtag.held } }

/-- A reset: it cuts off flash updates in progress (R384), and memory that it keeps keeps its address tags (R219, R308). -/
def State.cleared (s : State) (warm : Bool) : State :=
  let s := s.cutFlash
  let t := s.wiped warm
  if warm then { t with tags := s.tagsUnder t } else t

/-- A cold reset begins; after a power-off LAST names its cause (R451). -/
def State.coldReset (s : State) (last : Nat) : State :=
  let cause := if s.pwr.offCause = 0 then last else s.pwr.offCause
  (s.cleared false).modPwr fun p => { p with resetLast := cause }

/-- Every rail but the island's own is off, and the module is held in cold reset (R415, R451). -/
def State.powerOff (s : State) (cause : Nat) : State :=
  (s.cleared false).modPwr fun p => { p with railsOn := false, heldReset := true, offCause := cause, memKept := false, padsReleased := false }

def execDieCritPowerOff (s : State) : Host.Outcome State Fault Refusal := .next (if s.pwr.critPending then s.powerOff 3 else s)

def execInputBelow36v (s : State) : Host.Outcome State Fault Refusal := .next (if s.pwr.islandOn then s.powerOff 4 else s)

def execInputRise39v (s : State) : Host.Outcome State Fault Refusal :=
  .next (if s.pwr.islandOn && s.pwr.heldReset then s.coldReset 0 else s)

/-- PORST_N was low for `ns` nanoseconds. Between 400 ns and 1 µs the pulse resets or is ignored: a free value. While the input
holds the module in reset the pulse ends nothing (R415). -/
def execPorstN (ns : Nat) (s : State) : Host.Outcome State Fault Refusal :=
  .next (
    let held := s.pwr.heldReset && s.pwr.offCause != 3
    if !s.pwr.islandOn || held || ns < 400 then s
    else if 1000 ≤ ns then s.coldReset 1
    else
      let (k, s) := s.draw
      if Config.porstResets k then s.coldReset 1 else s)

def execJtagTrstN (low : Bool) (s : State) : Host.Outcome State Fault Refusal :=
  .next { s with jtag := { state := .reset, held := low } }

/-- The warm reset asked for under R418 begins. -/
def execWarmResetBegin (s : State) : Host.Outcome State Fault Refusal :=
  .next (if s.pwr.warmPending && s.powered then (s.cleared true).modPwr fun p => { p with resetLast := 2 } else s)

/-- The island starts from the input: its registers are clear, and it holds the module in reset (R412, R429, R451). -/
def execIslandPowerUp (s : State) : Host.Outcome State Fault Refusal :=
  .next (
    if s.pwr.islandOn then s
    else
      let s : State := { s with clk := { s.clk with ns := 0, frac := 0 } }
      (s.cleared false).modPwr fun p =>
        { p with trip := 0, first := 0, coolMax := 60, resetLast := 0, memKept := false, islandOn := true, railsOn := false, heldReset := true, padsReleased := false })

def execIslandPowerLoss (s : State) : Host.Outcome State Fault Refusal :=
  .next (
    if s.pwr.islandOn then
      (s.cleared false).modPwr fun p => { p with islandOn := false, railsOn := false, memKept := false, padsReleased := false, resetLast := 0, trip := 0, first := 0 }
    else s)

/-! ## The boot ROM (R386 to R388) -/

def fwBody (img : List Byte) : List Byte := (img.drop 4096).take (fwLen img)

/-- A well-formed header whose signature verifies under a key of the ROM's that is not revoked. -/
def fwHeaderOk (img : List Byte) : Bool :=
  let h := leNat (img.take 4096)
  let k := fld h 10 0 2
  decide (4096 ≤ img.length) && fld h 0 0 32 == 0x4E4F4F4D && fld h 10 2 6 == 0 && fld h 11 0 40 == 0 && fld h 164 0 31456 == 0
    && decide (fwSvn img ≤ 63) && decide (1 ≤ fwLen img) && decide (fwLen img ≤ 1572864)
    && sha384 (Config.firmwareKey k) == Config.romKeyHash k && !Config.firmwareKeyRevoked k
    && ecdsaVerify (Config.firmwareKey k) (sha384 (img.take 68)) (beNat ((img.drop 68).take 48)) (beNat ((img.drop 116).take 48))

/-- An image that the ROM accepts (R387). -/
def fwAccepted (minSvn : Nat) (img : List Byte) : Bool :=
  fwHeaderOk img && decide ((fwBody img).length = fwLen img) && sha384 (fwBody img) == fwDigest img && decide (minSvn ≤ fwSvn img)

/-- BOOTSEL that the ROM obeys (R388, R419). -/
def Power.bootChoice (p : Power) : Nat := if p.stable then p.bootsel else 1
def Power.strapSample (p : Power) : Nat := put 24 12 p.pstrap + put 36 2 p.bootsel

/-- The ROM boots: the flash image, or recovery. -/
def State.bootRom (s : State) : State :=
  let s := { s with moon := { s.moon with boot := (s.moon.boot + 1) % 2 ^ 32 } }
  let s := if 2 ≤ s.pwr.bootChoice then s.notice 0x6A none 0 s.pwr.strapSample else s
  if s.pwr.bootChoice ≠ 1 && fwAccepted s.moon.minSvn s.moon.flash.image then s.runFirmware 1 s.moon.flash.image
  else { s with moon := { s.moon with fw := 3, running := false } }

/-! ## Start-up (R419 to R421) -/

/-- Sampling of the straps in sets of 8: the first set whose samples agree, or once 17 sets disagree the last sample; answers whether
it is stable. With fewer sets sampling goes on. -/
def sampleStraps (sets : List (List Nat)) : Option (Nat × Bool) :=
  let sets := (sets.filter fun l => l.length == 8).take 17
  match sets.find? fun l => l.all (· == l.headD 0) with
  | some l => some (l.headD 0, true)
  | none => if sets.length < 17 then none else (sets.getLast?.bind (·.getLast?)).map (·, false)

/-- End of stage 2. -/
def State.takeStraps (s : State) (sets : List (List Nat)) : State :=
  match sampleStraps sets with
  | none => s
  | some (v, ok) =>
    let s := s.modPwr fun p => { p with pstrap := bits v 0 12, bootsel := bits v 12 2, stable := ok, stage := 3 }
    if ok then s else s.notice 0x69 none 0 s.pwr.strapSample

/-- Entering RMA erases the key and the configuration partition (R398, R405). -/
def State.eraseKeys (s : State) : State :=
  let s := s.each allDistricts fun d t => t.modImg d fun g => { g with keyed := false, keyId := 0, key := [] }
  { s with moon := { s.moon with owner := [], cfg := {}, flash := { s.moon.flash with keys := FlashPair.new {}, config := FlashPair.new {} } }
           memc := { s.memc with scrubHours := 4 }, spr := { s.spr with interval := 1000 }, hosts := Tbl.empty }

/-- The ROM reads the lifecycle in the fuses, which moves only forward (R396; log entry 121). -/
def State.readFuses (s : State) (lifecycle : Nat) : State :=
  let next := max s.moon.lifecycle (min lifecycle 2)
  let s' : State := { s with moon := { s.moon with lifecycle := next } }
  if next = 2 && s.moon.lifecycle ≠ 2 then s'.eraseKeys else s'

/-- End of stage 3: the ROM boots once, and start-up goes on when firmware runs; else it stops until one is accepted (R389). -/
def State.endBoot (s : State) (lifecycle : Nat) : State :=
  let s := if s.moon.fw = 0 then (s.readFuses lifecycle).bootRom else s
  if s.moon.running then s.modPwr fun p => { p with stage := 4, stopped := false }
  else s.modPwr fun p => { p with stopped := true, fail := 3 }

/-- End of stage 4: all 96 channels are trained, or start-up stops. A cold training writes to memory, which ends MEM_KEPT. -/
def State.endMemory (s : State) (trained : Nat) : State :=
  let warm := s.pwr.resetLast = 2
  if 96 ≤ trained then
    { s with memc := { s.memc with trained := true, channels := 96, selfRefresh := false }
             pwr := { s.pwr with stage := 5, memKept := s.pwr.memKept && warm } }
  else { s with memc := { s.memc with channels := trained }, pwr := { s.pwr with stopped := true, fail := 4 } }

def execStartupStageEnd (e : StageEnd) (s : State) : Host.Outcome State Fault Refusal :=
  .next (
    if !s.powered || s.halted then s
    else match s.pwr.stage with
    | 1 =>
      if e.clear then s.modPwr fun p => { p with stage := 2, stopped := false, padsReleased := true }
      else s.modPwr fun p => { p with stopped := true, fail := 2 }
    | 2 => s.takeStraps e.samples
    | 3 => s.endBoot e.lifecycle
    | 4 => if s.pwr.stopped then s else s.endMemory e.trained
    | 5 => s.modPwr fun p => { p with stage := 6 }
    | 6 => s.modPwr fun p => { p with stage := 7, ms := e.ms % 2 ^ 32 }
    | _ => s)

/-- A rail is not good within 5 ms: the rails go off. -/
def execRailGoodTimeout (rail : Nat) (s : State) : Host.Outcome State Fault Refusal :=
  .next (
    if !s.powered || s.pwr.stage ≠ 1 then s
    else
      let s : State := { s with mem := [], tags := [] }
      s.modPwr fun p => { p with railsOn := false, stopped := true, fail := 1, rail := rail % 256, memKept := false })

/-- One retry of the rails, 1 s later. -/
def execRailRetry (s : State) : Host.Outcome State Fault Refusal :=
  .next (
    if s.pwr.islandOn && !s.pwr.heldReset && !s.pwr.railsOn && s.pwr.stage = 1 && s.pwr.fail = 1 && !s.pwr.railRetried then
      s.modPwr fun p => { p with railsOn := true, railRetried := true, stopped := false }
    else s)

/-! ## Power states (R406 to R411) -/

/-- DROWSE: memory is in self-refresh, and the cores, powered off, lose their SRAM (log entry 52). -/
def State.enterDrowse (s : State) : State :=
  let s := s.setMem (s.mem.filter fun c => !isSram c.1)
  let s := { s with cores := s.cores.map fun _ c => { c with groups := 0, resident := none } }
  { s with pwr := { s.pwr with state := .drowse, changing := false, memKept := true }, memc := { s.memc with selfRefresh := true } }

/-- RUN again: memory leaves self-refresh, and each trained port sends its card. -/
def State.leaveDrowse (s : State) : State :=
  let s := { s with pwr := { s.pwr with state := .run, changing := false }, memc := { s.memc with selfRefresh := s.halted } }
  s.each ((List.range 24).filter fun p => (s.port p).state == 5 || (s.port p).state == 7) fun p t => t.sendCard p

/-- SLEEP: every rail but the island's is off, and counting stops (R58). -/
def State.enterSleep (s : State) : State :=
  (s.cleared false).modPwr fun p => { p with state := .sleep, target := .sleep, railsOn := false, memKept := false, resetLast := 0 }

def execPowerStateReached (s : State) : Host.Outcome State Fault Refusal :=
  .next (
    if !s.powered || !s.pwr.changing then s
    else match s.pwr.target with
    | .drowse => s.enterDrowse
    | .sleep => s.enterSleep
    | _ => s.leaveDrowse)

/-- A port whose lanes do not lock within 1 ms of leaving DROWSE enters RETRAIN. -/
def execLaneLockTimeout (port : Fin 24) (s : State) : Host.Outcome State Fault Refusal :=
  .next (
    let x := s.port port
    if !s.powered || s.halted || s.pwr.state == .drowse || !(x.state == 5 || x.state == 7) then s else s.enterRetrain port 0)

end Sys2Proof.Machine
end

