-- ==== Sys2Proof/Machine/Moon.lean ====
section
/-! DEFINITION. Moon: restarts, limits, and the commands of the management interface (14 R381, R382, R391, R397, R399 to R405). -/

namespace Sys2Proof.Machine

def State.modMoon (s : State) (f : Moon → Moon) : State := { s with moon := f s.moon }

/-! ## Restarts (R381, R382, R391) -/

/-- Moon restarts from the ROM: sessions, updates and lane swaps in progress end; everything else carries on. The ROM derives the
secrets anew, so UDS is open to it until firmware runs (R392; log entry 120). -/
def State.restartMoon (s : State) : State :=
  let s := s.modMoon fun m =>
    { m with fw := 0, running := false, restarts := (m.restarts + 1) % 2 ^ 16, sessions := [], spdm := 0, update := none, nonce := none, ramImage := []
             udsLocked := false, cdi := [] }
  s.cutFlash.each ((List.range 24).filter fun p => (s.port p).swapTx.isSome || (s.port p).swapRx.isSome) fun p t =>
    (t.modPort p fun x => { x with swapTx := none, swapRx := none }).portNotice p 0x48 0

/-- A watchdog expiry or an uncorrectable error of Moon's memory restarts Moon; `second` within 10 minutes it halts the module. A
single-bit error is corrected, written back and logged. -/
def execMoonWatchdogExpiry (why : MoonError) (second : Bool) (s : State) : Host.Outcome State Fault Refusal :=
  .next (
    if !s.powered then s
    else if why = .corrected then s.notice 0x68 none 0 0
    else if why = .watchdog && !s.moon.running then s
    else (if second then s.halt 0x64 none 0 0 else s.notice 0x64 none 0 0).restartMoon)

/-- The ROM has booted again after a restart. -/
def execMoonRestartDone (s : State) : Host.Outcome State Fault Refusal :=
  .next (if s.powered && s.moon.fw = 0 && 4 ≤ s.pwr.stage then s.bootRom else s)

/-- The boot has run for 10 minutes. -/
def execSvnBurn (s : State) : Host.Outcome State Fault Refusal :=
  .next (if s.moon.running then s.modMoon fun m => { m with minSvn := max m.minSvn m.svn } else s)

/-! ## Limits (R402) -/

/-- One check of power and temperature; 0x63 names cause THROTTLE of R49. -/
def execPowerLimitCheck (x : Readings) (s : State) : Host.Outcome State Fault Refusal :=
  .next (
    if !s.powered then s
    else
      let c := s.moon.cfg
      let overs := c.limitW < x.power || c.throttle < x.die
      let room := x.power + 25 ≤ c.limitW && x.die + 3 ≤ c.throttle
      let since := s.moon.sinceDown + 1
      let calm := if room then s.moon.calm + 1 else 0
      let down := overs && (1150 ≤ x.power1s || 10 ≤ since) && 350 < s.moon.coreMhz
      let s := s.modMoon fun m =>
        { m with power := x.power, dieMax := x.die, inlet := x.inlet, outlet := x.outlet, calm := min calm 10, sinceDown := if down then 0 else min since 10
                 coreMhz := if down then max 350 (m.coreMhz - 7) else if 10 ≤ calm then min 700 (m.coreMhz + 7) else m.coreMhz }
      if down then s.notice 0x63 none 0 (put 16 8 6) else s)

/-! ## Requests (R399, R400) -/

def State.reply (s : State) (q : MReq) (st : Status) (data : List Byte) : State := s.emit (.moon q.via st data)

/-- Does an established session whose requester chains to the owner root carry the request? -/
def State.ownerSession (s : State) (q : MReq) : Bool :=
  match q.session with
  | none => false
  | some i => s.moon.sessions.any fun x => x.id == i && x.established && x.owner

/-- Does a message reach Moon over a transport (R399): I3C, a UDP datagram to port 49,500 of a configured address, an MGMT frame
of a port that carries them? -/
def State.hears (s : State) (via : Transport) : Bool :=
  match via with
  | .i3c => true
  | .ethernet addr udp => udp == 49500 && addr != 0 && (addr == s.moon.cfg.ipv4 || addr == s.moon.cfg.ipv6)
  | .link p => decide (5 ≤ (s.port p).state) && decide ((s.port p).state ≤ 7)

/-- Vendor identifier of the vendor-defined type (R399). -/
def vendorId : Nat := 0x48545258

/-- Does running firmware take a vendor-defined message? -/
def State.takesVendor (s : State) (q : MReq) : Bool := s.moon.running && s.hears q.via && q.vendor == vendorId

/-- A vendor command: no answer while no firmware runs, refused without the owner's session, or when R400 does not list its code; else
its effect and answer. -/
def State.vendor (s : State) (q : MReq) (f : State → State × Status × List Byte) : State :=
  if !s.takesVendor q then s
  else if !s.ownerSession q then s.reply q .refusedAccess []
  else if q.unlisted then s.reply q .refusedInvalid []
  else let (t, st, data) := f s; t.reply q st data

/-- Does the boot ROM answer over I3C (R389, R420)? -/
def State.romAnswers (s : State) (via : Transport) : Bool := s.powered && !s.moon.running && via = .i3c && (s.moon.fw == 3 || s.pwr.stage == 3)

/-- GET_STATUS: the MOON registers, which hold lifecycle and serial; before firmware runs the ROM answers. -/
def execGetStatus (q : MReq) (s : State) : Host.Outcome State Fault Refusal :=
  .next (
    if q.unlisted then s.vendor q fun s => (s, .refusedInvalid, [])
    else if s.takesVendor q || (s.romAnswers q.via && q.vendor == vendorId) then s.reply q .done ((List.range 6).flatMap fun i => leBytes 8 (s.moonRead (8 * i)))
    else s)

def execOwnerSet (q : MReq) (root : List Byte) (s : State) : Host.Outcome State Fault Refusal :=
  .next (
    if !s.takesVendor q then s
    else if q.unlisted then s.vendor q fun s => (s, .refusedInvalid, [])
    else if q.via ≠ .i3c || !s.moon.owner.isEmpty then s.reply q .refusedAccess []
    else if root.isEmpty then s.reply q .refusedInvalid []
    else ((s.modMoon fun m => { m with owner := root }).saveKeys).reply q .done [])

/-! ## Districts (R308, R309) -/

def defnOf (x : DistrictDef) : Defn := if x.valid then ⟨true, x.quads, x.tensor, x.host, x.baseGib, x.sizeGib⟩ else {}

/-- Do two definitions share a resource? -/
def Defn.shares (a b : Defn) : Bool :=
  a.valid && b.valid && (a.quads &&& b.quads != 0 || a.tensor &&& b.tensor != 0 || a.host &&& b.host != 0 || overlaps a.baseGib a.sizeGib b.baseGib b.sizeGib)

/-- Is a definition set one that R309 accepts in itself? -/
def defsOk (ds : List DistrictDef) : Bool :=
  ds.length == 4
    && (ds.all fun x => !x.valid || (x.quads != 0 && decide (x.quads < 2 ^ 128) && decide (x.tensor < 2 ^ 24) && x.host != 0 && decide (x.host < 16)
        && decide (x.baseGib + x.sizeGib ≤ 736) && x.tag != 0 && decide (x.tag < 2 ^ 22)))
    && ds.zipIdx.all fun (x, i) => (ds.drop (i + 1)).all fun y => !(defnOf x).shares (defnOf y)

/-- A district that an image, a load or a commit holds. -/
def State.districtBusy (s : State) (d : Nat) : Bool := (s.active d).isSome || (s.district d).img.shadow == 1 || (s.district d).img.commit != 0

def State.windowTag (s : State) (d : Nat) : Nat := match lookupKey (256 * d) s.windows.entries with | none => 0 | some w => w.tag

/-- Does a definition change the district? -/
def State.touches (s : State) (d : Nat) (x : DistrictDef) : Bool :=
  decide ((s.district d).defn ≠ defnOf x) || (x.valid && s.windowTag d != x.tag)

/-- Apply one district's definition: window 0 takes its tag, and the other windows close (log entry 53). -/
def State.define (s : State) (d : Nat) (x : DistrictDef) : State :=
  if !s.touches d x then s
  else
    let ws := s.windows.entries.filter fun w => w.1 / 256 != d
    let s := s.modDist d fun y => { y with defn := defnOf x }
    if x.valid then { s with windows := (⟨ws⟩ : Tbl Window).set (256 * d) ⟨x.tag, 0, 0, true, true⟩ } else { s with windows := ⟨ws⟩ }

/-- Apply a definition set; memory keeps the address tags it was written with (R219). -/
def State.defineAll (s : State) (ds : List DistrictDef) : State :=
  let t := s.each ds.zipIdx fun (x, d) t => t.define d x
  { t with tags := s.tagsUnder t }

def execDistrictSet (q : MReq) (defs : List DistrictDef) (s : State) : Host.Outcome State Fault Refusal :=
  .next (s.vendor q fun s =>
    if !defsOk defs then (s, .refusedInvalid, [])
    else if defs.zipIdx.any fun (x, d) => s.touches d x && s.districtBusy d then (s, .refusedBusy, [])
    else (s.defineAll defs, .done, []))

/-- The definitions of reset: district 0 holds everything. -/
def resetDefs (tag : Nat) : List DistrictDef :=
  ⟨true, District.whole.defn.quads, District.whole.defn.tensor, District.whole.defn.host, 0, 736, tag⟩ :: List.replicate 3 ⟨false, 0, 0, 0, 0, 0, 0⟩

def execOwnerClear (q : MReq) (s : State) : Host.Outcome State Fault Refusal :=
  .next (s.vendor q fun s =>
    if s.defined.any fun d => (s.active d).isSome then (s, .refusedBusy, [])
    else
      let s := s.modMoon fun m => { m with owner := [], sessions := m.sessions.map fun x => { x with owner := false } }
      let s := s.each allDistricts fun d t => t.modImg d fun g => { g with keyed := false, keyId := 0, key := [] }
      ((s.defineAll (resetDefs 1)).saveKeys, .done, []))

def execDistrictReset (q : MReq) (d : Fin 4) (s : State) : Host.Outcome State Fault Refusal :=
  .next (s.vendor q fun s => let (st, t) := s.districtReset d; (t, st, []))

/-! ## Keys (R401, R405) -/

/-- Change a district's key, unless a load or a commit holds it; a loaded image is dropped. -/
def State.changeKey (s : State) (d : Nat) (f : ImgDist → ImgDist) : State × Status × List Byte :=
  let g := (s.district d).img
  if g.shadow = 1 || g.commit ≠ 0 then (s, .refusedBusy, [])
  else ((s.modImg d fun g => let g := f g; if g.shadow = 2 then { g with shadow := 0, loaded := none } else g).saveKeys, .done, [])

def execKeyRegister (q : MReq) (d : Fin 4) (key : List Byte) (keyid : W32) (s : State) : Host.Outcome State Fault Refusal :=
  .next (s.vendor q fun s =>
    if (bpPoint key).isNone || keyid = 0 then (s, .refusedInvalid, [])
    else s.changeKey d fun g => { g with keyed := true, keyId := keyid.toNat, key := key })

def execKeyRevoke (q : MReq) (d : Fin 4) (s : State) : Host.Outcome State Fault Refusal :=
  .next (s.vendor q fun s => s.changeKey d fun g => { g with keyed := false, keyId := 0, key := [] })

/-! ## CSRs, log, counters, cards (R380, R385, R400, R404) -/

def execMoonCsrRead (q : MReq) (d : Fin 4) (addr : Nat) (s : State) : Host.Outcome State Fault Refusal :=
  .next (s.vendor q fun s => let (st, v) := s.csrRead true d addr; (s, st, leBytes 8 v))

def execMoonCsrWrite (q : MReq) (d : Fin 4) (addr : Nat) (v : W64) (s : State) : Host.Outcome State Fault Refusal :=
  .next (s.vendor q fun s => let (st, t) := s.csrWrite true d addr v.toNat; (t, st, []))

/-- A record of the persistent log (R385). -/
def logRecord (x : Nat × Nat × Nat) : List Byte :=
  let body := leBytes 8 x.1 ++ leBytes 32 x.2.1 ++ leBytes 4 x.2.2 ++ leBytes 16 0
  body ++ leBytes 4 (crc32 body)

def execLogRead (q : MReq) (seq count : Nat) (s : State) : Host.Outcome State Fault Refusal :=
  .next (s.vendor q fun s =>
    let recs := (s.moon.log.filter fun x => seq ≤ x.1).take count
    if 64 < count then (s, .refusedSize, [])
    else if recs.isEmpty || s.moon.log.all (fun x => decide (seq < x.1)) then (s, .doneEmpty, [])
    else (s, .done, recs.flatMap logRecord))

/-- Shadows from the offset `first` of the SNP block up. -/
def execSnpRead (q : MReq) (d : Fin 4) (first count : Nat) (s : State) : Host.Outcome State Fault Refusal :=
  .next (s.vendor q fun s =>
    if first % 8 ≠ 0 || first < 0x10000 || 0x100000 < first + 8 * count then (s, .refusedInvalid, [])
    else if 512 < count then (s, .refusedSize, [])
    else if count = 0 then (s, .doneEmpty, [])
    else (s, .done, (List.range count).flatMap fun i => leBytes 8 (s.snpRead d (first + 8 * i))))

def execCardGet (q : MReq) (s : State) : Host.Outcome State Fault Refusal :=
  .next (s.vendor q fun s =>
    (s, .done, (s.moon.cards.filter fun k => (s.port k.port).state == 7).flatMap KeptCards.bytes))

def execCardRecheck (q : MReq) (port : Fin 24) (s : State) : Host.Outcome State Fault Refusal :=
  .next (s.vendor q fun s =>
    if (s.port port).state ≠ 7 then (s, .refusedInvalid, []) else (s.sendCard port, .done, []))

/-! ## Configuration (R314, R400, R402, R403) -/

def configOk : ConfigItem → Bool
  | .limitW w => decide (300 ≤ w) && decide (w ≤ 1150)
  | .throttleC c => decide (85 ≤ c) && decide (c ≤ 100)
  | .address _ v4 _ v6 mac => decide (v4 < 2 ^ 32) && decide (v6 < 2 ^ 128) && decide (mac < 2 ^ 48)
  | .qos _ w => decide (w < 2 ^ 24) && decide (((List.range 8).filter (bit w)).length ≤ 2)
  | .network v4 v6 => decide (v4 < 2 ^ 32) && decide (v6 < 2 ^ 128)
  | .scrubHours h => decide (1 ≤ h) && decide (h ≤ 255)
  | .interval n => decide (n < 2 ^ 16)
  | .swapThreshold x => decide (x < 0x7F800000)

def State.configure (s : State) (i : ConfigItem) : State :=
  match i with
  | .limitW w => s.modMoon fun m => { m with cfg := { m.cfg with limitW := w } }
  | .throttleC c => s.modMoon fun m => { m with cfg := { m.cfg with throttle := c } }
  | .address p v4 ok v6 mac => s.modHostPort p fun x => HostPort.takeAddress { x with newAddr := some (v4, ok, v6, mac) }
  | .qos p w => s.modHostPort p fun x =>
    { x with pfcEn := bits w 0 8, rocePrio := bits w 8 3, roceDscp := bits w 11 6, cnpDscp := bits w 17 6, ecnEn := bit w 23 }
  | .network v4 v6 => s.modMoon fun m => { m with cfg := { m.cfg with ipv4 := v4, ipv6 := v6 } }
  | .scrubHours h => { s with memc := { s.memc with scrubHours := h } }
  | .interval n => { s with spr := { s.spr with interval := n } }
  | .swapThreshold x => s.modMoon fun m => { m with cfg := { m.cfg with threshold := x } }

def execConfigSet (q : MReq) (items : List ConfigItem) (s : State) : Host.Outcome State Fault Refusal :=
  .next (s.vendor q fun s =>
    if items.any fun i => !configOk i then (s, .refusedInvalid, [])
    else if items.isEmpty then (s, .doneEmpty, [])
    else ((s.each items fun i t => t.configure i).saveConfig, .done, []))

/-! ## Debug (R396, R397) -/

/-- A token unlocks debug until the next module reset and restarts Moon. A refused request's answer carries the nonce that Moon
issues for the next one (log entry 53). -/
def execDebugUnlock (q : MReq) (serial nonce sigR sigS : Nat) (s : State) : Host.Outcome State Fault Refusal :=
  .next (s.vendor q fun s =>
    let sound := s.moon.nonce == some nonce && serial == s.moon.serial && ecdsaVerify Config.debugKey (Config.debugDigest serial nonce) sigR sigS
    if !sound then
      let (k, s) := s.draw
      let fresh := Config.freeValue k
      (s.modMoon fun m => { m with nonce := some fresh }, .refusedAccess, leBytes 48 fresh)
    else if s.defined.any s.districtBusy then (s, .refusedBusy, [])
    else ((s.modMoon fun m => { m with unlocked := true }).restartMoon, .done, []))

end Sys2Proof.Machine
end

