-- ==== Sys2Proof/Machine/Spdm.lean ====
section
/-! DEFINITION. SPDM and PLDM requests, MCTP control and the test access port (14 R389, R390, R392 to R396, R399; 16 R435). Codes
of the DMTF standards and the states of IEEE 1149.1 are taken from those standards (log entry 54). -/

namespace Sys2Proof.Machine

/-! ## SPDM (R393 to R395) -/

/-- SPDM and PLDM run on the two management transports (R389, R393). -/
def onManagement : Transport → Bool
  | .i3c => true
  | .ethernet _ _ => true
  | .link _ => false

def State.spdmAnswer (s : State) (via : Transport) (code : Nat) (data : List Byte) : State := s.emit (.spdm via code true data)
/-- An ERROR response with its error code. -/
def State.spdmError (s : State) (via : Transport) (err : Nat) : State := s.emit (.spdm via 0x7F false (leBytes 1 err))

/-- A request that needs the negotiation to stand at `level`; none is answered while no firmware runs. -/
def State.spdmAt (s : State) (via : Transport) (level : Nat) (f : State → State) : State :=
  if !s.moon.running || !onManagement via || !s.hears via then s
  else if s.moon.spdm < level then s.spdmError via 0x04
  else f s

def execGetVersion (via : Transport) (s : State) : Host.Outcome State Fault Refusal :=
  .next (s.spdmAt via 0 fun s => (s.modMoon fun m => { m with spdm := 1 }).spdmAnswer via 0x04 (leBytes 2 0x1300))

/-- What Moon supports, and the one algorithm of each kind (R393). -/
def moonCapabilities : List SpdmCapability :=
  [.certificate, .challenge, .signedMeasurement, .keyExchange, .keyUpdate, .heartbeat, .encrypt, .authenticate]
def moonAlgorithms : List SpdmAlgorithm := [.ecdsaBrainpoolP384r1, .sha384, .ecdheBrainpoolP384r1, .aes256Gcm]

def execGetCapabilities (via : Transport) (s : State) : Host.Outcome State Fault Refusal :=
  .next (s.spdmAt via 1 fun s => (s.modMoon fun m => { m with spdm := 2 }).emit (.spdmCapabilities via moonCapabilities))

/-- `supported` says that the request offers the algorithms of R393. -/
def execNegotiateAlgorithms (via : Transport) (supported : Bool) (s : State) : Host.Outcome State Fault Refusal :=
  .next (s.spdmAt via 2 fun s =>
    if !supported then s.spdmError via 0x01 else (s.modMoon fun m => { m with spdm := 3 }).emit (.spdmAlgorithms via moonAlgorithms))

/-! ## Layers (R392, R394; log entry 120) -/

/-- Private scalar of a layer: its label is the layer's name in ASCII. -/
def layerScalar (cdi : List Byte) (label : String) : Nat :=
  beNat (hmac384 cdi (label.toList.map fun c => BitVec.ofNat 8 c.toNat)) % (bpN - 1) + 1

/-- Public key of a scalar, an uncompressed point. -/
def publicKey (k : Nat) : List Byte :=
  match bpMul 384 k (some (bpGx, bpGy)) with
  | none => []
  | some (x, y) => 0x04#8 :: (beBytes 48 x ++ beBytes 48 y)

/-- CDI_d of a district: it changes with the active configuration's IMG_HASH. -/
def State.districtCdi (s : State) (d : Nat) : List Byte := hmac384 s.moon.cdi (leBytes 1 d ++ (s.district d).img.hash)

/-- Private scalar of a slot's last layer: FirmwareAlias in slot 0, DistrictAlias d in slot 1 + d. -/
def State.slotScalar (s : State) (slot : Nat) : Nat :=
  if slot = 0 then layerScalar s.moon.cdi "FirmwareAlias" else layerScalar (s.districtCdi (slot - 1)) "DistrictAlias"

/-- Does a certificate slot hold a chain (R394)? In MANUFACTURE DeviceID is not certified yet, and in RMA there is none (R396). -/
def State.slotFilled (s : State) (slot : Nat) : Bool :=
  s.moon.lifecycle == 1 && (slot == 0 || (decide (slot ≤ 4) && (s.active (slot - 1)).isSome))

/-- What a slot's last certificate certifies (R392): digest, SVN, lifecycle and debug state, or a district and its IMG_HASH. -/
def State.identity (s : State) (slot : Nat) : List Byte :=
  if slot = 0 then s.moon.digest ++ leBytes 2 s.moon.svn ++ leBytes 1 (s.moon.lifecycle + 4 * boolBit s.moon.unlocked)
  else leBytes 1 (slot - 1) ++ (s.district (slot - 1)).img.hash

/-- Slot 0 holds the chain up to the FirmwareAlias certificate, which the DeviceID key signed; slot 1 + d that chain and the
certificate of DistrictAlias d, which the FirmwareAlias key signed (R392, R394). -/
def State.chainOf (s : State) (slot : Nat) : List Byte :=
  let device := layerScalar (hmac384 Config.uds Config.romHash) "DeviceID"
  let base := Config.deviceChain ++ Config.certificate device (publicKey (s.slotScalar 0)) (s.identity 0)
  if slot = 0 then base else base ++ Config.certificate (s.slotScalar 0) (publicKey (s.slotScalar slot)) (s.identity slot)

def execGetDigests (via : Transport) (s : State) : Host.Outcome State Fault Refusal :=
  .next (s.spdmAt via 3 fun s =>
    let slots := (List.range 5).filter s.slotFilled
    if slots.isEmpty then s.spdmError via 0x05
    else s.spdmAnswer via 0x01 (leBytes 1 (sumOf slots (2 ^ ·)) ++ slots.flatMap fun i => sha384 (s.chainOf i)))

def execGetCertificate (via : Transport) (slot offset len : Nat) (s : State) : Host.Outcome State Fault Refusal :=
  .next (s.spdmAt via 3 fun s =>
    if !s.slotFilled slot || (s.chainOf slot).length ≤ offset then s.spdmError via 0x01
    else s.spdmAnswer via 0x02 (((s.chainOf slot).drop offset).take len))

/-- An answer that the key of a slot signs: the responder's nonce and the signature's own are free values. -/
def State.signed (s : State) (via : Transport) (slot code : Nat) (data : List Byte) : State :=
  let (k, s) := s.draw
  let (j, s) := s.draw
  let body := data ++ leBytes 32 (Config.freeValue k)
  s.spdmAnswer via code (body ++ Config.signature (s.slotScalar slot) body j)

def execChallenge (via : Transport) (slot nonce : Nat) (s : State) : Host.Outcome State Fault Refusal :=
  .next (s.spdmAt via 3 fun s =>
    if !s.slotFilled slot then s.spdmError via 0x01
    else s.signed via slot 0x03 (leBytes 1 slot ++ sha384 (s.chainOf slot) ++ leBytes 32 nonce))

/-- The measurement blocks of R395. -/
def State.measurements (s : State) : List (Nat × List Byte) :=
  let m := s.moon
  let hash (d : Nat) : List Byte := if (s.active d).isSome then (s.district d).img.hash else List.replicate 48 0#8
  let table := m.flash.tables.inForce
  [(1, Config.romHash), (2, m.digest), (3, leBytes 4 m.version ++ leBytes 2 m.svn ++ leBytes 2 m.minSvn),
    (4, leBytes 1 m.lifecycle ++ leBytes 1 (boolBit m.unlocked)), (5, sha384 (Config.repairBytes table.content ++ leBytes 4 table.seq))]
    ++ allDistricts.map (fun d => (16 + d, hash d)) ++ allDistricts.map (fun d => (20 + d, leBytes 4 (s.district d).img.keyId))

/-- Index 0 asks for their number, 255 for all. -/
def execGetMeasurements (via : Transport) (index slot nonce : Nat) (s : State) : Host.Outcome State Fault Refusal :=
  .next (s.spdmAt via 3 fun s =>
    let bs := s.measurements
    let block (x : Nat × List Byte) : List Byte := leBytes 1 x.1 ++ leBytes 2 x.2.length ++ x.2
    if !s.slotFilled slot then s.spdmError via 0x01
    else if index = 0 then s.signed via slot 0x60 (leBytes 1 bs.length ++ leBytes 32 nonce)
    else if index = 255 then s.signed via slot 0x60 (bs.flatMap block ++ leBytes 32 nonce)
    else match bs.find? fun x => x.1 == index with
      | none => s.spdmError via 0x01
      | some x => s.signed via slot 0x60 (block x ++ leBytes 32 nonce))

/-- A session opens by ECDHE on brainpoolP384r1 with the requester's point, under an ephemeral key that is a free value; a fifth is
refused as busy. The derivation of DSP0277's keys from the shared secret is not in the spec (log entry 54). -/
def execKeyExchange (via : Transport) (slot : ExchangeSlot) (s : State) : Host.Outcome State Fault Refusal :=
  .next (s.spdmAt via 3 fun s =>
    match bpPoint slot.point with
    | none => s.spdmError via 0x01
    | some q =>
      if !s.slotFilled slot.slot then s.spdmError via 0x01
      else if 4 ≤ s.moon.sessions.length then s.spdmError via 0x03
      else
        let (k, s) := s.draw
        let e := Config.freeValue k % (bpN - 1) + 1
        let shared := match bpMul 384 e (some q) with | none => [] | some (x, _) => beBytes 48 x
        let i := s.moon.nextSession
        let s := s.modMoon fun m => { m with sessions := m.sessions ++ [⟨i, false, false, 0, shared⟩], nextSession := i + 1 }
        s.signed via slot.slot 0x64 (leBytes 4 i ++ publicKey e))

/-- A request of a session in a state; an unknown session is an error. -/
def State.inSession (s : State) (via : Transport) (i : Nat) (established : Bool) (f : State → State) : State :=
  s.spdmAt via 3 fun s =>
    if s.moon.sessions.any fun x => x.id == i && x.established == established then f s else s.spdmError via 0x02

def State.modSession (s : State) (i : Nat) (f : Session → Session) : State :=
  s.modMoon fun m => { m with sessions := m.sessions.map fun x => if x.id = i then f x else x }
def State.dropSession (s : State) (i : Nat) : State := s.modMoon fun m => { m with sessions := m.sessions.filter fun x => x.id != i }

/-- `verified`: the requester's proof holds; `chains`: its certificate chain ends in the installed owner root. -/
def execFinish (via : Transport) (session : Nat) (verified chains : Bool) (s : State) : Host.Outcome State Fault Refusal :=
  .next (s.inSession via session false fun s =>
    if verified then
      (s.modSession session fun x => { x with established := true, owner := chains && !s.moon.owner.isEmpty }).spdmAnswer via 0x65 []
    else (s.dropSession session).spdmError via 0x06)

def execKeyUpdate (via : Transport) (session : Nat) (s : State) : Host.Outcome State Fault Refusal :=
  .next (s.inSession via session true fun s =>
    (s.modSession session fun x => { x with keys := x.keys + 1, secret := hmac384 x.secret (leBytes 8 (x.keys + 1)) }).spdmAnswer via 0x69 [])
def execHeartbeat (via : Transport) (session : Nat) (s : State) : Host.Outcome State Fault Refusal :=
  .next (s.inSession via session true fun s => s.spdmAnswer via 0x68 [])
def execEndSession (via : Transport) (session : Nat) (s : State) : Host.Outcome State Fault Refusal :=
  .next (s.inSession via session true fun s => (s.dropSession session).spdmAnswer via 0x6C [])

/-! ## PLDM for firmware update (R389, R390) -/

def State.pldmAnswer (s : State) (via : Transport) (code : Nat) : State := s.emit (.pldm via code (code == 0))

/-- An update command: the firmware takes it, or the ROM in recovery. -/
def State.pldm (s : State) (via : Transport) (f : State → State) : State :=
  if onManagement via && s.hears via && (s.moon.running || s.moon.fw = 3) then f s else s

def State.setUpdate (s : State) (u : Option Update) : State := s.modMoon fun m => { m with update := u }

/-- A command that needs an update at a stage. -/
def State.pldmStage (s : State) (via : Transport) (stage : Nat) (f : Update → State → State) : State :=
  s.pldm via fun s => match s.moon.update with
    | none => s.pldmAnswer via 0x80
    | some u => if u.stage = stage then f u s else s.pldmAnswer via 0x84

/-- Largest image: header and body (R386). -/
def fwMost : Nat := 4096 + 1572864

def execRequestUpdate (via : Transport) (s : State) : Host.Outcome State Fault Refusal :=
  .next (s.pldm via fun s =>
    if s.moon.update.isSome then s.pldmAnswer via 0x04
    else (s.setUpdate (some ⟨1, s.moon.fw == 3, []⟩)).pldmAnswer via 0)

def execPassComponentTable (via : Transport) (s : State) : Host.Outcome State Fault Refusal :=
  .next (s.pldmStage via 1 fun u s => (s.setUpdate (some { u with stage := 2 })).pldmAnswer via 0)

def execUpdateComponent (via : Transport) (size : Nat) (s : State) : Host.Outcome State Fault Refusal :=
  .next (s.pldmStage via 2 fun u s =>
    if fwMost < size then s.pldmAnswer via 0x82 else (s.setUpdate (some { u with stage := 3 })).pldmAnswer via 0)

/-- A part of the image arrives, in order. The running firmware verifies the header's signature before it erases the partition,
and writes the image as it arrives; the ROM keeps it in SRAM. -/
def execRequestFirmwareData (via : Transport) (offset : Nat) (data : List Byte) (s : State) : Host.Outcome State Fault Refusal :=
  .next (s.pldmStage via 3 fun u s =>
    let img := u.bytes ++ data
    if offset ≠ u.bytes.length || fwMost < img.length then s.pldmAnswer via 0x82
    else if u.ram || img.length < 4096 then (s.setUpdate (some { u with bytes := img })).pldmAnswer via 0
    else if u.bytes.length < 4096 && !fwHeaderOk img then (s.setUpdate none).pldmAnswer via 0x88
    else ((s.modFlash fun f => { f with image := img }).setUpdate (some { u with bytes := img })).pldmAnswer via 0)

def execTransferComplete (via : Transport) (s : State) : Host.Outcome State Fault Refusal :=
  .next (s.pldmStage via 3 fun u s => (s.setUpdate (some { u with stage := 4 })).pldmAnswer via 0)

/-- The written image is read back and checked under R387; a failed check ends the update, and a flash image is then damaged. An
update of which less than a header came has written none. -/
def execVerifyComplete (via : Transport) (s : State) : Host.Outcome State Fault Refusal :=
  .next (s.pldmStage via 4 fun u s =>
    let img := if u.ram || u.bytes.length < 4096 then u.bytes else s.moon.flash.image
    if fwAccepted s.moon.minSvn img then (s.setUpdate (some { u with stage := 5 })).pldmAnswer via 0
    else (s.setUpdate none).pldmAnswer via 0x01)

/-- Moon alone restarts on the new image; in recovery the image in SRAM runs (RAM_ONLY). -/
def execActivateFirmware (via : Transport) (s : State) : Host.Outcome State Fault Refusal :=
  .next (s.pldmStage via 5 fun u s =>
    let s := s.setUpdate none
    if u.ram then ((s.modMoon fun m => { m with ramImage := u.bytes }).runFirmware 2 u.bytes).pldmAnswer via 0
    else (s.pldmAnswer via 0).restartMoon)

/-! ## MCTP control (R399) -/

/-- MCTP control messages are answered under DSP0236, whose answers the spec does not give: free values. -/
def execMctpControl (via : Transport) (code : Nat) (data : List Byte) (s : State) : Host.Outcome State Fault Refusal :=
  .next (
    if s.hears via && (s.moon.running || s.romAnswers via || (s.moon.fw = 3 && onManagement via)) then
      let (k, s) := s.draw
      s.emit (.mctp via code (leBytes (min 64 data.length + 1) (Config.freeValue k)))
    else s)

/-! ## JTAG (R396, R416, R435) -/

/-- The next state of the test access port on a rising edge. -/
def Tap.next (t : Tap) (tms : Bool) : Tap :=
  match t, tms with
  | .reset, true => .reset
  | .reset, false => .idle
  | .idle, true => .selDr
  | .idle, false => .idle
  | .selDr, true => .selIr
  | .selDr, false => .capDr
  | .capDr, true => .ex1Dr
  | .capDr, false => .shDr
  | .shDr, true => .ex1Dr
  | .shDr, false => .shDr
  | .ex1Dr, true => .updDr
  | .ex1Dr, false => .pauDr
  | .pauDr, true => .ex2Dr
  | .pauDr, false => .pauDr
  | .ex2Dr, true => .updDr
  | .ex2Dr, false => .shDr
  | .updDr, true => .selDr
  | .updDr, false => .idle
  | .selIr, true => .reset
  | .selIr, false => .capIr
  | .capIr, true => .ex1Ir
  | .capIr, false => .shIr
  | .shIr, true => .ex1Ir
  | .shIr, false => .shIr
  | .ex1Ir, true => .updIr
  | .ex1Ir, false => .pauIr
  | .pauIr, true => .ex2Ir
  | .pauIr, false => .pauIr
  | .ex2Ir, true => .updIr
  | .ex2Ir, false => .shIr
  | .updIr, true => .selDr
  | .updIr, false => .idle

/-- May an instruction be used (R396)? In PRODUCTION, while locked, only boundary scan, BYPASS and IDCODE. -/
def Moon.allows (m : Moon) (i : JtagInstr) : Bool :=
  m.lifecycle != 1 || m.unlocked || match i with
    | .bypass => true
    | .idcode => true
    | .boundary => true
    | .network => false
    | .debug => false
    | .other => false

/-- The instruction that a shifted code selects: all ones is BYPASS, and one that the lifecycle closes acts as BYPASS (IEEE 1149.1). -/
def Moon.jtagInstr (m : Moon) (code : List Bool) : JtagInstr :=
  let i := if code.all id then .bypass else Config.jtagDecode code
  if m.allows i then i else .bypass

/-- What Capture-DR loads; no cell of UDS, postboxes or collections is among it (R398). -/
def captureDr (i : JtagInstr) (serial : Nat) : List Bool :=
  match i with
  | .bypass => [false]
  | .idcode => true :: (upFrom 1 31).map (bit Config.idcode)
  | .boundary => Config.drCapture serial
  | .network => Config.drCapture serial
  | .debug => Config.drCapture serial
  | .other => Config.drCapture serial

/-- A rising edge: capture or shift, and the next state. -/
def Jtag.rise (j : Jtag) (serial : Nat) (tms tdi : Bool) : Jtag :=
  let j := match j.state with
    | .capIr => { j with ir := Config.irCapture }
    | .shIr => { j with ir := j.ir.drop 1 ++ [tdi] }
    | .capDr => { j with dr := captureDr j.instr serial }
    | .shDr => { j with dr := j.dr.drop 1 ++ [tdi] }
    | _ => j
  let next := j.state.next tms
  { j with state := next, instr := if next = .reset then .idcode else j.instr }

/-- An edge of JTAG_TCK: a rising one captures or shifts and moves the port; a falling one drives JTAG_TDO in the two shift states, and
puts an instruction in force in Update-IR. -/
def execJtagTck (rising tms tdi : Bool) (s : State) : Host.Outcome State Fault Refusal :=
  .next (
    if s.jtag.held || !s.powered then s
    else if rising then
      let (k, s) := s.draw
      { s with jtag := s.jtag.rise k tms tdi }
    else match s.jtag.state with
    | .shIr => s.emit (.tdo (s.jtag.ir.headD false))
    | .shDr => s.emit (.tdo (s.jtag.dr.headD false))
    | .updIr => { s with jtag := { s.jtag with instr := s.moon.jtagInstr s.jtag.ir } }
    | _ => s)

end Sys2Proof.Machine
end

