-- ==== Sys2Proof/Machine/Dispatch.lean ====
section
/-! DEFINITION. One arm for each command: its meaning. -/

namespace Sys2Proof.Machine

def exec (i : Instr) (s : State) : Host.Outcome State Fault Refusal :=
  match i with
  | .tickMark run guardLow tag edge => Sys2Proof.Machine.execTickMark run guardLow tag edge s
  | .refclkWindowEnd edges => Sys2Proof.Machine.execRefclkWindowEnd edges s
  | .lossOfTick refclk => Sys2Proof.Machine.execLossOfTick refclk s
  | .orbitStart => Sys2Proof.Machine.execOrbitStart s
  | .joinStart => Sys2Proof.Machine.execJoinStart s
  | .orbitTick times ready => Sys2Proof.Machine.execOrbitTick times ready s
  | .lateWorkComplete times => Sys2Proof.Machine.execLateWorkComplete times s
  | .quadRotationSwap => Sys2Proof.Machine.execQuadRotationSwap s
  | .laneSwapSelected port => Sys2Proof.Machine.execLaneSwapSelected port s
  | .laneSwapTimeout port => Sys2Proof.Machine.execLaneSwapTimeout port s
  | .barrierArrive d => Sys2Proof.Machine.execBarrierArrive d s
  | .barrierTimeout d => Sys2Proof.Machine.execBarrierTimeout d s
  | .orbArm r v => Sys2Proof.Machine.execOrbArm r v s
  | .orbDisarm r v => Sys2Proof.Machine.execOrbDisarm r v s
  | .orbJoin r v => Sys2Proof.Machine.execOrbJoin r v s
  | .orbJoinWithdraw r v => Sys2Proof.Machine.execOrbJoinWithdraw r v s
  | .orbStop r v => Sys2Proof.Machine.execOrbStop r v s
  | .orbResume r v => Sys2Proof.Machine.execOrbResume r v s
  | .shFieldWrite r addr v => Sys2Proof.Machine.execShFieldWrite r addr v s
  | .registerWrite r addr v => Sys2Proof.Machine.execRegisterWrite r addr v s
  | .pass core errs => Sys2Proof.Machine.execPass core errs s
  | .arrayRampDown core => Sys2Proof.Machine.execArrayRampDown core s
  | .loop core => Sys2Proof.Machine.execLoop core s
  | .endloop core => Sys2Proof.Machine.execEndloop core s
  | .endProg core => Sys2Proof.Machine.execEndProg core s
  | .send core ecc => Sys2Proof.Machine.execSend core ecc s
  | .sendClaim core => Sys2Proof.Machine.execSendClaim core s
  | .messageLink core => Sys2Proof.Machine.execMessageLink core s
  | .collectionRoundDeliver box => Sys2Proof.Machine.execCollectionRoundDeliver box s
  | .read core => Sys2Proof.Machine.execRead core s
  | .postboxDeath box => Sys2Proof.Machine.execPostboxDeath box s
  | .pbxFlushBox r box => Sys2Proof.Machine.execPbxFlushBox r box s
  | .pbxFlushAll r => Sys2Proof.Machine.execPbxFlushAll r s
  | .dlrTailWrite r n v => Sys2Proof.Machine.execDlrTailWrite r n v s
  | .xferCopy core ecc => Sys2Proof.Machine.execXferCopy core ecc s
  | .xferSend core ecc => Sys2Proof.Machine.execXferSend core ecc s
  | .xferForward core => Sys2Proof.Machine.execXferForward core s
  | .xferRelease core => Sys2Proof.Machine.execXferRelease core s
  | .trainUpdate core errs => Sys2Proof.Machine.execTrainUpdate core errs s
  | .trainPack core errs => Sys2Proof.Machine.execTrainPack core errs s
  | .trainUnpack core errs => Sys2Proof.Machine.execTrainUnpack core errs s
  | .awaitItem core => Sys2Proof.Machine.execAwaitItem core s
  | .stageEnqueue queue => Sys2Proof.Machine.execStageEnqueue queue s
  | .memLineRead line d o => Sys2Proof.Machine.execMemLineRead line d o s
  | .memReadRetry line d o who => Sys2Proof.Machine.execMemReadRetry line d o who s
  | .pageRetire page => Sys2Proof.Machine.execPageRetire page s
  | .scrubLine d o => Sys2Proof.Machine.execScrubLine d o s
  | .postPackageRepair page ok => Sys2Proof.Machine.execPostPackageRepair page ok s
  | .dataFrame port f => Sys2Proof.Machine.execDataFrame port f s
  | .linkFlit port bytes => Sys2Proof.Machine.execLinkFlit port bytes s
  | .frameArbitrate port => Sys2Proof.Machine.execFrameArbitrate port s
  | .retryTimeout port => Sys2Proof.Machine.execRetryTimeout port s
  | .nakRepeat port => Sys2Proof.Machine.execNakRepeat port s
  | .laneLoss port lane => Sys2Proof.Machine.execLaneLoss port lane s
  | .retrainEnd port ok => Sys2Proof.Machine.execRetrainEnd port ok s
  | .downTrainingAttempt port => Sys2Proof.Machine.execDownTrainingAttempt port s
  | .linkTrainingPhaseEnd port ok map pol mix => Sys2Proof.Machine.execLinkTrainingPhaseEnd port ok map pol mix s
  | .cardTimeout port => Sys2Proof.Machine.execCardTimeout port s
  | .card port f => Sys2Proof.Machine.execCard port f s
  | .ping port f turnaround => Sys2Proof.Machine.execPing port f turnaround s
  | .echo port f now => Sys2Proof.Machine.execEcho port f now s
  | .beacon port f now => Sys2Proof.Machine.execBeacon port f now s
  | .announce port f => Sys2Proof.Machine.execAnnounce port f s
  | .credit port f => Sys2Proof.Machine.execCredit port f s
  | .nackDead port f => Sys2Proof.Machine.execNackDead port f s
  | .amaxUp port f => Sys2Proof.Machine.execAmaxUp port f s
  | .amaxDown port f => Sys2Proof.Machine.execAmaxDown port f s
  | .barUp port f => Sys2Proof.Machine.execBarUp port f s
  | .barGo port f => Sys2Proof.Machine.execBarGo port f s
  | .restartBarUp port f => Sys2Proof.Machine.execRestartBarUp port f s
  | .restartBarGo port f => Sys2Proof.Machine.execRestartBarGo port f s
  | .restartTimeout d => Sys2Proof.Machine.execRestartTimeout d s
  | .copybackDone d unreadable => Sys2Proof.Machine.execCopybackDone d unreadable s
  | .jobHold port f => Sys2Proof.Machine.execJobHold port f s
  | .mgmt port f => Sys2Proof.Machine.execMgmt port f s
  | .tlkDisable r port v => Sys2Proof.Machine.execTlkDisable r port v s
  | .tlkEnable r port v => Sys2Proof.Machine.execTlkEnable r port v s
  | .tlkRetrain r port v => Sys2Proof.Machine.execTlkRetrain r port v s
  | .rdmaWrite port qp rkey addr data ce => Sys2Proof.Machine.execRdmaWrite port qp rkey addr data ce s
  | .rdmaWriteImm port qp rkey addr data imm ce => Sys2Proof.Machine.execRdmaWriteImm port qp rkey addr data imm ce s
  | .rdmaRead port qp rkey addr len ce => Sys2Proof.Machine.execRdmaRead port qp rkey addr len ce s
  | .roceSend port qp data ce => Sys2Proof.Machine.execRoceSend port qp data ce s
  | .cmReq port remote => Sys2Proof.Machine.execCmReq port remote s
  | .cmRtu port qp => Sys2Proof.Machine.execCmRtu port qp s
  | .cmDreq port qp => Sys2Proof.Machine.execCmDreq port qp s
  | .cnp port qp => Sys2Proof.Machine.execCnp port qp s
  | .rateIncreaseTimer port qp => Sys2Proof.Machine.execRateIncreaseTimer port qp s
  | .pfcPause port prio => Sys2Proof.Machine.execPfcPause port prio s
  | .pfcPauseTimeout port prio => Sys2Proof.Machine.execPfcPauseTimeout port prio s
  | .cmdTailWrite r v => Sys2Proof.Machine.execCmdTailWrite r v s
  | .cplHeadWrite r v => Sys2Proof.Machine.execCplHeadWrite r v s
  | .cmdRingWrite r v => Sys2Proof.Machine.execCmdRingWrite r v s
  | .cplRingWrite r v => Sys2Proof.Machine.execCplRingWrite r v s
  | .nop d index => Sys2Proof.Machine.execNop d index s
  | .copy d index => Sys2Proof.Machine.execCopy d index s
  | .tile d index => Sys2Proof.Machine.execTile d index s
  | .tileDispatch d toTick => Sys2Proof.Machine.execTileDispatch d toTick s
  | .tileStop core => Sys2Proof.Machine.execTileStop core s
  | .tileOutDone d index => Sys2Proof.Machine.execTileOutDone d index s
  | .msg d index => Sys2Proof.Machine.execMsg d index s
  | .windowOpen d index => Sys2Proof.Machine.execWindowOpen d index s
  | .windowClose d index => Sys2Proof.Machine.execWindowClose d index s
  | .csrRead d index => Sys2Proof.Machine.execCsrRead d index s
  | .csrWrite d index => Sys2Proof.Machine.execCsrWrite d index s
  | .waitOrbit d index => Sys2Proof.Machine.execWaitOrbit d index s
  | .commandStart d => Sys2Proof.Machine.execCommandStart d s
  | .completionPost d => Sys2Proof.Machine.execCompletionPost d s
  | .imgLoad r v => Sys2Proof.Machine.execImgLoad r v s
  | .loadEnd d => Sys2Proof.Machine.execLoadEnd d s
  | .imgCommit r v => Sys2Proof.Machine.execImgCommit r v s
  | .commitChecksEnd d => Sys2Proof.Machine.execCommitChecksEnd d s
  | .imgCancel r v => Sys2Proof.Machine.execImgCancel r v s
  | .snpReqWrite r v => Sys2Proof.Machine.execSnpReqWrite r v s
  | .rewind r => Sys2Proof.Machine.execRewind r s
  | .rollfwd r => Sys2Proof.Machine.execRollfwd r s
  | .rollfwdEnd d => Sys2Proof.Machine.execRollfwdEnd d s
  | .dreset r => Sys2Proof.Machine.execDreset r s
  | .districtResetDone d => Sys2Proof.Machine.execDistrictResetDone d s
  | .fltTailWrite r v => Sys2Proof.Machine.execFltTailWrite r v s
  | .fltRestoreWrite r v => Sys2Proof.Machine.execFltRestoreWrite r v s
  | .sprServe r n v => Sys2Proof.Machine.execSprServe r n v s
  | .mirrorRecord ring => Sys2Proof.Machine.execMirrorRecord ring s
  | .restoreRecord ring => Sys2Proof.Machine.execRestoreRecord ring s
  | .quadTestEnd quad o => Sys2Proof.Machine.execQuadTestEnd quad o s
  | .logFlashCopy d => Sys2Proof.Machine.execLogFlashCopy d s
  | .dieHot => Sys2Proof.Machine.execDieHot s
  | .dieCrit => Sys2Proof.Machine.execDieCrit s
  | .dieCritPowerOff => Sys2Proof.Machine.execDieCritPowerOff s
  | .vinUv => Sys2Proof.Machine.execVinUv s
  | .vinOv => Sys2Proof.Machine.execVinOv s
  | .coolant => Sys2Proof.Machine.execCoolant s
  | .inputBelow36v => Sys2Proof.Machine.execInputBelow36v s
  | .inputRise39v => Sys2Proof.Machine.execInputRise39v s
  | .porstN ns => Sys2Proof.Machine.execPorstN ns s
  | .jtagTrstN low => Sys2Proof.Machine.execJtagTrstN low s
  | .pwrResetWarm r => Sys2Proof.Machine.execPwrResetWarm r s
  | .warmResetBegin => Sys2Proof.Machine.execWarmResetBegin s
  | .startupStageEnd e => Sys2Proof.Machine.execStartupStageEnd e s
  | .railGoodTimeout rail => Sys2Proof.Machine.execRailGoodTimeout rail s
  | .railRetry => Sys2Proof.Machine.execRailRetry s
  | .pwrTargetRun r => Sys2Proof.Machine.execPwrTargetRun r s
  | .pwrTargetDrowse r => Sys2Proof.Machine.execPwrTargetDrowse r s
  | .pwrTargetSleep r => Sys2Proof.Machine.execPwrTargetSleep r s
  | .powerStateReached => Sys2Proof.Machine.execPowerStateReached s
  | .laneLockTimeout port => Sys2Proof.Machine.execLaneLockTimeout port s
  | .glbTimeWrite r v => Sys2Proof.Machine.execGlbTimeWrite r v s
  | .powerLimitCheck x => Sys2Proof.Machine.execPowerLimitCheck x s
  | .moonWatchdogExpiry why second => Sys2Proof.Machine.execMoonWatchdogExpiry why second s
  | .moonRestartDone => Sys2Proof.Machine.execMoonRestartDone s
  | .svnBurn => Sys2Proof.Machine.execSvnBurn s
  | .getStatus q => Sys2Proof.Machine.execGetStatus q s
  | .ownerSet q root => Sys2Proof.Machine.execOwnerSet q root s
  | .ownerClear q => Sys2Proof.Machine.execOwnerClear q s
  | .districtSet q defs => Sys2Proof.Machine.execDistrictSet q defs s
  | .districtReset q d => Sys2Proof.Machine.execDistrictReset q d s
  | .keyRegister q d key keyid => Sys2Proof.Machine.execKeyRegister q d key keyid s
  | .keyRevoke q d => Sys2Proof.Machine.execKeyRevoke q d s
  | .moonCsrRead q d addr => Sys2Proof.Machine.execMoonCsrRead q d addr s
  | .moonCsrWrite q d addr v => Sys2Proof.Machine.execMoonCsrWrite q d addr v s
  | .logRead q seq count => Sys2Proof.Machine.execLogRead q seq count s
  | .snpRead q d first count => Sys2Proof.Machine.execSnpRead q d first count s
  | .cardGet q => Sys2Proof.Machine.execCardGet q s
  | .cardRecheck q port => Sys2Proof.Machine.execCardRecheck q port s
  | .configSet q items => Sys2Proof.Machine.execConfigSet q items s
  | .debugUnlock q serial nonce sigR sigS => Sys2Proof.Machine.execDebugUnlock q serial nonce sigR sigS s
  | .getVersion via => Sys2Proof.Machine.execGetVersion via s
  | .getCapabilities via => Sys2Proof.Machine.execGetCapabilities via s
  | .negotiateAlgorithms via supported => Sys2Proof.Machine.execNegotiateAlgorithms via supported s
  | .getDigests via => Sys2Proof.Machine.execGetDigests via s
  | .getCertificate via slot offset len => Sys2Proof.Machine.execGetCertificate via slot offset len s
  | .challenge via slot nonce => Sys2Proof.Machine.execChallenge via slot nonce s
  | .getMeasurements via index slot nonce => Sys2Proof.Machine.execGetMeasurements via index slot nonce s
  | .keyExchange via slot => Sys2Proof.Machine.execKeyExchange via slot s
  | .finish via session verified chains => Sys2Proof.Machine.execFinish via session verified chains s
  | .keyUpdate via session => Sys2Proof.Machine.execKeyUpdate via session s
  | .heartbeat via session => Sys2Proof.Machine.execHeartbeat via session s
  | .endSession via session => Sys2Proof.Machine.execEndSession via session s
  | .requestUpdate via => Sys2Proof.Machine.execRequestUpdate via s
  | .passComponentTable via => Sys2Proof.Machine.execPassComponentTable via s
  | .updateComponent via size => Sys2Proof.Machine.execUpdateComponent via size s
  | .requestFirmwareData via offset data => Sys2Proof.Machine.execRequestFirmwareData via offset data s
  | .transferComplete via => Sys2Proof.Machine.execTransferComplete via s
  | .verifyComplete via => Sys2Proof.Machine.execVerifyComplete via s
  | .activateFirmware via => Sys2Proof.Machine.execActivateFirmware via s
  | .hostLinkUp port => Sys2Proof.Machine.execHostLinkUp port s
  | .hostLinkDown port => Sys2Proof.Machine.execHostLinkDown port s
  | .islandPowerUp => Sys2Proof.Machine.execIslandPowerUp s
  | .islandPowerLoss => Sys2Proof.Machine.execIslandPowerLoss s
  | .tickOkTimeout => Sys2Proof.Machine.execTickOkTimeout s
  | .spareLaneSelect port => Sys2Proof.Machine.execSpareLaneSelect port s
  | .preFecEstimateUpdate port lane est prbsBits prbsErr spareEst corrected uncorr => Sys2Proof.Machine.execPreFecEstimateUpdate port lane est prbsBits prbsErr spareEst corrected uncorr s
  | .mctpControl via code data => Sys2Proof.Machine.execMctpControl via code data s
  | .pfcPauseExpiry port prio => Sys2Proof.Machine.execPfcPauseExpiry port prio s
  | .neighbourDiscovery port addr => Sys2Proof.Machine.execNeighbourDiscovery port addr s
  | .jtagTck rising tms tdi => Sys2Proof.Machine.execJtagTck rising tms tdi s

end Sys2Proof.Machine
end

