-- ==== Sys2Proof/Safety.lean ====
section
/-! DEFINITION. The terms in which the statements speak of states: what holds of every state that the module can be in, which
commands end a halt, and when a command reaches what it acts on. -/

namespace Sys2Proof.Machine

/-- The commands through which a module reset, or the loss of its power, begins (R415, R418, R451; SLEEP: R411). A HALT ends in
no other way (R339). -/
def endsHalt : Instr → Bool
  | .dieCritPowerOff => true
  | .inputBelow36v => true
  | .inputRise39v => true
  | .porstN _ => true
  | .warmResetBegin => true
  | .powerStateReached => true
  | .islandPowerUp => true
  | .islandPowerLoss => true
  | _ => false

/-- The commands that may write module memory or core SRAM: operations of cores and tiles, frames and messages that deliver data or end
in dead letters, host writes and completions, copies of recovery, and the resets. -/
def writesMemory : Instr → Bool
  | .amaxDown _ _ | .amaxUp _ _ | .announce _ _ | .awaitItem _ | .barGo _ _ | .barUp _ _ | .collectionRoundDeliver _
  | .completionPost _ | .copy _ _ | .copybackDone _ _ | .credit _ _ | .dataFrame _ _ | .dieCritPowerOff
  | .districtResetDone _ | .inputBelow36v | .inputRise39v | .islandPowerLoss | .islandPowerUp | .jobHold _ _ | .messageLink _
  | .mirrorRecord _ | .nackDead _ _ | .orbitTick _ _ | .pass _ _ | .porstN _ | .postboxDeath _ | .powerStateReached
  | .railGoodTimeout _ | .rdmaWrite _ _ _ _ _ _ | .rdmaWriteImm _ _ _ _ _ _ _ | .read _ | .restartBarGo _ _
  | .restartBarUp _ _ | .restoreRecord _ | .roceSend _ _ _ _ | .send _ _ | .sendClaim _ | .stageEnqueue _ | .tileDispatch _ _
  | .tileOutDone _ _ | .tileStop _ | .trainPack _ _ | .trainUnpack _ _ | .trainUpdate _ _ | .warmResetBegin | .xferCopy _ _
  | .xferForward _ | .xferRelease _ | .xferSend _ _ => true
  | _ => false

/-- The commands that open, close or clear windows of host keys (R318, R319), among them the resets. -/
def changesWindows : Instr → Bool
  | .dieCritPowerOff | .districtResetDone _ | .districtSet _ _ | .inputBelow36v | .inputRise39v | .islandPowerLoss
  | .islandPowerUp | .ownerClear _ | .porstN _ | .powerStateReached | .warmResetBegin | .windowClose _ _ | .windowOpen _ _ => true
  | _ => false

/-- The commands that move the orbit count, or start or stop it (R34, R36, R40, R58), among them the resets. -/
def countsOrbits : Instr → Bool
  | .dieCritPowerOff | .inputBelow36v | .inputRise39v | .islandPowerLoss | .islandPowerUp | .joinStart | .lossOfTick _
  | .orbitStart | .orbitTick _ _ | .porstN _ | .powerStateReached | .warmResetBegin => true
  | _ => false

/-- The memory is in its canonical form. -/
def State.canonical (s : State) : Prop := Memory.wf s.mem

/-- A write of a requester to offset `o` of a CSR block reaches it on behalf of district `d`: Moon's always, and a host's when
its port is up, the port's gate is open and the district may write there (R308, R317, R400). -/
def State.reaches (s : State) (r : Requester) (d : Nat) (b : Block) (o : Nat) : Prop :=
  s.rights r = some (true, some d)
    ∨ (s.rights r = some (false, some d) ∧ s.portGate (some d) = none ∧ s.mayReach d b o true = true)

/-- The completion of a register write that was done. -/
def written (r : Requester) (off : Nat) : Output := .access r (csrBase + off) .done 0

/-- A good frame in sequence comes to a port whose state carries it, as a frame of row `row`: `h` is its header without the CRC,
`pay` its payload (R252, R254, R273). -/
def State.takes (s : State) (p : Nat) (f : Frame) (row h : Nat) (pay : List Byte) : Prop :=
  s.halted = false ∧ 4 ≤ (s.port p).state ∧ (s.port p).state ≤ 8 ∧ frameBad f = false ∧ h = leNat (f.bytes.take 32) % 2 ^ 224
    ∧ pay = (f.bytes.drop 32).take (hdrLen (leNat (f.bytes.take 32))) ∧ frameRow (leNat (f.bytes.take 32)) pay = row
    ∧ hdrFseq (leNat (f.bytes.take 32)) = (s.port p).expected ∧ (s.port p).carries (leNat (f.bytes.take 32)) = true

/-- The frame is the next of its class on its logical port, and it is for district `d` (R260 to R262): `e` is the PORT entry of the
port, `j` the JOB entry. -/
def State.deliversTo (s : State) (p d e j h : Nat) : Prop :=
  s.portEntry p = some (d, e) ∧ s.job d = some j ∧ hdrTag h = fld j 4 0 32 ∧ hdrTclass h = false ∧ hdrDest h = s.coord d
    ∧ s.fenced d = false ∧ (s.lane (laneKey d (peLport e) (hdrVc h))).store = []
    ∧ hdrBseq h = (s.lane (laneKey d (peLport e) (hdrVc h))).expected

/-- The common 8 bytes of a CTL payload name the district's step and attempt (R273). -/
def State.current (s : State) (d : Nat) (pay : List Byte) : Prop :=
  bits (leNat (pay.take 8)) 0 24 = (s.district d).orb.step ∧ bits (leNat (pay.take 8)) 24 16 = (s.district d).orb.attempt

/-- `d` is the one district of a running module, and at the coming tick only its step and its cores' work are at issue: no commit, no
mirror stream, no roll-forward, no swap. -/
def State.ticksFor (s : State) (d : Nat) : Prop :=
  s.defined = [d] ∧ s.halted = false ∧ s.fenced d = false ∧ (s.district d).img.commit = 0 ∧ (s.district d).mir.send = false
    ∧ (s.district d).flt.rollAt = none ∧ s.spr.swaps = []

/-- The commands by which a frame comes to a port, each with its row: 0 DATA, else the opcode of R273, RESTART tree frames 0x1A and
0x1B. -/
def frameCommands (p : Fin 24) (f : Frame) (n : Nat) : List (Instr × Nat) :=
  [(.dataFrame p f, 0), (.card p f, 1), (.ping p f n, 2), (.echo p f n, 3), (.beacon p f n, 4), (.announce p f, 5), (.credit p f, 6),
    (.nackDead p f, 7), (.amaxUp p f, 8), (.amaxDown p f, 9), (.barUp p f, 0xA), (.barGo p f, 0xB), (.restartBarUp p f, 0x1A),
    (.restartBarGo p f, 0x1B), (.jobHold p f, 0xC), (.mgmt p f, 0xD)]

/-- Two flashes hold the same: the firmware image, and of each pair of copies the one in force (R383, R384). What the copies not in
force hold may differ: a reset may cut an update off. -/
def Flash.same (f g : Flash) : Prop :=
  g.image = f.image ∧ g.tables.inForce = f.tables.inForce ∧ g.keys.inForce = f.keys.inForce ∧ g.config.inForce = f.config.inForce

/-- `t` is `s` with everything cleared that a reset clears (R417): units, links, images, counters and sessions at their reset values,
but for what the flash copies in force give (R383, R403, R405): owner and configuration, keys, retired quads, repairs, lane maps. The
clock runs on, the comparator latches keep what tripped, and fuses, flash and the persistent log are kept. -/
def State.resetOf (s t : State) : Prop :=
  t.pending = s.pending ∧ t.clk = s.clk ∧ t.orb = {} ∧ t.cores = Tbl.empty ∧ t.boxes = Tbl.empty ∧ t.rings = Tbl.empty ∧ t.queues = Tbl.empty
    ∧ t.slots = Tbl.empty ∧ t.ports = s.moon.flash.tables.inForce.content.ports ∧ t.lanes = Tbl.empty ∧ t.cnt = Tbl.empty ∧ t.dcnt = Tbl.empty
    ∧ t.windows = State.reset.windows ∧ t.halted = false ∧ t.pwr.stage = 1 ∧ t.moon.running = false ∧ t.moon.fw = 0 ∧ t.moon.sessions = []
    ∧ t.moon.unlocked = false ∧ t.moon.lifecycle = s.moon.lifecycle ∧ t.moon.serial = s.moon.serial ∧ t.moon.minSvn = s.moon.minSvn
    ∧ t.moon.owner = s.moon.flash.keys.inForce.content.owner ∧ s.moon.flash.same t.moon.flash ∧ t.moon.log = s.moon.log
    ∧ t.moon.cfg = s.moon.flash.config.inForce.content.cfg ∧ t.spr.retired = s.moon.flash.tables.inForce.content.retired
    ∧ t.spr.repairs = s.moon.flash.tables.inForce.content.repairs
    ∧ (∀ d, d < 4 → (t.district d).img.active = none
      ∧ (t.district d).img.keyed = (lookupKey d s.moon.flash.keys.inForce.content.keys).isSome
      ∧ (∀ id key, lookupKey d s.moon.flash.keys.inForce.content.keys = some (id, key) →
        (t.district d).img.keyId = id ∧ (t.district d).img.key = key)
      ∧ t.fenced d = false
      ∧ (t.district d).orb = {} ∧ (t.district d).defn = (State.reset.district d).defn)

end Sys2Proof.Machine
end

