-- ==== Sys2Proof/Certificates/Slice0/Obligations.lean ====
section
/-! DEFINITION. The statements for the provers, in the order of the chapters of the spec: what each command does, what each leaves as it
is, and what holds of the block as a whole. Each holds of every state that meets its hypotheses; `exec` answers a next state there. -/

open Sys2Proof Sys2Proof.Machine

/-! ## Ticks, counting and registers of the orbit (02) -/

/-- R29 to R31, R34: an epoch mark whose tag, each bit held for 4 cycles, is the armed one is accepted, and a first mark
records the phase; a RACK mark in place is valid; a run of any other length is a slip, and the second at consecutive positions
halts. R452: the windows of REFCLK; R60: TICK_OK falls. R34: orbit 0 begins at E + 128; R36: a join begins with the orbit
number and the period that its calculation gave; beacons leave by ACTIVE ports alone. -/
def Obligations.MarksAndReferenceWindows : Prop :=
  (
    (∀ (s : State) (n edge : Nat) (tag : Byte), s.orb.refOk = true → 28 ≤ n → n ≤ 36 → s.orb.phase = none → s.orb.arm = true →
        s.orb.accepted = none → tag.toNat = s.orb.tag →
        exec (.tickMark (List.replicate n true) (List.replicate 4 false)
          ((List.range 8).flatMap fun i => List.replicate 4 (tag.getLsbD (7 - i))) edge) s = .next { s with orb := { s.orb with
            tickOk := true, lastTag := tag.toNat, phase := some edge, accepted := some edge } })
    ∧ (∀ (s : State) (n edge : Nat), s.orb.refOk = true → 6 ≤ n → n ≤ 10 → (∀ ph, s.orb.phase = some ph → inPlace ph edge = true) →
        exec (.tickMark (List.replicate n true) (List.replicate 4 false) [] edge) s = .next { s with orb := { s.orb with
          tickOk := true, phase := some (s.orb.phase.getD edge) } })
    ∧ (∀ (s : State) (n edge : Nat), s.orb.refOk = true → n < 6 ∨ 10 < n ∧ n < 28 ∨ 36 < n →
        ∃ t, exec (.tickMark (List.replicate n true) (List.replicate 4 false) [] edge) s = .next t ∧ t.orb.slip = true
          ∧ t.orb.slips = s.orb.slips + 1 ∧ t.mem = s.mem
          ∧ (∀ ph, s.orb.phase = some ph → s.orb.slipAt = some (markPosition ph edge - 1) → t.halted = true))
    ∧ (∀ (s : State) (edges : Nat), ∃ t, exec (.refclkWindowEnd edges) s = .next t ∧ t = { s with orb := t.orb }
        ∧ t.orb.refOk = (decide (1598 ≤ edges ∧ edges ≤ 1602) && decide (1 ≤ s.orb.good))
        ∧ t.orb.number = s.orb.number ∧ t.orb.run = s.orb.run)
    ∧ (∀ s : State, exec .tickOkTimeout s = .next { s with orb := { s.orb with tickOk := false } }))
  ∧ (
    (∀ (s : State) (e : Nat), s.orb.accepted = some e → s.orb.run = false → s.orb.arm = true →
        ∃ t, exec .orbitStart s = .next t ∧ t = { s with orb := t.orb, ports := t.ports } ∧ t.orb = { s.orb with
          run := true, arm := false, accepted := none, number := 0, epoch := s.clk.ns, startOrbit := 0, joined := false, stop := false
          lastTick := e + 128 } ∧ ∀ p, (s.port p).state ≠ 6 → t.port p = s.port p)
    ∧ (∀ (s : State) (j : JoinPlan), s.orb.plan = some j → s.orb.run = false → s.orb.join = true →
        ∃ t, exec .joinStart s = .next t ∧ t = { s with orb := t.orb, ports := t.ports } ∧ t.orb = { s.orb with
          run := true, join := false, joined := true, plan := none, joinPort := none, number := j.orbit, period := j.period
          periodSh := j.period, startOrbit := j.orbit % 2 ^ 48, epoch := s.clk.ns, stop := false, lastTick := j.tick }
          ∧ ∀ p, (s.port p).state ≠ 6 → t.port p = s.port p))

/-- R39, R40, R58: a tick of a counting module adds one to the orbit number, and with STOP ends the count instead. For the
district of a module of one district: R379, a snapshot falls due, and its bank holds the counters; R298, R299, a pending
commit ends with its result, and a first image becomes active; R54, R350, the next step begins at its go tick, and the step
begins again at its restart tick; R42, else the next orbit index runs. R45: ORB_SLACK shows the core that worked, or that none
did; work that is late goes on. R47, R48: at its second tick it rolls the step back, or, without a cause, fences. -/
def Obligations.OrbitTicks : Prop :=
  ∀ (s : State) (times : List CoreTime) (ready : List Nat), s.orb.run = true →
    (s.orb.stop = true →
      ∃ t, exec (.orbitTick times ready) s = .next t ∧ t.orb.run = false ∧ t.orb.number = 0 ∧ t.orb.stop = false ∧ t.mem = s.mem)
    ∧ (s.orb.stop = false → ∀ k, k = (s.orb.number + 1) % 2 ^ 64 →
      ∃ t, exec (.orbitTick times ready) s = .next t ∧ t.orb.number = k ∧ t.orb.run = true
        ∧ (∀ d, s.defined = [d] → s.active d = none →
          ((s.district d).snp.state ≠ 0 → (s.district d).snp.orbit = k → (s.district d).img.commit = 0 →
            (t.district d).snp = { (s.district d).snp with
              orbit := 0, state := 0, doneEv := true, seq := ((s.district d).snp.seq + 1) % 2 ^ 32, step := (s.district d).orb.step
              snapOrbit := k, bank := (t.district d).snp.bank }
            ∧ ∀ off, off < 0xC5400 → s.inBank d off = true → (t.district d).snp.bank.get 0 off = s.counter off)
          ∧ ((s.district d).img.commit ≠ 0 → (s.district d).img.target = k → s.halted = false → s.fenced d = false → s.spr.swaps = [] →
            (t.district d).img.commit = 0 ∧ (t.district d).img.committedEv = true ∧ (t.district d).img.resultOrbit = k % 2 ^ 32
            ∧ ((s.district d).img.commit = 3 →
              (t.district d).img.result = Status.refusedInvalid.code ∧ (t.district d).img.active = none)
            ∧ ((s.district d).img.commit = 1 → (t.district d).img.result = Status.refusedBusy.code ∧ (t.district d).img.active = none)
            ∧ (∀ g, (s.district d).img.commit = 2 → (s.district d).img.loaded = some g → imgDelta g.header = false →
              (t.district d).img.result = Status.done.code ∧ (t.district d).img.active = some g)))
        ∧ (∀ d g, s.ticksFor d → s.active d = some g → (s.district d).orb.phase ≠ .hold →
          ((∀ n ∈ s.coresOf d, (s.core n).work = none) →
            (t.district d).orb.minSlack = 0xFFFFFFFF ∧ (t.district d).orb.minCore = 0 ∧ (t.district d).orb.late = false
            ∧ ((s.district d).bar.rolledBack = false → (s.district d).bar.go = some k → (s.district d).bar.down = true →
              (t.district d).orb.step = stepAfter (s.district d).orb.step ∧ (t.district d).orb.index = 0
                ∧ (t.district d).orb.phase = .compute ∧ (t.district d).orb.rollbacks = 0 ∧ (t.district d).orb.attempt = k % 2 ^ 16
                ∧ (t.district d).bar = {})
            ∧ ((s.district d).bar.rolledBack = true → (s.district d).bar.restart = some k → (s.district d).flt.copyBack = none →
              (t.district d).orb.step = (s.district d).orb.step ∧ (t.district d).orb.index = 0 ∧ (t.district d).orb.phase = .compute
                ∧ (t.district d).orb.rollbacks = (s.district d).orb.rollbacks ∧ (t.district d).orb.attempt = k % 2 ^ 16
                ∧ (t.district d).bar = {})
            ∧ ((s.district d).bar.rolledBack = false → (s.district d).bar.go ≠ some k → (s.district d).orb.phase ≠ .barrier →
              (s.district d).orb.phase ≠ .waitGo →
              (t.district d).orb.step = (s.district d).orb.step
                ∧ (t.district d).orb.index = min ((s.district d).orb.index + 1) (g.stepLen - 1)
                ∧ (t.district d).orb.phase = g.phaseAt (min ((s.district d).orb.index + 1) (g.stepLen - 1))))
          ∧ (∀ n w x, n ∈ s.coresOf d → (s.core n).work = some w → (∀ m ∈ s.coresOf d, m ≠ n → (s.core m).work = none) →
            times.find? (fun y => y.core == n) = some x → (s.district d).bar.rolledBack = false → (s.district d).bar.go = none →
            (s.district d).orb.phase ≠ .barrier → (s.district d).orb.phase ≠ .waitGo →
            ((s.core n).busy = false → (s.core n).lateOrbit = none →
              (t.district d).orb.minSlack = x.left % 2 ^ 32 ∧ (t.district d).orb.minCore = n ∧ (t.district d).orb.late = false)
            ∧ ((s.core n).busy = true → k < w.orbit + 2 →
              (t.district d).orb.minSlack = 0 ∧ (t.district d).orb.minCore = n ∧ (t.district d).orb.late = true
                ∧ (t.core n).work = some w ∧ (t.core n).lateOrbit = some w.orbit ∧ t.fenced d = false)
            ∧ (∀ cause, (s.core n).busy = true → w.orbit + 2 ≤ k → cause = s.overrunCause d x (s.explainedIn [] (some w.orbit)) →
              (t.district d).orb.ovCause = cause ∧ (t.district d).orb.ovCore = n ∧ (t.district d).orb.ovOrbit = (k - 2) % 2 ^ 32
              ∧ (cause = 0 → t.fenced d = true ∧ (t.district d).orb.ovFence = true)
              ∧ (cause ≠ 0 → (s.district d).flt.rlead ≠ 0 → (s.district d).orb.rollbacks < 2 →
                (t.district d).orb.ovRollback = true ∧ (t.district d).bar.rolledBack = true
                  ∧ (t.district d).orb.rollbacks = (s.district d).orb.rollbacks + 1)))))

/-- R32, R413: a comparator that trips latches its bit of PWR_TRIP and halts a module past stage 1 of its start-up; without
power for more than the island it only latches (R406). -/
def Obligations.ComparatorsHalt : Prop :=
  (∀ (s : State) (c : Instr) (i : Nat), (c, i) ∈ [(Instr.dieHot, 0), (.dieCrit, 1), (.vinUv, 2), (.vinOv, 3), (.coolant, 4)] →
    s.pwr.islandOn = true → s.powered = false →
    exec c s = .next { s with pwr := { s.pwr with
      trip := s.pwr.trip ||| 2 ^ i, first := if s.pwr.trip = 0 then i else s.pwr.first } })
  ∧ ∀ s : State, s.powered = true → s.pwr.stage ≠ 1 →
    (∃ t, exec .dieHot s = .next t ∧ t.pwr.halted = true ∧ t.pwr.trip = s.pwr.trip ||| 1)
    ∧ (∃ t, exec .dieCrit s = .next t ∧ t.pwr.halted = true ∧ t.pwr.trip = s.pwr.trip ||| 2 ∧ t.pwr.critPending = true)
    ∧ (∃ t, exec .vinUv s = .next t ∧ t.pwr.halted = true ∧ t.pwr.trip = s.pwr.trip ||| 4)
    ∧ (∃ t, exec .vinOv s = .next t ∧ t.pwr.halted = true ∧ t.pwr.trip = s.pwr.trip ||| 8)
    ∧ (∃ t, exec .coolant s = .next t ∧ t.pwr.halted = true ∧ t.pwr.trip = s.pwr.trip ||| 16)
    ∧ (s.orb.run = true → ∃ t, exec (.lossOfTick false) s = .next t ∧ t.pwr.halted = true ∧ t.pwr.trip = s.pwr.trip ||| 32)
    ∧ (s.orb.run = true → ∃ t, exec (.lossOfTick true) s = .next t ∧ t.pwr.halted = true ∧ t.pwr.trip = s.pwr.trip ||| 64
      ∧ t.orb.run = false)

/-- R34, R36, R58, R60: what a written ORB_CTRL does in a module that does not count, and that it is answered. R34, R58: a
written ORB_CTRL withdraws an ARM whose mark has not come, and STOP asks a counting module without an active image to end
its count. -/
def Obligations.OrbControlWrites : Prop :=
  (
    ∀ (s : State) (r : Requester) (d : Nat) (v : W64), s.reaches r d .orb 0 → s.orb.run = false → s.orb.arm = false →
      (bit v.toNat 2 = false → bit v.toNat 3 = false → 1250 ≤ s.orb.periodSh → s.orb.periodSh ≤ 2500000 →
        ∃ u, u = { s with orb := { s.orb with
            arm := true, join := false, tag := bits v.toNat 8 8, period := s.orb.periodSh, plan := none, joinPort := none } }
          ∧ exec (.orbArm r v) s = .next ((if s.orb.join then u.joinPorts else u).emit (written r 0x100000)))
      ∧ (bit v.toNat 1 = false → bit v.toNat 3 = false →
        ∃ u, u = { s with orb := { s.orb with join := true, tag := bits v.toNat 8 8 } }
          ∧ exec (.orbJoin r v) s = .next ((if s.orb.join then u else u.joinPorts).emit (written r 0x100000)))
      ∧ (bit v.toNat 1 = false → bit v.toNat 3 = false →
        ∃ u, u = { s with orb := { s.orb with join := false, tag := bits v.toNat 8 8, plan := none, joinPort := none } }
          ∧ exec (.orbJoinWithdraw r v) s = .next ((if s.orb.join then u.joinPorts else u).emit (written r 0x100000))))
  ∧ (∀ (u : State), (∀ p, p < 24 → (u.port p).state ≠ 5 ∧ (u.port p).state ≠ 6) → u.joinPorts = u)
  ∧ (∀ (u : State) (p : Nat), p < 24 → u.orb.join = false → (u.port p).state = 6 → u.portEntry p = none → (u.joinPorts.port p).state = 5)
  ∧ (
    ∀ (s : State) (r : Requester) (d : Nat) (v : W64), s.reaches r d .orb 0 → bit v.toNat 2 = false →
      (s.orb.run = false → s.orb.arm = true → s.orb.accepted = none → bits v.toNat 8 8 = s.orb.tag → bit v.toNat 3 = false →
        ∃ o u, o.arm = false ∧ o.join = false ∧ o.run = false ∧ u = { s with orb := o }
          ∧ exec (.orbDisarm r v) s = .next ((if s.orb.join then u.joinPorts else u).emit (written r 0x100000)))
      ∧ (s.orb.run = true → s.orb.arm = false → bit v.toNat 1 = false → s.defined.any (fun k => (s.active k).isSome) = false →
        ∃ o u, o.stop = true ∧ o.run = true ∧ o.number = s.orb.number ∧ u = { s with orb := o }
          ∧ exec (.orbStop r v) s = .next ((if s.orb.join then u.joinPorts else u).emit (written r 0x100000))))

/-! ## Register writes (02, 07, 09 to 13, 15) -/

/-- R56, R412: a RESUME asked for in HOLD is taken, and GLB_TIME is set while the module does not count. Nothing else
changes. -/
def Obligations.ResumeAndTimeWrites : Prop :=
  ∀ (s : State) (r : Requester) (d : Nat) (v : W64),
    (s.reaches r d .orb 0x38 → s.held d = true → s.orb.number + 1 < bits v.toNat 0 48 → (s.district d).flt.busy = false →
      (s.district d).flt.stale = [] →
      exec (.orbResume r v) s
        = .next ((s.modBar d fun b => { b with resume := some (bits v.toNat 0 48) }).emit (written r 0x100038)))
    ∧ (s.reaches r d .glb 0x10 → s.orb.run = false →
      exec (.glbTimeWrite r v) s = .next { s with clk := { s.clk with ns := v.toNat }, out := written r 0x10 :: s.out })

/-- R305: a write to an SH register changes its shadow alone, and is refused with REFUSED_BUSY, without effect, while the
section that sets it waits or a commit is pending. R11: a W1C bit falls where the word has a 1; R9: a read-only register
discards the word. -/
def Obligations.ShadowAndPlainWrites : Prop :=
  ∀ (s : State) (r : Requester) (d : Nat) (v : W64),
    (s.reaches r d .orb 0x08 → s.orb.run = false → s.shBusy d 2 = false →
      exec (.shFieldWrite r 0x100008 v) s
        = .next { s with orb := { s.orb with periodSh := bits v.toNat 0 22 }, out := written r 0x100008 :: s.out })
    ∧ (s.reaches r d .orb 0x08 → s.orb.run = false → s.shBusy d 2 = true →
      exec (.shFieldWrite r 0x100008 v) s
        = .next { s with out := .access r (csrBase + 0x100008) .refusedBusy 0 :: s.out })
    ∧ (∀ n : Fin 4, s.reaches r d .num (8 * n.val) → s.shBusy n.val 0 = false →
      exec (.shFieldWrite r (0xB00000 + 8 * n.val) v) s
        = .next ((s.modNum n.val fun x => { x with seedSh := v.toNat }).emit (written r (0xB00000 + 8 * n.val))))
    ∧ (∀ n : Fin 512, s.reaches r d .core (0x10000 * n.val + 0x18) →
      exec (.registerWrite r (0x10000018 + 0x10000 * n.val) v) s
        = .next ((s.modCore n.val fun c => { c with
            checkFail := c.checkFail && !bit v.toNat 0, checkExhausted := c.checkExhausted && !bit v.toNat 1 }).emit
              (written r (0x10000018 + 0x10000 * n.val))))
    ∧ (∀ o : Nat, o < 0x100000 → o % 8 = 0 → s.reaches r d .moon o →
      exec (.registerWrite r (0xD00000 + o) v) s = .next (s.emit (written r (0xD00000 + o))))

/-- R212: a flush drops the boxes' queued items from the next message boundary, and their rounds; R210: a DLR_TAIL moves up. -/
def Obligations.PostboxWrites : Prop :=
  ∀ (s : State) (r : Requester) (d : Nat) (v : W64),
    (∀ (box k e : Nat), s.reaches r d .pbx 8 → box < 4096 → s.boxOwner box = some (k, e) → k = d → s.fenced d = false →
      ∃ t, exec (.pbxFlushBox r box) s = .next t
        ∧ (t.box box).items = (s.box box).items.takeWhile (fun i => i.index != 0) ∧ (t.box box).results = [] ∧ (t.box box).cur = []
        ∧ (t.box box).rounds = 0 ∧ (∀ b, b ≠ box → t.box b = s.box b) ∧ t.out = written r 0x700008 :: s.out ∧ t.mem = s.mem)
    ∧ (s.reaches r d .pbx 8 → s.fenced d = false →
      exec (.pbxFlushAll r) s
        = .next ((s.each (s.boxesOf d) fun x t => t.flushBox x.1 false).emit (written r 0x700008)))
    ∧ (∀ n : Fin 4, s.reaches r d .pbx (0x118 + 0x40 * n.val) →
      gap 27 (s.district n.val).pbx.dlrHead (bits v.toNat 0 27) ≤ (s.district n.val).pbx.records →
      exec (.dlrTailWrite r n v) s
        = .next ((s.modPbx n.val fun p => { p with dlrTail := bits v.toNat 0 27 }).emit (written r (0x700118 + 0x40 * n.val))))

/-- R282: DISABLE takes an unbound port out of service, its clearing starts full training, and RETRAIN retrains a trained
port. -/
def Obligations.PortControlWrites : Prop :=
  ∀ (s : State) (r : Requester) (d : Nat) (port : Fin 24) (v : W64), s.reaches r d .tlk (0x20 + 0x4000 * port.val) →
    s.portEntry port.val = none →
    (∃ t, exec (.tlkDisable r port v) s = .next t ∧ (t.port port.val).disable = true ∧ (t.port port.val).state = 9 ∧ t.mem = s.mem)
    ∧ ((s.port port.val).state = 9 → bit v.toNat 1 = false →
      ∃ t, exec (.tlkEnable r port v) s = .next t ∧ (t.port port.val).disable = false ∧ t.mem = s.mem
        ∧ (s.mayTrain = true → (t.port port.val).state = 1 ∧ (t.port port.val).next = 0 ∧ (t.port port.val).replay = [])
        ∧ (s.mayTrain = false → (t.port port.val).state = 0))
    ∧ (4 ≤ (s.port port.val).state → (s.port port.val).state ≤ 7 → bit v.toNat 0 = false →
      ∃ t, exec (.tlkRetrain r port v) s = .next t ∧ (t.port port.val).state = 8 ∧ (t.port port.val).retrainEv = true
        ∧ (t.port port.val).replay = (s.port port.val).replay ∧ (t.port port.val).next = (s.port port.val).next)

/-- R322, R336: the command and completion rings take a new tail, head or base. -/
def Obligations.CommandRingWrites : Prop :=
  ∀ (s : State) (r : Requester) (d : Nat) (v : W64),
    (s.reaches r d .dst 0x30 → (s.district d).host.badTailFor (bits v.toNat 0 32) = false →
      exec (.cmdTailWrite r v) s = .next ((s.modHost d fun h => { h with cmdTail := bits v.toNat 0 32 }).emit (written r 0x300030)))
    ∧ (s.reaches r d .dst 0x50 →
      ahead (bits v.toNat 0 32) (s.district d).host.cplHead ≤ ahead (s.district d).host.cplTail (s.district d).host.cplHead →
      exec (.cplHeadWrite r v) s = .next ((s.modHost d fun h => { h with cplHead := bits v.toNat 0 32 }).emit (written r 0x300050)))
    ∧ (s.reaches r d .dst 0x28 → bit v.toNat 53 = true → (s.district d).host.cmdEn = false →
      s.badRing d v.toNat 64 ((s.district d).host.cplEn && decide ((s.district d).host.cplLog2 < bits v.toNat 48 5)) = false →
      exec (.cmdRingWrite r v) s = .next ((s.modHost d fun h => { h with
        cmdBase := bits v.toNat 0 48, cmdLog2 := bits v.toNat 48 5, cmdEn := true, cmdHead := 0, cmdTail := 0 }).emit (written r 0x300028)))
    ∧ (s.reaches r d .dst 0x40 → bit v.toNat 53 = true → (s.district d).host.cplEn = false →
      s.badRing d v.toNat 32 ((s.district d).host.cmdEn && decide (bits v.toNat 48 5 < (s.district d).host.cmdLog2)) = false →
      exec (.cplRingWrite r v) s = .next ((s.modHost d fun h => { h with
        cplBase := bits v.toNat 0 48, cplLog2 := bits v.toNat 48 5, cplEn := true, cplHead := 0, cplTail := 0 }).emit (written r 0x300040)))

/-- R291, R295, R301, R378: a load begins, a loaded image waits for its orbit, a commit or a snapshot request is taken back
or asked for. -/
def Obligations.ImageAndSnapshotWrites : Prop :=
  ∀ (s : State) (r : Requester) (d : Nat) (v : W64), s.halted = false → s.fenced d = false →
    (s.reaches r d .img 0x10 → bits v.toNat 0 48 = 0 → s.loadable d (s.district d).img.base (s.district d).img.len = true →
      (s.district d).img.base % 64 = 0 → (s.district d).img.len % 64 = 0 → (s.district d).img.len ≤ 134217728 →
      (s.district d).img.len ≠ 0 → (s.district d).img.shadow ≠ 1 → (s.district d).img.commit = 0 →
      ∃ t, exec (.imgLoad r v) s = .next t ∧ (t.district d).img.shadow = 1 ∧ (t.district d).img.loaded = none
        ∧ (t.district d).img.loadBase = (s.district d).img.base ∧ (t.district d).img.loadLen = (s.district d).img.len
        ∧ (t.district d).img.active = (s.district d).img.active ∧ t.out = written r 0x200010 :: s.out ∧ t.mem = s.mem)
    ∧ (s.reaches r d .img 0x10 → s.orb.run = true → s.orb.number < bits v.toNat 0 48 → (s.district d).img.shadow = 2 →
      (s.district d).img.commit = 0 → (s.district d).img.active.isSome →
      exec (.imgCommit r v) s
        = .next ((s.modImg d fun g => { g with commit := 1, target := bits v.toNat 0 48 }).emit (written r 0x200010)))
    ∧ (s.reaches r d .img 0x10 → (s.district d).img.commit ≠ 0 →
      exec (.imgCancel r v) s = .next ((s.modImg d fun g => { g with commit := 0, target := 0 }).emit (written r 0x200010)))
    ∧ (s.reaches r d .snp 0 → s.orb.run = true → s.orb.number < bits v.toNat 0 48 → (s.district d).snp.state = 0 →
      exec (.snpReqWrite r v) s
        = .next ((s.modSnp d fun x => { x with orbit := bits v.toNat 0 48, state := 1 }).emit (written r 0x800000)))

/-- R354, R361, R364, R371, R341: REWIND restores the previous generation, ROLLFWD is asked for, DRESET stops a district and
starts its copy-back, and the log's tail and the restore's arming are written. -/
def Obligations.RecoveryWrites : Prop :=
  ∀ (s : State) (r : Requester) (d : Nat) (v : W64),
    (s.reaches r d .flt 0x28 → s.held d = true → (s.district d).flt.rewindable = true → (s.district d).flt.busy = false →
      ∃ t, exec (.rewind r) s = .next t ∧ (t.district d).orb.step = stepBefore (s.district d).orb.step
        ∧ (t.district d).flt.rewindable = false ∧ (t.district d).flt.gen = (t.district d).orb.step
        ∧ ((t.district d).flt.copyBack = none ↔ (s.district d).flt.prevDirty = []) ∧ t.mem = s.mem)
    ∧ (s.reaches r d .flt 0x28 → s.held d = true → (s.district d).flt.busy = false → (s.district d).flt.stale ≠ [] →
      exec (.rollfwd r) s = .next ((s.modFlt d fun f => { f with rollAsked := true }).emit (written r 0x900028)))
    ∧ (s.reaches r d .flt 8 → ahead (s.district d).flt.head (bits v.toNat 0 32) ≤ 256 →
      exec (.fltTailWrite r v) s = .next ((s.modFlt d fun f => { f with tail := bits v.toNat 0 32 }).emit (written r 0x900008)))
    ∧ (s.reaches r d .flt 0x30 → s.active d = none →
      exec (.fltRestoreWrite r v) s
        = .next ((s.modFlt d fun f => { f with restArm := bit v.toNat 0, restStep := bits v.toNat 8 24 }).emit (written r 0x900030)))

/-- R341: Moon's DRESET of a fenced district, or of one without an active image, begins: its work stops, and its copy-back
starts where pages are DIRTY. -/
def Obligations.DistrictResetBegins : Prop :=
  ∀ (s : State) (d : Fin 4), s.halted = false → (s.fenced d.val = true ∨ s.active d.val = none) → (s.district d.val).flt.resetting = false →
    ∃ t, exec (.dreset (.moon d)) s = .next t ∧ (t.district d.val).flt.resetting = true
      ∧ ((t.district d.val).flt.copyBack = none ↔ (t.district d.val).flt.dirty = []) ∧ (t.district d.val).host.cmds = []
      ∧ t.mem = s.mem ∧ t.pwr = s.pwr ∧ t.out = written (.moon d) 0x900028 :: s.out

/-- R362: a serve asked for in HOLD over an open CKP TX ring begins. R408, R411: a change of power state is asked for; R418:
a warm reset is. -/
def Obligations.ServeAndPowerWrites : Prop :=
  ∀ (s : State) (r : Requester) (d : Nat) (v : W64),
    (∀ n : Fin 4, s.reaches r d .spr (0x120 + 0x40 * n.val) → s.fenced n.val = false → s.held n.val = true →
      s.ckpRing n.val (bits v.toNat 0 12) = true → (bits v.toNat 12 2 = 1 ∨ bits v.toNat 12 2 = 2) →
        (s.district n.val).mir.serving = false →
      exec (.sprServe r n v) s
        = .next ((s.startServe n.val (bits v.toNat 0 12) (bits v.toNat 12 2)).emit (written r (0xA00120 + 0x40 * n.val))))
    ∧ (s.reaches r d .pwr 8 → s.pwr.changing = false → s.pwr.state = .drowse →
      exec (.pwrTargetRun r) s
        = .next { s with pwr := { s.pwr with changing := true, target := .run }, out := written r 0xC00008 :: s.out })
    ∧ (s.reaches r d .pwr 8 → s.pwr.changing = false → s.pwr.state = .run → s.defined.any s.engaged = false →
      exec (.pwrTargetDrowse r) s
        = .next { s with pwr := { s.pwr with changing := true, target := .drowse }, out := written r 0xC00008 :: s.out })
    ∧ (s.reaches r d .pwr 8 → s.pwr.changing = false → s.pwr.state = .drowse →
      exec (.pwrTargetSleep r) s
        = .next { s with pwr := { s.pwr with changing := true, target := .sleep }, out := written r 0xC00008 :: s.out })
    ∧ (s.reaches r d .pwr 0x10 → s.pwr.offCause ≠ 3 → s.pwr.memKept = true → s.pwr.halted = true →
      exec (.pwrResetWarm r) s = .next { s with pwr := { s.pwr with warmPending := true }, out := written r 0xC00010 :: s.out })

/-! ## The barrier and late work (02, 12) -/

/-- R54: a module that is alone in its job, without slots and without a mirror, proposes its arrival plus LEAD at its
arrival, and that is G. R55, R351: a barrier whose go does not come ends in HOLD, and so does a restart orbit that comes
unset. -/
def Obligations.BarrierEvents : Prop :=
  ∀ (s : State) (d : Fin 4), s.halted = false → s.fenced d.val = false →
    (s.orb.run = true → s.held d.val = false → s.atBarrier d.val = true → (s.district d.val).bar = {} → s.job d.val = none →
      s.slotsOf d.val = [] → (s.district d.val).mir.send = false → 1 ≤ s.orb.lead →
      ∃ t, exec (.barrierArrive d) s = .next t ∧ (t.district d.val).bar.arrived = some s.orb.number
        ∧ (t.district d.val).bar.go = some (s.orb.number + s.orb.lead) ∧ (t.district d.val).orb.phase = .waitGo ∧ t.mem = s.mem)
    ∧ (∀ a : Nat, (s.district d.val).bar.arrived = some a → (s.district d.val).bar.go = none → a + s.orb.timeout ≤ s.orb.number →
      (s.active d.val).isSome → ∃ t, exec (.barrierTimeout d) s = .next t ∧ t.held d.val = true ∧ t.mem = s.mem)
    ∧ (∀ a : Nat, (s.district d.val).bar.rolledBack = true → (s.district d.val).bar.restart = some a → a ≤ s.orb.number →
      (s.active d.val).isSome → ∃ t, exec (.restartTimeout d) s = .next t ∧ t.held d.val = true ∧ t.mem = s.mem)

/-- R46, R48, R50: late work that completes frees its core. With a cause that the module can see it is reported in ORB_OVERRUN,
and the core enters the orbit that runs; with none it fences the district. R366 to R368, R403: rotation reserves the lowest
free quad and writes the tables; a lane swap is proposed, selected at both ends, and dropped where it does not end in time (its
messages: log entry 39). -/
def Obligations.LateWorkAndSparing : Prop :=
  (
    ∀ (s : State) (d : Nat) (x : CoreTime) (w : Work) (o : Nat), s.coreDistrict x.core = some d → x.core < 512 → s.halted = false →
      s.fenced d = false → (s.core x.core).work = some w → (s.core x.core).busy = false → (s.core x.core).lateOrbit = some o →
      ∀ cause, cause = s.overrunCause d x (fun m => (s.core m).lateIn w.orbit) →
      ∃ t, exec (.lateWorkComplete [x]) s = .next t ∧ t.mem = s.mem ∧ t.orb = s.orb ∧ t.pwr = s.pwr
        ∧ (t.core x.core).lateOrbit = none ∧ (t.core x.core).lateLast = some w.orbit ∧ (t.core x.core).lastCause = cause
        ∧ (t.district d).orb.ovCause = cause ∧ (t.district d).orb.ovCore = x.core ∧ (t.district d).orb.ovOrbit = w.orbit % 2 ^ 32
        ∧ (cause ≠ 0 →
          (t.district d).orb = { (s.district d).orb with
            ovNotice := true, ovCause := cause, ovCore := x.core, ovOrbit := w.orbit % 2 ^ 32 }
          ∧ (∀ n, n ≠ x.core → t.core n = s.core n)
          ∧ ((s.district d).bar.arrived.isSome → (t.core x.core).work = none)
          ∧ (∀ g i, (s.district d).bar.arrived = none → s.active d = some g → s.runIndex d = some i →
            (g.rowAt x.core i = none → (t.core x.core).work = none)
            ∧ (∀ j e, g.rowAt x.core i = some (j, e) →
              (t.core x.core).work = some ⟨s.orb.number, j, g.phaseAt i, false⟩ ∧ (t.core x.core).row = j
                ∧ ((s.core x.core).tile = none → (t.core x.core).next = fld e 12 0 12))))
        ∧ (cause = 0 → t.fenced d = true ∧ (t.district d).orb.ovFence = true))
  ∧ (
    (∀ (s : State) (q : Nat) (rest : List Nat), s.halted = false → s.moon.running = true → s.spr.interval ≠ 0 →
        s.spr.interval ≤ s.spr.since → s.spr.free = q :: rest → (s.spr.swaps.any fun w => w.quad == s.spr.next) = false →
        ∃ t, exec .quadRotationSwap s = .next t
          ∧ t = { s with spr := t.spr, moon := { s.moon with flash := { s.moon.flash with tables := t.moon.flash.tables } } }
          ∧ t.spr = { s.spr with
              free := rest
              swaps := (s.spr.swaps.map fun w => { w with written := true }) ++ [⟨s.spr.next, q, false, true⟩]
              next := (s.spr.next + 1) % 128, since := 0 }
          ∧ (s.moon.flash.tables.inForce.seq + 1 < 2 ^ 32 → t.moon.flash.tables.inForce.content = t.repairTables))
    ∧ (∀ (s : State) (p : Fin 24) (i : Nat), (s.port p).swapTx = some (.bridged i) →
        exec (.laneSwapSelected p) s = .next (s.modPort p fun x => { x with swapTx := none }))
    ∧ (∀ (s : State) (p : Fin 24) (i : Nat), (s.port p).swapRx = some (.bridged i) →
        ∃ t, exec (.spareLaneSelect p) s = .next t ∧ (t.port p).swapRx = none
          ∧ (t.port p).map = ((s.port p).spareFor (laneAt (s.port p).map i)).map ∧ t.mem = s.mem
          ∧ (s.portFenced p = false →
            ∃ g, (t.port p).queue = (s.port p).queue ++ [g] ∧ g.payload = leBytes 2 (0x100 + i) ∧ hdrOpcode g.hdr = 0xD))
    ∧ (∀ (s : State) (p : Fin 24) (i : Nat), (s.port p).swapTx = some (.bridged i) ∨ (s.port p).swapRx = some (.bridged i) →
        ∃ t, exec (.laneSwapTimeout p) s = .next t ∧ (t.port p).swapTx = none ∧ (t.port p).swapRx = none ∧ (t.port p).map = (s.port p).map
          ∧ (∀ k, k ≠ p.val → t.port k = s.port k) ∧ t.mem = s.mem)
    ∧ (∀ (s : State) (p : Fin 24) (lane est prbsBits prbsErr spareEst corrected uncorr : Nat),
        s.halted = false → s.moon.running = true → (s.port p).state = 6 → (s.port p).spareUsed = false → (s.port p).swapping = false →
        fLt s.moon.cfg.threshold est = true → fLt spareEst s.moon.cfg.threshold = true → lane < 4 →
        ∃ t, exec (.preFecEstimateUpdate p lane est prbsBits prbsErr spareEst corrected uncorr) s = .next t
          ∧ t.cnt.get 0 (ctrPort p 10) = est % 2 ^ 32 ∧ (t.port p).swapTx = some (.proposed lane)
          ∧ (t.port p).swapRx = (s.port p).swapRx ∧ t.mem = s.mem
          ∧ (s.portFenced p = false →
            ∃ g, (t.port p).queue = (s.port p).queue ++ [g] ∧ g.payload = leBytes 2 lane ∧ hdrOpcode g.hdr = 0xD)))

/-! ## The pass sequencer (03) -/

/-- R66 to R68: LOOP with COUNT 0 skips its body and otherwise enters it, ENDLOOP starts the next iteration or leaves, END
ends the orbit's work; R89: an idle array ramps down. Only the core's own fields named here change. -/
def Obligations.SequencerControl : Prop :=
  ∀ (s : State) (n : Fin 512),
    (∀ f, s.fetchOp n 6 = some f → fld f.w 1 0 24 = 0 →
      exec (.loop n) s = .next (s.modCore n fun c => { c with pc := c.next, next := skipBody f.prog f.prog.length (c.next + 1) 0 }))
    ∧ (∀ f, s.fetchOp n 6 = some f → fld f.w 1 0 24 ≠ 0 →
      exec (.loop n) s = .next (s.modCore n fun c => { c with pc := c.next, next := c.next + 1, loops :=
        ⟨c.next, fld f.w 1 0 24, 0, signed 24 (fld f.w 4 0 24), signed 24 (fld f.w 8 0 24), signed 24 (fld f.w 12 0 24)⟩ :: c.loops }))
    ∧ (∀ f l ls, s.fetchOp n 7 = some f → (s.core n).loops = l :: ls → l.left ≤ 1 →
      exec (.endloop n) s = .next (s.modCore n fun c => { c with pc := c.next, next := c.next + 1, loops := ls }))
    ∧ (∀ f l ls, s.fetchOp n 7 = some f → (s.core n).loops = l :: ls → 1 < l.left →
      exec (.endloop n) s = .next (s.modCore n fun c =>
        { c with pc := c.next, next := l.start + 1, loops := { l with left := l.left - 1, iter := l.iter + 1 } :: ls }))
    ∧ (∀ f, s.fetchOp n 15 = some f → (s.core n).tile = none →
      exec (.endProg n) s = .next (s.modCore n fun c =>
        { c with pc := c.next, next := c.next + 1, work := c.work.map fun w => { w with ended := true } }))
    ∧ exec (.arrayRampDown n) s = .next (s.modCore n fun c => { c with groups := 0 })

/-- R69, R70, R96: a PASS that must wait, for an instruction of its own core or of another whose arrays it uses, changes only
PC. One without rows or columns only counts. One whose rows are all released, whatever replays that took, has written what its
attempts wrote, used its arrays, counted its MACs and its events, and the next instruction follows; `j` is the pass and `x` what
its attempts leave. -/
def Obligations.PassCompletes : Prop :=
  ∀ (s : State) (n : Fin 512) (errs : PassErrs) (f : Fetched), s.fetchOp n 1 = some f → errs.ecc = [] →
    ∀ (p : PassI) (c : Nat) (j : PassJob), p = passOf f.w → c = ((s.active f.d).bind (·.chain p.chain)).getD 0 →
      j = ⟨n, (s.core n).next, p, c, (s.core n).loops, s.env f.d, errs, s⟩ →
    ((∃ m ∈ s.passCores n p, (s.core m).mayPass (passReads (j.ctx s n)) (passWrites (j.ctx s n)) = false) →
      exec (.pass n errs) s = .next (s.modCore n fun c => { c with pc := c.next }))
    ∧ ((∀ m ∈ s.passCores n p, (s.core m).mayPass (passReads (j.ctx s n)) (passWrites (j.ctx s n)) = true) → p.live = false →
      ∃ t, exec (.pass n errs) s = .next t ∧ (t.core n).pc = (s.core n).next ∧ (t.core n).next = (s.core n).next + 1
        ∧ (∀ m, m ≠ n.val → t.core m = s.core m) ∧ t.mem = s.mem ∧ t.dist = s.dist ∧ t.slots = s.slots)
    ∧ (∀ x k, (∀ m ∈ s.passCores n p, (s.core m).mayPass (passReads (j.ctx s n)) (passWrites (j.ctx s n)) = true) → p.live = true →
      j.attempts (p.keep && (s.core n).resident == some (p.tile n) && (p.tile n).whole) (s.core n).replayMax 0
        ⟨(s.issue n).count (ctrCore n 0) 1, 0, {}, none⟩ = (x, k, none) → x.fault = none →
      ∃ t, exec (.pass n errs) s = .next t ∧ t.mem = x.s.mem ∧ (t.core n).pc = (s.core n).next ∧ (t.core n).next = (s.core n).next + 1
        ∧ t.orb = s.orb ∧ t.boxes = s.boxes ∧ t.rings = s.rings ∧ t.queues = s.queues)

/-! ## SEND, READ and the boxes (07) -/

/-- R197, R200, R203: a SEND to a live postbox with room claims its cells and advances, whether at once or after it waited,
a SEND of no items only advances, and a core's first message is then linked behind the items that wait in its postbox. -/
def Obligations.SendClaimsAndLinks : Prop :=
  ∀ (s : State) (n : Fin 512),
    (∀ f, s.fetchOp n 2 = some f → (s.core n).maySend (sendRanges n f.w) = true → ∀ e, (s.active f.d).bind (·.boxEntry (fld f.w 2 0 12)) = some e →
      (fld f.w 4 0 11 = 0 → exec (.send n []) s = .next (s.modCore n fun c => { c with pc := c.next, next := c.next + 1 }))
      ∧ (fld f.w 4 0 11 ≠ 0 → beCollection e = false → (s.box (fld f.w 2 0 12)).state ≠ 2 →
        s.boxRoom f.d (fld f.w 2 0 12) (fld f.w 4 0 11) = true →
        ∃ t, exec (.send n []) s = .next t ∧ (t.core n).pc = (s.core n).next ∧ (t.core n).next = (s.core n).next + 1
          ∧ (t.core n).unlinked = (s.core n).unlinked ++ [(fld f.w 2 0 12, sendItems s n f.w)] ∧ (∀ m, m ≠ n.val → t.core m = s.core m)
          ∧ t.boxes = s.boxes ∧ t.mem = s.mem))
    ∧ (∀ d w e, s.coreDistrict n = some d → s.halted = false → s.fenced d = false → (s.core n).sendWait = some w → fld w 4 0 11 ≠ 0 →
      (s.active d).bind (·.boxEntry (fld w 2 0 12)) = some e → beCollection e = false → (s.box (fld w 2 0 12)).state ≠ 2 →
      s.boxRoom d (fld w 2 0 12) (fld w 4 0 11) = true →
      ∃ t, exec (.sendClaim n) s = .next t ∧ (t.core n).sendWait = none
        ∧ (t.core n).unlinked = (s.core n).unlinked ++ [(fld w 2 0 12, sendItems s n w)] ∧ (∀ m, m ≠ n.val → t.core m = s.core m) ∧ t.boxes = s.boxes ∧ t.mem = s.mem)
    ∧ (∀ d b xs rest e, s.coreDistrict n = some d → s.halted = false → s.fenced d = false → (s.core n).unlinked = (b, xs) :: rest →
      (s.box b).state ≠ 2 → (s.active d).bind (·.boxEntry b) = some e → (s.core (beReader e)).outs = [] →
      ∃ t, exec (.messageLink n) s = .next t ∧ (t.core n).unlinked = rest ∧ (t.box b).items = (s.box b).items ++ xs
        ∧ (∀ m, m ≠ n.val → t.core m = s.core m) ∧ (∀ k, k ≠ b → t.box k = s.box k) ∧ t.mem = s.mem)

/-- R198, R202, R209: a READ of no items completes; one whose postbox is empty becomes outstanding; one whose postbox holds
enough takes the items in order. R207: a postbox dies empty. R214: a completed round is linked into OUT. -/
def Obligations.ReadsDeathsAndRounds : Prop :=
  ∀ (s : State),
    (∀ (n : Fin 512) f, s.fetchOp n 3 = some f → (s.box (fld f.w 2 0 12)).state ≠ 2 → (s.core n).outs = [] → (s.core n).outsFull = false →
      fld f.w 1 0 1 = 0 →
      (fld f.w 4 0 13 = 0 → exec (.read n) s = .next (s.modCore n fun c => { c with pc := c.next, next := c.next + 1 }))
      ∧ (fld f.w 4 0 13 ≠ 0 → (s.box (fld f.w 2 0 12)).items = [] →
        exec (.read n) s = .next (s.modCore n fun c => { c with pc := c.next, next := c.next + 1, outs :=
          [⟨(s.core n).next, .read (fld f.w 2 0 12) (fld f.w 8 0 20) (fld f.w 4 0 13) (fld f.w 1 1 1 == 1) false, [],
            [(sramAddr n (fld f.w 8 0 20), fld f.w 4 0 13 * if fld f.w 1 1 1 == 1 then 64 else 32)]⟩] }))
      ∧ (∀ e, fld f.w 4 0 13 ≠ 0 → (s.active f.d).bind (·.boxEntry (fld f.w 2 0 12)) = some e → beReader e = n.val →
        fld f.w 4 0 13 ≤ (s.box (fld f.w 2 0 12)).items.length →
        ∃ t, exec (.read n) s = .next t ∧ (t.core n).next = (s.core n).next + 1 ∧ (t.core n).outs = []
          ∧ (t.box (fld f.w 2 0 12)).items = (s.box (fld f.w 2 0 12)).items.drop (fld f.w 4 0 13)
          ∧ (∀ k, k ≠ fld f.w 2 0 12 → t.box k = s.box k)
          ∧ (Memory.wf s.mem → ∀ a, (a < sramAddr n (fld f.w 8 0 20)
              ∨ sramAddr n (fld f.w 8 0 20) + (fld f.w 4 0 13 * if fld f.w 1 1 1 == 1 then 64 else 32) ≤ a) →
            Memory.get t.mem a = Memory.get s.mem a)))
    ∧ (∀ b d e, s.boxOwner b = some (d, e) → s.halted = false → s.fenced d = false → (s.box b).dying = true →
      (s.core (beReader e)).outs = [] →
      ∃ t, exec (.postboxDeath b) s = .next t ∧ (t.box b).state = 2 ∧ (t.box b).items = [] ∧ (t.box b).dying = false
        ∧ (∀ k, k ≠ b → t.box k = s.box k) ∧ t.cores = s.cores)
    ∧ (∀ b d e x rest e2, s.boxOwner b = some (d, e) → beCollection e = true → s.halted = false → s.fenced d = false →
      (s.box b).results = x :: rest → beOut e ≠ b → (s.active d).bind (·.boxEntry (beOut e)) = some e2 →
      (s.box (beOut e)).state ≠ 2 → s.boxRoom d (beOut e) 1 = true → (s.core (beReader e2)).outs = [] →
      ∃ t, exec (.collectionRoundDeliver b) s = .next t ∧ (t.box b).results = rest ∧ (t.box b).rounds = ((s.box b).rounds + 1) % 2 ^ 16
        ∧ (t.box (beOut e)).items = (s.box (beOut e)).items ++ [x] ∧ t.cores = s.cores ∧ t.mem = s.mem)

/-! ## XFER, AWAIT and the stage queues (08) -/

/-- R69, R237, R242: a COPY moves its bytes and advances, and with ENQ hands the message to its stage queue under the postmark
with the step in it; SEND and FORWARD give their message to the TX ring and become outstanding; RELEASE gives up the hold of
its item. A slot that another instruction has yet to write makes them wait. -/
def Obligations.XferCompletes : Prop :=
  ∀ (s : State) (n : Fin 512),
    (∀ f src dst u, s.fetchXfer n 0 = some f → dst = s.tileAddr n (fld f.w 16 0 48) → s.xferSource n f.w = some src →
      (s.core n).mayStart ((src, xferLen f.w) :: xferSlots n f.w) [(dst, xferLen f.w)] = true →
      u = (s.modCore n fun c => { c with pc := c.next, next := c.next + 1 }).keepForTile n dst (xferLen f.w) →
      (xferEnq f.w = false → ∃ t, exec (.xferCopy n []) s = .next t ∧ (t.core n).pc = (s.core n).next
        ∧ (t.core n).next = (s.core n).next + 1 ∧ (∀ m, m ≠ n.val → t.core m = s.core m)
        ∧ t.mem = (u.copy f.d src dst (xferLen f.w)).mem
        ∧ t.boxes = s.boxes ∧ t.rings = s.rings ∧ t.queues = s.queues ∧ t.orb = s.orb)
      ∧ (xferEnq f.w = true → exec (.xferCopy n []) s = .next (
        let x : SItem := { addr := dst, len := xferLen f.w, ringed := false, ring := 0, unit := 0, lcnt := 0
                           postmark := fld f.w 24 0 64 + (s.env f.d).step, src := 0, queue := xferTarget f.w % 256, useMb := true
                           host := false, handle := 0 }
        (((u.copy f.d src dst (xferLen f.w)).wroteLines dst (xferLen f.w)).modCore n fun c => { c with outs := c.outs ++
          [⟨(s.core n).next, .enqueue x, [(src, xferLen f.w)], [(dst, xferLen f.w)]⟩] }).enqueue f.d (xferTarget f.w % 256) x
            (some (.core n)))))
    ∧ (∀ f src e, s.fetchXfer n 1 = some f → s.xferSource n f.w = some src →
      (s.core n).mayStart ((src, xferLen f.w) :: xferSlots n f.w) [] = true → (s.active f.d).bind (·.ringEntry (xferTarget f.w)) = some e →
      exec (.xferSend n []) s = .next ((s.modCore n fun c => { c with pc := c.next, next := c.next + 1, outs := c.outs ++
        [⟨(s.core n).next, .send (xferTarget f.w) (s.ring (xferTarget f.w)).serial, (src, xferLen f.w) :: xferSlots n f.w, []⟩] }).giveMessage
          f.d (xferTarget f.w) e (.core n) (fld f.w 24 0 64 + (s.env f.d).step) (xferLen f.w) (fld f.w 16 0 16) [] src false))
    ∧ (∀ f x e, s.fetchXfer n 2 = some f → s.heldItem n (xferSlot f.w) = some x →
      (s.core n).mayStart [(sramAddr n (xferSlot f.w), 32), (x.addr, x.len)] [] = true →
      (s.active f.d).bind (·.ringEntry (xferTarget f.w)) = some e →
      exec (.xferForward ⟨n, []⟩) s = .next ((s.modCore n fun c => { c with pc := c.next, next := c.next + 1, outs := c.outs ++
        [⟨(s.core n).next, .send (xferTarget f.w) (s.ring (xferTarget f.w)).serial,
          [(sramAddr n (xferSlot f.w), 32), (x.addr, x.len)], []⟩] }).giveMessage
          f.d (xferTarget f.w) e (.core n) x.postmark x.len x.lcnt [] x.addr false))
    ∧ (∀ f x, s.fetchXfer n 4 = some f → (s.core n).mayStart [(sramAddr n (xferSlot f.w), 32)] [] = true →
      s.heldItem n (xferSlot f.w) = some x → x.ringed = false →
      exec (.xferRelease ⟨n, []⟩) s = .next (s.modCore n fun c => { c with pc := c.next, next := c.next + 1
                                                                           held := c.held.filter fun y => decide (y ≠ x) }))
    ∧ (∀ f, s.fetchXfer n 0 = some f → (s.core n).mayStart (xferSlots n f.w) [(s.tileAddr n (fld f.w 16 0 48), xferLen f.w)] = false →
      exec (.xferCopy n []) s = .next (s.modCore n fun c => { c with pc := c.next, outsFull := c.outsFull || decide (16 ≤ c.outs.length) }))

/-- R229, R278: a message waits at a TX ring that is not open, behind those that wait there; at a dead ring it is dropped
and its sender goes on. -/
def Obligations.MessagesWait : Prop :=
  ∀ (s : State) (d r e n pm len lcnt addr : Nat) (head : List Byte) (old : Bool), (s.district d).flt.rollAt = none →
    ((s.ring r).state ≠ 1 → (s.ring r).state ≠ 2 →
      s.giveMessage d r e (.core n) pm len lcnt head addr old
        = s.modRing r fun x => { x with
            waiting := x.waiting ++ [⟨x.serial, .core n, pm, len, lcnt, head, addr, old⟩], serial := x.serial + 1 })
    ∧ ((s.ring r).state = 2 →
      s.giveMessage d r e (.core n) pm len lcnt head addr old
        = (s.count (ctrRing r 5) 1).modCore n fun c => c.complete fun o => OutKind.isSend r (s.ring r).serial o.kind)

/-- R244: an AWAIT takes the item with its postmark, writes its slot and holds it, or becomes outstanding; R238: the item at
the front of those that wait enters its stage queue. -/
def Obligations.AwaitsAndEnqueues : Prop :=
  ∀ (s : State),
    (∀ (n : Fin 512) f, s.fetchOp n 5 = some f → (s.core n).mayStart [] [(sramAddr n (fld f.w 4 0 20), 32)] = true →
      (∀ x, (s.queue (fld f.w 2 0 8)).items.find? (fun y => y.postmark == fld f.w 8 0 64 + (s.env f.d).step) = some x →
        ∃ t, exec (.awaitItem n) s = .next t ∧ (t.core n).pc = (s.core n).next ∧ (t.core n).next = (s.core n).next + 1
          ∧ (t.core n).held = (s.core n).held ++ [{ x with handle := s.memc.handle }]
          ∧ (t.queue (fld f.w 2 0 8)).items = (s.queue (fld f.w 2 0 8)).items.erase x
          ∧ t.mem = Memory.write s.mem (sramAddr n (fld f.w 4 0 20)) (itemSlot { x with handle := s.memc.handle })
          ∧ (∀ m, m ≠ n.val → t.core m = s.core m) ∧ (∀ q, q ≠ fld f.w 2 0 8 → t.queue q = s.queue q))
      ∧ ((s.queue (fld f.w 2 0 8)).items.find? (fun y => y.postmark == fld f.w 8 0 64 + (s.env f.d).step) = none →
        exec (.awaitItem n) s = .next (s.modCore n fun c => { c with pc := c.next, next := c.next + 1, outs := c.outs ++
          [⟨(s.core n).next, .await (fld f.w 2 0 8) (fld f.w 4 0 20) (fld f.w 8 0 64 + (s.env f.d).step), [],
            [(sramAddr n (fld f.w 4 0 20), 32)]⟩] })))
    ∧ (∀ q d e x rest, s.queueOwner q = some (d, e) → s.halted = false → s.fenced d = false → s.queueRoom d q e = true →
      (s.queue q).waiting = (x, none) :: rest → ((s.queue q).items.any fun y => y.postmark == x.postmark) = false →
      (x.useMb && !(s.mbInUse d).contains (bits x.postmark 24 16) && decide (256 ≤ (s.mbInUse d).length)) = false →
      (∀ n, (s.core n).outs = []) →
      ∃ t, exec (.stageEnqueue q) s = .next t ∧ (t.queue q).items = (s.queue q).items ++ [x] ∧ (t.queue q).waiting = rest
        ∧ (∀ k, k ≠ q → t.queue k = s.queue k) ∧ t.cores = s.cores ∧ t.mem = s.mem)

/-! ## Training (06) -/

/-- R178 to R188: a descriptor that passes its checks runs to its end, and the next instruction follows; UPDATE, PACK and
UNPACK write what their element, block and sum rules give, and a descriptor of no elements changes no memory. An UNPACK
whose records have not come becomes outstanding. -/
def Obligations.TrainingCompletes : Prop :=
  ∀ (s : State) (n : Fin 512) (f : Fetched) (e : Descr), s.fetchXfer n 3 = some f → e = s.num (sramAddr n (xferSlot f.w)) 128 →
    (s.core n).mayStart [(sramAddr n (xferSlot f.w), 128)] [] = true →
    (s.core n).mayStart ((sramAddr n (xferSlot f.w), 128) :: e.srcs n) e.dsts = true →
    descrCause s f.d n (s.corePhase f.d) e = none →
    ∀ u, u = (s.modCore n fun c => { c with pc := c.next }).count (ctrCore n 9) 1 →
    (e.op = 1 → (e.count = 0 ∨ (schedEntry e (s.env f.d).step).2 = false) →
      ∃ t, exec (.trainUpdate n ⟨[], []⟩) s = .next t ∧ (t.core n).pc = (s.core n).next ∧ (t.core n).next = (s.core n).next + 1
        ∧ t.mem = (if e.count = 0 then s.mem else (updateRun u (s.env f.d) n e 0 e.count).1.mem)
        ∧ t.orb = s.orb ∧ t.boxes = s.boxes ∧ t.rings = s.rings ∧ t.queues = s.queues)
    ∧ (e.op = 2 →
      ∃ t, exec (.trainPack n ⟨[], []⟩) s = .next t ∧ (t.core n).pc = (s.core n).next ∧ (t.core n).next = (s.core n).next + 1
        ∧ t.mem = ((List.range (e.count / 64 / 4)).foldl (fun (x : State × Acct) b =>
            ((packBlock x.1 (s.env f.d) e b).1, x.2.add (packBlock x.1 (s.env f.d) e b).2)) (u, {})).1.mem
        ∧ t.orb = s.orb ∧ t.boxes = s.boxes ∧ t.rings = s.rings ∧ t.queues = s.queues)
    ∧ (e.op = 3 → s.coreDistrict n = some f.d → s.halted = false → s.fenced f.d = false → s.readyUnpack f.d n = none →
      (e.count = 0 →
        ∃ t, exec (.trainUnpack n ⟨[], []⟩) s = .next t ∧ (t.core n).pc = (s.core n).next ∧ (t.core n).next = (s.core n).next + 1
          ∧ t.mem = s.mem)
      ∧ (e.count ≠ 0 → (s.district f.d).flt.rollAt = none → u.grxAll f.d n e = none →
        ∃ t, exec (.trainUnpack n ⟨[], []⟩) s = .next t ∧ (t.core n).next = (s.core n).next + 1
          ∧ (t.core n).outs = (s.core n).outs ++ [⟨(s.core n).next, .unpack e, e.srcs n, e.dsts⟩] ∧ t.mem = s.mem)
      ∧ (∀ is, e.count ≠ 0 → (s.district f.d).flt.rollAt = none → u.grxAll f.d n e = some is → is.filterMap id = [] →
        grxCause u e is = none →
        ∃ t, exec (.trainUnpack n ⟨[], []⟩) s = .next t ∧ (t.core n).pc = (s.core n).next ∧ (t.core n).next = (s.core n).next + 1
          ∧ t.mem = (u.each (List.range (e.count / 64 / 4)) fun b t => unpackBlock t (s.env f.d) e (is.map fun _ => e.addr 1) b).mem
          ∧ t.orb = s.orb ∧ t.boxes = s.boxes ∧ t.rings = s.rings ∧ t.queues = s.queues))

/-! ## Lines and pages of module memory (08, 12) -/

/-- R219, R220: a line that comes back whole only counts; one with up to three wrong symbols is counted, reported and shown in
MEM_ECC, whose SUB is that of the first wrong symbol (log entry 109); more wrong symbols, or a line written for another
district, have it read once more. R337, R340: an error of the fabric fences the district whose access it met, or halts. -/
def Obligations.MemoryLineReads : Prop :=
  ∀ (s : State) (d : Fin 4) (line : Nat), s.halted = false → s.memc.selfRefresh = false → ∀ c, c = channelOf (64 * line) →
    (∀ x, s.lineDistrict line = some d.val → x = LineOutcome.codeword line [] →
      ∃ t, exec (.memLineRead line d x) s = .next t ∧ t.counter (ctrChannel c 0) = (s.counter (ctrChannel c 0) + 1) % 2 ^ 64
        ∧ (∀ k, k ≠ ctrChannel c 0 → t.counter k = s.counter k) ∧ t.memc = s.memc ∧ t.mem = s.mem ∧ t.dist = s.dist)
    ∧ (∀ w ws, s.lineDistrict line = some d.val → ws.length ≤ 2 → ∃ t, exec (.memLineRead line d (.codeword line (w :: ws))) s = .next t
      ∧ t.counter (ctrChannel c 0) = (s.counter (ctrChannel c 0) + 1) % 2 ^ 64
      ∧ t.counter (ctrChannel c 1) = (s.counter (ctrChannel c 1) + 1) % 2 ^ 64
      ∧ t.counter (ctrChannel c 2) = (s.counter (ctrChannel c 2) + 1) % 2 ^ 64
      ∧ (t.district d.val).mem = { (s.district d.val).mem with ce := true, channel := c, sub := w / 36 % 2, line := line }
      ∧ t.memc = s.memc ∧ t.mem = s.mem)
    ∧ (∀ reached w ws, 3 ≤ ws.length → (line, d.val) ∉ s.memc.retries →
      ∃ t, exec (.memLineRead line d (.codeword reached (w :: ws))) s = .next t
        ∧ t.counter (ctrChannel c 3) = (s.counter (ctrChannel c 3) + 1) % 2 ^ 64
        ∧ (t.district d.val).mem = { (s.district d.val).mem with retry := true, tag := false, channel := c, sub := w / 36 % 2, line := line }
        ∧ (line, d.val) ∈ t.memc.retries ∧ t.mem = s.mem)
    ∧ (∀ reached ws, ws.length ≤ 3 → s.lineDistrict reached ≠ some d.val → (line, d.val) ∉ s.memc.retries →
      ∃ t, exec (.memLineRead line d (.codeword reached ws)) s = .next t
        ∧ t.counter (ctrChannel c 3) = (s.counter (ctrChannel c 3) + 1) % 2 ^ 64
        ∧ (t.district d.val).mem.retry = true ∧ (t.district d.val).mem.tag = true ∧ (t.district d.val).mem.channel = c
        ∧ (t.district d.val).mem.line = line ∧ (line, d.val) ∈ t.memc.retries ∧ t.mem = s.mem)
    ∧ (∃ t, exec (.memLineRead line d (.fabric true)) s = .next t ∧ t.fenced d.val = true ∧ t.halted = false ∧ t.mem = s.mem)
    ∧ (∃ t, exec (.memLineRead line d (.fabric false)) s = .next t ∧ t.halted = true ∧ t.mem = s.mem)

/-- R220: the second read of a line ends the re-issue: good, corrected, or uncorrectable. An uncorrectable line that a
rollback refills rolls the district back, under an RLEAD that R353 allows; any other fences it. -/
def Obligations.MemoryRetries : Prop :=
  ∀ (s : State) (d : Fin 4) (line : Nat) (who : Reader), s.halted = false → s.memc.selfRefresh = false →
    (line, d.val) ∈ s.memc.retries → ∀ c, c = channelOf (64 * line) →
    (s.lineDistrict line = some d.val → ∃ t, exec (.memReadRetry line d (.codeword line []) who) s = .next t
      ∧ t.memc = { s.memc with retries := s.memc.retries.erase (line, d.val) }
      ∧ t.counter (ctrChannel c 0) = (s.counter (ctrChannel c 0) + 1) % 2 ^ 64 ∧ t.mem = s.mem)
    ∧ (∀ w ws, s.lineDistrict line = some d.val → ws.length ≤ 2 →
      ∃ t, exec (.memReadRetry line d (.codeword line (w :: ws)) who) s = .next t
        ∧ t.memc = { s.memc with retries := s.memc.retries.erase (line, d.val) }
        ∧ (t.district d.val).mem = { (s.district d.val).mem with ce := true, channel := c, sub := w / 36 % 2, line := line } ∧ t.mem = s.mem)
    ∧ (∀ reached ws, 3 < ws.length ∨ s.lineDistrict reached ≠ some d.val → s.refilled d.val line = false →
      ∃ t, exec (.memReadRetry line d (.codeword reached ws) who) s = .next t
        ∧ t.fenced d.val = true ∧ t.counter (ctrChannel c 4) = (s.counter (ctrChannel c 4) + 1) % 2 ^ 64 ∧ t.mem = s.mem)
    ∧ (∀ reached ws img, 3 < ws.length ∨ s.lineDistrict reached ≠ some d.val → s.refilled d.val line = true → s.fenced d.val = false →
      s.held d.val = false → s.active d.val = some img → (s.district d.val).bar.go = none → (s.district d.val).bar.rolledBack = false →
      (s.district d.val).orb.rollbacks = 0 → (s.district d.val).flt.rlead ≠ 0 → who = .none →
      ∃ t, exec (.memReadRetry line d (.codeword reached ws) who) s = .next t ∧ (t.district d.val).orb.rollbacks = 1
        ∧ (t.district d.val).bar.rolledBack = true ∧ t.fenced d.val = false ∧ t.mem = s.mem)

/-- R221, R222, R369: the scrubber goes on line by line, and a pass ends behind the last one; a retired page waits for its
spare, and one repaired after packaging waits for the next boundary. R367: a test puts its quad among the free or the
retired. R382, R385: Moon appends the ring's new entries to the persistent log. -/
def Obligations.PagesTestsAndLog : Prop :=
  ∀ (s : State), s.halted = false → s.moon.running = true →
    (∀ (d : Fin 4), s.memc.selfRefresh = false → s.memc.scrubAt + 1 < reserveEnd / 64 →
      ∃ t, exec (.scrubLine d (.codeword s.memc.scrubAt [])) s = .next t ∧ t.memc = { s.memc with scrubAt := s.memc.scrubAt + 1 }
        ∧ t.mem = s.mem)
    ∧ (∀ (d : Fin 4), s.memc.selfRefresh = false → s.memc.scrubAt + 1 = reserveEnd / 64 →
      ∃ t, exec (.scrubLine d (.codeword s.memc.scrubAt [])) s = .next t ∧ t.memc = { s.memc with scrubAt := 0, passes := (s.memc.passes + 1) % 2 ^ 32 }
        ∧ (∀ c, c < 96 → t.counter (ctrChannel c 6) = 0) ∧ t.mem = s.mem)
    ∧ (∀ page, page < memEnd / MiB → (∀ x ∈ s.memc.waiting, x.1 ≠ page) → page ∉ s.memc.restoring → s.memc.freePages ≠ 0 →
      ∃ t, exec (.pageRetire page) s = .next t ∧ t.memc = { s.memc with
        waiting := s.memc.waiting ++ [(page, s.memc.spare)], freePages := s.memc.freePages - 1, retired := s.memc.retired + 1 }
          ∧ t.mem = s.mem)
    ∧ (∀ page, (∀ d ∈ s.defined, s.engagedMemory d = false) → (∃ q, (page, q) ∈ s.memc.remaps) → page ∉ s.memc.restoring →
      ∃ t, exec (.postPackageRepair page true) s = .next t ∧ t.memc = { s.memc with restoring := s.memc.restoring ++ [page] }
        ∧ t.spr.ppr = (s.spr.ppr + 1) % 2 ^ 16 ∧ t.mem = s.mem)
    ∧ (∀ quad, quad ∈ s.spr.testing →
      (∃ t, exec (.quadTestEnd quad .pass) s = .next t
        ∧ t.spr = { s.spr with testing := s.spr.testing.erase quad, free := s.spr.free ++ [quad]
                               swaps := s.spr.swaps.map fun w => { w with written := true } })
      ∧ (∃ t, exec (.quadTestEnd quad .failed) s = .next t
        ∧ t.spr = { s.spr with testing := s.spr.testing.erase quad, retired := s.spr.retired ++ [quad]
                               swaps := s.spr.swaps.map fun w => { w with written := true } })
      ∧ (∀ a i, (s.spr.repairs.get {} (4 * quad + a % 4)).rowSpare = false → ∃ t, exec (.quadTestEnd quad (.row a i)) s = .next t
        ∧ t.spr.free = s.spr.free ++ [quad]
        ∧ (t.spr.repairs.get {} (4 * quad + a % 4)).rowSpare = true ∧ (t.spr.repairs.get {} (4 * quad + a % 4)).row = i % 32))
    ∧ (∀ (d : Fin 4), ahead (s.district d.val).flt.head (s.moon.copied.getD d.val 0) = 0 →
      ∃ t, exec (.logFlashCopy d) s = .next t ∧ t.moon.log = s.moon.log ∧ t.moon.nextSeq = s.moon.nextSeq ∧ t.mem = s.mem)
    ∧ (∀ (d : Fin 4), ahead (s.district d.val).flt.head (s.moon.copied.getD d.val 0) = 1 → s.moon.log.length < logCapacity →
      ∃ t, exec (.logFlashCopy d) s = .next t ∧ t.moon.log = s.moon.log ++
          [(s.moon.nextSeq, (s.district d.val).flt.entries.get 0 ((2 ^ 32 - 1 + (s.district d.val).flt.head) % 256), s.moon.boot)]
        ∧ t.moon.nextSeq = s.moon.nextSeq + 1 ∧ t.moon.copied = s.moon.copied.set d.val (s.district d.val).flt.head ∧ t.mem = s.mem)

/-! ## Frames that come (09) -/

/-- R252, R254: a bad frame is counted, and it or one out of sequence is discarded; the first one after an accepted frame is
answered with a NAK, and no further one is. -/
def Obligations.FramesRefused : Prop :=
  ∀ (s : State) (p : Fin 24) (f : Frame) (n : Nat), s.halted = false → 4 ≤ (s.port p).state → (s.port p).state ≤ 8 →
    ∀ c row, (c, row) ∈ frameCommands p f n → ∀ g pay, g = leNat (f.bytes.take 32) → pay = (f.bytes.drop 32).take (hdrLen g) →
      (frameBad f = true → ∃ t, exec c s = .next t ∧ t.counter (ctrPort p 15) = (s.counter (ctrPort p 15) + 1) % 2 ^ 64
        ∧ (t.port p).nakSent = true ∧ (t.port p).expected = (s.port p).expected
        ∧ t.out = (if (s.port p).nakSent then s.out else .flit p (linkSlot (t.linkFlit p true)) :: s.out)
        ∧ t.mem = s.mem ∧ t.rings = s.rings ∧ t.dist = s.dist)
      ∧ (frameBad f = false → frameRow g pay = row → hdrFseq g ≠ (s.port p).expected →
        ∃ t, exec c s = .next t ∧ (t.port p).nakSent = true ∧ (t.port p).expected = (s.port p).expected
        ∧ t.out = (if (s.port p).nakSent then s.out else .flit p (linkSlot (t.linkFlit p true)) :: s.out)
        ∧ t.cnt = s.cnt ∧ t.mem = s.mem ∧ t.rings = s.rings ∧ t.dist = s.dist)

/-- R229, R235, R278, R279: an ANNOUNCE opens its TX ring, or faults it when the sizes differ; a CREDIT of the ring's
attempt moves rp; a NACK_DEAD of it kills the ring; a JOB_HOLD of the step puts the district on HOLD. -/
def Obligations.RingFrames : Prop :=
  ∀ (s : State) (p : Fin 24) (f : Frame) (d e j h : Nat) (pay : List Byte), s.deliversTo p d e j h →
    (∀ r re, s.txRing d (peLport e) (leNat ((pay.drop 8).take 2)) = some (r, re) → (s.ring r).waiting = [] →
      (s.takes p f 5 h pay → pay.length = 11 → leNat ((pay.drop 10).take 1) = reLog2 re → (s.ring r).state ≠ 1 →
        ∃ t, exec (.announce p f) s = .next t
          ∧ t.ring r = { s.ring r with state := 1, wp := 0, rp := 0, msgno := 0, attempt := (s.district d).orb.attempt, waited := false }
          ∧ (∀ k, k ≠ r → t.ring k = s.ring k) ∧ (t.port p).expected = ((s.port p).expected + 1) % 4096 ∧ t.mem = s.mem ∧ t.dist = s.dist)
      ∧ (s.takes p f 5 h pay → pay.length = 11 → leNat ((pay.drop 10).take 1) ≠ reLog2 re →
        ∃ t, exec (.announce p f) s = .next t ∧ t.fenced d = true)
      ∧ (∀ rp, s.takes p f 6 h pay → pay.length = 14 → rp = leNat ((pay.drop 10).take 4) → (s.ring r).state = 1 →
        (s.ring r).attempt = bits (leNat (pay.take 8)) 24 16 → gap 32 rp (s.ring r).rp < 2 ^ 31 →
        gap 32 rp (s.ring r).rp ≤ gap 32 (s.ring r).wp (s.ring r).rp → (s.district d).bar.arrived = none →
        (s.district d).mir.send = false →
        ∃ t, exec (.credit p f) s = .next t ∧ t.ring r = { s.ring r with rp := rp } ∧ (∀ k, k ≠ r → t.ring k = s.ring k)
          ∧ (t.port p).expected = ((s.port p).expected + 1) % 4096 ∧ t.mem = s.mem ∧ t.dist = s.dist)
      ∧ (s.takes p f 7 h pay → pay.length = 14 → (s.ring r).attempt = bits (leNat (pay.take 8)) 24 16 →
        ∃ t, exec (.nackDead p f) s = .next t ∧ (t.ring r).state = 2 ∧ (t.ring r).waiting = [] ∧ (∀ k, k ≠ r → t.ring k = s.ring k)
          ∧ t.mem = s.mem))
    ∧ (s.takes p f 0xC h pay → pay.length = 11 → bits (leNat (pay.take 8)) 0 24 = (s.district d).orb.step → (s.active d).isSome →
      ∃ t, exec (.jobHold p f) s = .next t ∧ t.held d = true ∧ t.mem = s.mem)

/-- R275, R54, R349 to R351: the frames of the barrier tree and of the maxima tree that come from where the JOB entry puts
their sender are kept, passed on or acted on; one from elsewhere is discarded and counted. -/
def Obligations.TreeFrames : Prop :=
  ∀ (s : State) (p : Fin 24) (f : Frame) (d e j h : Nat) (pay : List Byte), s.deliversTo p d e j h → s.current d pay →
    (s.takes p f 8 h pay → ctlLength 8 pay = true → (jobChildren j true).contains (peLport e) = true →
      (∀ v ∈ maximaOf pay, v.1 < (s.slotsOf d).length) → (s.district d).bar.arrived = none →
      ∃ t, exec (.amaxUp p f) s = .next t ∧ (t.district d).bar = { (s.district d).bar with amaxGot := (insertKey (peLport e)
        ((maximaOf pay).foldl (fun m v => insertKey v.1 v.2 m) ((lookupKey (peLport e) (s.district d).bar.amaxGot).getD []))
        (s.district d).bar.amaxGot) } ∧ t.mem = s.mem ∧ t.slots = s.slots)
    ∧ (s.takes p f 8 h pay → ctlLength 8 pay = true → (jobChildren j true).contains (peLport e) = false →
      ∃ t, exec (.amaxUp p f) s = .next t ∧ (t.district d).bar = (s.district d).bar ∧ t.mem = s.mem ∧ t.slots = s.slots)
    ∧ (∀ got, s.takes p f 9 h pay → ctlLength 9 pay = true → jobParent j true = some (peLport e) → jobParent j false ≠ none →
      jobChildren j true = [] → (∀ v ∈ maximaOf pay, v.1 < (s.slotsOf d).length) → (s.district d).bar.down = false →
      (s.district d).bar.amaxSent = true → (s.district d).mir.send = false → (s.slotsOf d).Nodup →
      got = (maximaOf pay).foldl (fun m v => insertKey v.1 v.2 m) ((lookupKey 24 (s.district d).bar.amaxGot).getD []) →
      got.length = (s.slotsOf d).length →
      ∃ t, exec (.amaxDown p f) s = .next t ∧ (t.district d).bar.down = true ∧ t.mem = s.mem
        ∧ ∀ (i k : Nat) (v : Nat × Nat), (s.slotsOf d)[i]? = some k → got[i]? = some v → (t.slot k).combined = some v.2)
    ∧ (s.takes p f 0xA h pay → pay.length = 16 → (jobChildren j false).contains (peLport e) = true → (s.district d).bar.down = false →
      ∃ t, exec (.barUp p f) s = .next t ∧ (t.district d).bar = { (s.district d).bar with
        props := insertKey (peLport e) (leNat (pay.drop 8)) (s.district d).bar.props } ∧ t.mem = s.mem)
    ∧ (s.takes p f 0xB h pay → pay.length = 16 → jobParent j false = some (peLport e) → s.held d = false → (s.active d).isSome →
      (s.district d).bar.rolledBack = false → (s.orb.run = false ∨ s.orb.number < leNat (pay.drop 8)) →
      ∃ t, exec (.barGo p f) s = .next t ∧ (t.district d).bar = { (s.district d).bar with go := some (leNat (pay.drop 8)) }
        ∧ (t.district d).orb.phase = .waitGo ∧ t.mem = s.mem)
    ∧ (s.takes p f 0x1A h pay → pay.length = 16 → (jobChildren j false).contains (peLport e) = true → s.held d = false →
      (jobParent j false = none → (s.district d).bar.restart = none → (s.district d).bar.go = none →
        (s.orb.run = false ∨ s.orb.number < leNat (pay.drop 8)) →
        ∃ t, exec (.restartBarUp p f) s = .next t
          ∧ (t.district d).bar.restart = some (leNat (pay.drop 8)) ∧ (t.district d).bar.rolledBack = true
          ∧ ((s.district d).bar.rolledBack = true → (t.district d).bar = { (s.district d).bar with restart := some (leNat (pay.drop 8)) })
          ∧ t.mem = s.mem)
      ∧ (jobParent j false ≠ none → (s.district d).bar.restartSeen = false → (s.district d).bar.deadline = none →
        ∃ t, exec (.restartBarUp p f) s = .next t
          ∧ (t.district d).bar = { (s.district d).bar with restartSeen := true, deadline := some (leNat (pay.drop 8)) } ∧ t.mem = s.mem))
    ∧ (s.takes p f 0x1B h pay → pay.length = 16 → jobParent j false = some (peLport e) → s.held d = false → (s.active d).isSome →
      (s.orb.run = false ∨ s.orb.number < leNat (pay.drop 8)) →
      ∃ t, exec (.restartBarGo p f) s = .next t
        ∧ (t.district d).bar.restart = some (leNat (pay.drop 8)) ∧ (t.district d).bar.rolledBack = true
        ∧ ((s.district d).bar.rolledBack = true → (t.district d).bar = { (s.district d).bar with restart := some (leNat (pay.drop 8)) })
        ∧ t.mem = s.mem)

/-- R267, R268, R272, R274, R36, R368, R399: a card is kept until the exchange is whole; a PING is echoed; an ECHO gives the round
trip; the first beacon of a pending join, on the port whose card was accepted first, places its tick; a message of the peer's Moon
is kept, or is one of a lane swap (log entry 39): a proposal is agreed to, and SELECTED ends the bridge. -/
def Obligations.PortFrames : Prop :=
  ∀ (s : State) (p : Fin 24) (f : Frame) (h n : Nat) (pay : List Byte),
    (s.takes p f 1 h pay → pay.length = 128 → leNat (pay.drop 124) = crc32 (pay.take 124) → (s.port p).state = 4 →
      (s.port p).echoes ≠ 16 →
      ∃ t, exec (.card p f) s = .next t ∧ (t.port p).cardPeer = pay ∧ (t.port p).cardHeld = true ∧ (t.port p).cardSeen = true
        ∧ (t.port p).cardOrbit = s.orbitNow ∧ (t.port p).state = 4
        ∧ (∀ k, k ≠ p.val → t.port k = s.port k) ∧ t.mem = s.mem ∧ t.dist = s.dist)
    ∧ (s.takes p f 1 h pay → pay.length = 128 → leNat (pay.drop 124) = crc32 (pay.take 124) → (s.port p).state = 4 →
      (s.port p).echoes = 16 → s.orb.join = false → s.portEntry p = none → s.tensorDistrict p = none →
      ∃ t, exec (.card p f) s = .next t ∧ (t.port p).cardPeer = pay ∧ (t.port p).state = 5 ∧ t.mem = s.mem ∧ t.dist = s.dist)
    ∧ (s.takes p f 2 h pay → pay.length = 8 → s.portFenced p = false →
      ∃ t, exec (.ping p f n) s = .next t
        ∧ (∃ g, (t.port p).queue = (s.port p).queue ++ [g] ∧ hdrOpcode g.hdr = 3 ∧ g.payload = pay ++ leBytes 8 n ∧ g.arb = 4)
        ∧ (∀ k, k ≠ p.val → t.port k = s.port k) ∧ t.mem = s.mem ∧ t.dist = s.dist)
    ∧ (s.takes p f 3 h pay → pay.length = 16 → (s.port p).state ≠ 4 →
      ∃ t, exec (.echo p f n) s = .next t ∧ (t.port p).echoes = min 16 ((s.port p).echoes + 1)
        ∧ ((s.port p).echoes = 0 → (t.port p).rtt = (n - leNat (pay.take 8) - leNat (pay.drop 8)) % 2 ^ 16)
        ∧ ((s.port p).echoes ≠ 0 → (t.port p).rtt = min (s.port p).rtt (n - leNat (pay.take 8) - leNat (pay.drop 8)) % 2 ^ 16)
        ∧ ((s.port p).echoes = 15 → (t.port p).latValid = true) ∧ t.mem = s.mem ∧ t.dist = s.dist)
    ∧ (∀ d e job spares, s.takes p f 4 h pay → pay.length = 21 → s.cardMap p = some (d, e, job, spares) → (s.port p).state = 6 →
      peForeign e = false → s.orb.join = true → s.joinsBy p = true → s.wrongClass p h = false → s.orb.plan = none →
      (s.port p).latValid = true →
      ∃ t, exec (.beacon p f n) s = .next t ∧ t.orb = { s.orb with plan := some ⟨n - 8 - (s.port p).oneway
          + leNat ((pay.drop 16).take 4), leNat ((pay.drop 8).take 8) + 1, leNat ((pay.drop 16).take 4)⟩ }
        ∧ t.mem = s.mem ∧ t.dist = s.dist)
    ∧ (s.takes p f 0xD h pay → s.wrongClass p h = false →
      (pay.length ≠ 2 → ∃ t, exec (.mgmt p f) s = .next t ∧ lookupKey p.val t.moon.mgmt = some pay ∧ t.mem = s.mem ∧ t.dist = s.dist)
      ∧ (∀ lane, lane < 4 → pay = leBytes 2 lane → s.moon.running = true → (s.port p).state = 6 → (s.port p).spareUsed = false →
        (s.port p).swapTx = none → (s.port p).swapRx = none → s.portFenced p = false →
        ∃ t, exec (.mgmt p f) s = .next t ∧ (t.port p).swapTx = some (.agreed lane) ∧ (t.port p).swapRx = some (.agreed lane)
          ∧ (∃ g, (t.port p).queue = (s.port p).queue ++ [g] ∧ hdrOpcode g.hdr = 0xD ∧ g.payload = leBytes 2 (0x200 + lane))
          ∧ t.moon.mgmt = s.moon.mgmt ∧ t.mem = s.mem ∧ t.dist = s.dist)
      ∧ (∀ lane i, lane < 4 → pay = leBytes 2 (0x100 + lane) → (s.port p).swapTx = some (.bridged i) →
        ∃ t, exec (.mgmt p f) s = .next t ∧ (t.port p).swapTx = none ∧ (t.port p).swapRx = (s.port p).swapRx
          ∧ (t.port p).map = (s.port p).map ∧ t.mem = s.mem ∧ t.dist = s.dist)
      ∧ (∀ lane, lane < 4 → pay = leBytes 2 (0x200 + lane) → s.moon.running = true → (s.port p).swapTx = some (.proposed lane) →
        ∃ t, exec (.mgmt p f) s = .next t ∧ (t.port p).swapTx = some (.agreed lane) ∧ (t.port p).swapRx = some (.agreed lane)
          ∧ t.mem = s.mem ∧ t.dist = s.dist))

/-- R234: the payload of a DATA frame for an RX ring is written where its record and offset put it, the BEGIN frame's behind
the record's header; at the END frame the header is written, the pointers move and the record's item comes to its queue. -/
def Obligations.DataFrames : Prop :=
  ∀ (s : State) (p : Fin 24) (f : Frame) (d e j h re : Nat) (pay : List Byte), s.deliversTo p d e j h → s.takes p f 0 h pay →
    hdrType h = 1 → ∀ r, r = hdrRing h → s.ringOwner r = some (d, re) → reTx re = false → reLport re = peLport e → reVc re = hdrVc h →
    (s.district d).flt.resetting = false → (s.ring r).staged = [] → ∀ pos, pos = reBase re + (s.ring r).wp % reUnits re * 256 →
    (∀ g, hdrBegin h = true → hdrEnd h = false → g = leNat (pay.take 64) → rhAttempt g = (s.ring r).attempt → rhType g = 1 →
      rhMsgno g = (s.ring r).msgno → rhUnits g = unitsFor (rhLen g) → rhUnits g ≤ reUnits re - (s.ring r).wp % reUnits re →
      rhUnits g ≤ (s.ring r).credits re →
      ∃ t, exec (.dataFrame p f) s = .next t ∧ t.mem = Memory.write s.mem (pos + 64) (pay.drop 64)
        ∧ t.ring r = { s.ring r with arrival := some ⟨g, true⟩ } ∧ (∀ k, k ≠ r → t.ring k = s.ring k)
        ∧ (t.port p).expected = ((s.port p).expected + 1) % 4096)
    ∧ (∀ g, hdrBegin h = false → hdrEnd h = false → (s.ring r).arrival = some ⟨g, true⟩ →
      ∃ t, exec (.dataFrame p f) s = .next t ∧ t.mem = Memory.write s.mem (pos + hdrOff h) pay ∧ t.rings = s.rings)
    ∧ (∀ g q, hdrBegin h = false → hdrEnd h = true → (s.ring r).arrival = some ⟨g, true⟩ → rhType g = 1 → reVc re ≠ 3 →
      s.queueOwner (reQueue re) = some q → (s.queue (reQueue re)).waiting ≠ [] →
      ∃ t, exec (.dataFrame p f) s = .next t
        ∧ t.mem = Memory.write (Memory.write s.mem (pos + hdrOff h) pay) pos (leBytes 64 (setFld g 32 0 64 s.orbitNow))
        ∧ (t.ring r).wp = ((s.ring r).wp + rhUnits g) % 2 ^ 32 ∧ (t.ring r).msgno = ((s.ring r).msgno + 1) % 2 ^ 32
        ∧ (t.ring r).arrival = none ∧ (t.ring r).recs = (s.ring r).recs ++ [⟨(s.ring r).wp, rhUnits g, false, false⟩]
        ∧ (t.queue (reQueue re)).waiting = (s.queue (reQueue re)).waiting ++
          [({ addr := pos + 64, len := rhLen g, ringed := true, ring := r, unit := (s.ring r).wp, lcnt := rhLcnt g
              postmark := rhPostmark g, src := rhSrc g, queue := reQueue re, useMb := decide (reVc re < 2), host := false
              handle := 0 }, none)])

/-! ## Ports (09) -/

/-- R253 to R255: a good link flit takes frames up to the ACK of a frame sent out of the replay buffer and gives the peer's freed
flits, one that acknowledges no such frame takes none out, a bad one is ignored; a NAK or a timeout resends what is unacknowledged,
and with 16 rounds made without an ACK the port enters RETRAIN; a NAK that waits is repeated. -/
def Obligations.PortRetries : Prop :=
  ∀ (s : State) (p : Fin 24), s.halted = false → 4 ≤ (s.port p).state → (s.port p).state ≤ 7 →
    (∀ bytes v, bytes.length = 64 → leNat (bytes.drop 60) = crc32 (bytes.take 60) → v = leNat bytes → fld v 0 0 5 = 8 →
      ((s.port p).inFlight (fld v 2 0 12) = true → exec (.linkFlit p bytes) s = .next (s.modPort p fun x => { x with
        peerFence := false, peerHalt := false, peerQuar := false, peerFreed := (List.range 6).map fun i => fld v (8 + 2 * i) 0 16
        acked := fld v 2 0 12, base := (fld v 2 0 12 + 1) % 4096
        replay := x.replay.filter fun f => decide (gap 12 (fld v 2 0 12) x.base < gap 12 f.1 x.base), resends := 0 }))
      ∧ ((s.port p).inFlight (fld v 2 0 12) = false → exec (.linkFlit p bytes) s = .next (s.modPort p fun x => { x with
        peerFence := false, peerHalt := false, peerQuar := false
        peerFreed := (List.range 6).map fun i => fld v (8 + 2 * i) 0 16 })))
    ∧ (∀ bytes v, bytes.length = 64 → leNat (bytes.drop 60) = crc32 (bytes.take 60) → v = leNat bytes → fld v 0 0 5 = 0x10 →
      (s.port p).inFlight (fld v 4 0 12) = true → (s.port p).resends < 16 → (s.port p).replay ≠ [] → (s.port p).base = fld v 4 0 12 →
      (s.port p).replay.map (·.1) = (List.range (s.port p).replay.length).map (fun i => (fld v 4 0 12 + i) % 4096) →
      ∃ t, exec (.linkFlit p bytes) s = .next t ∧ (t.port p).replay = (s.port p).replay
        ∧ (t.port p).resends = (s.port p).resends + 1
        ∧ t.counter (ctrPort p 5) = (s.counter (ctrPort p 5) + 1) % 2 ^ 64
        ∧ t.counter (ctrPort p 4) = (s.counter (ctrPort p 4) + (s.port p).replay.length) % 2 ^ 64
        ∧ t.out = ((s.port p).replay.map fun f => .frame p (frameSlots (f.2.image f.1).1 (f.2.image f.1).2)).reverse ++ s.out
        ∧ (∀ k, k ≠ p.val → t.port k = s.port k) ∧ t.mem = s.mem)
    ∧ (∀ bytes, bytes.length = 64 → leNat (bytes.drop 60) ≠ crc32 (bytes.take 60) → exec (.linkFlit p bytes) s = .next s)
    ∧ ((s.port p).replay = [] → exec (.retryTimeout p) s = .next s)
    ∧ ((s.port p).replay ≠ [] → (s.port p).resends < 16 →
      ∃ t, exec (.retryTimeout p) s = .next t ∧ t.port p = { s.port p with resends := (s.port p).resends + 1, retryEv := true }
        ∧ t.counter (ctrPort p 4) = (s.counter (ctrPort p 4) + (s.port p).replay.length) % 2 ^ 64
        ∧ t.out = ((s.port p).replay.map fun f => .frame p (frameSlots (f.2.image f.1).1 (f.2.image f.1).2)).reverse ++ s.out
        ∧ (∀ k, k ≠ p.val → t.port k = s.port k) ∧ t.mem = s.mem)
    ∧ ((s.port p).replay ≠ [] → 16 ≤ (s.port p).resends →
      ∃ t, exec (.retryTimeout p) s = .next t ∧ (t.port p).state = 8 ∧ (t.port p).resends = 0 ∧ (t.port p).replay = (s.port p).replay
        ∧ t.mem = s.mem)
    ∧ ((s.port p).nakSent = true → exec (.nakRepeat p) s = .next (s.emit (.flit p (linkSlot (s.linkFlit p true)))))
    ∧ ((s.port p).nakSent = false → exec (.nakRepeat p) s = .next s)

/-- R250, R254, R257, R258, R260, R272: at a frame boundary a port with room in its replay buffer sends the frame that its turn
gives, under the next FSEQ, its class's BSEQ and on the peer's credit, a PING with the count of the moment; with none to send it
sends a link flit. -/
def Obligations.PortArbitration : Prop :=
  ∀ (s : State) (p : Fin 24), s.halted = false → 4 ≤ (s.port p).state → (s.port p).state ≤ 8 → (s.port p).replayRoom = true →
    ((s.port p).state ≠ 6 → ((s.port p).queue.find? fun f => (s.port p).carries f.hdr && (s.port p).hasCredit f) = none →
      exec (.frameArbitrate p) s = .next (s.emit (.flit p (linkSlot (s.linkFlit p false)))))
    ∧ (∀ f, f.who = none → f.src = none →
      ((s.port p).state ≠ 6 ∧ ((s.port p).queue.find? fun f => (s.port p).carries f.hdr && (s.port p).hasCredit f) = some f
        ∨ (s.port p).state = 6 ∧ s.portEntry p = none ∧ (s.port p).lastCtl = false ∧ (s.port p).queue.find? (·.arb == 4) = some f
          ∧ (s.port p).hasCredit f = true ∧ s.itsTurn f = true) →
      ∃ t, exec (.frameArbitrate p) s = .next t ∧ (t.port p).queue = (s.port p).queue.erase f
        ∧ (t.port p).replay = (s.port p).replay ++ [((s.port p).next, s.asSent f)] ∧ (t.port p).next = ((s.port p).next + 1) % 4096
        ∧ t.out = .frame p (frameSlots ((s.asSent f).image (s.port p).next).1 ((s.asSent f).image (s.port p).next).2) :: s.out
        ∧ (hdrType f.hdr = 2 → hdrOpcode f.hdr = 2 → (s.asSent f).payload = leBytes 8 s.clk.ref)
        ∧ (∀ k, k ≠ p.val → t.port k = s.port k) ∧ t.mem = s.mem ∧ t.rings = s.rings ∧ t.cores = s.cores)

/-- R255, R266, R248, R406, R409, R420: training goes from DETECT over its phases to CARD, and a phase that fails ends DOWN; without
rails, before stage 5 of start-up and in DROWSE a port does not train; a lane that is lost is replaced by the spare, and the port
retrains; three retrains that fail end DOWN, and training is then tried again. -/
def Obligations.PortTraining : Prop :=
  ∀ (s : State) (p : Fin 24) (map pol : Nat),
    (s.mayTrain = false → exec (.downTrainingAttempt p) s = .next s
      ∧ ∀ ok mix, exec (.linkTrainingPhaseEnd p ok map pol mix) s = .next s)
    ∧ (s.mayTrain = true → (s.port p).state = 0 → (s.port p).retrying = true →
      ∃ t, exec (.downTrainingAttempt p) s = .next t ∧ (t.port p).state = 1 ∧ (t.port p).dcause = 0 ∧ (t.port p).expected = 0
        ∧ (t.port p).next = 0 ∧ (t.port p).replay = [] ∧ (∀ k, k ≠ p.val → t.port k = s.port k) ∧ t.mem = s.mem)
    ∧ (s.mayTrain = true → (s.port p).state = 0 → (s.port p).retrying = false →
      ∃ t, exec (.linkTrainingPhaseEnd p true map pol none) s = .next t ∧ (t.port p).state = 1)
    ∧ (s.mayTrain = true → (s.port p).state = 1 → exec (.linkTrainingPhaseEnd p true map pol none) s = .next (s.modPort p fun x => { x with state := 2 }))
    ∧ (s.mayTrain = true → (s.port p).state = 2 → exec (.linkTrainingPhaseEnd p true map pol none) s
      = .next (s.modPort p fun x => { x with state := 3, dcause := 0, map := map % 2 ^ 15, pol := pol % 32 }))
    ∧ (s.mayTrain = true → (s.port p).state = 3 → ∃ t, exec (.linkTrainingPhaseEnd p true map pol none) s = .next t ∧ (t.port p).state = 4
      ∧ (t.port p).echoes = 0 ∧ (t.port p).cardSeen = false ∧ t.mem = s.mem)
    ∧ (s.mayTrain = true → (s.port p).state = 2 → ∀ lane, ∃ t, exec (.linkTrainingPhaseEnd p true map pol (some lane)) s = .next t
      ∧ t.port p = { s.port p with dcause := 2 } ∧ t.mem = s.mem)
    ∧ (s.mayTrain = true → (s.port p).state = 1 ∨ (s.port p).state = 2 ∨ (s.port p).state = 3 →
      ∃ t, exec (.linkTrainingPhaseEnd p false map pol none) s = .next t
      ∧ (t.port p).state = 0 ∧ (t.port p).retrying = (s.port p).retrying ∧ (t.port p).dcause = 1 ∧ (t.port p).downEv = true ∧ t.mem = s.mem)
    ∧ (∀ lane i, 4 ≤ (s.port p).state → (s.port p).state ≤ 7 → (s.port p).spareUsed = false → i < 4 → laneAt (s.port p).map i = lane →
      ∃ t, exec (.laneLoss p lane) s = .next t ∧ (t.port p).state = 8 ∧ (t.port p).map = ((s.port p).spareFor lane).map
        ∧ (t.port p).spareUsed = true ∧ t.counter (ctrPort p 19) = (s.counter (ctrPort p 19) + 1) % 2 ^ 64 ∧ t.mem = s.mem)
    ∧ ((s.port p).state = 8 → (s.port p).failedRetrains < 2 → ∃ t, exec (.retrainEnd p false) s = .next t ∧ (t.port p).state = 8
      ∧ (t.port p).failedRetrains = (s.port p).failedRetrains + 1 ∧ t.mem = s.mem)
    ∧ ((s.port p).state = 8 → 2 ≤ (s.port p).failedRetrains → ∃ t, exec (.retrainEnd p false) s = .next t ∧ (t.port p).state = 0
      ∧ (t.port p).dcause = 3 ∧ (t.port p).retrying = true ∧ t.mem = s.mem)
    ∧ ((s.port p).state = 8 → s.orb.join = false → s.portEntry p = none → s.tensorDistrict p = none →
      exec (.retrainEnd p true) s = .next (s.modPort p fun x => { x with failedRetrains := 0, state := 5, qcause := 0 }))
    ∧ (s.powered = true → s.halted = false → s.pwr.state ≠ .drowse → (s.port p).state = 5 ∨ (s.port p).state = 7 →
      ∃ t, exec (.laneLockTimeout p) s = .next t ∧ (t.port p).state = 8 ∧ (t.port p).retrainEv = true ∧ t.mem = s.mem)

/-- R266, R268: a CARD state that has got no card ends: in MANAGED where no image names the port, else in QUARANTINE with
QCAUSE 1. -/
def Obligations.CardTimeouts : Prop :=
  ∀ (s : State) (p : Fin 24), (s.port p).state = 4 → (s.port p).cardSeen = false → s.orb.join = false → s.portEntry p = none →
    (s.tensorDistrict p = none →
      exec (.cardTimeout p) s = .next (s.modPort p fun x => { x with state := 5, qcause := 0 }))
    ∧ (∀ d, s.tensorDistrict p = some d → s.active d = none →
      exec (.cardTimeout p) s = .next (s.modPort p fun x => { x with state := 5, qcause := 0 }))
    ∧ (∀ d, s.tensorDistrict p = some d → (s.active d).isSome → (s.port p).cardHeld = false →
      ∃ t, exec (.cardTimeout p) s = .next t ∧ (t.port p).state = 7 ∧ (t.port p).qcause = 1
        ∧ t.counter (ctrPort p 18) = (s.counter (ctrPort p 18) + 1) % 2 ^ 64 ∧ (∀ k, k ≠ p.val → t.port k = s.port k) ∧ t.mem = s.mem)

/-! ## Host ports (11) -/

/-- R316 to R319, R322: a request of a known QP on a port that is up and open is answered by its own effect: a WRITE stores
its data, an immediate tail moves CMD_TAIL, a READ answers the bytes, a SEND appends entries to the command ring; a key that
does not reach, a length above 2^31 under a key that does, or an unsupported request is answered with a NAK. -/
def Obligations.HostRequests : Prop :=
  ∀ (s : State) (p : Fin 4) (qp d : Nat) (ce : Bool), s.hostUp p = true → (s.qp p qp).isSome →
    s.hostDistrict p = some d → (s.hostPort p).paused = [] → s.portGate (some d) = none →
    (∀ rkey addr data, data ≠ [] → data.length ≤ 2 ^ 31 → addr < csrBase → ∀ u, u = s.arrived p qp data.length ce →
      (u.keyOk d rkey addr data.length true = true →
        (∃ t, exec (.rdmaWrite p qp rkey addr data ce) s = .next t ∧ t.mem = (u.write d addr data).mem
          ∧ t.out = .answer (.ack p qp) :: u.out
          ∧ t.rings = s.rings ∧ t.cores = s.cores ∧ t.windows = s.windows)
        ∧ (∀ imm : W32, (s.district d).host.badTailFor imm.toNat = false →
          ∃ t, exec (.rdmaWriteImm p qp rkey addr data imm ce) s = .next t ∧ t.mem = (u.write d addr data).mem
            ∧ (t.district d).host.cmdTail = imm.toNat ∧ t.out = .answer (.ack p qp) :: u.out))
      ∧ (u.keyOk d rkey addr data.length true = false →
        (∃ t, exec (.rdmaWrite p qp rkey addr data ce) s = .next t ∧ t.mem = s.mem ∧ t.out = .answer (.nak p qp .access) :: u.out)
        ∧ (∀ imm, ∃ t, exec (.rdmaWriteImm p qp rkey addr data imm ce) s = .next t ∧ t.mem = s.mem ∧ t.dist = s.dist
          ∧ t.out = .answer (.nak p qp .access) :: u.out)))
    ∧ (∀ rkey addr data, 2 ^ 31 < data.length → ∀ u, u = s.arrived p qp data.length ce →
      ∃ t, exec (.rdmaWrite p qp rkey addr data ce) s = .next t ∧ t.mem = s.mem
        ∧ t.out = .answer (.nak p qp (if u.keyOk d rkey addr data.length true then .invalid else .access)) :: u.out)
    ∧ (∀ rkey addr len, 2 ^ 31 < len → ∀ u, u = s.arrived p qp 0 ce →
      ∃ t, exec (.rdmaRead p qp rkey addr len ce) s = .next t ∧ t.mem = s.mem
        ∧ t.out = .answer (.nak p qp (if u.keyOk d rkey addr len false then .invalid else .access)) :: u.out)
    ∧ (∀ rkey addr len, 0 < len → len ≤ 2 ^ 31 → addr < csrBase → (s.hostPort p).reads qp < 16 → ∀ u, u = s.arrived p qp 0 ce →
      (u.keyOk d rkey addr len false = true → ∃ t, exec (.rdmaRead p qp rkey addr len ce) s = .next t
        ∧ t.out = .answer (.data p qp (if isSram addr then u.bytes addr len else u.oldBytes d addr len)) :: u.out ∧ t.mem = s.mem)
      ∧ (u.keyOk d rkey addr len false = false → ∃ t, exec (.rdmaRead p qp rkey addr len ce) s = .next t
        ∧ t.out = .answer (.nak p qp .access) :: u.out ∧ t.mem = s.mem))
    ∧ (∀ data : List Byte, data.length = 64 → (s.district d).host.cmdEn = true →
      ahead (s.district d).host.cmdTail (s.district d).host.cmdHead < 2 ^ (s.district d).host.cmdLog2 →
      ∃ t, exec (.roceSend p qp (some data) ce) s = .next t
        ∧ t.mem = Memory.write s.mem ((s.district d).host.cmdBase
          + (s.district d).host.cmdTail % 2 ^ (s.district d).host.cmdLog2 * 64) data
        ∧ (t.district d).host = { (s.district d).host with cmdTail := ((s.district d).host.cmdTail + 1) % 2 ^ 32 }
        ∧ t.out = .answer (.ack p qp) :: (s.arrived p qp 64 ce).out)
    ∧ (∃ t, exec (.roceSend p qp none ce) s = .next t ∧ t.mem = s.mem ∧ t.dist = s.dist
      ∧ t.out = .answer (.nak p qp .invalid) :: (s.arrived p qp 0 ce).out)

/-- R313 to R315, R446: connections, congestion, flow control, outstanding READs and neighbours of a port. -/
def Obligations.HostConnections : Prop :=
  ∀ (s : State) (p : Fin 4), s.hostUp p = true →
    (∀ remote q d, s.hostDistrict p = some d → s.portGate (some d) = none →
      ((List.range 256).find? fun q => (s.qp p q).isNone) = some q →
      ∃ t, exec (.cmReq p remote) s = .next t ∧ t.out = .answer (.rep p q remote) :: s.out ∧ t.mem = s.mem
        ∧ ∃ x, t.qp p q = some x ∧ x.connected = false ∧ x.remote = remote ∧ x.rc = ⟨400000, 1⟩)
    ∧ (∀ remote, ((List.range 256).find? fun q => (s.qp p q).isNone) = none →
      exec (.cmReq p remote) s = .next ((s.count (ctrHost p 14) 1).emit (.answer (.rej p remote))))
    ∧ (∀ qp x, s.qp p qp = some x →
      (∃ t, exec (.cmRtu p qp) s = .next t ∧ t.mem = s.mem ∧ t.qp p qp = some (if x.connected then x else
          { x with connected := true, alpha := ⟨1, 1⟩, rc := ⟨400000, 1⟩, rt := ⟨400000, 1⟩, quiet := 0 }))
      ∧ (∃ t, exec (.cmDreq p qp) s = .next t ∧ t.qp p qp = none ∧ t.out = .answer (.drep p qp) :: s.out ∧ t.mem = s.mem)
      ∧ (∃ t, exec (.cnp p qp) s = .next t ∧ t.mem = s.mem ∧ t.qp p qp = some { x with
          rt := x.rc, rc := ⟨x.rc.num * (2 * x.alpha.den - x.alpha.num), x.rc.den * 2 * x.alpha.den⟩
          alpha := ⟨x.alpha.num * 255 + x.alpha.den, x.alpha.den * 256⟩, quiet := 0 })
      ∧ (∃ t y, exec (.rateIncreaseTimer p qp) s = .next t ∧ t.qp p qp = some y ∧ y.alpha = ⟨x.alpha.num * 255, x.alpha.den * 256⟩
        ∧ y.rt = (if x.quiet < 5 then x.rt else ⟨x.rt.num + 40 * x.rt.den, x.rt.den⟩) ∧ y.rc = y.rt.half x.rc ∧ y.quiet = x.quiet + 1
        ∧ t.mem = s.mem))
    ∧ (∀ prio, prio < 8 → bit (s.hostPort p).pfcEn prio = true → prio ∉ (s.hostPort p).paused →
      ∃ t, exec (.pfcPause p prio) s = .next t ∧ (t.hostPort p).paused = (s.hostPort p).paused ++ [prio]
        ∧ t.counter (ctrHost p 11) = (s.counter (ctrHost p 11) + 1) % 2 ^ 64 ∧ t.mem = s.mem)
    ∧ (∀ prio, prio ∈ (s.hostPort p).paused →
      (∃ t, exec (.pfcPauseExpiry p prio) s = .next t ∧ (t.hostPort p).paused = (s.hostPort p).paused.erase prio
        ∧ (prio = (s.hostPort p).rocePrio → (t.hostPort p).queued = []
          ∧ t.out = ((s.hostPort p).queued.map Output.answer).reverse ++ s.out) ∧ t.mem = s.mem)
      ∧ (prio = (s.hostPort p).rocePrio → ∃ t, exec (.pfcPauseTimeout p prio) s = .next t ∧ (t.hostPort p).queued = [] ∧ t.out = s.out
        ∧ t.counter (ctrHost p 13) = (s.counter (ctrHost p 13) + (s.hostPort p).queued.length) % 2 ^ 64 ∧ t.mem = s.mem))
    ∧ (∀ qp d rkey addr len ce, (s.qp p qp).isSome → s.hostDistrict p = some d → s.portGate (some d) = none →
      (s.hostPort p).rocePrio ∈ (s.hostPort p).paused → 0 < len → len ≤ 2 ^ 31 → addr < csrBase → 16 ≤ (s.hostPort p).reads qp →
      (s.arrived p qp 0 ce).keyOk d rkey addr len false = true →
      ∃ t, exec (.rdmaRead p qp rkey addr len ce) s = .next t
        ∧ (t.hostPort p).queued = (s.hostPort p).queued ++ [.nak p qp .invalid] ∧ t.mem = s.mem)
    ∧ (∃ t, exec (.hostLinkDown p) s = .next t ∧ (t.hostPort p) = { s.hostPort p with link := false }
      ∧ (∀ k, k ≠ p.val → t.hostPort k = s.hostPort k))
    ∧ (∀ (u : State), 6 ≤ u.pwr.stage → u.pwr.railsOn = true →
      ∃ t, exec (.hostLinkUp p) u = .next t ∧ (t.hostPort p) = { u.hostPort p with link := true })
    ∧ ((s.hostPort p).ipv4Valid = true →
      exec (.neighbourDiscovery p (s.hostPort p).ipv4) s
        = .next (s.emit (.answer (.neighbour p (s.hostPort p).ipv4 (s.hostPort p).mac))))

/-- R320, R323 to R326: a command at the head starts and enters the list of those in progress, its entry as memory holds it;
NOP, windows, CSR accesses and WAIT_ORBIT finish with their status; the completion of the oldest is written to the
completion ring. -/
def Obligations.HostCommands : Prop :=
  ∀ (s : State) (d : Fin 4),
    (∀ e, s.mayStartCmd d = true → e = s.cmdEntry d (s.district d.val).host.cmdHead → 1 ≤ ceOp e → ceOp e ≤ 9 →
      ∃ t, exec (.commandStart d) s = .next t ∧ (t.district d.val).host = { (s.district d.val).host with
          cmdHead := ahead ((s.district d.val).host.cmdHead + 1) 0
          cmds := (s.district d.val).host.cmds ++ [{ index := (s.district d.val).host.cmdHead, entry := e }] }
        ∧ t.mem = s.mem ∧ t.out = s.out)
    ∧ (∀ i e, s.cmdAt d i 1 0 = some e → exec (.nop d i) s = .next (s.finishCmd d i (if ceSound e then .done else .refusedInvalid) 0))
    ∧ (∀ i e w ws, s.cmdAt d i 5 0 = some e → ceSound e = true → ceB e ≠ 0 → ceA e % 4096 = 0 → ceB e % 4096 = 0 → bits (ceC e) 0 22 ≠ 0 →
      (bit (ceC e) 22 || bit (ceC e) 23) = true → s.hostPlace d (ceA e) (ceB e) = true → s.freeWindows d = w :: ws →
      exec (.windowOpen d i) s = .next (State.finishCmd { s with windows := (s.windows.set (256 * d.val + w)
        ⟨bits (ceC e) 0 22, ceA e, ceB e, bit (ceC e) 22, bit (ceC e) 23⟩) } d i .done (put 0 8 w + put 8 2 d + put 10 22 (bits (ceC e)
          0 22))))
    ∧ (∀ i e x, s.cmdAt d i 6 0 = some e → ceSound e = true → bits (ceC e) 8 2 = d → bits (ceC e) 0 8 ≠ 0 →
      lookupKey (256 * d.val + bits (ceC e) 0 8) s.windows.entries = some x → x.tag = bits (ceC e) 10 22 →
      ∃ t, exec (.windowClose d i) s = .next t ∧ lookupKey (256 * d.val + bits (ceC e) 0 8) t.windows.entries = none
        ∧ (∀ k, k ≠ 256 * d.val + bits (ceC e) 0 8 → lookupKey k t.windows.entries = lookupKey k s.windows.entries) ∧ t.mem = s.mem)
    ∧ (∀ i e st v, s.cmdAt d i 7 0 = some e → ceSound e = true → s.csrRead false d (ceA e) = (st, v) →
      exec (.csrRead d i) s = .next (s.finishCmd d i st v))
    ∧ (∀ i e st u, s.cmdAt d i 8 0 = some e → ceSound e = true → s.csrWrite false d (ceA e) (ceC e) = (st, u) →
      exec (.csrWrite d i) s = .next (u.finishCmd d i st 0))
    ∧ (∀ i e, s.cmdAt d i 9 0 = some e → ceSound e = true →
      exec (.waitOrbit d i) s = .next (if s.orb.run = false then s.finishCmd d i .refusedBusy 0
        else if ceA e ≤ s.orb.number then s.finishCmd d i .done s.orb.number else s.cmdStage d i 1))
    ∧ (∀ c rest st detail orbit, (s.district d.val).host.cmds = c :: rest → c.done = some (st, detail, orbit) → s.memoryUp = true →
      s.fenced d = false → (s.district d.val).host.cplEn = true →
      ∃ t, exec (.completionPost d) s = .next t ∧ (t.district d.val).host = { (s.district d.val).host with
          cmds := rest, cplTail := ahead ((s.district d.val).host.cplTail + 1) 0 }
        ∧ t.mem = Memory.write s.mem ((s.district d.val).host.cplBase
            + (s.district d.val).host.cplTail % 2 ^ (s.district d.val).host.cplLog2 * 32)
          (completionEntry c (s.district d.val).host.cplLog2 st detail orbit))

/-- R323, R324, R330 to R334: COPY writes its destination and MSG gives its message to its ring; a TILE that passes its
check waits for a core, runs in the scratch window of the lowest free one, is stopped at 4,096 cycles, when the window is as the tile
found it, and finishes when its OUT range is written. -/
def Obligations.CopiesMessagesAndTiles : Prop :=
  ∀ (s : State) (d : Fin 4),
    (∀ i e, s.cmdAt d i 2 0 = some e → ceSound e = true → ceEnq e = false → ceLen e ≠ 0 → s.hostPlace d (ceA e) (ceLen e) = true →
      s.hostPlace d (ceB e) (ceLen e) = true →
      ∃ t, exec (.copy d i) s = .next t ∧ t.mem = (s.write d (ceB e) (s.cmdData d (ceA e) (ceLen e))).mem
        ∧ (t.district d.val).host.cmds = (s.district d.val).host.cmds.map (fun c => if c.index = i && c.done.isNone then
          { c with done := some (.done, 0, s.orbitNow) } else c))
    ∧ (∀ i e k x, s.cmdAt d i 4 0 = some e → ceSound e = true → s.cmdPlace d (ceA e) (ceLen e) = true →
      s.ringOwner (bits (ceB e) 0 12) = some (k, x) → k = d → reTx x = true → unitsFor (ceLen e) + 1 ≤ reUnits x →
      exec (.msg d i) s = .next ((s.cmdStage d i 2).giveMessage d (bits (ceB e) 0 12) x (.command d i) (s.stamped d (ceD e))
        (ceLen e) (bits (ceB e) 16 16) [] (ceA e) false))
    ∧ (∀ i e, s.cmdAt d i 3 0 = some e → ceLen e ≠ 0 → s.hostPlace d (ceA e) (32 * ceLen e) = true →
      exec (.tile d i) s = .next (if s.tileSound d e then s.cmdStage d i 1 else s.finishCmd d i .refusedInvalid 0))
    ∧ (∀ c n k, s.nextTile d = some c → (s.coresOf d).find? s.freeCore = some n → s.halted = false → s.fenced d = false → 1024 ≤ k →
      ∃ t, exec (.tileDispatch d k) s = .next t
        ∧ t.mem = Memory.copy s.mem (ceB c.entry) (sramAddr n (s.beWindow d).1) (ceInLen c.entry)
        ∧ (t.core n).next = 0 ∧ (t.core n).loops = []
        ∧ (t.core n).tile = some { district := d.val, index := c.index, prog := s.tileProg c.entry, replayed := false
                                   outAddr := ceC c.entry, outOff := (s.beWindow d).1 + ceOutOff c.entry, outLen := ceOutLen c.entry
                                   scratch := (sramAddr n (s.beWindow d).1, s.bytes (sramAddr n (s.beWindow d).1) (s.beWindow d).2)
                                   undo := [] }
        ∧ (∀ m, m ≠ n → t.core m = s.core m))
    ∧ (∀ (n : Fin 512) x, (s.core n).tile = some x → x.district = d.val → s.halted = false → s.fenced d = false → s.fetchXfer n 0 = none →
      ∃ t, exec (.tileStop n) s = .next t ∧ (t.core n).tile = none ∧ (t.district d.val).host.beStop = true
        ∧ t.mem = (s.store x.scratch.1 x.scratch.2).mem
        ∧ (t.district d.val).host.cmds = (s.district d.val).host.cmds.map (fun c => if c.index = x.index && c.done.isNone then
          { c with done := some (.refusedSize, n, s.orbitNow) } else c))
    ∧ (∀ i n dst bs r, (s.district d.val).host.outs.find? (fun x => x.1 == i) = some (i, n, dst, bs, r) → bs ≠ [] → s.halted = false →
      s.fenced d = false →
      ∃ t u, exec (.tileOutDone d i) s = .next t
        ∧ u = s.modHost d (fun h => { h with outs := h.outs.filter fun x => x.1 != i }) ∧ t.mem = (u.write d dst bs).mem
        ∧ (t.district d.val).host.outs = (s.district d.val).host.outs.filter (fun x => x.1 != i)
        ∧ (t.district d.val).host.cmds = (s.district d.val).host.cmds.map (fun c => if c.index = i && c.done.isNone then
          { c with done := some (if r then .doneReplayed else .done, n, s.orbitNow) } else c))

/-! ## Loads, checks and the ends of recovery (10, 12) -/

/-- R292, R293, R296, R304, R305: a load in progress reads the range given when it was accepted; it ends READY with the image that was
read, whose sections set the shadows of their fields, and such an image has the magic
number, its own length and digest, its district, and the signature of the key where one is required; a finding, a fence or a
halt ends it NONE with its status. The checks of a commit end ARMED, or DOOMED with the first failure in the order of R304. -/
def Obligations.LoadsAndChecks : Prop :=
  ∀ (s : State) (d : Fin 4) (bs : List Byte), bs = s.bytes (s.district d).img.loadBase (s.district d).img.loadLen →
    (∀ img, s.loadFinding d bs = .ok img → 256 ≤ bs.length ∧ fld (leNat (bs.take 256)) 0 0 32 = 0x3154534B
      ∧ fld (leNat (bs.take 256)) 8 0 32 = bs.length ∧ img.header = leNat (bs.take 256) ∧ img.digest = (bs.drop 32).take 48
      ∧ img.digest = sha384 (bs.drop 256) ∧ imgDistrict img.header = d
      ∧ ((s.district d).img.keyed = true → imgSigned img.header = true ∧ fld img.header 24 0 32 = (s.district d).img.keyId
        ∧ ecdsaVerify (s.district d).img.key (sha384 (bs.take 96)) (beNat ((bs.drop 96).take 48)) (beNat ((bs.drop 144).take 48)) = true))
    ∧ ((s.district d).img.shadow = 1 →
      (s.halted = false → s.fenced d = false → (s.district d).img.loadErr = none →
        (∀ img u, s.loadFinding d bs = .ok img → u = (s.modImg d fun g =>
          { g with shadow := 2, loaded := some img, loadResult := Status.done.code, loadedEv := true }).loadShadows d img →
          exec (.loadEnd d) s = .next (if s.orb.join then u.joinPorts else u))
        ∧ (∀ st check sect u, s.loadFinding d bs = .error (st, check, sect) → u = (s.modImg d fun g =>
          { g with shadow := 0, loaded := none, loadResult := st.code, loadedEv := true, errSection := sect, errCheck := check
                   errEntry := 0, errOffset := 0, loadErr := none }) →
          exec (.loadEnd d) s = .next (if s.orb.join then u.joinPorts else u)))
      ∧ (s.halted = true ∨ s.fenced d = true → ∀ u, u = (s.modImg d fun g =>
          { g with shadow := 0, loaded := none, loadResult := (if s.halted then Status.halted.code else Status.fenced.code)
                   loadedEv := true, errSection := 0, errCheck := 0, errEntry := 0, errOffset := 0, loadErr := none }) →
        exec (.loadEnd d) s = .next (if s.orb.join then u.joinPorts else u)))
    ∧ (∀ (u : State) img, img.sections.any (·.kind == 2) = true → (u.loadShadows d img).orb = { u.orb with
        periodSh := img.period, timeoutSh := img.timeout, leadSh := img.lead })
    ∧ (∀ (u : State) img p, img.sections.any (·.kind == 5) = true → p < 24 → u.portDistrict p = some d.val →
      ((u.loadShadows d img).port p).policySh = none ∧ ((u.loadShadows d img).port p).transitSh = none
        ∧ ((u.loadShadows d img).port p).serialSh = none)
    ∧ (∀ g, (s.district d).img.commit = 1 → s.resulting d = some g →
      (worst (allFindings s d g) = none → exec (.commitChecksEnd d) s = .next (s.modImg d fun x => { x with commit := 2 }))
      ∧ (∀ f, worst (allFindings s d g) = some f → f ∈ allFindings s d g ∧ exec (.commitChecksEnd d) s = .next (s.modImg d fun x =>
        { x with commit := 3, errSection := f.sect, errCheck := f.check, errEntry := f.entry, errOffset := f.off })))

/-- R346, R354: a copy-back returns the journal's pages from their slots in order; a page that cannot be read fences the
district. R364: a roll-forward ends when its last index has run and no core is busy. R341, R450: a district reset ends
fence, image and host work. -/
def Obligations.RecoveryEnds : Prop :=
  ∀ (s : State) (d : Fin 4), s.halted = false →
    (∀ c, (s.district d).flt.copyBack = some c →
      (∃ t, exec (.copybackDone d []) s = .next t
        ∧ t.mem = (s.district d).flt.copying.foldl (fun m i => Memory.copy m (s.slotAddr d i) (s.pageAddr d i) MiB) s.mem
        ∧ (t.district d).flt = (if c = .rewind then { (s.district d).flt with copyBack := none, prevDirty := [] }
          else { (s.district d).flt with copyBack := none, dirty := [] }) ∧ t.cores = s.cores ∧ t.rings = s.rings)
      ∧ (∀ bad, (∃ i ∈ (s.district d).flt.copying, i ∈ bad) → ∃ t, exec (.copybackDone d bad) s = .next t ∧ t.fenced d = true
        ∧ t.windows = s.windows))
    ∧ (∀ i g, (s.district d).flt.rollAt = some i → s.active d = some g → s.fenced d = false →
      (g.evl ≤ i → (∀ n ∈ s.coresOf d, (s.core n).busy = false) → ∃ t, exec (.rollfwdEnd d) s = .next t
        ∧ (t.district d).flt = { (s.district d).flt with rollAt := none, stale := [], restore := false } ∧ t.mem = s.mem)
      ∧ (i < g.evl → exec (.rollfwdEnd d) s = .next s)
      ∧ (∀ n ∈ s.coresOf d, (s.core n).busy = true → exec (.rollfwdEnd d) s = .next s))
    ∧ ((s.district d).flt.resetting = true → (s.district d).flt.copyBack = none →
      ∃ t, exec (.districtResetDone d) s = .next t ∧ t.fenced d = false ∧ (t.district d).flt.resetting = false
        ∧ (t.district d).img.active = none ∧ (t.district d).img.commit = 0 ∧ (t.district d).orb.phase = .none
        ∧ (t.district d).host.cmdEn = false ∧ (t.district d).host.cplEn = false ∧ (t.district d).host.cmds = []
        ∧ (∀ w : Nat, w / 256 ≠ d → lookupKey w t.windows.entries = lookupKey w s.windows.entries)
        ∧ (∀ w : Nat, w / 256 = d → w % 256 ≠ 0 → lookupKey w t.windows.entries = none))

/-- R358, R359: the engine places a mirror record's data in the area and writes the page's directory entry; a record it may
not place fences the district. R363: a restore record of a page or of weights is placed where it says, and one that names
another step, or a range of another use, fences. -/
def Obligations.EngineRecords : Prop :=
  ∀ (s : State) (r : Nat) (x : EngineRec) (m : MirDist) (n : Nat), s.engineRec r = some x → s.halted = false → s.fenced x.d = false →
    m = (s.district x.d).mir → n = x.desc →
    ((s.district x.d).flt.restore = false →
      (m.keep = true → edSound n = true → edType n = 1 ∨ edType n = 2 ∨ edType n = 3 → edMoff n + 1 < m.size →
        ∃ t, exec (.mirrorRecord r) s = .next t
          ∧ t.mem = Memory.write (Memory.copy s.mem x.data ((m.base + edMoff n) * MiB) (edLen n)) ((m.base + m.size - 1) * MiB + 8 *
            edMoff n)
            (leBytes 8 (dirEntry n)) ∧ t.windows = s.windows)
      ∧ (m.keep = true → edSound n = true → edType n = 4 → ∃ t, exec (.mirrorRecord r) s = .next t ∧ t.mem = s.mem)
      ∧ (m.keep = false ∨ edSound n = false ∨ (edType n ≠ 4
        ∧ m.size ≤ edMoff n + 1) ∨ edType n = 0 ∨ 5 ≤ edType n → ∃ t, exec (.mirrorRecord r) s = .next t
        ∧ t.fenced x.d = true ∧ t.mem = s.mem))
    ∧ ((s.district x.d).flt.restore = true → edSound n = true →
      (∀ g, edType n = 5 → s.regionOf x.d (edAddr n) (edLen n) = some g → g.use = edUse n → edGen n = (s.district x.d).orb.step →
        ∃ t, exec (.restoreRecord r) s = .next t ∧ t.mem = Memory.copy s.mem x.data (edAddr n) (edLen n)
          ∧ (t.district x.d).flt.stale = (s.district x.d).flt.stale.erase (edAddr n / MiB))
      ∧ (∀ g, edType n = 3 → s.regionOf x.d (edAddr n) (edLen n) = some g → g.use = 4 →
        ∃ t, exec (.restoreRecord r) s = .next t ∧ t.mem = Memory.copy s.mem x.data (edAddr n) (edLen n))
      ∧ (edType n = 4 → ∃ t, exec (.restoreRecord r) s = .next t ∧ (t.district x.d).flt.receiving = (s.district x.d).flt.receiving.erase r
        ∧ t.mem = s.mem)
      ∧ (edType n = 5 → edGen n ≠ (s.district x.d).orb.step → stepAfter (edGen n) ≠ (s.district x.d).orb.step →
        ∃ t, exec (.restoreRecord r) s = .next t ∧ t.fenced x.d = true ∧ t.mem = s.mem)
      ∧ (edType n = 0 ∨ edType n = 2 ∨ 6 ≤ edType n → ∃ t, exec (.restoreRecord r) s = .next t ∧ t.fenced x.d = true ∧ t.mem = s.mem))
    ∧ ((s.district x.d).flt.restore = true → edSound n = false → ∃ t, exec (.restoreRecord r) s = .next t ∧ t.fenced x.d = true
      ∧ t.mem = s.mem)

/-! ## Resets, start-up and power (15) -/

/-- R415 to R418, R451: PORST_N low for 1 µs or more resets, below 400 ns it is ignored, and in between it does one of the
two completely; the warm reset keeps module memory, and no other does; after a DIE_CRIT trip, or below 36.0 V, the island
powers the rails off and holds the module until PORST_N or 39.0 V; the island itself starts and ends with its supply, and
JTAG_TRST_N resets the test port alone. -/
def Obligations.ResetsBegin : Prop :=
  ∀ (s : State),
    (∀ ns, s.pwr.islandOn = true → s.pwr.heldReset = false ∨ s.pwr.offCause = 3 →
      (1000 ≤ ns → ∃ t, exec (.porstN ns) s = .next t ∧ s.resetOf t ∧ t.mem = [] ∧ t.pwr.trip = s.pwr.trip ∧ t.pwr.heldReset = false
        ∧ t.pwr.resetLast = (if s.pwr.offCause = 0 then 1 else s.pwr.offCause))
      ∧ (ns < 400 → exec (.porstN ns) s = .next s)
      ∧ (400 ≤ ns → ns < 1000 → ∃ t, exec (.porstN ns) s = .next t
        ∧ (t = { s with free := s.free + 1 } ∨ (s.resetOf t ∧ t.mem = [] ∧ t.free = s.free + 2))))
    ∧ (∀ ns, s.pwr.islandOn = true → s.pwr.heldReset = true → s.pwr.offCause = 4 → exec (.porstN ns) s = .next s)
    ∧ (s.pwr.warmPending = true → s.powered = true → ∃ t, exec .warmResetBegin s = .next t ∧ s.resetOf t ∧ t.pwr.resetLast = 2
      ∧ t.memc.selfRefresh = true ∧ (∀ a, isSram a = false → Memory.get t.mem a = Memory.get s.mem a)
      ∧ (∀ a, isSram a = true → Memory.get t.mem a = Memory.get [] a) ∧ t.pwr.memKept = s.pwr.memKept ∧ t.pwr.trip = s.pwr.trip)
    ∧ (s.pwr.critPending = true → ∃ t, exec .dieCritPowerOff s = .next t ∧ s.resetOf t ∧ t.mem = [] ∧ t.pwr.railsOn = false
      ∧ t.pwr.heldReset = true ∧ t.pwr.offCause = 3 ∧ t.pwr.trip = s.pwr.trip ∧ t.pwr.memKept = false)
    ∧ (s.pwr.islandOn = true → ∃ t, exec .inputBelow36v s = .next t ∧ s.resetOf t ∧ t.mem = [] ∧ t.pwr.railsOn = false
      ∧ t.pwr.heldReset = true ∧ t.pwr.offCause = 4 ∧ t.pwr.memKept = false)
    ∧ (s.pwr.islandOn = true → s.pwr.heldReset = true → ∃ t, exec .inputRise39v s = .next t ∧ s.resetOf t ∧ t.mem = []
      ∧ t.pwr.heldReset = false ∧ t.pwr.railsOn = true ∧ t.pwr.resetLast = s.pwr.offCause)
    ∧ (s.pwr.islandOn = false → ∃ t, exec .islandPowerUp s = .next t ∧ t.mem = [] ∧ t.clk.ns = 0 ∧ t.pwr.trip = 0 ∧ t.pwr.islandOn = true
      ∧ t.pwr.heldReset = true ∧ t.pwr.resetLast = 0 ∧ s.moon.flash.same t.moon.flash)
    ∧ (s.pwr.islandOn = true → ∃ t, exec .islandPowerLoss s = .next t ∧ s.resetOf t ∧ t.mem = [] ∧ t.pwr.islandOn = false
      ∧ t.pwr.railsOn = false ∧ t.pwr.trip = 0 ∧ t.pwr.memKept = false)
    ∧ (∀ low, exec (.jtagTrstN low) s = .next { s with jtag := { state := .reset, held := low } })

/-- R396, R398, R419 to R421: each stage of start-up ends with what it did: the pads when no comparator is tripped, the straps
when 8 samples agree or 17 sets of 8 have not, the firmware when the ROM accepts one, the memory when 96 channels are trained; a
stage that fails stops with its FAIL. The lifecycle, which the model reads from the fuses at stage 3 (log entry 121), moves only
forward, and RMA erases the key and configuration partitions. R421: a rail that is not good takes the rails off, and they are
tried once more. -/
def Obligations.StartUpStages : Prop :=
  ∀ (s : State) (e : StageEnd), s.powered = true → s.halted = false →
    (s.pwr.stage = 1 →
      (e.clear = true → exec (.startupStageEnd e) s
        = .next { s with pwr := { s.pwr with stage := 2, stopped := false, padsReleased := true } })
      ∧ (e.clear = false → exec (.startupStageEnd e) s = .next { s with pwr := { s.pwr with stopped := true, fail := 2 } })
      ∧ (∀ rail, rail < 256 → exec (.railGoodTimeout rail) s = .next { s with mem := [], tags := [], pwr := { s.pwr with
        railsOn := false, stopped := true, fail := 1, rail := rail, memKept := false } }))
    ∧ (s.pwr.stage = 2 → ∀ v l ls, e.samples = l :: ls → l = List.replicate 8 v →
      ∃ t, exec (.startupStageEnd e) s = .next t ∧ t.pwr.stage = 3 ∧ t.pwr.pstrap = bits v 0 12 ∧ t.pwr.bootsel = bits v 12 2
        ∧ t.pwr.stable = true ∧ t.mem = s.mem)
    ∧ (s.pwr.stage = 2 → (∀ l ∈ e.samples, l.length = 8 ∧ ∃ x ∈ l, x ≠ l.headD 0) →
      (e.samples.length < 17 → exec (.startupStageEnd e) s = .next s)
      ∧ (∀ v, e.samples.length = 17 → (e.samples.getLast?.bind (·.getLast?)) = some v →
        ∃ t, exec (.startupStageEnd e) s = .next t ∧ t.pwr.stage = 3 ∧ t.pwr.pstrap = bits v 0 12 ∧ t.pwr.bootsel = bits v 12 2
          ∧ t.pwr.stable = false ∧ t.mem = s.mem))
    ∧ (s.pwr.stage = 3 → s.moon.fw = 0 → ∃ t, exec (.startupStageEnd e) s = .next t
      ∧ t.moon.lifecycle = max s.moon.lifecycle (min e.lifecycle 2)
      ∧ (s.moon.lifecycle < 2 → 2 ≤ e.lifecycle → t.moon.owner = [] ∧ t.moon.cfg = {} ∧ ∀ d, d < 4 → (t.district d).img.keyed = false))
    ∧ (s.pwr.stage = 3 → s.moon.fw = 0 →
      (s.pwr.stable = true → s.pwr.bootsel = 0 → ∃ t, exec (.startupStageEnd e) s = .next t
        ∧ (fwAccepted s.moon.minSvn s.moon.flash.image = true → t.pwr.stage = 4 ∧ t.moon.running = true ∧ t.moon.fw = 1
          ∧ t.moon.svn = fwSvn s.moon.flash.image ∧ t.moon.version = fwVersion s.moon.flash.image ∧ t.moon.boot = (s.moon.boot + 1) % 2 ^ 32)
        ∧ (fwAccepted s.moon.minSvn s.moon.flash.image = false → t.pwr.stage = 3 ∧ t.pwr.stopped = true ∧ t.pwr.fail = 3
          ∧ t.moon.running = false ∧ t.moon.fw = 3))
      ∧ (s.pwr.stable = false ∨ s.pwr.bootsel = 1 → ∃ t, exec (.startupStageEnd e) s = .next t ∧ t.pwr.stage = 3
        ∧ t.pwr.stopped = true ∧ t.pwr.fail = 3 ∧ t.moon.running = false ∧ t.moon.fw = 3))
    ∧ (s.pwr.stage = 4 → s.pwr.stopped = false →
      (96 ≤ e.trained → ∃ t, exec (.startupStageEnd e) s = .next t ∧ t.pwr.stage = 5 ∧ t.memc.trained = true ∧ t.memc.channels = 96
        ∧ t.memc.selfRefresh = false ∧ t.mem = s.mem)
      ∧ (e.trained < 96 → ∃ t, exec (.startupStageEnd e) s = .next t ∧ t.pwr.stage = 4 ∧ t.pwr.stopped = true ∧ t.pwr.fail = 4
        ∧ t.memc.channels = e.trained ∧ t.memc.trained = s.memc.trained))
    ∧ (s.pwr.stage = 5 → exec (.startupStageEnd e) s = .next { s with pwr := { s.pwr with stage := 6 } })
    ∧ (s.pwr.stage = 6 → exec (.startupStageEnd e) s = .next { s with pwr := { s.pwr with stage := 7, ms := e.ms % 2 ^ 32 } })
    ∧ (∀ (u : State), u.pwr.islandOn = true → u.pwr.heldReset = false → u.pwr.railsOn = false → u.pwr.stage = 1 → u.pwr.fail = 1 →
      exec .railRetry u = .next (if u.pwr.railRetried then u else
        { u with pwr := { u.pwr with railsOn := true, railRetried := true, stopped := false } }))

/-- R406 to R411: in DROWSE memory is in self-refresh and keeps its contents; back in RUN it leaves it; SLEEP takes all but
the island off. R402: Moon lowers the CORE frequency by 7 MHz, not below 350, when a limit is exceeded, and raises it to 700
at most when there is room. -/
def Obligations.PowerStatesAndLimits : Prop :=
  ∀ (s : State), s.powered = true →
    (s.pwr.changing = true →
      (s.pwr.target = .drowse → ∃ t, exec .powerStateReached s = .next t ∧ t.pwr.state = .drowse ∧ t.pwr.changing = false
        ∧ t.memc.selfRefresh = true ∧ t.pwr.memKept = true ∧ (∀ a, isSram a = false → Memory.get t.mem a = Memory.get s.mem a)
        ∧ t.orb = s.orb ∧ t.dist = s.dist ∧ t.ports = s.ports)
      ∧ (s.pwr.target = .run → s.halted = false → ∃ t, exec .powerStateReached s = .next t ∧ t.pwr.state = .run ∧ t.pwr.changing = false
        ∧ t.memc.selfRefresh = false ∧ t.mem = s.mem ∧ t.orb = s.orb ∧ t.dist = s.dist)
      ∧ (s.pwr.target = .sleep → ∃ t, exec .powerStateReached s = .next t ∧ s.resetOf t ∧ t.pwr.state = .sleep ∧ t.pwr.railsOn = false
        ∧ t.mem = [] ∧ t.pwr.trip = s.pwr.trip))
    ∧ (∀ x : Readings, s.moon.cfg.limitW < x.power ∨ s.moon.cfg.throttle < x.die → 350 < s.moon.coreMhz →
      (1150 ≤ x.power1s ∨ 9 ≤ s.moon.sinceDown → ∃ t, exec (.powerLimitCheck x) s = .next t ∧ t.moon.coreMhz = max 350 (s.moon.coreMhz - 7)
        ∧ t.moon.sinceDown = 0 ∧ t.moon.power = x.power ∧ t.moon.dieMax = x.die ∧ t.mem = s.mem)
      ∧ (x.power1s < 1150 → s.moon.sinceDown < 9 → ∃ t, exec (.powerLimitCheck x) s = .next t ∧ t.moon.coreMhz = s.moon.coreMhz
        ∧ t.moon.sinceDown = s.moon.sinceDown + 1 ∧ t.mem = s.mem))
    ∧ (∀ x : Readings, x.power + 25 ≤ s.moon.cfg.limitW → x.die + 3 ≤ s.moon.cfg.throttle → ∃ t, exec (.powerLimitCheck x) s = .next t
      ∧ t.moon.coreMhz = (if 9 ≤ s.moon.calm then min 700 (s.moon.coreMhz + 7) else s.moon.coreMhz) ∧ t.moon.calm = min (s.moon.calm + 1) 10
      ∧ t.dist = s.dist ∧ t.mem = s.mem)

/-- R381, R382: a Moon restart ends its sessions and updates and leaves the module running; a second one within 10 minutes
halts it; a single-bit error is logged; the ROM then boots again. R396, R416, R435: JTAG_TCK moves the test port as IEEE 1149.1 has it
while JTAG_TRST_N is high: five rising edges with JTAG_TMS high reset it from any state, to IDCODE; instruction and data register shift
from JTAG_TDI to JTAG_TDO; BYPASS is one bit; in PRODUCTION, while debug is locked, only boundary scan, BYPASS and IDCODE come into
force (registers and their order: log entry 54). R399: an MCTP control message is answered. -/
def Obligations.MoonRestartsAndTap : Prop :=
  ∀ (s : State),
    (s.powered = true → s.moon.running = true →
      (∀ why, why ≠ .corrected → ∃ t, exec (.moonWatchdogExpiry why false) s = .next t ∧ t.moon.running = false ∧ t.moon.fw = 0
        ∧ t.moon.sessions = [] ∧ t.moon.update = none ∧ t.moon.restarts = (s.moon.restarts + 1) % 2 ^ 16 ∧ t.mem = s.mem ∧ t.orb = s.orb
        ∧ t.cores = s.cores ∧ t.rings = s.rings ∧ t.hosts = s.hosts ∧ t.halted = s.halted ∧ s.moon.flash.same t.moon.flash)
      ∧ (∀ why, why ≠ .corrected → ∃ t, exec (.moonWatchdogExpiry why true) s = .next t ∧ t.halted = true ∧ t.moon.running = false
        ∧ t.mem = s.mem))
    ∧ (s.powered = true → ∀ second, exec (.moonWatchdogExpiry .corrected second) s = .next (s.notice 0x68 none 0 0))
    ∧ (s.powered = true → s.moon.fw = 0 → 4 ≤ s.pwr.stage → ∃ t, exec .moonRestartDone s = .next t
      ∧ t.moon.boot = (s.moon.boot + 1) % 2 ^ 32 ∧ t.mem = s.mem ∧ t.cores = s.cores
      ∧ t.moon.running = decide (s.pwr.bootChoice ≠ 1 ∧ fwAccepted s.moon.minSvn s.moon.flash.image = true))
    ∧ (s.jtag.held = false → s.powered = true →
      (∀ tms tdi, ∃ t, exec (.jtagTck true tms tdi) s = .next t ∧ t = { s with free := s.free + 1, jtag := t.jtag }
        ∧ t.jtag.state = s.jtag.state.next tms
        ∧ t.jtag.instr = (if s.jtag.state.next tms = .reset then .idcode else s.jtag.instr)
        ∧ (s.jtag.state = .shIr → t.jtag.ir = s.jtag.ir.drop 1 ++ [tdi] ∧ t.jtag.dr = s.jtag.dr)
        ∧ (s.jtag.state = .shDr → t.jtag.dr = s.jtag.dr.drop 1 ++ [tdi] ∧ t.jtag.ir = s.jtag.ir)
        ∧ (s.jtag.state = .capDr → s.jtag.instr = .bypass → t.jtag.dr = [false])
        ∧ (s.jtag.state = .capDr → s.jtag.instr = .idcode → t.jtag.dr.length = 32 ∧ t.jtag.dr.headD false = true))
      ∧ (∀ tms tdi, s.jtag.state = .shIr → exec (.jtagTck false tms tdi) s = .next (s.emit (.tdo (s.jtag.ir.headD false))))
      ∧ (∀ tms tdi, s.jtag.state = .shDr → exec (.jtagTck false tms tdi) s = .next (s.emit (.tdo (s.jtag.dr.headD false))))
      ∧ (∀ tms tdi, s.jtag.state = .updIr → ∃ i, exec (.jtagTck false tms tdi) s = .next { s with jtag := { s.jtag with instr := i } }
        ∧ (s.jtag.ir.all id = true → i = .bypass)
        ∧ (s.moon.lifecycle = 1 → s.moon.unlocked = false → i = .bypass ∨ i = .idcode ∨ i = .boundary))
      ∧ (∀ tms tdi, s.jtag.state ≠ .shDr → s.jtag.state ≠ .shIr → s.jtag.state ≠ .updIr → exec (.jtagTck false tms tdi) s = .next s))
    ∧ (∀ t : Tap, (((((t.next true).next true).next true).next true).next true) = .reset)
    ∧ (s.jtag.held = true → ∀ up tms tdi, exec (.jtagTck up tms tdi) s = .next s)
    ∧ (s.moon.running = true → ∀ via code data, s.hears via = true → ∃ t bs, exec (.mctpControl via code data) s = .next t
      ∧ t = { s with free := s.free + 1, out := .mctp via code bs :: s.out })

/-- R391: once the boot of an image has run for 10 minutes, the fused minimum is at least its SVN, and never less than
before; an image with a lower SVN is then accepted no more, so the ROM does not run it from flash, and recovery ends its
update. -/
def Obligations.MinimumSvnRises : Prop :=
  ∀ (s : State), s.moon.running = true →
    ∃ t, exec .svnBurn s = .next t ∧ t = { s with moon := { s.moon with minSvn := max s.moon.minSvn s.moon.svn } }
      ∧ (∀ img, fwSvn img < s.moon.svn → fwAccepted t.moon.minSvn img = false)
      ∧ (∀ (u : State) (via : Transport) (x : Update), u.moon.minSvn = t.moon.minSvn → u.moon.running = false → u.moon.fw = 3 →
        onManagement via = true → u.hears via = true → u.moon.update = some x → x.stage = 4 → x.ram = true → fwSvn x.bytes < s.moon.svn →
        exec (.verifyComplete via) u = .next { u with moon := { u.moon with update := none }, out := .pldm via 1 false :: u.out })
      ∧ (∀ (u : State), u.moon.minSvn = t.moon.minSvn → fwSvn u.moon.flash.image < s.moon.svn → u.bootRom.moon.running = false)

/-! ## Moon (14) -/

/-- R397, R399, R400: without firmware, over a transport that does not reach Moon or with another vendor's identifier a vendor command
has no answer; without the owner's session it is refused, and so is an unlisted code in one. R389, R400, R403, R405, R420: status, from
the ROM too, and owner root, which is written to flash; the owner is cleared only while no image is active, and keys and
definitions go with it; configuration. -/
def Obligations.OwnersCommands : Prop :=
  ∀ (s : State) (q : MReq),
    (∀ c defs d key keyid a v p items n k sigR sigS, c ∈ [Instr.districtSet q defs, .ownerClear q, .districtReset q d, .keyRegister q d
      key keyid,
        .keyRevoke q d, .moonCsrRead q d a, .moonCsrWrite q d a v, .logRead q n k, .snpRead q d n k, .cardGet q, .cardRecheck q p,
        .configSet q items, .debugUnlock q n k sigR sigS] →
      (s.takesVendor q = false → exec c s = .next s)
      ∧ (s.takesVendor q = true → s.ownerSession q = false → exec c s = .next (s.reply q .refusedAccess []))
      ∧ (s.takesVendor q = true → s.ownerSession q = true → q.unlisted = true → exec c s = .next (s.reply q .refusedInvalid [])))
    ∧ (q.unlisted = false → s.takesVendor q = true ∨ (s.romAnswers q.via = true ∧ q.vendor = vendorId) →
      exec (.getStatus q) s = .next (s.reply q .done ((List.range 6).flatMap fun i => leBytes 8 (s.moonRead (8 * i)))))
    ∧ (∀ root, s.takesVendor q = true → q.unlisted = false → q.via = .i3c → s.moon.owner = [] → root ≠ [] →
      ∃ t, exec (.ownerSet q root) s = .next t ∧ t.moon.owner = root ∧ t.out = .moon q.via .done [] :: s.out ∧ t.mem = s.mem
        ∧ t.dist = s.dist ∧ t.windows = s.windows
        ∧ (s.moon.flash.keys.inForce.seq + 1 < 2 ^ 32 → t.moon.flash.keys.inForce.content.owner = root))
    ∧ (∀ root, s.takesVendor q = true → q.unlisted = false → q.via ≠ .i3c ∨ s.moon.owner ≠ [] → exec (.ownerSet q root) s = .next (s.reply q .refusedAccess []))
    ∧ (s.takesVendor q = true → q.unlisted = false → s.ownerSession q = true →
      ((∀ d ∈ s.defined, s.active d = none) → ∃ t, exec (.ownerClear q) s = .next t ∧ t.moon.owner = []
        ∧ (∀ x ∈ t.moon.sessions, x.owner = false)
        ∧ (∀ d, d < 4 → (t.district d).img.keyed = false ∧ (t.district d).defn = (State.reset.district d).defn)
        ∧ t.out = .moon q.via .done [] :: s.out ∧ t.mem = s.mem ∧ t.cores = s.cores)
      ∧ ((∃ d ∈ s.defined, (s.active d).isSome) → exec (.ownerClear q) s = .next (s.reply q .refusedBusy []))
      ∧ (∀ items, (∃ i ∈ items, configOk i = false) → exec (.configSet q items) s = .next (s.reply q .refusedInvalid []))
      ∧ (∀ w, 300 ≤ w → w ≤ 1150 → ∃ t, exec (.configSet q [.limitW w]) s = .next t ∧ t.moon.cfg = { s.moon.cfg with limitW := w }
        ∧ t.out = .moon q.via .done [] :: s.out ∧ t.mem = s.mem ∧ t.dist = s.dist)
      ∧ (∀ c, 85 ≤ c → c ≤ 100 → ∃ t, exec (.configSet q [.throttleC c]) s = .next t ∧ t.moon.cfg = { s.moon.cfg with throttle := c }
        ∧ t.out = .moon q.via .done [] :: s.out ∧ t.mem = s.mem ∧ t.dist = s.dist))

/-- R308, R309, R341, R380, R385, R397, R401, R404: definitions that R309 accepts take effect on districts that nothing
holds; keys change while no load and no commit holds the district, and a loaded image is then dropped; reads of the log,
counters, cards and registers; debug is unlocked by a token for the issued nonce alone, and Moon restarts. -/
def Obligations.DistrictCommands : Prop :=
  ∀ (s : State) (q : MReq), s.takesVendor q = true → q.unlisted = false → s.ownerSession q = true →
    (∀ defs, defsOk defs = false → exec (.districtSet q defs) s = .next (s.reply q .refusedInvalid []))
    ∧ (∀ defs, defsOk defs = true → (∀ d x, defs[d]? = some x → s.touches d x = false ∨ s.districtBusy d = false) →
      ∃ t, exec (.districtSet q defs) s = .next t ∧ (∀ d x, defs[d]? = some x → (t.district d).defn = defnOf x
          ∧ (s.touches d x = false →
            (∀ w, lookupKey (256 * d + w % 256) t.windows.entries = lookupKey (256 * d + w % 256) s.windows.entries)))
        ∧ t.out = .moon q.via .done [] :: s.out ∧ t.mem = s.mem)
    ∧ (∀ defs d x, defsOk defs = true → defs[d]? = some x → s.touches d x = true → s.districtBusy d = true →
      exec (.districtSet q defs) s = .next (s.reply q .refusedBusy []))
    ∧ (∀ (d : Fin 4), exec (.districtReset q d) s = .next ((s.districtReset d).2.reply q (s.districtReset d).1 []))
    ∧ (∀ (d : Fin 4) (key : List Byte) (keyid : W32), (bpPoint key).isSome → keyid ≠ 0 →
      ((s.district d).img.shadow ≠ 1 → (s.district d).img.commit = 0 → ∃ t u, exec (.keyRegister q d key keyid) s = .next t
          ∧ (t.district d).img.keyed = true ∧ (t.district d).img.key = key ∧ (t.district d).img.keyId = keyid.toNat
          ∧ exec (.keyRevoke q d) s = .next u ∧ (u.district d).img.keyed = false
          ∧ ((s.district d).img.shadow = 2 → (t.district d).img.shadow = 0 ∧ (t.district d).img.loaded = none
            ∧ (u.district d).img.shadow = 0
            ∧ (u.district d).img.loaded = none)
          ∧ t.out = .moon q.via .done [] :: s.out ∧ u.out = .moon q.via .done [] :: s.out ∧ t.mem = s.mem ∧ u.mem = s.mem)
      ∧ ((s.district d).img.shadow = 1 ∨ (s.district d).img.commit ≠ 0 →
        exec (.keyRegister q d key keyid) s = .next (s.reply q .refusedBusy [])
          ∧ exec (.keyRevoke q d) s = .next (s.reply q .refusedBusy [])))
    ∧ (∀ (d : Fin 4) a, exec (.moonCsrRead q d a) s = .next (s.reply q (s.csrRead true d a).1 (leBytes 8 (s.csrRead true d a).2)))
    ∧ (∀ (d : Fin 4) a v, exec (.moonCsrWrite q d a v) s
      = .next ((s.csrWrite true d a v.toNat).2.reply q (s.csrWrite true d a v.toNat).1 []))
    ∧ (∀ seq n, 64 < n → exec (.logRead q seq n) s = .next (s.reply q .refusedSize []))
    ∧ (∀ seq n x, x ∈ s.moon.log → x.1 ≤ seq → 1 ≤ n → n ≤ 64 → (s.moon.log.filter fun x => seq ≤ x.1) ≠ [] →
      exec (.logRead q seq n) s = .next (s.reply q .done (((s.moon.log.filter fun x => seq ≤ x.1).take n).flatMap logRecord)))
    ∧ (∀ (d : Fin 4) i n, 1 ≤ n → n ≤ 512 → 0x10000 + 8 * (i + n) ≤ 0x100000 →
      exec (.snpRead q d (0x10000 + 8 * i) n) s
        = .next (s.reply q .done ((List.range n).flatMap fun j => leBytes 8 (s.snpRead d (0x10000 + 8 * i + 8 * j)))))
    ∧ exec (.cardGet q) s = .next (s.reply q .done ((s.moon.cards.filter fun k => (s.port k.port).state == 7).flatMap KeptCards.bytes))
    ∧ (∀ p : Fin 24, exec (.cardRecheck q p) s
      = .next (if (s.port p).state = 7 then (s.sendCard p).reply q .done [] else s.reply q .refusedInvalid []))
    ∧ (∀ nonce sigR sigS, s.moon.nonce = some nonce → (∀ d ∈ s.defined, s.districtBusy d = false) →
      ∃ t, exec (.debugUnlock q s.moon.serial nonce sigR sigS) s = .next t ∧ t.mem = s.mem ∧ t.cores = s.cores
        ∧ (ecdsaVerify Config.debugKey (Config.debugDigest s.moon.serial nonce) sigR sigS = true →
          t.moon.unlocked = true ∧ t.moon.running = false ∧ t.moon.nonce = none)
        ∧ (ecdsaVerify Config.debugKey (Config.debugDigest s.moon.serial nonce) sigR sigS = false → ∃ fresh, t = { s with
          free := s.free + 1, moon := { s.moon with nonce := some fresh }, out := .moon q.via .refusedAccess (leBytes 48 fresh) :: s.out }))
    ∧ (∀ serial nonce sigR sigS, s.moon.nonce ≠ some nonce ∨ serial ≠ s.moon.serial →
      ∃ t fresh, exec (.debugUnlock q serial nonce sigR sigS) s = .next t
      ∧ t = { s with free := s.free + 1, moon := { s.moon with
        nonce := some fresh }, out := .moon q.via .refusedAccess (leBytes 48 fresh) :: s.out })

/-- R393 to R395: the negotiation goes VERSION, CAPABILITIES, ALGORITHMS, and a request before its turn is an error; up to four
sessions, each with the secret that ECDHE gives; a session is established by a FINISH whose proof holds and carries the owner's
rights when its chain ends in the owner root; a failed one ends. Digests, certificates, challenges and measurements are those of
filled slots. -/
def Obligations.SpdmRequests : Prop :=
  ∀ (s : State) (via : Transport), s.moon.running = true → onManagement via = true → s.hears via = true →
    (∃ t, exec (.getVersion via) s = .next t
      ∧ t = { s with moon := { s.moon with spdm := 1 }, out := .spdm via 0x04 true (leBytes 2 0x1300) :: s.out })
    ∧ (∀ c lvl b slot x off len n i, (c, lvl) ∈ [(Instr.getCapabilities via, 1), (.negotiateAlgorithms via b, 2), (.getDigests via, 3),
        (.getCertificate via slot off len, 3), (.challenge via slot n, 3), (.getMeasurements via i slot n, 3), (.keyExchange via x, 3),
        (.finish via i b b, 3), (.keyUpdate via i, 3), (.heartbeat via i, 3), (.endSession via i, 3)] → s.moon.spdm < lvl →
      exec c s = .next { s with out := .spdm via 0x7F false (leBytes 1 0x04) :: s.out })
    ∧ (1 ≤ s.moon.spdm → exec (.getCapabilities via) s = .next { s with
      moon := { s.moon with spdm := 2 }, out := .spdmCapabilities via moonCapabilities :: s.out })
    ∧ (2 ≤ s.moon.spdm → exec (.negotiateAlgorithms via true) s = .next { s with
        moon := { s.moon with spdm := 3 }
        out := .spdmAlgorithms via [.ecdsaBrainpoolP384r1, .sha384, .ecdheBrainpoolP384r1, .aes256Gcm] :: s.out }
      ∧ exec (.negotiateAlgorithms via false) s = .next { s with out := .spdm via 0x7F false (leBytes 1 0x01) :: s.out })
    ∧ (3 ≤ s.moon.spdm →
      (∀ slot, s.slotFilled slot = true →
        (∃ t, exec (.getDigests via) s = .next t
          ∧ t = { s with out := (.spdm via 0x01 true (leBytes 1 (sumOf ((List.range 5).filter s.slotFilled) (2 ^ ·))
            ++ ((List.range 5).filter s.slotFilled).flatMap fun i => sha384 (s.chainOf i)) :: s.out) })
        ∧ (∀ off len, exec (.getCertificate via slot off len) s
          = .next { s with out := (if off < (s.chainOf slot).length then .spdm via 0x02 true (((s.chainOf slot).drop off).take len)
            else .spdm via 0x7F false (leBytes 1 0x01)) :: s.out })
        ∧ (∀ nonce body, body = leBytes 1 slot ++ sha384 (s.chainOf slot) ++ leBytes 32 nonce → ∃ n j, exec (.challenge via slot nonce) s
          = .next { s with free := s.free + 2, out := (.spdm via 0x03 true
            (body ++ leBytes 32 n ++ Config.signature (s.slotScalar slot) (body ++ leBytes 32 n) j) :: s.out) })
        ∧ (∀ i x nonce, s.measurements.find? (fun x => x.1 == i) = some x → i ≠ 0 → i ≠ 255 →
          ∀ body, body = leBytes 1 x.1 ++ leBytes 2 x.2.length ++ x.2 ++ leBytes 32 nonce →
          ∃ n j, exec (.getMeasurements via i slot nonce) s = .next { s with free := s.free + 2, out := (.spdm via 0x60 true
            (body ++ leBytes 32 n ++ Config.signature (s.slotScalar slot) (body ++ leBytes 32 n) j) :: s.out) })
        ∧ (∀ point q, bpPoint point = some q →
          (s.moon.sessions.length < 4 → ∃ t e bs, exec (.keyExchange via ⟨slot, point⟩) s = .next t ∧ 1 ≤ e ∧ e < bpN
            ∧ t = { s with
              free := s.free + 3
              moon := { s.moon with
                sessions := s.moon.sessions ++ [⟨s.moon.nextSession, false, false, 0,
                  (bpMul 384 e (some q)).elim [] fun y => beBytes 48 y.1⟩]
                nextSession := s.moon.nextSession + 1 }
              out := .spdm via 0x64 true bs :: s.out })
          ∧ (4 ≤ s.moon.sessions.length →
            exec (.keyExchange via ⟨slot, point⟩) s = .next { s with out := .spdm via 0x7F false (leBytes 1 0x03) :: s.out })))
      ∧ (∀ slot point, bpPoint point = none →
        exec (.keyExchange via ⟨slot, point⟩) s = .next { s with out := .spdm via 0x7F false (leBytes 1 0x01) :: s.out })
      ∧ (∀ i x chains, x ∈ s.moon.sessions → x.id = i →
        (x.established = false →
          (∃ t, exec (.finish via i true chains) s = .next t
            ∧ t = { s with out := .spdm via 0x65 true [] :: s.out, moon := { s.moon with sessions := (
            s.moon.sessions.map fun y => if y.id
              = i then { y with established := true, owner := chains && !s.moon.owner.isEmpty } else y) } })
          ∧ (∃ t, exec (.finish via i false chains) s = .next t
            ∧ t = { s with out := .spdm via 0x7F false (leBytes 1 0x06) :: s.out, moon := { s.moon with
              sessions := s.moon.sessions.filter fun y => y.id != i } }))
        ∧ (x.established = true →
          exec (.heartbeat via i) s = .next { s with out := .spdm via 0x68 true [] :: s.out }
          ∧ (∃ t, exec (.keyUpdate via i) s = .next t
            ∧ t = { s with out := .spdm via 0x69 true [] :: s.out, moon := { s.moon with sessions := (
            s.moon.sessions.map fun y => if y.id = i then { y with keys := y.keys + 1, secret := hmac384 y.secret (leBytes 8 (y.keys + 1)) } else y) } })
          ∧ (∃ t, exec (.endSession via i) s = .next t
            ∧ t = { s with out := .spdm via 0x6C true [] :: s.out, moon := { s.moon with
              sessions := s.moon.sessions.filter fun y => y.id != i } }))))

/-- R387, R389, R390: an update goes stage by stage, a command out of turn is refused; the running firmware checks the
header before it writes the flash; what is written is verified, and an image that fails ends the update; activation restarts
Moon alone, or, in recovery, runs the image from SRAM and leaves the flash as it is. -/
def Obligations.FirmwareUpdates : Prop :=
  ∀ (s : State) (via : Transport), onManagement via = true → s.hears via = true → s.moon.running = true ∨ s.moon.fw = 3 →
    (s.moon.update = none → exec (.requestUpdate via) s = .next { s with
      moon := { s.moon with update := some ⟨1, s.moon.fw == 3, []⟩ }, out := .pldm via 0 true :: s.out })
    ∧ (∀ u, s.moon.update = some u →
      exec (.requestUpdate via) s = .next { s with out := .pldm via 4 false :: s.out }
      ∧ (∀ c k off size data, (c, k) ∈ [(Instr.passComponentTable via, 1), (.updateComponent via size, 2), (.requestFirmwareData via
        off data, 3),
          (.transferComplete via, 3), (.verifyComplete via, 4), (.activateFirmware via, 5)] → u.stage ≠ k →
        exec c s = .next { s with out := .pldm via 0x84 false :: s.out })
      ∧ (u.stage = 1 → exec (.passComponentTable via) s = .next { s with
        moon := { s.moon with update := some { u with stage := 2 } }, out := .pldm via 0 true :: s.out })
      ∧ (∀ size, u.stage = 2 → size ≤ 4096 + 1572864 → exec (.updateComponent via size) s = .next { s with
        moon := { s.moon with update := some { u with stage := 3 } }, out := .pldm via 0 true :: s.out })
      ∧ (∀ data, u.stage = 3 → (u.bytes ++ data).length ≤ 4096 + 1572864 →
        (u.ram = true ∨ (u.bytes ++ data).length < 4096 → exec (.requestFirmwareData via u.bytes.length data) s = .next { s with
          moon := { s.moon with update := some { u with bytes := u.bytes ++ data } }, out := .pldm via 0 true :: s.out })
        ∧ (u.ram = false → u.bytes.length < 4096 → 4096 ≤ (u.bytes ++ data).length → fwHeaderOk (u.bytes ++ data) = false →
          exec (.requestFirmwareData via u.bytes.length data) s = .next { s with
            moon := { s.moon with update := none }, out := .pldm via 0x88 false :: s.out })
        ∧ (u.ram = false → 4096 ≤ (u.bytes ++ data).length → 4096 ≤ u.bytes.length ∨ fwHeaderOk (u.bytes ++ data) = true →
          exec (.requestFirmwareData via u.bytes.length data) s = .next { s with
            moon := { s.moon with flash := { s.moon.flash with image := u.bytes ++ data }, update := some { u with bytes := u.bytes ++ data } }, out := .pldm via 0
              true :: s.out }))
      ∧ (u.stage = 3 → exec (.transferComplete via) s = .next { s with
        moon := { s.moon with update := some { u with stage := 4 } }, out := .pldm via 0 true :: s.out })
      ∧ (∀ img, u.stage = 4 → img = (if u.ram = true ∨ u.bytes.length < 4096 then u.bytes else s.moon.flash.image) → exec (.verifyComplete via) s
        = .next (if fwAccepted s.moon.minSvn img then
          { s with moon := { s.moon with update := some { u with stage := 5 } }, out := .pldm via 0 true :: s.out }
          else { s with moon := { s.moon with update := none }, out := .pldm via 1 false :: s.out }))
      ∧ (u.stage = 5 → u.ram = false → ∃ t, exec (.activateFirmware via) s = .next t ∧ t.moon.running = false ∧ t.moon.fw = 0
        ∧ s.moon.flash.same t.moon.flash ∧ t.out = .pldm via 0 true :: s.out ∧ t.cores = s.cores ∧ t.mem = s.mem ∧ t.orb = s.orb)
      ∧ (u.stage = 5 → u.ram = true → ∃ t, exec (.activateFirmware via) s = .next t ∧ t.moon.running = true ∧ t.moon.fw = 2
        ∧ t.moon.svn = fwSvn u.bytes ∧ t.moon.flash.image = s.moon.flash.image ∧ t.out = .pldm via 0 true :: s.out ∧ t.cores = s.cores ∧ t.mem = s.mem))

/-! ## The block as a whole -/

/-- A step takes the command at the front of the queue and runs it on the state with the queue's rest; on an empty queue the
block idles for one cycle of its clock (DESIGN CHOICE, log entry 37), in which GLB_TIME moves by 6.4 ns of the reference or
40 ns of the oscillator (R412). -/
def Obligations.StepRunsTheFront : Prop :=
  (∀ (c : Instr) (q : List Instr) (s : State), step { s with pending := c :: q } = exec c { s with pending := q })
    ∧ (∀ (s : State), s.pending = [] → ∃ t, step s = .next t ∧ t = { s with clk := t.clk } ∧ t.clk.ref = s.clk.ref + 1
      ∧ t.clk.frac < 5 * 2 ^ 32
      ∧ t.clk.up = s.clk.up + (if s.pwr.islandOn = false then 0 else if s.orb.refOk = true then 32 * 2 ^ 32 else 200 * 2 ^ 32)
      ∧ (s.pwr.islandOn = true → s.orb.refOk = true →
        (5 * 2 ^ 32 * t.clk.ns + t.clk.frac) % (5 * 2 ^ 96) = (5 * 2 ^ 32 * s.clk.ns + s.clk.frac + 32 * 2 ^ 32) % (5 * 2 ^ 96))
      ∧ (s.pwr.islandOn = true → s.orb.refOk = false →
        (5 * 2 ^ 32 * t.clk.ns + t.clk.frac) % (5 * 2 ^ 96) = (5 * 2 ^ 32 * s.clk.ns + s.clk.frac + 200 * 2 ^ 32) % (5 * 2 ^ 96))
      ∧ (s.pwr.islandOn = false → s.clk.frac < 5 * 2 ^ 32 → s.clk.ns < 2 ^ 64 → t.clk.ns = s.clk.ns ∧ t.clk.frac = s.clk.frac))

/-- What reset leaves, as the spec gives it: start-up at stage 1, no halt, no counting, district 0 with every resource and
the others undefined (R308), no image, no firmware, ports down and no light, links of the host ports down, counters at zero,
the test port in reset. -/
def Obligations.ResetState : Prop :=
  State.reset.pwr.stage = 1 ∧ State.reset.halted = false ∧ State.reset.orb.run = false ∧ State.reset.orb.arm = false
    ∧ State.reset.moon.running = false ∧ State.reset.moon.fw = 0 ∧ State.reset.moon.sessions = [] ∧ State.reset.defined = [0]
    ∧ (State.reset.district 0).defn = ⟨true, 2 ^ 128 - 1, 2 ^ 24 - 1, 15, 0, 736⟩
    ∧ (∀ d, State.reset.active d = none ∧ (State.reset.district d).img.keyed = false ∧ State.reset.fenced d = false)
    ∧ (∀ p, (State.reset.port p).state = 0 ∧ (State.reset.hostPort p).link = false ∧ (State.reset.hostPort p).qps.entries = [])
    ∧ (∀ k, State.reset.counter k = 0) ∧ State.reset.jtag.state = .reset ∧ State.reset.pending = []

/-- The memory of the reset state is in its canonical form: nothing is listed. -/
def Obligations.ResetIsCanonical : Prop := State.reset.canonical ∧ ∀ a, State.reset.byte a = Memory.blank

/-- Every step keeps the memory in its canonical form, in which equal contents are equal data. -/
def Obligations.StepsKeepCanonicalMemory : Prop :=
  ∀ (s t : State), s.canonical → step s = .next t → t.canonical

/-- Every command has its effect in every state: none faults, none is refused, and none touches the queue. -/
def Obligations.EveryCommandCompletes : Prop :=
  ∀ (c : Instr) (s : State), ∃ t, exec c s = .next t ∧ t.pending = s.pending

/-- R339, R417: a halted module stays halted but through a reset. R58: the orbit number and RUN stay but through a tick, a
start, a loss of tick or of the reference, or a reset. -/
def Obligations.HaltsAndOrbitsStay : Prop :=
  ∀ (s t : State), step s = .next t →
    ((∀ c, s.pending.head? = some c → endsHalt c = false) → s.halted = true → t.halted = true)
    ∧ ((∀ c, s.pending.head? = some c → countsOrbits c = false) → t.orb.number = s.orb.number ∧ t.orb.run = s.orb.run)

/-- R16, R319: the bytes of memory and core SRAM, and the windows of the hosts' keys, stay through every command but those
that write them; register accesses and requests of the management interface write no memory. -/
def Obligations.MemoryAndWindowsStay : Prop :=
  ∀ (s t : State), step s = .next t →
    ((∀ c, s.pending.head? = some c → writesMemory c = false) → ∀ a, t.byte a = s.byte a)
    ∧ ((∀ c, s.pending.head? = some c → changesWindows c = false) → t.windows = s.windows)

/-- A read after a write gives what was written, and every other byte is as before; a copy moves its bytes as if all were
read first; and two canonical memories that read the same everywhere are the same. -/
def Obligations.MemoryReadsBack : Prop :=
  ∀ (m : List Host.Cell), Memory.wf m →
    (∀ a bs x, Memory.get (Memory.write m a bs) x = if a ≤ x ∧ x < a + bs.length then bs.getD (x - a) 0 else Memory.get m x)
    ∧ (∀ src dst len x, Memory.get (Memory.copy m src dst len) x
      = if dst ≤ x ∧ x < dst + len then Memory.get m (src + (x - dst)) else Memory.get m x)
    ∧ (∀ n, Memory.wf n → (∀ x, Memory.get m x = Memory.get n x) → m = n)

/-- R331: the dispatcher takes a district's TILE commands in ring order, each to the lowest free core at that moment; it
issues none with fewer than 1,024 reference cycles to the tick; a tile that finds no core waits, and later ones wait behind
it. -/
def Obligations.TilesGoInRingOrder : Prop :=
  ∀ (s : State) (d : Fin 4) (k : Nat),
    (k < 1024 → exec (.tileDispatch d k) s = .next s)
    ∧ ((∀ n ∈ s.coresOf d, s.freeCore n = false) → exec (.tileDispatch d k) s = .next s)
    ∧ (∀ before c after, (s.district d).host.running = before ++ c :: after → ceOp c.entry = 3 → c.stage ≠ 2 →
      (∀ b ∈ before, ceOp b.entry = 3 → b.stage = 2) →
      (c.stage ≠ 1 → exec (.tileDispatch d k) s = .next s)
      ∧ (c.stage = 1 → ∀ n ∈ s.coresOf d, s.freeCore n = true → (∀ m ∈ s.coresOf d, m < n → s.freeCore m = false) → s.halted = false →
        s.fenced d = false → 1024 ≤ k →
        ∃ t, exec (.tileDispatch d k) s = .next t ∧ (t.core n).tile = some
          { district := d.val, index := c.index, prog := s.tileProg c.entry, replayed := false, outAddr := ceC c.entry
            outOff := (s.beWindow d).1 + ceOutOff c.entry, outLen := ceOutLen c.entry
            scratch := (sramAddr n (s.beWindow d).1, s.bytes (sramAddr n (s.beWindow d).1) (s.beWindow d).2), undo := [] }
          ∧ ∀ m, m ≠ n → t.core m = s.core m))
end

