-- ==== Sys2Proof/Laws/Bits.lean ====
section
/-! SUPPORT. Bits and fields of written words: which of them a forced bit or a forced operation code changes. -/

namespace Sys2Proof.Machine

theorem bit_eq_testBit (n i : Nat) : bit n i = n.testBit i := by
  unfold bit bits
  rw [Nat.testBit_eq_decide_div_mod_eq, Nat.shiftRight_eq_div_pow, Nat.pow_one]
  by_cases h : n / 2 ^ i % 2 = 1 <;> simp [h]

theorem testBit_bits (n lo len j : Nat) : (bits n lo len).testBit j = (decide (j < len) && n.testBit (lo + j)) := by
  unfold bits
  rw [Nat.testBit_mod_two_pow, Nat.testBit_shiftRight]

theorem and_two_pow_eq (n i : Nat) : n &&& 2 ^ i = (n.testBit i).toNat * 2 ^ i := by
  apply Nat.eq_of_testBit_eq
  intro j
  rw [Nat.testBit_and, Nat.testBit_two_pow]
  cases h : n.testBit i
  · by_cases hj : i = j
    · subst hj; simp [h]
    · simp [hj]
  · by_cases hj : i = j
    · subst hj; simp [h]
    · simp [hj]

theorem testBit_forceBit (v i j : Nat) (b : Bool) : (forceBit v i b).testBit j = if j = i then b else v.testBit j := by
  cases b with
  | true =>
    simp only [forceBit, if_true, Nat.testBit_or, Nat.testBit_two_pow]
    split
    · subst j; simp
    · simp [Ne.symm ‹_›]
  | false =>
    have hv : v = 2 ^ i * (v / 2 ^ i) + v % 2 ^ i := (Nat.div_add_mod v (2 ^ i)).symm
    have hr : v % 2 ^ i < 2 ^ i := Nat.mod_lt _ (Nat.two_pow_pos i)
    have hq : v / 2 ^ i = 2 * (v / 2 ^ i / 2) + v / 2 ^ i % 2 := by omega
    have hb : v.testBit i = decide (v / 2 ^ i % 2 = 1) := Nat.testBit_eq_decide_div_mod_eq
    have key : v - (v &&& 2 ^ i) = 2 ^ i * (2 * (v / 2 ^ i / 2)) + v % 2 ^ i := by
      rw [and_two_pow_eq, hb]
      rcases Nat.mod_two_eq_zero_or_one (v / 2 ^ i) with h | h
      · simp only [h]; simp; rw [h, Nat.add_zero] at hq; rw [← hq]; exact hv
      · rw [h] at hq
        have e : 2 ^ i * (v / 2 ^ i) = 2 ^ i * (2 * (v / 2 ^ i / 2)) + 2 ^ i := by
          conv => lhs; rw [hq, Nat.mul_add, Nat.mul_one]
        rw [e] at hv
        simp only [h, decide_true, Bool.toNat_true, Nat.one_mul]
        omega
    have e : forceBit v i false = v - (v &&& 2 ^ i) := rfl
    rw [e, key, Nat.testBit_two_pow_mul_add _ hr]
    split
    · rename_i h
      rw [if_neg (by omega)]
      conv => rhs; rw [hv, Nat.testBit_two_pow_mul_add _ hr, if_pos h]
    · rename_i h
      split
      · subst j; simp
      · have : j - i = (j - i - 1) + 1 := by omega
        conv => rhs; rw [hv, Nat.testBit_two_pow_mul_add _ hr, if_neg h]
        rw [this, Nat.testBit_succ, Nat.testBit_succ]
        congr 1
        omega

theorem bit_forceBit (v i j : Nat) (b : Bool) : bit (forceBit v i b) j = if j = i then b else bit v j := by
  simp only [bit_eq_testBit, testBit_forceBit]

theorem bits_forceBit (v i lo len : Nat) (b : Bool) (h : i < lo ∨ lo + len ≤ i) : bits (forceBit v i b) lo len = bits v lo len := by
  apply Nat.eq_of_testBit_eq
  intro j
  rw [testBit_bits, testBit_bits, testBit_forceBit]
  by_cases hj : j < len
  · rw [if_neg (by omega)]
  · simp [hj]

theorem bits_lt (n lo len : Nat) : bits n lo len < 2 ^ len := Nat.mod_lt _ (Nat.two_pow_pos len)

/-- IMG_COMMIT.ORBIT and OP of a word whose OP is forced. -/
theorem bits_withOp_orbit (v op : Nat) : bits (withOp v op) 0 48 = bits v 0 48 := by
  have h : bits v 0 48 < 2 ^ 48 := bits_lt v 0 48
  have e : withOp v op = bits v 0 48 + op % 2 ^ 2 * 2 ^ 48 := by unfold withOp put; rw [Nat.shiftLeft_eq]
  rw [e]
  generalize bits v 0 48 = k at h
  unfold bits
  rw [Nat.shiftRight_zero, Nat.add_mul_mod_self_right, Nat.mod_eq_of_lt h]

theorem bits_withOp_op (v op : Nat) (h : op < 4) : bits (withOp v op) 48 2 = op := by
  have hk : bits v 0 48 < 2 ^ 48 := bits_lt v 0 48
  have e : withOp v op = bits v 0 48 + op % 2 ^ 2 * 2 ^ 48 := by unfold withOp put; rw [Nat.shiftLeft_eq]
  rw [e]
  generalize bits v 0 48 = k at hk
  unfold bits
  rw [Nat.shiftRight_eq_div_pow, Nat.add_mul_div_right _ _ (Nat.two_pow_pos 48), Nat.div_eq_of_lt hk]
  omega

end Sys2Proof.Machine
end

