-- ==== Sys2Proof/Laws/State.lean ====
section
/-! SUPPORT. Tables: what reading an instance gives after one is written. State: one lemma per field per update. -/

namespace Sys2Proof.Machine

theorem lookupKey_insertKey {α : Type} (k j : Nat) (v : α) (l : List (Nat × α)) :
    lookupKey j (insertKey k v l) = if j = k then some v else lookupKey j l := by
  induction l with
  | nil => simp [insertKey, lookupKey]
  | cons a l ih =>
    obtain ⟨i, w⟩ := a
    simp only [insertKey]
    split
    · simp [lookupKey]
    · split
      · subst i; simp only [lookupKey]; split <;> rfl
      · simp only [lookupKey, ih]; by_cases hj : j = i
        · subst j; simp [Ne.symm ‹_›]
        · simp [hj]

theorem Tbl.get_set {α : Type} (t : Tbl α) (d v : α) (k j : Nat) :
    (t.set k v).get d j = if j = k then v else t.get d j := by
  unfold Tbl.get Tbl.set
  rw [lookupKey_insertKey]
  split <;> rfl

/-- A map that keeps the reset value reaches every instance. -/
theorem Tbl.get_map {α : Type} (t : Tbl α) (f : Nat → α → α) (d : α) (k : Nat) (h : f k d = d) : (t.map f).get d k = f k (t.get d k) := by
  obtain ⟨l⟩ := t
  unfold Tbl.get Tbl.map
  induction l with
  | nil => exact h.symm
  | cons e l ih =>
    simp only [List.map_cons, lookupKey]
    by_cases hk : k = e.1
    · simp [hk]
    · simpa [hk] using ih

@[simp] theorem Tbl.get_set_self {α : Type} (t : Tbl α) (d v : α) (k : Nat) : (t.set k v).get d k = v := by
  rw [Tbl.get_set, if_pos rfl]

theorem Tbl.get_set_ne {α : Type} (t : Tbl α) (d v : α) {k j : Nat} (h : j ≠ k) : (t.set k v).get d j = t.get d j := by
  rw [Tbl.get_set, if_neg h]

theorem insertKey_insertKey {α : Type} (k : Nat) (v w : α) (l : List (Nat × α)) : insertKey k w (insertKey k v l) = insertKey k w l := by
  induction l with
  | nil => simp [insertKey]
  | cons a l ih =>
    obtain ⟨i, x⟩ := a
    simp only [insertKey]
    split
    · simp [insertKey]
    · split
      · simp [insertKey]
      · simp [insertKey, *]

theorem Tbl.set_set {α : Type} (t : Tbl α) (k : Nat) (v w : α) : (t.set k v).set k w = t.set k w := by
  unfold Tbl.set
  simp only [insertKey_insertKey]

/-! ## modCore -/

@[simp] theorem State.modCore_pending {s : State} {n : Nat} {f : Core → Core} : (s.modCore n f).pending = s.pending := rfl
@[simp] theorem State.modCore_free {s : State} {n : Nat} {f : Core → Core} : (s.modCore n f).free = s.free := rfl
@[simp] theorem State.modCore_mem {s : State} {n : Nat} {f : Core → Core} : (s.modCore n f).mem = s.mem := rfl
@[simp] theorem State.modCore_clk {s : State} {n : Nat} {f : Core → Core} : (s.modCore n f).clk = s.clk := rfl
@[simp] theorem State.modCore_pwr {s : State} {n : Nat} {f : Core → Core} : (s.modCore n f).pwr = s.pwr := rfl
@[simp] theorem State.modCore_orb {s : State} {n : Nat} {f : Core → Core} : (s.modCore n f).orb = s.orb := rfl
@[simp] theorem State.modCore_spr {s : State} {n : Nat} {f : Core → Core} : (s.modCore n f).spr = s.spr := rfl
@[simp] theorem State.modCore_cnt {s : State} {n : Nat} {f : Core → Core} : (s.modCore n f).cnt = s.cnt := rfl
@[simp] theorem State.modCore_dcnt {s : State} {n : Nat} {f : Core → Core} : (s.modCore n f).dcnt = s.dcnt := rfl
@[simp] theorem State.modCore_dist {s : State} {n : Nat} {f : Core → Core} : (s.modCore n f).dist = s.dist := rfl
@[simp] theorem State.modCore_cores {s : State} {n : Nat} {f : Core → Core} : (s.modCore n f).cores = s.cores.set n (f (s.core n)) := rfl
@[simp] theorem State.modCore_boxes {s : State} {n : Nat} {f : Core → Core} : (s.modCore n f).boxes = s.boxes := rfl
@[simp] theorem State.modCore_rings {s : State} {n : Nat} {f : Core → Core} : (s.modCore n f).rings = s.rings := rfl
@[simp] theorem State.modCore_queues {s : State} {n : Nat} {f : Core → Core} : (s.modCore n f).queues = s.queues := rfl
@[simp] theorem State.modCore_memc {s : State} {n : Nat} {f : Core → Core} : (s.modCore n f).memc = s.memc := rfl
@[simp] theorem State.modCore_slots {s : State} {n : Nat} {f : Core → Core} : (s.modCore n f).slots = s.slots := rfl
@[simp] theorem State.modCore_ports {s : State} {n : Nat} {f : Core → Core} : (s.modCore n f).ports = s.ports := rfl
@[simp] theorem State.modCore_lanes {s : State} {n : Nat} {f : Core → Core} : (s.modCore n f).lanes = s.lanes := rfl
@[simp] theorem State.modCore_hosts {s : State} {n : Nat} {f : Core → Core} : (s.modCore n f).hosts = s.hosts := rfl
@[simp] theorem State.modCore_windows {s : State} {n : Nat} {f : Core → Core} : (s.modCore n f).windows = s.windows := rfl
@[simp] theorem State.modCore_moon {s : State} {n : Nat} {f : Core → Core} : (s.modCore n f).moon = s.moon := rfl
@[simp] theorem State.modCore_jtag {s : State} {n : Nat} {f : Core → Core} : (s.modCore n f).jtag = s.jtag := rfl
@[simp] theorem State.modCore_out {s : State} {n : Nat} {f : Core → Core} : (s.modCore n f).out = s.out := rfl
@[simp] theorem State.modCore_tags {s : State} {n : Nat} {f : Core → Core} : (s.modCore n f).tags = s.tags := rfl

/-! ## modDist -/

@[simp] theorem State.modDist_pending {s : State} {n : Nat} {f : District → District} : (s.modDist n f).pending = s.pending := rfl
@[simp] theorem State.modDist_free {s : State} {n : Nat} {f : District → District} : (s.modDist n f).free = s.free := rfl
@[simp] theorem State.modDist_mem {s : State} {n : Nat} {f : District → District} : (s.modDist n f).mem = s.mem := rfl
@[simp] theorem State.modDist_clk {s : State} {n : Nat} {f : District → District} : (s.modDist n f).clk = s.clk := rfl
@[simp] theorem State.modDist_pwr {s : State} {n : Nat} {f : District → District} : (s.modDist n f).pwr = s.pwr := rfl
@[simp] theorem State.modDist_orb {s : State} {n : Nat} {f : District → District} : (s.modDist n f).orb = s.orb := rfl
@[simp] theorem State.modDist_spr {s : State} {n : Nat} {f : District → District} : (s.modDist n f).spr = s.spr := rfl
@[simp] theorem State.modDist_cnt {s : State} {n : Nat} {f : District → District} : (s.modDist n f).cnt = s.cnt := rfl
@[simp] theorem State.modDist_dcnt {s : State} {n : Nat} {f : District → District} : (s.modDist n f).dcnt = s.dcnt := rfl
@[simp] theorem State.modDist_dist {s : State} {n : Nat} {f : District → District} : (s.modDist n f).dist = s.dist.set n (f (s.district n)) := rfl
@[simp] theorem State.modDist_cores {s : State} {n : Nat} {f : District → District} : (s.modDist n f).cores = s.cores := rfl
@[simp] theorem State.modDist_boxes {s : State} {n : Nat} {f : District → District} : (s.modDist n f).boxes = s.boxes := rfl
@[simp] theorem State.modDist_rings {s : State} {n : Nat} {f : District → District} : (s.modDist n f).rings = s.rings := rfl
@[simp] theorem State.modDist_queues {s : State} {n : Nat} {f : District → District} : (s.modDist n f).queues = s.queues := rfl
@[simp] theorem State.modDist_memc {s : State} {n : Nat} {f : District → District} : (s.modDist n f).memc = s.memc := rfl
@[simp] theorem State.modDist_slots {s : State} {n : Nat} {f : District → District} : (s.modDist n f).slots = s.slots := rfl
@[simp] theorem State.modDist_ports {s : State} {n : Nat} {f : District → District} : (s.modDist n f).ports = s.ports := rfl
@[simp] theorem State.modDist_lanes {s : State} {n : Nat} {f : District → District} : (s.modDist n f).lanes = s.lanes := rfl
@[simp] theorem State.modDist_hosts {s : State} {n : Nat} {f : District → District} : (s.modDist n f).hosts = s.hosts := rfl
@[simp] theorem State.modDist_windows {s : State} {n : Nat} {f : District → District} : (s.modDist n f).windows = s.windows := rfl
@[simp] theorem State.modDist_moon {s : State} {n : Nat} {f : District → District} : (s.modDist n f).moon = s.moon := rfl
@[simp] theorem State.modDist_jtag {s : State} {n : Nat} {f : District → District} : (s.modDist n f).jtag = s.jtag := rfl
@[simp] theorem State.modDist_out {s : State} {n : Nat} {f : District → District} : (s.modDist n f).out = s.out := rfl
@[simp] theorem State.modDist_tags {s : State} {n : Nat} {f : District → District} : (s.modDist n f).tags = s.tags := rfl

/-! ## modSlot -/

@[simp] theorem State.modSlot_pending {s : State} {n : Nat} {f : Slot → Slot} : (s.modSlot n f).pending = s.pending := rfl
@[simp] theorem State.modSlot_free {s : State} {n : Nat} {f : Slot → Slot} : (s.modSlot n f).free = s.free := rfl
@[simp] theorem State.modSlot_mem {s : State} {n : Nat} {f : Slot → Slot} : (s.modSlot n f).mem = s.mem := rfl
@[simp] theorem State.modSlot_clk {s : State} {n : Nat} {f : Slot → Slot} : (s.modSlot n f).clk = s.clk := rfl
@[simp] theorem State.modSlot_pwr {s : State} {n : Nat} {f : Slot → Slot} : (s.modSlot n f).pwr = s.pwr := rfl
@[simp] theorem State.modSlot_orb {s : State} {n : Nat} {f : Slot → Slot} : (s.modSlot n f).orb = s.orb := rfl
@[simp] theorem State.modSlot_spr {s : State} {n : Nat} {f : Slot → Slot} : (s.modSlot n f).spr = s.spr := rfl
@[simp] theorem State.modSlot_cnt {s : State} {n : Nat} {f : Slot → Slot} : (s.modSlot n f).cnt = s.cnt := rfl
@[simp] theorem State.modSlot_dcnt {s : State} {n : Nat} {f : Slot → Slot} : (s.modSlot n f).dcnt = s.dcnt := rfl
@[simp] theorem State.modSlot_dist {s : State} {n : Nat} {f : Slot → Slot} : (s.modSlot n f).dist = s.dist := rfl
@[simp] theorem State.modSlot_cores {s : State} {n : Nat} {f : Slot → Slot} : (s.modSlot n f).cores = s.cores := rfl
@[simp] theorem State.modSlot_boxes {s : State} {n : Nat} {f : Slot → Slot} : (s.modSlot n f).boxes = s.boxes := rfl
@[simp] theorem State.modSlot_rings {s : State} {n : Nat} {f : Slot → Slot} : (s.modSlot n f).rings = s.rings := rfl
@[simp] theorem State.modSlot_queues {s : State} {n : Nat} {f : Slot → Slot} : (s.modSlot n f).queues = s.queues := rfl
@[simp] theorem State.modSlot_memc {s : State} {n : Nat} {f : Slot → Slot} : (s.modSlot n f).memc = s.memc := rfl
@[simp] theorem State.modSlot_slots {s : State} {n : Nat} {f : Slot → Slot} : (s.modSlot n f).slots = s.slots.set n (f (s.slot n)) := rfl
@[simp] theorem State.modSlot_ports {s : State} {n : Nat} {f : Slot → Slot} : (s.modSlot n f).ports = s.ports := rfl
@[simp] theorem State.modSlot_lanes {s : State} {n : Nat} {f : Slot → Slot} : (s.modSlot n f).lanes = s.lanes := rfl
@[simp] theorem State.modSlot_hosts {s : State} {n : Nat} {f : Slot → Slot} : (s.modSlot n f).hosts = s.hosts := rfl
@[simp] theorem State.modSlot_windows {s : State} {n : Nat} {f : Slot → Slot} : (s.modSlot n f).windows = s.windows := rfl
@[simp] theorem State.modSlot_moon {s : State} {n : Nat} {f : Slot → Slot} : (s.modSlot n f).moon = s.moon := rfl
@[simp] theorem State.modSlot_jtag {s : State} {n : Nat} {f : Slot → Slot} : (s.modSlot n f).jtag = s.jtag := rfl
@[simp] theorem State.modSlot_out {s : State} {n : Nat} {f : Slot → Slot} : (s.modSlot n f).out = s.out := rfl
@[simp] theorem State.modSlot_tags {s : State} {n : Nat} {f : Slot → Slot} : (s.modSlot n f).tags = s.tags := rfl

/-! ## modBox -/

@[simp] theorem State.modBox_pending {s : State} {n : Nat} {f : Box → Box} : (s.modBox n f).pending = s.pending := rfl
@[simp] theorem State.modBox_free {s : State} {n : Nat} {f : Box → Box} : (s.modBox n f).free = s.free := rfl
@[simp] theorem State.modBox_mem {s : State} {n : Nat} {f : Box → Box} : (s.modBox n f).mem = s.mem := rfl
@[simp] theorem State.modBox_clk {s : State} {n : Nat} {f : Box → Box} : (s.modBox n f).clk = s.clk := rfl
@[simp] theorem State.modBox_pwr {s : State} {n : Nat} {f : Box → Box} : (s.modBox n f).pwr = s.pwr := rfl
@[simp] theorem State.modBox_orb {s : State} {n : Nat} {f : Box → Box} : (s.modBox n f).orb = s.orb := rfl
@[simp] theorem State.modBox_spr {s : State} {n : Nat} {f : Box → Box} : (s.modBox n f).spr = s.spr := rfl
@[simp] theorem State.modBox_cnt {s : State} {n : Nat} {f : Box → Box} : (s.modBox n f).cnt = s.cnt := rfl
@[simp] theorem State.modBox_dcnt {s : State} {n : Nat} {f : Box → Box} : (s.modBox n f).dcnt = s.dcnt := rfl
@[simp] theorem State.modBox_dist {s : State} {n : Nat} {f : Box → Box} : (s.modBox n f).dist = s.dist := rfl
@[simp] theorem State.modBox_cores {s : State} {n : Nat} {f : Box → Box} : (s.modBox n f).cores = s.cores := rfl
@[simp] theorem State.modBox_boxes {s : State} {n : Nat} {f : Box → Box} : (s.modBox n f).boxes = s.boxes.set n (f (s.box n)) := rfl
@[simp] theorem State.modBox_rings {s : State} {n : Nat} {f : Box → Box} : (s.modBox n f).rings = s.rings := rfl
@[simp] theorem State.modBox_queues {s : State} {n : Nat} {f : Box → Box} : (s.modBox n f).queues = s.queues := rfl
@[simp] theorem State.modBox_memc {s : State} {n : Nat} {f : Box → Box} : (s.modBox n f).memc = s.memc := rfl
@[simp] theorem State.modBox_slots {s : State} {n : Nat} {f : Box → Box} : (s.modBox n f).slots = s.slots := rfl
@[simp] theorem State.modBox_ports {s : State} {n : Nat} {f : Box → Box} : (s.modBox n f).ports = s.ports := rfl
@[simp] theorem State.modBox_lanes {s : State} {n : Nat} {f : Box → Box} : (s.modBox n f).lanes = s.lanes := rfl
@[simp] theorem State.modBox_hosts {s : State} {n : Nat} {f : Box → Box} : (s.modBox n f).hosts = s.hosts := rfl
@[simp] theorem State.modBox_windows {s : State} {n : Nat} {f : Box → Box} : (s.modBox n f).windows = s.windows := rfl
@[simp] theorem State.modBox_moon {s : State} {n : Nat} {f : Box → Box} : (s.modBox n f).moon = s.moon := rfl
@[simp] theorem State.modBox_jtag {s : State} {n : Nat} {f : Box → Box} : (s.modBox n f).jtag = s.jtag := rfl
@[simp] theorem State.modBox_out {s : State} {n : Nat} {f : Box → Box} : (s.modBox n f).out = s.out := rfl
@[simp] theorem State.modBox_tags {s : State} {n : Nat} {f : Box → Box} : (s.modBox n f).tags = s.tags := rfl

/-! ## modRing -/

@[simp] theorem State.modRing_pending {s : State} {n : Nat} {f : Ring → Ring} : (s.modRing n f).pending = s.pending := rfl
@[simp] theorem State.modRing_free {s : State} {n : Nat} {f : Ring → Ring} : (s.modRing n f).free = s.free := rfl
@[simp] theorem State.modRing_mem {s : State} {n : Nat} {f : Ring → Ring} : (s.modRing n f).mem = s.mem := rfl
@[simp] theorem State.modRing_clk {s : State} {n : Nat} {f : Ring → Ring} : (s.modRing n f).clk = s.clk := rfl
@[simp] theorem State.modRing_pwr {s : State} {n : Nat} {f : Ring → Ring} : (s.modRing n f).pwr = s.pwr := rfl
@[simp] theorem State.modRing_orb {s : State} {n : Nat} {f : Ring → Ring} : (s.modRing n f).orb = s.orb := rfl
@[simp] theorem State.modRing_spr {s : State} {n : Nat} {f : Ring → Ring} : (s.modRing n f).spr = s.spr := rfl
@[simp] theorem State.modRing_cnt {s : State} {n : Nat} {f : Ring → Ring} : (s.modRing n f).cnt = s.cnt := rfl
@[simp] theorem State.modRing_dcnt {s : State} {n : Nat} {f : Ring → Ring} : (s.modRing n f).dcnt = s.dcnt := rfl
@[simp] theorem State.modRing_dist {s : State} {n : Nat} {f : Ring → Ring} : (s.modRing n f).dist = s.dist := rfl
@[simp] theorem State.modRing_cores {s : State} {n : Nat} {f : Ring → Ring} : (s.modRing n f).cores = s.cores := rfl
@[simp] theorem State.modRing_boxes {s : State} {n : Nat} {f : Ring → Ring} : (s.modRing n f).boxes = s.boxes := rfl
@[simp] theorem State.modRing_rings {s : State} {n : Nat} {f : Ring → Ring} : (s.modRing n f).rings = s.rings.set n (f (s.ring n)) := rfl
@[simp] theorem State.modRing_queues {s : State} {n : Nat} {f : Ring → Ring} : (s.modRing n f).queues = s.queues := rfl
@[simp] theorem State.modRing_memc {s : State} {n : Nat} {f : Ring → Ring} : (s.modRing n f).memc = s.memc := rfl
@[simp] theorem State.modRing_slots {s : State} {n : Nat} {f : Ring → Ring} : (s.modRing n f).slots = s.slots := rfl
@[simp] theorem State.modRing_ports {s : State} {n : Nat} {f : Ring → Ring} : (s.modRing n f).ports = s.ports := rfl
@[simp] theorem State.modRing_lanes {s : State} {n : Nat} {f : Ring → Ring} : (s.modRing n f).lanes = s.lanes := rfl
@[simp] theorem State.modRing_hosts {s : State} {n : Nat} {f : Ring → Ring} : (s.modRing n f).hosts = s.hosts := rfl
@[simp] theorem State.modRing_windows {s : State} {n : Nat} {f : Ring → Ring} : (s.modRing n f).windows = s.windows := rfl
@[simp] theorem State.modRing_moon {s : State} {n : Nat} {f : Ring → Ring} : (s.modRing n f).moon = s.moon := rfl
@[simp] theorem State.modRing_jtag {s : State} {n : Nat} {f : Ring → Ring} : (s.modRing n f).jtag = s.jtag := rfl
@[simp] theorem State.modRing_out {s : State} {n : Nat} {f : Ring → Ring} : (s.modRing n f).out = s.out := rfl
@[simp] theorem State.modRing_tags {s : State} {n : Nat} {f : Ring → Ring} : (s.modRing n f).tags = s.tags := rfl

/-! ## modQueue -/

@[simp] theorem State.modQueue_pending {s : State} {n : Nat} {f : SQueue → SQueue} : (s.modQueue n f).pending = s.pending := rfl
@[simp] theorem State.modQueue_free {s : State} {n : Nat} {f : SQueue → SQueue} : (s.modQueue n f).free = s.free := rfl
@[simp] theorem State.modQueue_mem {s : State} {n : Nat} {f : SQueue → SQueue} : (s.modQueue n f).mem = s.mem := rfl
@[simp] theorem State.modQueue_clk {s : State} {n : Nat} {f : SQueue → SQueue} : (s.modQueue n f).clk = s.clk := rfl
@[simp] theorem State.modQueue_pwr {s : State} {n : Nat} {f : SQueue → SQueue} : (s.modQueue n f).pwr = s.pwr := rfl
@[simp] theorem State.modQueue_orb {s : State} {n : Nat} {f : SQueue → SQueue} : (s.modQueue n f).orb = s.orb := rfl
@[simp] theorem State.modQueue_spr {s : State} {n : Nat} {f : SQueue → SQueue} : (s.modQueue n f).spr = s.spr := rfl
@[simp] theorem State.modQueue_cnt {s : State} {n : Nat} {f : SQueue → SQueue} : (s.modQueue n f).cnt = s.cnt := rfl
@[simp] theorem State.modQueue_dcnt {s : State} {n : Nat} {f : SQueue → SQueue} : (s.modQueue n f).dcnt = s.dcnt := rfl
@[simp] theorem State.modQueue_dist {s : State} {n : Nat} {f : SQueue → SQueue} : (s.modQueue n f).dist = s.dist := rfl
@[simp] theorem State.modQueue_cores {s : State} {n : Nat} {f : SQueue → SQueue} : (s.modQueue n f).cores = s.cores := rfl
@[simp] theorem State.modQueue_boxes {s : State} {n : Nat} {f : SQueue → SQueue} : (s.modQueue n f).boxes = s.boxes := rfl
@[simp] theorem State.modQueue_rings {s : State} {n : Nat} {f : SQueue → SQueue} : (s.modQueue n f).rings = s.rings := rfl
@[simp] theorem State.modQueue_queues {s : State} {n : Nat} {f : SQueue → SQueue} : (s.modQueue n f).queues = s.queues.set n (f (s.queue n)) := rfl
@[simp] theorem State.modQueue_memc {s : State} {n : Nat} {f : SQueue → SQueue} : (s.modQueue n f).memc = s.memc := rfl
@[simp] theorem State.modQueue_slots {s : State} {n : Nat} {f : SQueue → SQueue} : (s.modQueue n f).slots = s.slots := rfl
@[simp] theorem State.modQueue_ports {s : State} {n : Nat} {f : SQueue → SQueue} : (s.modQueue n f).ports = s.ports := rfl
@[simp] theorem State.modQueue_lanes {s : State} {n : Nat} {f : SQueue → SQueue} : (s.modQueue n f).lanes = s.lanes := rfl
@[simp] theorem State.modQueue_hosts {s : State} {n : Nat} {f : SQueue → SQueue} : (s.modQueue n f).hosts = s.hosts := rfl
@[simp] theorem State.modQueue_windows {s : State} {n : Nat} {f : SQueue → SQueue} : (s.modQueue n f).windows = s.windows := rfl
@[simp] theorem State.modQueue_moon {s : State} {n : Nat} {f : SQueue → SQueue} : (s.modQueue n f).moon = s.moon := rfl
@[simp] theorem State.modQueue_jtag {s : State} {n : Nat} {f : SQueue → SQueue} : (s.modQueue n f).jtag = s.jtag := rfl
@[simp] theorem State.modQueue_out {s : State} {n : Nat} {f : SQueue → SQueue} : (s.modQueue n f).out = s.out := rfl
@[simp] theorem State.modQueue_tags {s : State} {n : Nat} {f : SQueue → SQueue} : (s.modQueue n f).tags = s.tags := rfl

/-! ## modPort -/

@[simp] theorem State.modPort_pending {s : State} {n : Nat} {f : Port → Port} : (s.modPort n f).pending = s.pending := rfl
@[simp] theorem State.modPort_free {s : State} {n : Nat} {f : Port → Port} : (s.modPort n f).free = s.free := rfl
@[simp] theorem State.modPort_mem {s : State} {n : Nat} {f : Port → Port} : (s.modPort n f).mem = s.mem := rfl
@[simp] theorem State.modPort_clk {s : State} {n : Nat} {f : Port → Port} : (s.modPort n f).clk = s.clk := rfl
@[simp] theorem State.modPort_pwr {s : State} {n : Nat} {f : Port → Port} : (s.modPort n f).pwr = s.pwr := rfl
@[simp] theorem State.modPort_orb {s : State} {n : Nat} {f : Port → Port} : (s.modPort n f).orb = s.orb := rfl
@[simp] theorem State.modPort_spr {s : State} {n : Nat} {f : Port → Port} : (s.modPort n f).spr = s.spr := rfl
@[simp] theorem State.modPort_cnt {s : State} {n : Nat} {f : Port → Port} : (s.modPort n f).cnt = s.cnt := rfl
@[simp] theorem State.modPort_dcnt {s : State} {n : Nat} {f : Port → Port} : (s.modPort n f).dcnt = s.dcnt := rfl
@[simp] theorem State.modPort_dist {s : State} {n : Nat} {f : Port → Port} : (s.modPort n f).dist = s.dist := rfl
@[simp] theorem State.modPort_cores {s : State} {n : Nat} {f : Port → Port} : (s.modPort n f).cores = s.cores := rfl
@[simp] theorem State.modPort_boxes {s : State} {n : Nat} {f : Port → Port} : (s.modPort n f).boxes = s.boxes := rfl
@[simp] theorem State.modPort_rings {s : State} {n : Nat} {f : Port → Port} : (s.modPort n f).rings = s.rings := rfl
@[simp] theorem State.modPort_queues {s : State} {n : Nat} {f : Port → Port} : (s.modPort n f).queues = s.queues := rfl
@[simp] theorem State.modPort_memc {s : State} {n : Nat} {f : Port → Port} : (s.modPort n f).memc = s.memc := rfl
@[simp] theorem State.modPort_slots {s : State} {n : Nat} {f : Port → Port} : (s.modPort n f).slots = s.slots := rfl
@[simp] theorem State.modPort_ports {s : State} {n : Nat} {f : Port → Port} : (s.modPort n f).ports = s.ports.set n (f (s.port n)) := rfl
@[simp] theorem State.modPort_lanes {s : State} {n : Nat} {f : Port → Port} : (s.modPort n f).lanes = s.lanes := rfl
@[simp] theorem State.modPort_hosts {s : State} {n : Nat} {f : Port → Port} : (s.modPort n f).hosts = s.hosts := rfl
@[simp] theorem State.modPort_windows {s : State} {n : Nat} {f : Port → Port} : (s.modPort n f).windows = s.windows := rfl
@[simp] theorem State.modPort_moon {s : State} {n : Nat} {f : Port → Port} : (s.modPort n f).moon = s.moon := rfl
@[simp] theorem State.modPort_jtag {s : State} {n : Nat} {f : Port → Port} : (s.modPort n f).jtag = s.jtag := rfl
@[simp] theorem State.modPort_out {s : State} {n : Nat} {f : Port → Port} : (s.modPort n f).out = s.out := rfl
@[simp] theorem State.modPort_tags {s : State} {n : Nat} {f : Port → Port} : (s.modPort n f).tags = s.tags := rfl

/-! ## modLane -/

@[simp] theorem State.modLane_pending {s : State} {n : Nat} {f : Lane → Lane} : (s.modLane n f).pending = s.pending := rfl
@[simp] theorem State.modLane_free {s : State} {n : Nat} {f : Lane → Lane} : (s.modLane n f).free = s.free := rfl
@[simp] theorem State.modLane_mem {s : State} {n : Nat} {f : Lane → Lane} : (s.modLane n f).mem = s.mem := rfl
@[simp] theorem State.modLane_clk {s : State} {n : Nat} {f : Lane → Lane} : (s.modLane n f).clk = s.clk := rfl
@[simp] theorem State.modLane_pwr {s : State} {n : Nat} {f : Lane → Lane} : (s.modLane n f).pwr = s.pwr := rfl
@[simp] theorem State.modLane_orb {s : State} {n : Nat} {f : Lane → Lane} : (s.modLane n f).orb = s.orb := rfl
@[simp] theorem State.modLane_spr {s : State} {n : Nat} {f : Lane → Lane} : (s.modLane n f).spr = s.spr := rfl
@[simp] theorem State.modLane_cnt {s : State} {n : Nat} {f : Lane → Lane} : (s.modLane n f).cnt = s.cnt := rfl
@[simp] theorem State.modLane_dcnt {s : State} {n : Nat} {f : Lane → Lane} : (s.modLane n f).dcnt = s.dcnt := rfl
@[simp] theorem State.modLane_dist {s : State} {n : Nat} {f : Lane → Lane} : (s.modLane n f).dist = s.dist := rfl
@[simp] theorem State.modLane_cores {s : State} {n : Nat} {f : Lane → Lane} : (s.modLane n f).cores = s.cores := rfl
@[simp] theorem State.modLane_boxes {s : State} {n : Nat} {f : Lane → Lane} : (s.modLane n f).boxes = s.boxes := rfl
@[simp] theorem State.modLane_rings {s : State} {n : Nat} {f : Lane → Lane} : (s.modLane n f).rings = s.rings := rfl
@[simp] theorem State.modLane_queues {s : State} {n : Nat} {f : Lane → Lane} : (s.modLane n f).queues = s.queues := rfl
@[simp] theorem State.modLane_memc {s : State} {n : Nat} {f : Lane → Lane} : (s.modLane n f).memc = s.memc := rfl
@[simp] theorem State.modLane_slots {s : State} {n : Nat} {f : Lane → Lane} : (s.modLane n f).slots = s.slots := rfl
@[simp] theorem State.modLane_ports {s : State} {n : Nat} {f : Lane → Lane} : (s.modLane n f).ports = s.ports := rfl
@[simp] theorem State.modLane_lanes {s : State} {n : Nat} {f : Lane → Lane} : (s.modLane n f).lanes = s.lanes.set n (f (s.lane n)) := rfl
@[simp] theorem State.modLane_hosts {s : State} {n : Nat} {f : Lane → Lane} : (s.modLane n f).hosts = s.hosts := rfl
@[simp] theorem State.modLane_windows {s : State} {n : Nat} {f : Lane → Lane} : (s.modLane n f).windows = s.windows := rfl
@[simp] theorem State.modLane_moon {s : State} {n : Nat} {f : Lane → Lane} : (s.modLane n f).moon = s.moon := rfl
@[simp] theorem State.modLane_jtag {s : State} {n : Nat} {f : Lane → Lane} : (s.modLane n f).jtag = s.jtag := rfl
@[simp] theorem State.modLane_out {s : State} {n : Nat} {f : Lane → Lane} : (s.modLane n f).out = s.out := rfl
@[simp] theorem State.modLane_tags {s : State} {n : Nat} {f : Lane → Lane} : (s.modLane n f).tags = s.tags := rfl

/-! ## modHostPort -/

@[simp] theorem State.modHostPort_pending {s : State} {n : Nat} {f : HostPort → HostPort} : (s.modHostPort n f).pending = s.pending := rfl
@[simp] theorem State.modHostPort_free {s : State} {n : Nat} {f : HostPort → HostPort} : (s.modHostPort n f).free = s.free := rfl
@[simp] theorem State.modHostPort_mem {s : State} {n : Nat} {f : HostPort → HostPort} : (s.modHostPort n f).mem = s.mem := rfl
@[simp] theorem State.modHostPort_clk {s : State} {n : Nat} {f : HostPort → HostPort} : (s.modHostPort n f).clk = s.clk := rfl
@[simp] theorem State.modHostPort_pwr {s : State} {n : Nat} {f : HostPort → HostPort} : (s.modHostPort n f).pwr = s.pwr := rfl
@[simp] theorem State.modHostPort_orb {s : State} {n : Nat} {f : HostPort → HostPort} : (s.modHostPort n f).orb = s.orb := rfl
@[simp] theorem State.modHostPort_spr {s : State} {n : Nat} {f : HostPort → HostPort} : (s.modHostPort n f).spr = s.spr := rfl
@[simp] theorem State.modHostPort_cnt {s : State} {n : Nat} {f : HostPort → HostPort} : (s.modHostPort n f).cnt = s.cnt := rfl
@[simp] theorem State.modHostPort_dcnt {s : State} {n : Nat} {f : HostPort → HostPort} : (s.modHostPort n f).dcnt = s.dcnt := rfl
@[simp] theorem State.modHostPort_dist {s : State} {n : Nat} {f : HostPort → HostPort} : (s.modHostPort n f).dist = s.dist := rfl
@[simp] theorem State.modHostPort_cores {s : State} {n : Nat} {f : HostPort → HostPort} : (s.modHostPort n f).cores = s.cores := rfl
@[simp] theorem State.modHostPort_boxes {s : State} {n : Nat} {f : HostPort → HostPort} : (s.modHostPort n f).boxes = s.boxes := rfl
@[simp] theorem State.modHostPort_rings {s : State} {n : Nat} {f : HostPort → HostPort} : (s.modHostPort n f).rings = s.rings := rfl
@[simp] theorem State.modHostPort_queues {s : State} {n : Nat} {f : HostPort → HostPort} : (s.modHostPort n f).queues = s.queues := rfl
@[simp] theorem State.modHostPort_memc {s : State} {n : Nat} {f : HostPort → HostPort} : (s.modHostPort n f).memc = s.memc := rfl
@[simp] theorem State.modHostPort_slots {s : State} {n : Nat} {f : HostPort → HostPort} : (s.modHostPort n f).slots = s.slots := rfl
@[simp] theorem State.modHostPort_ports {s : State} {n : Nat} {f : HostPort → HostPort} : (s.modHostPort n f).ports = s.ports := rfl
@[simp] theorem State.modHostPort_lanes {s : State} {n : Nat} {f : HostPort → HostPort} : (s.modHostPort n f).lanes = s.lanes := rfl
@[simp] theorem State.modHostPort_hosts {s : State} {n : Nat} {f : HostPort → HostPort} : (s.modHostPort n f).hosts = s.hosts.set n (f (s.hostPort n)) := rfl
@[simp] theorem State.modHostPort_windows {s : State} {n : Nat} {f : HostPort → HostPort} : (s.modHostPort n f).windows = s.windows := rfl
@[simp] theorem State.modHostPort_moon {s : State} {n : Nat} {f : HostPort → HostPort} : (s.modHostPort n f).moon = s.moon := rfl
@[simp] theorem State.modHostPort_jtag {s : State} {n : Nat} {f : HostPort → HostPort} : (s.modHostPort n f).jtag = s.jtag := rfl
@[simp] theorem State.modHostPort_out {s : State} {n : Nat} {f : HostPort → HostPort} : (s.modHostPort n f).out = s.out := rfl
@[simp] theorem State.modHostPort_tags {s : State} {n : Nat} {f : HostPort → HostPort} : (s.modHostPort n f).tags = s.tags := rfl

/-! ## modPwr -/

@[simp] theorem State.modPwr_pending {s : State} {f : Power → Power} : (s.modPwr f).pending = s.pending := rfl
@[simp] theorem State.modPwr_free {s : State} {f : Power → Power} : (s.modPwr f).free = s.free := rfl
@[simp] theorem State.modPwr_mem {s : State} {f : Power → Power} : (s.modPwr f).mem = s.mem := rfl
@[simp] theorem State.modPwr_clk {s : State} {f : Power → Power} : (s.modPwr f).clk = s.clk := rfl
@[simp] theorem State.modPwr_pwr {s : State} {f : Power → Power} : (s.modPwr f).pwr = f s.pwr := rfl
@[simp] theorem State.modPwr_orb {s : State} {f : Power → Power} : (s.modPwr f).orb = s.orb := rfl
@[simp] theorem State.modPwr_spr {s : State} {f : Power → Power} : (s.modPwr f).spr = s.spr := rfl
@[simp] theorem State.modPwr_cnt {s : State} {f : Power → Power} : (s.modPwr f).cnt = s.cnt := rfl
@[simp] theorem State.modPwr_dcnt {s : State} {f : Power → Power} : (s.modPwr f).dcnt = s.dcnt := rfl
@[simp] theorem State.modPwr_dist {s : State} {f : Power → Power} : (s.modPwr f).dist = s.dist := rfl
@[simp] theorem State.modPwr_cores {s : State} {f : Power → Power} : (s.modPwr f).cores = s.cores := rfl
@[simp] theorem State.modPwr_boxes {s : State} {f : Power → Power} : (s.modPwr f).boxes = s.boxes := rfl
@[simp] theorem State.modPwr_rings {s : State} {f : Power → Power} : (s.modPwr f).rings = s.rings := rfl
@[simp] theorem State.modPwr_queues {s : State} {f : Power → Power} : (s.modPwr f).queues = s.queues := rfl
@[simp] theorem State.modPwr_memc {s : State} {f : Power → Power} : (s.modPwr f).memc = s.memc := rfl
@[simp] theorem State.modPwr_slots {s : State} {f : Power → Power} : (s.modPwr f).slots = s.slots := rfl
@[simp] theorem State.modPwr_ports {s : State} {f : Power → Power} : (s.modPwr f).ports = s.ports := rfl
@[simp] theorem State.modPwr_lanes {s : State} {f : Power → Power} : (s.modPwr f).lanes = s.lanes := rfl
@[simp] theorem State.modPwr_hosts {s : State} {f : Power → Power} : (s.modPwr f).hosts = s.hosts := rfl
@[simp] theorem State.modPwr_windows {s : State} {f : Power → Power} : (s.modPwr f).windows = s.windows := rfl
@[simp] theorem State.modPwr_moon {s : State} {f : Power → Power} : (s.modPwr f).moon = s.moon := rfl
@[simp] theorem State.modPwr_jtag {s : State} {f : Power → Power} : (s.modPwr f).jtag = s.jtag := rfl
@[simp] theorem State.modPwr_out {s : State} {f : Power → Power} : (s.modPwr f).out = s.out := rfl
@[simp] theorem State.modPwr_tags {s : State} {f : Power → Power} : (s.modPwr f).tags = s.tags := rfl

/-! ## modMoon -/

@[simp] theorem State.modMoon_pending {s : State} {f : Moon → Moon} : (s.modMoon f).pending = s.pending := rfl
@[simp] theorem State.modMoon_free {s : State} {f : Moon → Moon} : (s.modMoon f).free = s.free := rfl
@[simp] theorem State.modMoon_mem {s : State} {f : Moon → Moon} : (s.modMoon f).mem = s.mem := rfl
@[simp] theorem State.modMoon_clk {s : State} {f : Moon → Moon} : (s.modMoon f).clk = s.clk := rfl
@[simp] theorem State.modMoon_pwr {s : State} {f : Moon → Moon} : (s.modMoon f).pwr = s.pwr := rfl
@[simp] theorem State.modMoon_orb {s : State} {f : Moon → Moon} : (s.modMoon f).orb = s.orb := rfl
@[simp] theorem State.modMoon_spr {s : State} {f : Moon → Moon} : (s.modMoon f).spr = s.spr := rfl
@[simp] theorem State.modMoon_cnt {s : State} {f : Moon → Moon} : (s.modMoon f).cnt = s.cnt := rfl
@[simp] theorem State.modMoon_dcnt {s : State} {f : Moon → Moon} : (s.modMoon f).dcnt = s.dcnt := rfl
@[simp] theorem State.modMoon_dist {s : State} {f : Moon → Moon} : (s.modMoon f).dist = s.dist := rfl
@[simp] theorem State.modMoon_cores {s : State} {f : Moon → Moon} : (s.modMoon f).cores = s.cores := rfl
@[simp] theorem State.modMoon_boxes {s : State} {f : Moon → Moon} : (s.modMoon f).boxes = s.boxes := rfl
@[simp] theorem State.modMoon_rings {s : State} {f : Moon → Moon} : (s.modMoon f).rings = s.rings := rfl
@[simp] theorem State.modMoon_queues {s : State} {f : Moon → Moon} : (s.modMoon f).queues = s.queues := rfl
@[simp] theorem State.modMoon_memc {s : State} {f : Moon → Moon} : (s.modMoon f).memc = s.memc := rfl
@[simp] theorem State.modMoon_slots {s : State} {f : Moon → Moon} : (s.modMoon f).slots = s.slots := rfl
@[simp] theorem State.modMoon_ports {s : State} {f : Moon → Moon} : (s.modMoon f).ports = s.ports := rfl
@[simp] theorem State.modMoon_lanes {s : State} {f : Moon → Moon} : (s.modMoon f).lanes = s.lanes := rfl
@[simp] theorem State.modMoon_hosts {s : State} {f : Moon → Moon} : (s.modMoon f).hosts = s.hosts := rfl
@[simp] theorem State.modMoon_windows {s : State} {f : Moon → Moon} : (s.modMoon f).windows = s.windows := rfl
@[simp] theorem State.modMoon_moon {s : State} {f : Moon → Moon} : (s.modMoon f).moon = f s.moon := rfl
@[simp] theorem State.modMoon_jtag {s : State} {f : Moon → Moon} : (s.modMoon f).jtag = s.jtag := rfl
@[simp] theorem State.modMoon_out {s : State} {f : Moon → Moon} : (s.modMoon f).out = s.out := rfl
@[simp] theorem State.modMoon_tags {s : State} {f : Moon → Moon} : (s.modMoon f).tags = s.tags := rfl

/-! ## setMem -/

@[simp] theorem State.setMem_pending {s : State} {m : List Host.Cell} : (s.setMem m).pending = s.pending := rfl
@[simp] theorem State.setMem_free {s : State} {m : List Host.Cell} : (s.setMem m).free = s.free := rfl
@[simp] theorem State.setMem_mem {s : State} {m : List Host.Cell} : (s.setMem m).mem = m := rfl
@[simp] theorem State.setMem_clk {s : State} {m : List Host.Cell} : (s.setMem m).clk = s.clk := rfl
@[simp] theorem State.setMem_pwr {s : State} {m : List Host.Cell} : (s.setMem m).pwr = s.pwr := rfl
@[simp] theorem State.setMem_orb {s : State} {m : List Host.Cell} : (s.setMem m).orb = s.orb := rfl
@[simp] theorem State.setMem_spr {s : State} {m : List Host.Cell} : (s.setMem m).spr = s.spr := rfl
@[simp] theorem State.setMem_cnt {s : State} {m : List Host.Cell} : (s.setMem m).cnt = s.cnt := rfl
@[simp] theorem State.setMem_dcnt {s : State} {m : List Host.Cell} : (s.setMem m).dcnt = s.dcnt := rfl
@[simp] theorem State.setMem_dist {s : State} {m : List Host.Cell} : (s.setMem m).dist = s.dist := rfl
@[simp] theorem State.setMem_cores {s : State} {m : List Host.Cell} : (s.setMem m).cores = s.cores := rfl
@[simp] theorem State.setMem_boxes {s : State} {m : List Host.Cell} : (s.setMem m).boxes = s.boxes := rfl
@[simp] theorem State.setMem_rings {s : State} {m : List Host.Cell} : (s.setMem m).rings = s.rings := rfl
@[simp] theorem State.setMem_queues {s : State} {m : List Host.Cell} : (s.setMem m).queues = s.queues := rfl
@[simp] theorem State.setMem_memc {s : State} {m : List Host.Cell} : (s.setMem m).memc = s.memc := rfl
@[simp] theorem State.setMem_slots {s : State} {m : List Host.Cell} : (s.setMem m).slots = s.slots := rfl
@[simp] theorem State.setMem_ports {s : State} {m : List Host.Cell} : (s.setMem m).ports = s.ports := rfl
@[simp] theorem State.setMem_lanes {s : State} {m : List Host.Cell} : (s.setMem m).lanes = s.lanes := rfl
@[simp] theorem State.setMem_hosts {s : State} {m : List Host.Cell} : (s.setMem m).hosts = s.hosts := rfl
@[simp] theorem State.setMem_windows {s : State} {m : List Host.Cell} : (s.setMem m).windows = s.windows := rfl
@[simp] theorem State.setMem_moon {s : State} {m : List Host.Cell} : (s.setMem m).moon = s.moon := rfl
@[simp] theorem State.setMem_jtag {s : State} {m : List Host.Cell} : (s.setMem m).jtag = s.jtag := rfl
@[simp] theorem State.setMem_out {s : State} {m : List Host.Cell} : (s.setMem m).out = s.out := rfl
@[simp] theorem State.setMem_tags {s : State} {m : List Host.Cell} : (s.setMem m).tags = s.tags := rfl

/-! ## nextHandle -/

@[simp] theorem State.nextHandle_pending {s : State} : (s.nextHandle).pending = s.pending := rfl
@[simp] theorem State.nextHandle_free {s : State} : (s.nextHandle).free = s.free := rfl
@[simp] theorem State.nextHandle_mem {s : State} : (s.nextHandle).mem = s.mem := rfl
@[simp] theorem State.nextHandle_clk {s : State} : (s.nextHandle).clk = s.clk := rfl
@[simp] theorem State.nextHandle_pwr {s : State} : (s.nextHandle).pwr = s.pwr := rfl
@[simp] theorem State.nextHandle_orb {s : State} : (s.nextHandle).orb = s.orb := rfl
@[simp] theorem State.nextHandle_spr {s : State} : (s.nextHandle).spr = s.spr := rfl
@[simp] theorem State.nextHandle_cnt {s : State} : (s.nextHandle).cnt = s.cnt := rfl
@[simp] theorem State.nextHandle_dcnt {s : State} : (s.nextHandle).dcnt = s.dcnt := rfl
@[simp] theorem State.nextHandle_dist {s : State} : (s.nextHandle).dist = s.dist := rfl
@[simp] theorem State.nextHandle_cores {s : State} : (s.nextHandle).cores = s.cores := rfl
@[simp] theorem State.nextHandle_boxes {s : State} : (s.nextHandle).boxes = s.boxes := rfl
@[simp] theorem State.nextHandle_rings {s : State} : (s.nextHandle).rings = s.rings := rfl
@[simp] theorem State.nextHandle_queues {s : State} : (s.nextHandle).queues = s.queues := rfl
@[simp] theorem State.nextHandle_memc {s : State} : (s.nextHandle).memc = { s.memc with handle := s.memc.handle % (2 ^ 32 - 1) + 1 } := rfl
@[simp] theorem State.nextHandle_slots {s : State} : (s.nextHandle).slots = s.slots := rfl
@[simp] theorem State.nextHandle_ports {s : State} : (s.nextHandle).ports = s.ports := rfl
@[simp] theorem State.nextHandle_lanes {s : State} : (s.nextHandle).lanes = s.lanes := rfl
@[simp] theorem State.nextHandle_hosts {s : State} : (s.nextHandle).hosts = s.hosts := rfl
@[simp] theorem State.nextHandle_windows {s : State} : (s.nextHandle).windows = s.windows := rfl
@[simp] theorem State.nextHandle_moon {s : State} : (s.nextHandle).moon = s.moon := rfl
@[simp] theorem State.nextHandle_jtag {s : State} : (s.nextHandle).jtag = s.jtag := rfl
@[simp] theorem State.nextHandle_out {s : State} : (s.nextHandle).out = s.out := rfl
@[simp] theorem State.nextHandle_tags {s : State} : (s.nextHandle).tags = s.tags := rfl

/-! ## emit -/

@[simp] theorem State.emit_pending {s : State} {o : Output} : (s.emit o).pending = s.pending := rfl
@[simp] theorem State.emit_free {s : State} {o : Output} : (s.emit o).free = s.free := rfl
@[simp] theorem State.emit_mem {s : State} {o : Output} : (s.emit o).mem = s.mem := rfl
@[simp] theorem State.emit_clk {s : State} {o : Output} : (s.emit o).clk = s.clk := rfl
@[simp] theorem State.emit_pwr {s : State} {o : Output} : (s.emit o).pwr = s.pwr := rfl
@[simp] theorem State.emit_orb {s : State} {o : Output} : (s.emit o).orb = s.orb := rfl
@[simp] theorem State.emit_spr {s : State} {o : Output} : (s.emit o).spr = s.spr := rfl
@[simp] theorem State.emit_cnt {s : State} {o : Output} : (s.emit o).cnt = s.cnt := rfl
@[simp] theorem State.emit_dcnt {s : State} {o : Output} : (s.emit o).dcnt = s.dcnt := rfl
@[simp] theorem State.emit_dist {s : State} {o : Output} : (s.emit o).dist = s.dist := rfl
@[simp] theorem State.emit_cores {s : State} {o : Output} : (s.emit o).cores = s.cores := rfl
@[simp] theorem State.emit_boxes {s : State} {o : Output} : (s.emit o).boxes = s.boxes := rfl
@[simp] theorem State.emit_rings {s : State} {o : Output} : (s.emit o).rings = s.rings := rfl
@[simp] theorem State.emit_queues {s : State} {o : Output} : (s.emit o).queues = s.queues := rfl
@[simp] theorem State.emit_memc {s : State} {o : Output} : (s.emit o).memc = s.memc := rfl
@[simp] theorem State.emit_slots {s : State} {o : Output} : (s.emit o).slots = s.slots := rfl
@[simp] theorem State.emit_ports {s : State} {o : Output} : (s.emit o).ports = s.ports := rfl
@[simp] theorem State.emit_lanes {s : State} {o : Output} : (s.emit o).lanes = s.lanes := rfl
@[simp] theorem State.emit_hosts {s : State} {o : Output} : (s.emit o).hosts = s.hosts := rfl
@[simp] theorem State.emit_windows {s : State} {o : Output} : (s.emit o).windows = s.windows := rfl
@[simp] theorem State.emit_moon {s : State} {o : Output} : (s.emit o).moon = s.moon := rfl
@[simp] theorem State.emit_jtag {s : State} {o : Output} : (s.emit o).jtag = s.jtag := rfl
@[simp] theorem State.emit_out {s : State} {o : Output} : (s.emit o).out = o :: s.out := rfl

/-! ## count -/

@[simp] theorem State.count_pending {s : State} {i k : Nat} : (s.count i k).pending = s.pending := rfl
@[simp] theorem State.count_free {s : State} {i k : Nat} : (s.count i k).free = s.free := rfl
@[simp] theorem State.count_mem {s : State} {i k : Nat} : (s.count i k).mem = s.mem := rfl
@[simp] theorem State.count_clk {s : State} {i k : Nat} : (s.count i k).clk = s.clk := rfl
@[simp] theorem State.count_pwr {s : State} {i k : Nat} : (s.count i k).pwr = s.pwr := rfl
@[simp] theorem State.count_orb {s : State} {i k : Nat} : (s.count i k).orb = s.orb := rfl
@[simp] theorem State.count_spr {s : State} {i k : Nat} : (s.count i k).spr = s.spr := rfl
@[simp] theorem State.count_cnt {s : State} {i k : Nat} : (s.count i k).cnt = s.cnt.set i ((s.cnt.get 0 i + k) % 2 ^ 64) := rfl
@[simp] theorem State.count_dcnt {s : State} {i k : Nat} : (s.count i k).dcnt = s.dcnt := rfl
@[simp] theorem State.count_dist {s : State} {i k : Nat} : (s.count i k).dist = s.dist := rfl
@[simp] theorem State.count_cores {s : State} {i k : Nat} : (s.count i k).cores = s.cores := rfl
@[simp] theorem State.count_boxes {s : State} {i k : Nat} : (s.count i k).boxes = s.boxes := rfl
@[simp] theorem State.count_rings {s : State} {i k : Nat} : (s.count i k).rings = s.rings := rfl
@[simp] theorem State.count_queues {s : State} {i k : Nat} : (s.count i k).queues = s.queues := rfl
@[simp] theorem State.count_memc {s : State} {i k : Nat} : (s.count i k).memc = s.memc := rfl
@[simp] theorem State.count_slots {s : State} {i k : Nat} : (s.count i k).slots = s.slots := rfl
@[simp] theorem State.count_ports {s : State} {i k : Nat} : (s.count i k).ports = s.ports := rfl
@[simp] theorem State.count_lanes {s : State} {i k : Nat} : (s.count i k).lanes = s.lanes := rfl
@[simp] theorem State.count_hosts {s : State} {i k : Nat} : (s.count i k).hosts = s.hosts := rfl
@[simp] theorem State.count_windows {s : State} {i k : Nat} : (s.count i k).windows = s.windows := rfl
@[simp] theorem State.count_moon {s : State} {i k : Nat} : (s.count i k).moon = s.moon := rfl
@[simp] theorem State.count_jtag {s : State} {i k : Nat} : (s.count i k).jtag = s.jtag := rfl
@[simp] theorem State.count_out {s : State} {i k : Nat} : (s.count i k).out = s.out := rfl
@[simp] theorem State.count_tags {s : State} {i k : Nat} : (s.count i k).tags = s.tags := rfl

/-! ## setCount -/

@[simp] theorem State.setCount_pending {s : State} {i v : Nat} : (s.setCount i v).pending = s.pending := rfl
@[simp] theorem State.setCount_free {s : State} {i v : Nat} : (s.setCount i v).free = s.free := rfl
@[simp] theorem State.setCount_mem {s : State} {i v : Nat} : (s.setCount i v).mem = s.mem := rfl
@[simp] theorem State.setCount_clk {s : State} {i v : Nat} : (s.setCount i v).clk = s.clk := rfl
@[simp] theorem State.setCount_pwr {s : State} {i v : Nat} : (s.setCount i v).pwr = s.pwr := rfl
@[simp] theorem State.setCount_orb {s : State} {i v : Nat} : (s.setCount i v).orb = s.orb := rfl
@[simp] theorem State.setCount_spr {s : State} {i v : Nat} : (s.setCount i v).spr = s.spr := rfl
@[simp] theorem State.setCount_cnt {s : State} {i v : Nat} : (s.setCount i v).cnt = s.cnt.set i v := rfl
@[simp] theorem State.setCount_dcnt {s : State} {i v : Nat} : (s.setCount i v).dcnt = s.dcnt := rfl
@[simp] theorem State.setCount_dist {s : State} {i v : Nat} : (s.setCount i v).dist = s.dist := rfl
@[simp] theorem State.setCount_cores {s : State} {i v : Nat} : (s.setCount i v).cores = s.cores := rfl
@[simp] theorem State.setCount_boxes {s : State} {i v : Nat} : (s.setCount i v).boxes = s.boxes := rfl
@[simp] theorem State.setCount_rings {s : State} {i v : Nat} : (s.setCount i v).rings = s.rings := rfl
@[simp] theorem State.setCount_queues {s : State} {i v : Nat} : (s.setCount i v).queues = s.queues := rfl
@[simp] theorem State.setCount_memc {s : State} {i v : Nat} : (s.setCount i v).memc = s.memc := rfl
@[simp] theorem State.setCount_slots {s : State} {i v : Nat} : (s.setCount i v).slots = s.slots := rfl
@[simp] theorem State.setCount_ports {s : State} {i v : Nat} : (s.setCount i v).ports = s.ports := rfl
@[simp] theorem State.setCount_lanes {s : State} {i v : Nat} : (s.setCount i v).lanes = s.lanes := rfl
@[simp] theorem State.setCount_hosts {s : State} {i v : Nat} : (s.setCount i v).hosts = s.hosts := rfl
@[simp] theorem State.setCount_windows {s : State} {i v : Nat} : (s.setCount i v).windows = s.windows := rfl
@[simp] theorem State.setCount_moon {s : State} {i v : Nat} : (s.setCount i v).moon = s.moon := rfl
@[simp] theorem State.setCount_jtag {s : State} {i v : Nat} : (s.setCount i v).jtag = s.jtag := rfl
@[simp] theorem State.setCount_out {s : State} {i v : Nat} : (s.setCount i v).out = s.out := rfl
@[simp] theorem State.setCount_tags {s : State} {i v : Nat} : (s.setCount i v).tags = s.tags := rfl

/-! ## countDist -/

@[simp] theorem State.countDist_pending {s : State} {d i k : Nat} : (s.countDist d i k).pending = s.pending := rfl
@[simp] theorem State.countDist_free {s : State} {d i k : Nat} : (s.countDist d i k).free = s.free := rfl
@[simp] theorem State.countDist_mem {s : State} {d i k : Nat} : (s.countDist d i k).mem = s.mem := rfl
@[simp] theorem State.countDist_clk {s : State} {d i k : Nat} : (s.countDist d i k).clk = s.clk := rfl
@[simp] theorem State.countDist_pwr {s : State} {d i k : Nat} : (s.countDist d i k).pwr = s.pwr := rfl
@[simp] theorem State.countDist_orb {s : State} {d i k : Nat} : (s.countDist d i k).orb = s.orb := rfl
@[simp] theorem State.countDist_spr {s : State} {d i k : Nat} : (s.countDist d i k).spr = s.spr := rfl
@[simp] theorem State.countDist_cnt {s : State} {d i k : Nat} : (s.countDist d i k).cnt = s.cnt := rfl
@[simp] theorem State.countDist_dcnt {s : State} {d i k : Nat} : (s.countDist d i k).dcnt = s.dcnt.set (64 * d + i) ((s.dcnt.get 0 (64 * d + i) + k) % 2 ^ 64) := rfl
@[simp] theorem State.countDist_dist {s : State} {d i k : Nat} : (s.countDist d i k).dist = s.dist := rfl
@[simp] theorem State.countDist_cores {s : State} {d i k : Nat} : (s.countDist d i k).cores = s.cores := rfl
@[simp] theorem State.countDist_boxes {s : State} {d i k : Nat} : (s.countDist d i k).boxes = s.boxes := rfl
@[simp] theorem State.countDist_rings {s : State} {d i k : Nat} : (s.countDist d i k).rings = s.rings := rfl
@[simp] theorem State.countDist_queues {s : State} {d i k : Nat} : (s.countDist d i k).queues = s.queues := rfl
@[simp] theorem State.countDist_memc {s : State} {d i k : Nat} : (s.countDist d i k).memc = s.memc := rfl
@[simp] theorem State.countDist_slots {s : State} {d i k : Nat} : (s.countDist d i k).slots = s.slots := rfl
@[simp] theorem State.countDist_ports {s : State} {d i k : Nat} : (s.countDist d i k).ports = s.ports := rfl
@[simp] theorem State.countDist_lanes {s : State} {d i k : Nat} : (s.countDist d i k).lanes = s.lanes := rfl
@[simp] theorem State.countDist_hosts {s : State} {d i k : Nat} : (s.countDist d i k).hosts = s.hosts := rfl
@[simp] theorem State.countDist_windows {s : State} {d i k : Nat} : (s.countDist d i k).windows = s.windows := rfl
@[simp] theorem State.countDist_moon {s : State} {d i k : Nat} : (s.countDist d i k).moon = s.moon := rfl
@[simp] theorem State.countDist_jtag {s : State} {d i k : Nat} : (s.countDist d i k).jtag = s.jtag := rfl
@[simp] theorem State.countDist_out {s : State} {d i k : Nat} : (s.countDist d i k).out = s.out := rfl
@[simp] theorem State.countDist_tags {s : State} {d i k : Nat} : (s.countDist d i k).tags = s.tags := rfl

/-! ## setDist -/

@[simp] theorem State.setDist_pending {s : State} {d i v : Nat} : (s.setDist d i v).pending = s.pending := rfl
@[simp] theorem State.setDist_free {s : State} {d i v : Nat} : (s.setDist d i v).free = s.free := rfl
@[simp] theorem State.setDist_mem {s : State} {d i v : Nat} : (s.setDist d i v).mem = s.mem := rfl
@[simp] theorem State.setDist_clk {s : State} {d i v : Nat} : (s.setDist d i v).clk = s.clk := rfl
@[simp] theorem State.setDist_pwr {s : State} {d i v : Nat} : (s.setDist d i v).pwr = s.pwr := rfl
@[simp] theorem State.setDist_orb {s : State} {d i v : Nat} : (s.setDist d i v).orb = s.orb := rfl
@[simp] theorem State.setDist_spr {s : State} {d i v : Nat} : (s.setDist d i v).spr = s.spr := rfl
@[simp] theorem State.setDist_cnt {s : State} {d i v : Nat} : (s.setDist d i v).cnt = s.cnt := rfl
@[simp] theorem State.setDist_dcnt {s : State} {d i v : Nat} : (s.setDist d i v).dcnt = s.dcnt.set (64 * d + i) v := rfl
@[simp] theorem State.setDist_dist {s : State} {d i v : Nat} : (s.setDist d i v).dist = s.dist := rfl
@[simp] theorem State.setDist_cores {s : State} {d i v : Nat} : (s.setDist d i v).cores = s.cores := rfl
@[simp] theorem State.setDist_boxes {s : State} {d i v : Nat} : (s.setDist d i v).boxes = s.boxes := rfl
@[simp] theorem State.setDist_rings {s : State} {d i v : Nat} : (s.setDist d i v).rings = s.rings := rfl
@[simp] theorem State.setDist_queues {s : State} {d i v : Nat} : (s.setDist d i v).queues = s.queues := rfl
@[simp] theorem State.setDist_memc {s : State} {d i v : Nat} : (s.setDist d i v).memc = s.memc := rfl
@[simp] theorem State.setDist_slots {s : State} {d i v : Nat} : (s.setDist d i v).slots = s.slots := rfl
@[simp] theorem State.setDist_ports {s : State} {d i v : Nat} : (s.setDist d i v).ports = s.ports := rfl
@[simp] theorem State.setDist_lanes {s : State} {d i v : Nat} : (s.setDist d i v).lanes = s.lanes := rfl
@[simp] theorem State.setDist_hosts {s : State} {d i v : Nat} : (s.setDist d i v).hosts = s.hosts := rfl
@[simp] theorem State.setDist_windows {s : State} {d i v : Nat} : (s.setDist d i v).windows = s.windows := rfl
@[simp] theorem State.setDist_moon {s : State} {d i v : Nat} : (s.setDist d i v).moon = s.moon := rfl
@[simp] theorem State.setDist_jtag {s : State} {d i v : Nat} : (s.setDist d i v).jtag = s.jtag := rfl
@[simp] theorem State.setDist_out {s : State} {d i v : Nat} : (s.setDist d i v).out = s.out := rfl
@[simp] theorem State.setDist_tags {s : State} {d i v : Nat} : (s.setDist d i v).tags = s.tags := rfl

/-! ## modOrb -/

@[simp] theorem State.modOrb_pending {s : State} {n : Nat} {f : OrbDist → OrbDist} : (s.modOrb n f).pending = s.pending := rfl
@[simp] theorem State.modOrb_free {s : State} {n : Nat} {f : OrbDist → OrbDist} : (s.modOrb n f).free = s.free := rfl
@[simp] theorem State.modOrb_mem {s : State} {n : Nat} {f : OrbDist → OrbDist} : (s.modOrb n f).mem = s.mem := rfl
@[simp] theorem State.modOrb_clk {s : State} {n : Nat} {f : OrbDist → OrbDist} : (s.modOrb n f).clk = s.clk := rfl
@[simp] theorem State.modOrb_pwr {s : State} {n : Nat} {f : OrbDist → OrbDist} : (s.modOrb n f).pwr = s.pwr := rfl
@[simp] theorem State.modOrb_orb {s : State} {n : Nat} {f : OrbDist → OrbDist} : (s.modOrb n f).orb = s.orb := rfl
@[simp] theorem State.modOrb_spr {s : State} {n : Nat} {f : OrbDist → OrbDist} : (s.modOrb n f).spr = s.spr := rfl
@[simp] theorem State.modOrb_cnt {s : State} {n : Nat} {f : OrbDist → OrbDist} : (s.modOrb n f).cnt = s.cnt := rfl
@[simp] theorem State.modOrb_dcnt {s : State} {n : Nat} {f : OrbDist → OrbDist} : (s.modOrb n f).dcnt = s.dcnt := rfl
@[simp] theorem State.modOrb_dist {s : State} {n : Nat} {f : OrbDist → OrbDist} : (s.modOrb n f).dist = s.dist.set n { s.district n with orb := f (s.district n).orb } := rfl
@[simp] theorem State.modOrb_cores {s : State} {n : Nat} {f : OrbDist → OrbDist} : (s.modOrb n f).cores = s.cores := rfl
@[simp] theorem State.modOrb_boxes {s : State} {n : Nat} {f : OrbDist → OrbDist} : (s.modOrb n f).boxes = s.boxes := rfl
@[simp] theorem State.modOrb_rings {s : State} {n : Nat} {f : OrbDist → OrbDist} : (s.modOrb n f).rings = s.rings := rfl
@[simp] theorem State.modOrb_queues {s : State} {n : Nat} {f : OrbDist → OrbDist} : (s.modOrb n f).queues = s.queues := rfl
@[simp] theorem State.modOrb_memc {s : State} {n : Nat} {f : OrbDist → OrbDist} : (s.modOrb n f).memc = s.memc := rfl
@[simp] theorem State.modOrb_slots {s : State} {n : Nat} {f : OrbDist → OrbDist} : (s.modOrb n f).slots = s.slots := rfl
@[simp] theorem State.modOrb_ports {s : State} {n : Nat} {f : OrbDist → OrbDist} : (s.modOrb n f).ports = s.ports := rfl
@[simp] theorem State.modOrb_lanes {s : State} {n : Nat} {f : OrbDist → OrbDist} : (s.modOrb n f).lanes = s.lanes := rfl
@[simp] theorem State.modOrb_hosts {s : State} {n : Nat} {f : OrbDist → OrbDist} : (s.modOrb n f).hosts = s.hosts := rfl
@[simp] theorem State.modOrb_windows {s : State} {n : Nat} {f : OrbDist → OrbDist} : (s.modOrb n f).windows = s.windows := rfl
@[simp] theorem State.modOrb_moon {s : State} {n : Nat} {f : OrbDist → OrbDist} : (s.modOrb n f).moon = s.moon := rfl
@[simp] theorem State.modOrb_jtag {s : State} {n : Nat} {f : OrbDist → OrbDist} : (s.modOrb n f).jtag = s.jtag := rfl
@[simp] theorem State.modOrb_out {s : State} {n : Nat} {f : OrbDist → OrbDist} : (s.modOrb n f).out = s.out := rfl
@[simp] theorem State.modOrb_tags {s : State} {n : Nat} {f : OrbDist → OrbDist} : (s.modOrb n f).tags = s.tags := rfl

/-! ## modBar -/

@[simp] theorem State.modBar_pending {s : State} {n : Nat} {f : Barrier → Barrier} : (s.modBar n f).pending = s.pending := rfl
@[simp] theorem State.modBar_free {s : State} {n : Nat} {f : Barrier → Barrier} : (s.modBar n f).free = s.free := rfl
@[simp] theorem State.modBar_mem {s : State} {n : Nat} {f : Barrier → Barrier} : (s.modBar n f).mem = s.mem := rfl
@[simp] theorem State.modBar_clk {s : State} {n : Nat} {f : Barrier → Barrier} : (s.modBar n f).clk = s.clk := rfl
@[simp] theorem State.modBar_pwr {s : State} {n : Nat} {f : Barrier → Barrier} : (s.modBar n f).pwr = s.pwr := rfl
@[simp] theorem State.modBar_orb {s : State} {n : Nat} {f : Barrier → Barrier} : (s.modBar n f).orb = s.orb := rfl
@[simp] theorem State.modBar_spr {s : State} {n : Nat} {f : Barrier → Barrier} : (s.modBar n f).spr = s.spr := rfl
@[simp] theorem State.modBar_cnt {s : State} {n : Nat} {f : Barrier → Barrier} : (s.modBar n f).cnt = s.cnt := rfl
@[simp] theorem State.modBar_dcnt {s : State} {n : Nat} {f : Barrier → Barrier} : (s.modBar n f).dcnt = s.dcnt := rfl
@[simp] theorem State.modBar_dist {s : State} {n : Nat} {f : Barrier → Barrier} : (s.modBar n f).dist = s.dist.set n { s.district n with bar := f (s.district n).bar } := rfl
@[simp] theorem State.modBar_cores {s : State} {n : Nat} {f : Barrier → Barrier} : (s.modBar n f).cores = s.cores := rfl
@[simp] theorem State.modBar_boxes {s : State} {n : Nat} {f : Barrier → Barrier} : (s.modBar n f).boxes = s.boxes := rfl
@[simp] theorem State.modBar_rings {s : State} {n : Nat} {f : Barrier → Barrier} : (s.modBar n f).rings = s.rings := rfl
@[simp] theorem State.modBar_queues {s : State} {n : Nat} {f : Barrier → Barrier} : (s.modBar n f).queues = s.queues := rfl
@[simp] theorem State.modBar_memc {s : State} {n : Nat} {f : Barrier → Barrier} : (s.modBar n f).memc = s.memc := rfl
@[simp] theorem State.modBar_slots {s : State} {n : Nat} {f : Barrier → Barrier} : (s.modBar n f).slots = s.slots := rfl
@[simp] theorem State.modBar_ports {s : State} {n : Nat} {f : Barrier → Barrier} : (s.modBar n f).ports = s.ports := rfl
@[simp] theorem State.modBar_lanes {s : State} {n : Nat} {f : Barrier → Barrier} : (s.modBar n f).lanes = s.lanes := rfl
@[simp] theorem State.modBar_hosts {s : State} {n : Nat} {f : Barrier → Barrier} : (s.modBar n f).hosts = s.hosts := rfl
@[simp] theorem State.modBar_windows {s : State} {n : Nat} {f : Barrier → Barrier} : (s.modBar n f).windows = s.windows := rfl
@[simp] theorem State.modBar_moon {s : State} {n : Nat} {f : Barrier → Barrier} : (s.modBar n f).moon = s.moon := rfl
@[simp] theorem State.modBar_jtag {s : State} {n : Nat} {f : Barrier → Barrier} : (s.modBar n f).jtag = s.jtag := rfl
@[simp] theorem State.modBar_out {s : State} {n : Nat} {f : Barrier → Barrier} : (s.modBar n f).out = s.out := rfl
@[simp] theorem State.modBar_tags {s : State} {n : Nat} {f : Barrier → Barrier} : (s.modBar n f).tags = s.tags := rfl

/-! ## modImg -/

@[simp] theorem State.modImg_pending {s : State} {n : Nat} {f : ImgDist → ImgDist} : (s.modImg n f).pending = s.pending := rfl
@[simp] theorem State.modImg_free {s : State} {n : Nat} {f : ImgDist → ImgDist} : (s.modImg n f).free = s.free := rfl
@[simp] theorem State.modImg_mem {s : State} {n : Nat} {f : ImgDist → ImgDist} : (s.modImg n f).mem = s.mem := rfl
@[simp] theorem State.modImg_clk {s : State} {n : Nat} {f : ImgDist → ImgDist} : (s.modImg n f).clk = s.clk := rfl
@[simp] theorem State.modImg_pwr {s : State} {n : Nat} {f : ImgDist → ImgDist} : (s.modImg n f).pwr = s.pwr := rfl
@[simp] theorem State.modImg_orb {s : State} {n : Nat} {f : ImgDist → ImgDist} : (s.modImg n f).orb = s.orb := rfl
@[simp] theorem State.modImg_spr {s : State} {n : Nat} {f : ImgDist → ImgDist} : (s.modImg n f).spr = s.spr := rfl
@[simp] theorem State.modImg_cnt {s : State} {n : Nat} {f : ImgDist → ImgDist} : (s.modImg n f).cnt = s.cnt := rfl
@[simp] theorem State.modImg_dcnt {s : State} {n : Nat} {f : ImgDist → ImgDist} : (s.modImg n f).dcnt = s.dcnt := rfl
@[simp] theorem State.modImg_dist {s : State} {n : Nat} {f : ImgDist → ImgDist} : (s.modImg n f).dist = s.dist.set n { s.district n with img := f (s.district n).img } := rfl
@[simp] theorem State.modImg_cores {s : State} {n : Nat} {f : ImgDist → ImgDist} : (s.modImg n f).cores = s.cores := rfl
@[simp] theorem State.modImg_boxes {s : State} {n : Nat} {f : ImgDist → ImgDist} : (s.modImg n f).boxes = s.boxes := rfl
@[simp] theorem State.modImg_rings {s : State} {n : Nat} {f : ImgDist → ImgDist} : (s.modImg n f).rings = s.rings := rfl
@[simp] theorem State.modImg_queues {s : State} {n : Nat} {f : ImgDist → ImgDist} : (s.modImg n f).queues = s.queues := rfl
@[simp] theorem State.modImg_memc {s : State} {n : Nat} {f : ImgDist → ImgDist} : (s.modImg n f).memc = s.memc := rfl
@[simp] theorem State.modImg_slots {s : State} {n : Nat} {f : ImgDist → ImgDist} : (s.modImg n f).slots = s.slots := rfl
@[simp] theorem State.modImg_ports {s : State} {n : Nat} {f : ImgDist → ImgDist} : (s.modImg n f).ports = s.ports := rfl
@[simp] theorem State.modImg_lanes {s : State} {n : Nat} {f : ImgDist → ImgDist} : (s.modImg n f).lanes = s.lanes := rfl
@[simp] theorem State.modImg_hosts {s : State} {n : Nat} {f : ImgDist → ImgDist} : (s.modImg n f).hosts = s.hosts := rfl
@[simp] theorem State.modImg_windows {s : State} {n : Nat} {f : ImgDist → ImgDist} : (s.modImg n f).windows = s.windows := rfl
@[simp] theorem State.modImg_moon {s : State} {n : Nat} {f : ImgDist → ImgDist} : (s.modImg n f).moon = s.moon := rfl
@[simp] theorem State.modImg_jtag {s : State} {n : Nat} {f : ImgDist → ImgDist} : (s.modImg n f).jtag = s.jtag := rfl
@[simp] theorem State.modImg_out {s : State} {n : Nat} {f : ImgDist → ImgDist} : (s.modImg n f).out = s.out := rfl
@[simp] theorem State.modImg_tags {s : State} {n : Nat} {f : ImgDist → ImgDist} : (s.modImg n f).tags = s.tags := rfl

/-! ## modHost -/

@[simp] theorem State.modHost_pending {s : State} {n : Nat} {f : HostDist → HostDist} : (s.modHost n f).pending = s.pending := rfl
@[simp] theorem State.modHost_free {s : State} {n : Nat} {f : HostDist → HostDist} : (s.modHost n f).free = s.free := rfl
@[simp] theorem State.modHost_mem {s : State} {n : Nat} {f : HostDist → HostDist} : (s.modHost n f).mem = s.mem := rfl
@[simp] theorem State.modHost_clk {s : State} {n : Nat} {f : HostDist → HostDist} : (s.modHost n f).clk = s.clk := rfl
@[simp] theorem State.modHost_pwr {s : State} {n : Nat} {f : HostDist → HostDist} : (s.modHost n f).pwr = s.pwr := rfl
@[simp] theorem State.modHost_orb {s : State} {n : Nat} {f : HostDist → HostDist} : (s.modHost n f).orb = s.orb := rfl
@[simp] theorem State.modHost_spr {s : State} {n : Nat} {f : HostDist → HostDist} : (s.modHost n f).spr = s.spr := rfl
@[simp] theorem State.modHost_cnt {s : State} {n : Nat} {f : HostDist → HostDist} : (s.modHost n f).cnt = s.cnt := rfl
@[simp] theorem State.modHost_dcnt {s : State} {n : Nat} {f : HostDist → HostDist} : (s.modHost n f).dcnt = s.dcnt := rfl
@[simp] theorem State.modHost_dist {s : State} {n : Nat} {f : HostDist → HostDist} : (s.modHost n f).dist = s.dist.set n { s.district n with host := f (s.district n).host } := rfl
@[simp] theorem State.modHost_cores {s : State} {n : Nat} {f : HostDist → HostDist} : (s.modHost n f).cores = s.cores := rfl
@[simp] theorem State.modHost_boxes {s : State} {n : Nat} {f : HostDist → HostDist} : (s.modHost n f).boxes = s.boxes := rfl
@[simp] theorem State.modHost_rings {s : State} {n : Nat} {f : HostDist → HostDist} : (s.modHost n f).rings = s.rings := rfl
@[simp] theorem State.modHost_queues {s : State} {n : Nat} {f : HostDist → HostDist} : (s.modHost n f).queues = s.queues := rfl
@[simp] theorem State.modHost_memc {s : State} {n : Nat} {f : HostDist → HostDist} : (s.modHost n f).memc = s.memc := rfl
@[simp] theorem State.modHost_slots {s : State} {n : Nat} {f : HostDist → HostDist} : (s.modHost n f).slots = s.slots := rfl
@[simp] theorem State.modHost_ports {s : State} {n : Nat} {f : HostDist → HostDist} : (s.modHost n f).ports = s.ports := rfl
@[simp] theorem State.modHost_lanes {s : State} {n : Nat} {f : HostDist → HostDist} : (s.modHost n f).lanes = s.lanes := rfl
@[simp] theorem State.modHost_hosts {s : State} {n : Nat} {f : HostDist → HostDist} : (s.modHost n f).hosts = s.hosts := rfl
@[simp] theorem State.modHost_windows {s : State} {n : Nat} {f : HostDist → HostDist} : (s.modHost n f).windows = s.windows := rfl
@[simp] theorem State.modHost_moon {s : State} {n : Nat} {f : HostDist → HostDist} : (s.modHost n f).moon = s.moon := rfl
@[simp] theorem State.modHost_jtag {s : State} {n : Nat} {f : HostDist → HostDist} : (s.modHost n f).jtag = s.jtag := rfl
@[simp] theorem State.modHost_out {s : State} {n : Nat} {f : HostDist → HostDist} : (s.modHost n f).out = s.out := rfl
@[simp] theorem State.modHost_tags {s : State} {n : Nat} {f : HostDist → HostDist} : (s.modHost n f).tags = s.tags := rfl

/-! ## modFlt -/

@[simp] theorem State.modFlt_pending {s : State} {n : Nat} {f : FltDist → FltDist} : (s.modFlt n f).pending = s.pending := rfl
@[simp] theorem State.modFlt_free {s : State} {n : Nat} {f : FltDist → FltDist} : (s.modFlt n f).free = s.free := rfl
@[simp] theorem State.modFlt_mem {s : State} {n : Nat} {f : FltDist → FltDist} : (s.modFlt n f).mem = s.mem := rfl
@[simp] theorem State.modFlt_clk {s : State} {n : Nat} {f : FltDist → FltDist} : (s.modFlt n f).clk = s.clk := rfl
@[simp] theorem State.modFlt_pwr {s : State} {n : Nat} {f : FltDist → FltDist} : (s.modFlt n f).pwr = s.pwr := rfl
@[simp] theorem State.modFlt_orb {s : State} {n : Nat} {f : FltDist → FltDist} : (s.modFlt n f).orb = s.orb := rfl
@[simp] theorem State.modFlt_spr {s : State} {n : Nat} {f : FltDist → FltDist} : (s.modFlt n f).spr = s.spr := rfl
@[simp] theorem State.modFlt_cnt {s : State} {n : Nat} {f : FltDist → FltDist} : (s.modFlt n f).cnt = s.cnt := rfl
@[simp] theorem State.modFlt_dcnt {s : State} {n : Nat} {f : FltDist → FltDist} : (s.modFlt n f).dcnt = s.dcnt := rfl
@[simp] theorem State.modFlt_dist {s : State} {n : Nat} {f : FltDist → FltDist} : (s.modFlt n f).dist = s.dist.set n { s.district n with flt := f (s.district n).flt } := rfl
@[simp] theorem State.modFlt_cores {s : State} {n : Nat} {f : FltDist → FltDist} : (s.modFlt n f).cores = s.cores := rfl
@[simp] theorem State.modFlt_boxes {s : State} {n : Nat} {f : FltDist → FltDist} : (s.modFlt n f).boxes = s.boxes := rfl
@[simp] theorem State.modFlt_rings {s : State} {n : Nat} {f : FltDist → FltDist} : (s.modFlt n f).rings = s.rings := rfl
@[simp] theorem State.modFlt_queues {s : State} {n : Nat} {f : FltDist → FltDist} : (s.modFlt n f).queues = s.queues := rfl
@[simp] theorem State.modFlt_memc {s : State} {n : Nat} {f : FltDist → FltDist} : (s.modFlt n f).memc = s.memc := rfl
@[simp] theorem State.modFlt_slots {s : State} {n : Nat} {f : FltDist → FltDist} : (s.modFlt n f).slots = s.slots := rfl
@[simp] theorem State.modFlt_ports {s : State} {n : Nat} {f : FltDist → FltDist} : (s.modFlt n f).ports = s.ports := rfl
@[simp] theorem State.modFlt_lanes {s : State} {n : Nat} {f : FltDist → FltDist} : (s.modFlt n f).lanes = s.lanes := rfl
@[simp] theorem State.modFlt_hosts {s : State} {n : Nat} {f : FltDist → FltDist} : (s.modFlt n f).hosts = s.hosts := rfl
@[simp] theorem State.modFlt_windows {s : State} {n : Nat} {f : FltDist → FltDist} : (s.modFlt n f).windows = s.windows := rfl
@[simp] theorem State.modFlt_moon {s : State} {n : Nat} {f : FltDist → FltDist} : (s.modFlt n f).moon = s.moon := rfl
@[simp] theorem State.modFlt_jtag {s : State} {n : Nat} {f : FltDist → FltDist} : (s.modFlt n f).jtag = s.jtag := rfl
@[simp] theorem State.modFlt_out {s : State} {n : Nat} {f : FltDist → FltDist} : (s.modFlt n f).out = s.out := rfl
@[simp] theorem State.modFlt_tags {s : State} {n : Nat} {f : FltDist → FltDist} : (s.modFlt n f).tags = s.tags := rfl

/-! ## modMir -/

@[simp] theorem State.modMir_pending {s : State} {n : Nat} {f : MirDist → MirDist} : (s.modMir n f).pending = s.pending := rfl
@[simp] theorem State.modMir_free {s : State} {n : Nat} {f : MirDist → MirDist} : (s.modMir n f).free = s.free := rfl
@[simp] theorem State.modMir_mem {s : State} {n : Nat} {f : MirDist → MirDist} : (s.modMir n f).mem = s.mem := rfl
@[simp] theorem State.modMir_clk {s : State} {n : Nat} {f : MirDist → MirDist} : (s.modMir n f).clk = s.clk := rfl
@[simp] theorem State.modMir_pwr {s : State} {n : Nat} {f : MirDist → MirDist} : (s.modMir n f).pwr = s.pwr := rfl
@[simp] theorem State.modMir_orb {s : State} {n : Nat} {f : MirDist → MirDist} : (s.modMir n f).orb = s.orb := rfl
@[simp] theorem State.modMir_spr {s : State} {n : Nat} {f : MirDist → MirDist} : (s.modMir n f).spr = s.spr := rfl
@[simp] theorem State.modMir_cnt {s : State} {n : Nat} {f : MirDist → MirDist} : (s.modMir n f).cnt = s.cnt := rfl
@[simp] theorem State.modMir_dcnt {s : State} {n : Nat} {f : MirDist → MirDist} : (s.modMir n f).dcnt = s.dcnt := rfl
@[simp] theorem State.modMir_dist {s : State} {n : Nat} {f : MirDist → MirDist} : (s.modMir n f).dist = s.dist.set n { s.district n with mir := f (s.district n).mir } := rfl
@[simp] theorem State.modMir_cores {s : State} {n : Nat} {f : MirDist → MirDist} : (s.modMir n f).cores = s.cores := rfl
@[simp] theorem State.modMir_boxes {s : State} {n : Nat} {f : MirDist → MirDist} : (s.modMir n f).boxes = s.boxes := rfl
@[simp] theorem State.modMir_rings {s : State} {n : Nat} {f : MirDist → MirDist} : (s.modMir n f).rings = s.rings := rfl
@[simp] theorem State.modMir_queues {s : State} {n : Nat} {f : MirDist → MirDist} : (s.modMir n f).queues = s.queues := rfl
@[simp] theorem State.modMir_memc {s : State} {n : Nat} {f : MirDist → MirDist} : (s.modMir n f).memc = s.memc := rfl
@[simp] theorem State.modMir_slots {s : State} {n : Nat} {f : MirDist → MirDist} : (s.modMir n f).slots = s.slots := rfl
@[simp] theorem State.modMir_ports {s : State} {n : Nat} {f : MirDist → MirDist} : (s.modMir n f).ports = s.ports := rfl
@[simp] theorem State.modMir_lanes {s : State} {n : Nat} {f : MirDist → MirDist} : (s.modMir n f).lanes = s.lanes := rfl
@[simp] theorem State.modMir_hosts {s : State} {n : Nat} {f : MirDist → MirDist} : (s.modMir n f).hosts = s.hosts := rfl
@[simp] theorem State.modMir_windows {s : State} {n : Nat} {f : MirDist → MirDist} : (s.modMir n f).windows = s.windows := rfl
@[simp] theorem State.modMir_moon {s : State} {n : Nat} {f : MirDist → MirDist} : (s.modMir n f).moon = s.moon := rfl
@[simp] theorem State.modMir_jtag {s : State} {n : Nat} {f : MirDist → MirDist} : (s.modMir n f).jtag = s.jtag := rfl
@[simp] theorem State.modMir_out {s : State} {n : Nat} {f : MirDist → MirDist} : (s.modMir n f).out = s.out := rfl
@[simp] theorem State.modMir_tags {s : State} {n : Nat} {f : MirDist → MirDist} : (s.modMir n f).tags = s.tags := rfl

/-! ## modPbx -/

@[simp] theorem State.modPbx_pending {s : State} {n : Nat} {f : PbxDist → PbxDist} : (s.modPbx n f).pending = s.pending := rfl
@[simp] theorem State.modPbx_free {s : State} {n : Nat} {f : PbxDist → PbxDist} : (s.modPbx n f).free = s.free := rfl
@[simp] theorem State.modPbx_mem {s : State} {n : Nat} {f : PbxDist → PbxDist} : (s.modPbx n f).mem = s.mem := rfl
@[simp] theorem State.modPbx_clk {s : State} {n : Nat} {f : PbxDist → PbxDist} : (s.modPbx n f).clk = s.clk := rfl
@[simp] theorem State.modPbx_pwr {s : State} {n : Nat} {f : PbxDist → PbxDist} : (s.modPbx n f).pwr = s.pwr := rfl
@[simp] theorem State.modPbx_orb {s : State} {n : Nat} {f : PbxDist → PbxDist} : (s.modPbx n f).orb = s.orb := rfl
@[simp] theorem State.modPbx_spr {s : State} {n : Nat} {f : PbxDist → PbxDist} : (s.modPbx n f).spr = s.spr := rfl
@[simp] theorem State.modPbx_cnt {s : State} {n : Nat} {f : PbxDist → PbxDist} : (s.modPbx n f).cnt = s.cnt := rfl
@[simp] theorem State.modPbx_dcnt {s : State} {n : Nat} {f : PbxDist → PbxDist} : (s.modPbx n f).dcnt = s.dcnt := rfl
@[simp] theorem State.modPbx_dist {s : State} {n : Nat} {f : PbxDist → PbxDist} : (s.modPbx n f).dist = s.dist.set n { s.district n with pbx := f (s.district n).pbx } := rfl
@[simp] theorem State.modPbx_cores {s : State} {n : Nat} {f : PbxDist → PbxDist} : (s.modPbx n f).cores = s.cores := rfl
@[simp] theorem State.modPbx_boxes {s : State} {n : Nat} {f : PbxDist → PbxDist} : (s.modPbx n f).boxes = s.boxes := rfl
@[simp] theorem State.modPbx_rings {s : State} {n : Nat} {f : PbxDist → PbxDist} : (s.modPbx n f).rings = s.rings := rfl
@[simp] theorem State.modPbx_queues {s : State} {n : Nat} {f : PbxDist → PbxDist} : (s.modPbx n f).queues = s.queues := rfl
@[simp] theorem State.modPbx_memc {s : State} {n : Nat} {f : PbxDist → PbxDist} : (s.modPbx n f).memc = s.memc := rfl
@[simp] theorem State.modPbx_slots {s : State} {n : Nat} {f : PbxDist → PbxDist} : (s.modPbx n f).slots = s.slots := rfl
@[simp] theorem State.modPbx_ports {s : State} {n : Nat} {f : PbxDist → PbxDist} : (s.modPbx n f).ports = s.ports := rfl
@[simp] theorem State.modPbx_lanes {s : State} {n : Nat} {f : PbxDist → PbxDist} : (s.modPbx n f).lanes = s.lanes := rfl
@[simp] theorem State.modPbx_hosts {s : State} {n : Nat} {f : PbxDist → PbxDist} : (s.modPbx n f).hosts = s.hosts := rfl
@[simp] theorem State.modPbx_windows {s : State} {n : Nat} {f : PbxDist → PbxDist} : (s.modPbx n f).windows = s.windows := rfl
@[simp] theorem State.modPbx_moon {s : State} {n : Nat} {f : PbxDist → PbxDist} : (s.modPbx n f).moon = s.moon := rfl
@[simp] theorem State.modPbx_jtag {s : State} {n : Nat} {f : PbxDist → PbxDist} : (s.modPbx n f).jtag = s.jtag := rfl
@[simp] theorem State.modPbx_out {s : State} {n : Nat} {f : PbxDist → PbxDist} : (s.modPbx n f).out = s.out := rfl
@[simp] theorem State.modPbx_tags {s : State} {n : Nat} {f : PbxDist → PbxDist} : (s.modPbx n f).tags = s.tags := rfl

/-! ## modMemd -/

@[simp] theorem State.modMemd_pending {s : State} {n : Nat} {f : MemDist → MemDist} : (s.modMemd n f).pending = s.pending := rfl
@[simp] theorem State.modMemd_free {s : State} {n : Nat} {f : MemDist → MemDist} : (s.modMemd n f).free = s.free := rfl
@[simp] theorem State.modMemd_mem {s : State} {n : Nat} {f : MemDist → MemDist} : (s.modMemd n f).mem = s.mem := rfl
@[simp] theorem State.modMemd_clk {s : State} {n : Nat} {f : MemDist → MemDist} : (s.modMemd n f).clk = s.clk := rfl
@[simp] theorem State.modMemd_pwr {s : State} {n : Nat} {f : MemDist → MemDist} : (s.modMemd n f).pwr = s.pwr := rfl
@[simp] theorem State.modMemd_orb {s : State} {n : Nat} {f : MemDist → MemDist} : (s.modMemd n f).orb = s.orb := rfl
@[simp] theorem State.modMemd_spr {s : State} {n : Nat} {f : MemDist → MemDist} : (s.modMemd n f).spr = s.spr := rfl
@[simp] theorem State.modMemd_cnt {s : State} {n : Nat} {f : MemDist → MemDist} : (s.modMemd n f).cnt = s.cnt := rfl
@[simp] theorem State.modMemd_dcnt {s : State} {n : Nat} {f : MemDist → MemDist} : (s.modMemd n f).dcnt = s.dcnt := rfl
@[simp] theorem State.modMemd_dist {s : State} {n : Nat} {f : MemDist → MemDist} : (s.modMemd n f).dist = s.dist.set n { s.district n with mem := f (s.district n).mem } := rfl
@[simp] theorem State.modMemd_cores {s : State} {n : Nat} {f : MemDist → MemDist} : (s.modMemd n f).cores = s.cores := rfl
@[simp] theorem State.modMemd_boxes {s : State} {n : Nat} {f : MemDist → MemDist} : (s.modMemd n f).boxes = s.boxes := rfl
@[simp] theorem State.modMemd_rings {s : State} {n : Nat} {f : MemDist → MemDist} : (s.modMemd n f).rings = s.rings := rfl
@[simp] theorem State.modMemd_queues {s : State} {n : Nat} {f : MemDist → MemDist} : (s.modMemd n f).queues = s.queues := rfl
@[simp] theorem State.modMemd_memc {s : State} {n : Nat} {f : MemDist → MemDist} : (s.modMemd n f).memc = s.memc := rfl
@[simp] theorem State.modMemd_slots {s : State} {n : Nat} {f : MemDist → MemDist} : (s.modMemd n f).slots = s.slots := rfl
@[simp] theorem State.modMemd_ports {s : State} {n : Nat} {f : MemDist → MemDist} : (s.modMemd n f).ports = s.ports := rfl
@[simp] theorem State.modMemd_lanes {s : State} {n : Nat} {f : MemDist → MemDist} : (s.modMemd n f).lanes = s.lanes := rfl
@[simp] theorem State.modMemd_hosts {s : State} {n : Nat} {f : MemDist → MemDist} : (s.modMemd n f).hosts = s.hosts := rfl
@[simp] theorem State.modMemd_windows {s : State} {n : Nat} {f : MemDist → MemDist} : (s.modMemd n f).windows = s.windows := rfl
@[simp] theorem State.modMemd_moon {s : State} {n : Nat} {f : MemDist → MemDist} : (s.modMemd n f).moon = s.moon := rfl
@[simp] theorem State.modMemd_jtag {s : State} {n : Nat} {f : MemDist → MemDist} : (s.modMemd n f).jtag = s.jtag := rfl
@[simp] theorem State.modMemd_out {s : State} {n : Nat} {f : MemDist → MemDist} : (s.modMemd n f).out = s.out := rfl
@[simp] theorem State.modMemd_tags {s : State} {n : Nat} {f : MemDist → MemDist} : (s.modMemd n f).tags = s.tags := rfl

/-! ## modNum -/

@[simp] theorem State.modNum_pending {s : State} {n : Nat} {f : NumDist → NumDist} : (s.modNum n f).pending = s.pending := rfl
@[simp] theorem State.modNum_free {s : State} {n : Nat} {f : NumDist → NumDist} : (s.modNum n f).free = s.free := rfl
@[simp] theorem State.modNum_mem {s : State} {n : Nat} {f : NumDist → NumDist} : (s.modNum n f).mem = s.mem := rfl
@[simp] theorem State.modNum_clk {s : State} {n : Nat} {f : NumDist → NumDist} : (s.modNum n f).clk = s.clk := rfl
@[simp] theorem State.modNum_pwr {s : State} {n : Nat} {f : NumDist → NumDist} : (s.modNum n f).pwr = s.pwr := rfl
@[simp] theorem State.modNum_orb {s : State} {n : Nat} {f : NumDist → NumDist} : (s.modNum n f).orb = s.orb := rfl
@[simp] theorem State.modNum_spr {s : State} {n : Nat} {f : NumDist → NumDist} : (s.modNum n f).spr = s.spr := rfl
@[simp] theorem State.modNum_cnt {s : State} {n : Nat} {f : NumDist → NumDist} : (s.modNum n f).cnt = s.cnt := rfl
@[simp] theorem State.modNum_dcnt {s : State} {n : Nat} {f : NumDist → NumDist} : (s.modNum n f).dcnt = s.dcnt := rfl
@[simp] theorem State.modNum_dist {s : State} {n : Nat} {f : NumDist → NumDist} : (s.modNum n f).dist = s.dist.set n { s.district n with num := f (s.district n).num } := rfl
@[simp] theorem State.modNum_cores {s : State} {n : Nat} {f : NumDist → NumDist} : (s.modNum n f).cores = s.cores := rfl
@[simp] theorem State.modNum_boxes {s : State} {n : Nat} {f : NumDist → NumDist} : (s.modNum n f).boxes = s.boxes := rfl
@[simp] theorem State.modNum_rings {s : State} {n : Nat} {f : NumDist → NumDist} : (s.modNum n f).rings = s.rings := rfl
@[simp] theorem State.modNum_queues {s : State} {n : Nat} {f : NumDist → NumDist} : (s.modNum n f).queues = s.queues := rfl
@[simp] theorem State.modNum_memc {s : State} {n : Nat} {f : NumDist → NumDist} : (s.modNum n f).memc = s.memc := rfl
@[simp] theorem State.modNum_slots {s : State} {n : Nat} {f : NumDist → NumDist} : (s.modNum n f).slots = s.slots := rfl
@[simp] theorem State.modNum_ports {s : State} {n : Nat} {f : NumDist → NumDist} : (s.modNum n f).ports = s.ports := rfl
@[simp] theorem State.modNum_lanes {s : State} {n : Nat} {f : NumDist → NumDist} : (s.modNum n f).lanes = s.lanes := rfl
@[simp] theorem State.modNum_hosts {s : State} {n : Nat} {f : NumDist → NumDist} : (s.modNum n f).hosts = s.hosts := rfl
@[simp] theorem State.modNum_windows {s : State} {n : Nat} {f : NumDist → NumDist} : (s.modNum n f).windows = s.windows := rfl
@[simp] theorem State.modNum_moon {s : State} {n : Nat} {f : NumDist → NumDist} : (s.modNum n f).moon = s.moon := rfl
@[simp] theorem State.modNum_jtag {s : State} {n : Nat} {f : NumDist → NumDist} : (s.modNum n f).jtag = s.jtag := rfl
@[simp] theorem State.modNum_out {s : State} {n : Nat} {f : NumDist → NumDist} : (s.modNum n f).out = s.out := rfl
@[simp] theorem State.modNum_tags {s : State} {n : Nat} {f : NumDist → NumDist} : (s.modNum n f).tags = s.tags := rfl

/-! ## modSnp -/

@[simp] theorem State.modSnp_pending {s : State} {n : Nat} {f : SnpDist → SnpDist} : (s.modSnp n f).pending = s.pending := rfl
@[simp] theorem State.modSnp_free {s : State} {n : Nat} {f : SnpDist → SnpDist} : (s.modSnp n f).free = s.free := rfl
@[simp] theorem State.modSnp_mem {s : State} {n : Nat} {f : SnpDist → SnpDist} : (s.modSnp n f).mem = s.mem := rfl
@[simp] theorem State.modSnp_clk {s : State} {n : Nat} {f : SnpDist → SnpDist} : (s.modSnp n f).clk = s.clk := rfl
@[simp] theorem State.modSnp_pwr {s : State} {n : Nat} {f : SnpDist → SnpDist} : (s.modSnp n f).pwr = s.pwr := rfl
@[simp] theorem State.modSnp_orb {s : State} {n : Nat} {f : SnpDist → SnpDist} : (s.modSnp n f).orb = s.orb := rfl
@[simp] theorem State.modSnp_spr {s : State} {n : Nat} {f : SnpDist → SnpDist} : (s.modSnp n f).spr = s.spr := rfl
@[simp] theorem State.modSnp_cnt {s : State} {n : Nat} {f : SnpDist → SnpDist} : (s.modSnp n f).cnt = s.cnt := rfl
@[simp] theorem State.modSnp_dcnt {s : State} {n : Nat} {f : SnpDist → SnpDist} : (s.modSnp n f).dcnt = s.dcnt := rfl
@[simp] theorem State.modSnp_dist {s : State} {n : Nat} {f : SnpDist → SnpDist} : (s.modSnp n f).dist = s.dist.set n { s.district n with snp := f (s.district n).snp } := rfl
@[simp] theorem State.modSnp_cores {s : State} {n : Nat} {f : SnpDist → SnpDist} : (s.modSnp n f).cores = s.cores := rfl
@[simp] theorem State.modSnp_boxes {s : State} {n : Nat} {f : SnpDist → SnpDist} : (s.modSnp n f).boxes = s.boxes := rfl
@[simp] theorem State.modSnp_rings {s : State} {n : Nat} {f : SnpDist → SnpDist} : (s.modSnp n f).rings = s.rings := rfl
@[simp] theorem State.modSnp_queues {s : State} {n : Nat} {f : SnpDist → SnpDist} : (s.modSnp n f).queues = s.queues := rfl
@[simp] theorem State.modSnp_memc {s : State} {n : Nat} {f : SnpDist → SnpDist} : (s.modSnp n f).memc = s.memc := rfl
@[simp] theorem State.modSnp_slots {s : State} {n : Nat} {f : SnpDist → SnpDist} : (s.modSnp n f).slots = s.slots := rfl
@[simp] theorem State.modSnp_ports {s : State} {n : Nat} {f : SnpDist → SnpDist} : (s.modSnp n f).ports = s.ports := rfl
@[simp] theorem State.modSnp_lanes {s : State} {n : Nat} {f : SnpDist → SnpDist} : (s.modSnp n f).lanes = s.lanes := rfl
@[simp] theorem State.modSnp_hosts {s : State} {n : Nat} {f : SnpDist → SnpDist} : (s.modSnp n f).hosts = s.hosts := rfl
@[simp] theorem State.modSnp_windows {s : State} {n : Nat} {f : SnpDist → SnpDist} : (s.modSnp n f).windows = s.windows := rfl
@[simp] theorem State.modSnp_moon {s : State} {n : Nat} {f : SnpDist → SnpDist} : (s.modSnp n f).moon = s.moon := rfl
@[simp] theorem State.modSnp_jtag {s : State} {n : Nat} {f : SnpDist → SnpDist} : (s.modSnp n f).jtag = s.jtag := rfl
@[simp] theorem State.modSnp_out {s : State} {n : Nat} {f : SnpDist → SnpDist} : (s.modSnp n f).out = s.out := rfl
@[simp] theorem State.modSnp_tags {s : State} {n : Nat} {f : SnpDist → SnpDist} : (s.modSnp n f).tags = s.tags := rfl

/-! ## Reading an instance after it, or another, is changed -/

@[simp] theorem State.modCore_core {s : State} {n : Nat} {f : Core → Core} : (s.modCore n f).core n = f (s.core n) :=
  Tbl.get_set_self ..
theorem State.modCore_core_ne {s : State} {n m : Nat} {f : Core → Core} (h : m ≠ n) : (s.modCore n f).core m = s.core m :=
  Tbl.get_set_ne _ _ _ h
@[simp] theorem State.modDist_district {s : State} {n : Nat} {f : District → District} : (s.modDist n f).district n = f (s.district n) :=
  Tbl.get_set_self ..
theorem State.modDist_district_ne {s : State} {n m : Nat} {f : District → District} (h : m ≠ n) : (s.modDist n f).district m = s.district m :=
  Tbl.get_set_ne _ _ _ h
@[simp] theorem State.modSlot_slot {s : State} {n : Nat} {f : Slot → Slot} : (s.modSlot n f).slot n = f (s.slot n) :=
  Tbl.get_set_self ..
theorem State.modSlot_slot_ne {s : State} {n m : Nat} {f : Slot → Slot} (h : m ≠ n) : (s.modSlot n f).slot m = s.slot m :=
  Tbl.get_set_ne _ _ _ h
@[simp] theorem State.modBox_box {s : State} {n : Nat} {f : Box → Box} : (s.modBox n f).box n = f (s.box n) :=
  Tbl.get_set_self ..
theorem State.modBox_box_ne {s : State} {n m : Nat} {f : Box → Box} (h : m ≠ n) : (s.modBox n f).box m = s.box m :=
  Tbl.get_set_ne _ _ _ h
@[simp] theorem State.modRing_ring {s : State} {n : Nat} {f : Ring → Ring} : (s.modRing n f).ring n = f (s.ring n) :=
  Tbl.get_set_self ..
theorem State.modRing_ring_ne {s : State} {n m : Nat} {f : Ring → Ring} (h : m ≠ n) : (s.modRing n f).ring m = s.ring m :=
  Tbl.get_set_ne _ _ _ h
@[simp] theorem State.modQueue_queue {s : State} {n : Nat} {f : SQueue → SQueue} : (s.modQueue n f).queue n = f (s.queue n) :=
  Tbl.get_set_self ..
theorem State.modQueue_queue_ne {s : State} {n m : Nat} {f : SQueue → SQueue} (h : m ≠ n) : (s.modQueue n f).queue m = s.queue m :=
  Tbl.get_set_ne _ _ _ h
@[simp] theorem State.modPort_port {s : State} {n : Nat} {f : Port → Port} : (s.modPort n f).port n = f (s.port n) :=
  Tbl.get_set_self ..
theorem State.modPort_port_ne {s : State} {n m : Nat} {f : Port → Port} (h : m ≠ n) : (s.modPort n f).port m = s.port m :=
  Tbl.get_set_ne _ _ _ h
@[simp] theorem State.modLane_lane {s : State} {n : Nat} {f : Lane → Lane} : (s.modLane n f).lane n = f (s.lane n) :=
  Tbl.get_set_self ..
theorem State.modLane_lane_ne {s : State} {n m : Nat} {f : Lane → Lane} (h : m ≠ n) : (s.modLane n f).lane m = s.lane m :=
  Tbl.get_set_ne _ _ _ h
@[simp] theorem State.modHostPort_hostPort {s : State} {n : Nat} {f : HostPort → HostPort} : (s.modHostPort n f).hostPort n = f (s.hostPort n) :=
  Tbl.get_set_self ..
theorem State.modHostPort_hostPort_ne {s : State} {n m : Nat} {f : HostPort → HostPort} (h : m ≠ n) : (s.modHostPort n f).hostPort m = s.hostPort m :=
  Tbl.get_set_ne _ _ _ h

/-! ## Two changes of one instance -/

theorem State.modCore_modCore {s : State} {n : Nat} {f g : Core → Core} : (s.modCore n f).modCore n g = s.modCore n fun x => g (f x) := by
  simp [State.modCore, State.core, Tbl.set_set]
theorem State.modDist_modDist {s : State} {n : Nat} {f g : District → District} : (s.modDist n f).modDist n g = s.modDist n fun x => g (f x) := by
  simp [State.modDist, State.district, Tbl.set_set]
theorem State.modSlot_modSlot {s : State} {n : Nat} {f g : Slot → Slot} : (s.modSlot n f).modSlot n g = s.modSlot n fun x => g (f x) := by
  simp [State.modSlot, State.slot, Tbl.set_set]
theorem State.modBox_modBox {s : State} {n : Nat} {f g : Box → Box} : (s.modBox n f).modBox n g = s.modBox n fun x => g (f x) := by
  simp [State.modBox, State.box, Tbl.set_set]
theorem State.modRing_modRing {s : State} {n : Nat} {f g : Ring → Ring} : (s.modRing n f).modRing n g = s.modRing n fun x => g (f x) := by
  simp [State.modRing, State.ring, Tbl.set_set]
theorem State.modQueue_modQueue {s : State} {n : Nat} {f g : SQueue → SQueue} : (s.modQueue n f).modQueue n g = s.modQueue n fun x => g (f x) := by
  simp [State.modQueue, State.queue, Tbl.set_set]
theorem State.modPort_modPort {s : State} {n : Nat} {f g : Port → Port} : (s.modPort n f).modPort n g = s.modPort n fun x => g (f x) := by
  simp [State.modPort, State.port, Tbl.set_set]
theorem State.modLane_modLane {s : State} {n : Nat} {f g : Lane → Lane} : (s.modLane n f).modLane n g = s.modLane n fun x => g (f x) := by
  simp [State.modLane, State.lane, Tbl.set_set]
theorem State.modHostPort_modHostPort {s : State} {n : Nat} {f g : HostPort → HostPort} : (s.modHostPort n f).modHostPort n g = s.modHostPort n fun x => g (f x) := by
  simp [State.modHostPort, State.hostPort, Tbl.set_set]

/-! ## Reading an instance after something else is changed -/

@[simp] theorem State.modCore_district_eq {s : State} {j : Nat} {n : Nat} {f : Core → Core} : (s.modCore n f).district j = s.district j := rfl
@[simp] theorem State.modCore_slot_eq {s : State} {j : Nat} {n : Nat} {f : Core → Core} : (s.modCore n f).slot j = s.slot j := rfl
@[simp] theorem State.modCore_box_eq {s : State} {j : Nat} {n : Nat} {f : Core → Core} : (s.modCore n f).box j = s.box j := rfl
@[simp] theorem State.modCore_ring_eq {s : State} {j : Nat} {n : Nat} {f : Core → Core} : (s.modCore n f).ring j = s.ring j := rfl
@[simp] theorem State.modCore_queue_eq {s : State} {j : Nat} {n : Nat} {f : Core → Core} : (s.modCore n f).queue j = s.queue j := rfl
@[simp] theorem State.modCore_port_eq {s : State} {j : Nat} {n : Nat} {f : Core → Core} : (s.modCore n f).port j = s.port j := rfl
@[simp] theorem State.modCore_lane_eq {s : State} {j : Nat} {n : Nat} {f : Core → Core} : (s.modCore n f).lane j = s.lane j := rfl
@[simp] theorem State.modCore_hostPort_eq {s : State} {j : Nat} {n : Nat} {f : Core → Core} : (s.modCore n f).hostPort j = s.hostPort j := rfl
@[simp] theorem State.modDist_core_eq {s : State} {j : Nat} {n : Nat} {f : District → District} : (s.modDist n f).core j = s.core j := rfl
@[simp] theorem State.modDist_slot_eq {s : State} {j : Nat} {n : Nat} {f : District → District} : (s.modDist n f).slot j = s.slot j := rfl
@[simp] theorem State.modDist_box_eq {s : State} {j : Nat} {n : Nat} {f : District → District} : (s.modDist n f).box j = s.box j := rfl
@[simp] theorem State.modDist_ring_eq {s : State} {j : Nat} {n : Nat} {f : District → District} : (s.modDist n f).ring j = s.ring j := rfl
@[simp] theorem State.modDist_queue_eq {s : State} {j : Nat} {n : Nat} {f : District → District} : (s.modDist n f).queue j = s.queue j := rfl
@[simp] theorem State.modDist_port_eq {s : State} {j : Nat} {n : Nat} {f : District → District} : (s.modDist n f).port j = s.port j := rfl
@[simp] theorem State.modDist_lane_eq {s : State} {j : Nat} {n : Nat} {f : District → District} : (s.modDist n f).lane j = s.lane j := rfl
@[simp] theorem State.modDist_hostPort_eq {s : State} {j : Nat} {n : Nat} {f : District → District} : (s.modDist n f).hostPort j = s.hostPort j := rfl
@[simp] theorem State.modSlot_core_eq {s : State} {j : Nat} {n : Nat} {f : Slot → Slot} : (s.modSlot n f).core j = s.core j := rfl
@[simp] theorem State.modSlot_district_eq {s : State} {j : Nat} {n : Nat} {f : Slot → Slot} : (s.modSlot n f).district j = s.district j := rfl
@[simp] theorem State.modSlot_box_eq {s : State} {j : Nat} {n : Nat} {f : Slot → Slot} : (s.modSlot n f).box j = s.box j := rfl
@[simp] theorem State.modSlot_ring_eq {s : State} {j : Nat} {n : Nat} {f : Slot → Slot} : (s.modSlot n f).ring j = s.ring j := rfl
@[simp] theorem State.modSlot_queue_eq {s : State} {j : Nat} {n : Nat} {f : Slot → Slot} : (s.modSlot n f).queue j = s.queue j := rfl
@[simp] theorem State.modSlot_port_eq {s : State} {j : Nat} {n : Nat} {f : Slot → Slot} : (s.modSlot n f).port j = s.port j := rfl
@[simp] theorem State.modSlot_lane_eq {s : State} {j : Nat} {n : Nat} {f : Slot → Slot} : (s.modSlot n f).lane j = s.lane j := rfl
@[simp] theorem State.modSlot_hostPort_eq {s : State} {j : Nat} {n : Nat} {f : Slot → Slot} : (s.modSlot n f).hostPort j = s.hostPort j := rfl
@[simp] theorem State.modBox_core_eq {s : State} {j : Nat} {n : Nat} {f : Box → Box} : (s.modBox n f).core j = s.core j := rfl
@[simp] theorem State.modBox_district_eq {s : State} {j : Nat} {n : Nat} {f : Box → Box} : (s.modBox n f).district j = s.district j := rfl
@[simp] theorem State.modBox_slot_eq {s : State} {j : Nat} {n : Nat} {f : Box → Box} : (s.modBox n f).slot j = s.slot j := rfl
@[simp] theorem State.modBox_ring_eq {s : State} {j : Nat} {n : Nat} {f : Box → Box} : (s.modBox n f).ring j = s.ring j := rfl
@[simp] theorem State.modBox_queue_eq {s : State} {j : Nat} {n : Nat} {f : Box → Box} : (s.modBox n f).queue j = s.queue j := rfl
@[simp] theorem State.modBox_port_eq {s : State} {j : Nat} {n : Nat} {f : Box → Box} : (s.modBox n f).port j = s.port j := rfl
@[simp] theorem State.modBox_lane_eq {s : State} {j : Nat} {n : Nat} {f : Box → Box} : (s.modBox n f).lane j = s.lane j := rfl
@[simp] theorem State.modBox_hostPort_eq {s : State} {j : Nat} {n : Nat} {f : Box → Box} : (s.modBox n f).hostPort j = s.hostPort j := rfl
@[simp] theorem State.modRing_core_eq {s : State} {j : Nat} {n : Nat} {f : Ring → Ring} : (s.modRing n f).core j = s.core j := rfl
@[simp] theorem State.modRing_district_eq {s : State} {j : Nat} {n : Nat} {f : Ring → Ring} : (s.modRing n f).district j = s.district j := rfl
@[simp] theorem State.modRing_slot_eq {s : State} {j : Nat} {n : Nat} {f : Ring → Ring} : (s.modRing n f).slot j = s.slot j := rfl
@[simp] theorem State.modRing_box_eq {s : State} {j : Nat} {n : Nat} {f : Ring → Ring} : (s.modRing n f).box j = s.box j := rfl
@[simp] theorem State.modRing_queue_eq {s : State} {j : Nat} {n : Nat} {f : Ring → Ring} : (s.modRing n f).queue j = s.queue j := rfl
@[simp] theorem State.modRing_port_eq {s : State} {j : Nat} {n : Nat} {f : Ring → Ring} : (s.modRing n f).port j = s.port j := rfl
@[simp] theorem State.modRing_lane_eq {s : State} {j : Nat} {n : Nat} {f : Ring → Ring} : (s.modRing n f).lane j = s.lane j := rfl
@[simp] theorem State.modRing_hostPort_eq {s : State} {j : Nat} {n : Nat} {f : Ring → Ring} : (s.modRing n f).hostPort j = s.hostPort j := rfl
@[simp] theorem State.modQueue_core_eq {s : State} {j : Nat} {n : Nat} {f : SQueue → SQueue} : (s.modQueue n f).core j = s.core j := rfl
@[simp] theorem State.modQueue_district_eq {s : State} {j : Nat} {n : Nat} {f : SQueue → SQueue} : (s.modQueue n f).district j = s.district j := rfl
@[simp] theorem State.modQueue_slot_eq {s : State} {j : Nat} {n : Nat} {f : SQueue → SQueue} : (s.modQueue n f).slot j = s.slot j := rfl
@[simp] theorem State.modQueue_box_eq {s : State} {j : Nat} {n : Nat} {f : SQueue → SQueue} : (s.modQueue n f).box j = s.box j := rfl
@[simp] theorem State.modQueue_ring_eq {s : State} {j : Nat} {n : Nat} {f : SQueue → SQueue} : (s.modQueue n f).ring j = s.ring j := rfl
@[simp] theorem State.modQueue_port_eq {s : State} {j : Nat} {n : Nat} {f : SQueue → SQueue} : (s.modQueue n f).port j = s.port j := rfl
@[simp] theorem State.modQueue_lane_eq {s : State} {j : Nat} {n : Nat} {f : SQueue → SQueue} : (s.modQueue n f).lane j = s.lane j := rfl
@[simp] theorem State.modQueue_hostPort_eq {s : State} {j : Nat} {n : Nat} {f : SQueue → SQueue} : (s.modQueue n f).hostPort j = s.hostPort j := rfl
@[simp] theorem State.modPort_core_eq {s : State} {j : Nat} {n : Nat} {f : Port → Port} : (s.modPort n f).core j = s.core j := rfl
@[simp] theorem State.modPort_district_eq {s : State} {j : Nat} {n : Nat} {f : Port → Port} : (s.modPort n f).district j = s.district j := rfl
@[simp] theorem State.modPort_slot_eq {s : State} {j : Nat} {n : Nat} {f : Port → Port} : (s.modPort n f).slot j = s.slot j := rfl
@[simp] theorem State.modPort_box_eq {s : State} {j : Nat} {n : Nat} {f : Port → Port} : (s.modPort n f).box j = s.box j := rfl
@[simp] theorem State.modPort_ring_eq {s : State} {j : Nat} {n : Nat} {f : Port → Port} : (s.modPort n f).ring j = s.ring j := rfl
@[simp] theorem State.modPort_queue_eq {s : State} {j : Nat} {n : Nat} {f : Port → Port} : (s.modPort n f).queue j = s.queue j := rfl
@[simp] theorem State.modPort_lane_eq {s : State} {j : Nat} {n : Nat} {f : Port → Port} : (s.modPort n f).lane j = s.lane j := rfl
@[simp] theorem State.modPort_hostPort_eq {s : State} {j : Nat} {n : Nat} {f : Port → Port} : (s.modPort n f).hostPort j = s.hostPort j := rfl
@[simp] theorem State.modLane_core_eq {s : State} {j : Nat} {n : Nat} {f : Lane → Lane} : (s.modLane n f).core j = s.core j := rfl
@[simp] theorem State.modLane_district_eq {s : State} {j : Nat} {n : Nat} {f : Lane → Lane} : (s.modLane n f).district j = s.district j := rfl
@[simp] theorem State.modLane_slot_eq {s : State} {j : Nat} {n : Nat} {f : Lane → Lane} : (s.modLane n f).slot j = s.slot j := rfl
@[simp] theorem State.modLane_box_eq {s : State} {j : Nat} {n : Nat} {f : Lane → Lane} : (s.modLane n f).box j = s.box j := rfl
@[simp] theorem State.modLane_ring_eq {s : State} {j : Nat} {n : Nat} {f : Lane → Lane} : (s.modLane n f).ring j = s.ring j := rfl
@[simp] theorem State.modLane_queue_eq {s : State} {j : Nat} {n : Nat} {f : Lane → Lane} : (s.modLane n f).queue j = s.queue j := rfl
@[simp] theorem State.modLane_port_eq {s : State} {j : Nat} {n : Nat} {f : Lane → Lane} : (s.modLane n f).port j = s.port j := rfl
@[simp] theorem State.modLane_hostPort_eq {s : State} {j : Nat} {n : Nat} {f : Lane → Lane} : (s.modLane n f).hostPort j = s.hostPort j := rfl
@[simp] theorem State.modHostPort_core_eq {s : State} {j : Nat} {n : Nat} {f : HostPort → HostPort} : (s.modHostPort n f).core j = s.core j := rfl
@[simp] theorem State.modHostPort_district_eq {s : State} {j : Nat} {n : Nat} {f : HostPort → HostPort} : (s.modHostPort n f).district j = s.district j := rfl
@[simp] theorem State.modHostPort_slot_eq {s : State} {j : Nat} {n : Nat} {f : HostPort → HostPort} : (s.modHostPort n f).slot j = s.slot j := rfl
@[simp] theorem State.modHostPort_box_eq {s : State} {j : Nat} {n : Nat} {f : HostPort → HostPort} : (s.modHostPort n f).box j = s.box j := rfl
@[simp] theorem State.modHostPort_ring_eq {s : State} {j : Nat} {n : Nat} {f : HostPort → HostPort} : (s.modHostPort n f).ring j = s.ring j := rfl
@[simp] theorem State.modHostPort_queue_eq {s : State} {j : Nat} {n : Nat} {f : HostPort → HostPort} : (s.modHostPort n f).queue j = s.queue j := rfl
@[simp] theorem State.modHostPort_port_eq {s : State} {j : Nat} {n : Nat} {f : HostPort → HostPort} : (s.modHostPort n f).port j = s.port j := rfl
@[simp] theorem State.modHostPort_lane_eq {s : State} {j : Nat} {n : Nat} {f : HostPort → HostPort} : (s.modHostPort n f).lane j = s.lane j := rfl
@[simp] theorem State.modPwr_core_eq {s : State} {j : Nat} {f : Power → Power} : (s.modPwr f).core j = s.core j := rfl
@[simp] theorem State.modPwr_district_eq {s : State} {j : Nat} {f : Power → Power} : (s.modPwr f).district j = s.district j := rfl
@[simp] theorem State.modPwr_slot_eq {s : State} {j : Nat} {f : Power → Power} : (s.modPwr f).slot j = s.slot j := rfl
@[simp] theorem State.modPwr_box_eq {s : State} {j : Nat} {f : Power → Power} : (s.modPwr f).box j = s.box j := rfl
@[simp] theorem State.modPwr_ring_eq {s : State} {j : Nat} {f : Power → Power} : (s.modPwr f).ring j = s.ring j := rfl
@[simp] theorem State.modPwr_queue_eq {s : State} {j : Nat} {f : Power → Power} : (s.modPwr f).queue j = s.queue j := rfl
@[simp] theorem State.modPwr_port_eq {s : State} {j : Nat} {f : Power → Power} : (s.modPwr f).port j = s.port j := rfl
@[simp] theorem State.modPwr_lane_eq {s : State} {j : Nat} {f : Power → Power} : (s.modPwr f).lane j = s.lane j := rfl
@[simp] theorem State.modPwr_hostPort_eq {s : State} {j : Nat} {f : Power → Power} : (s.modPwr f).hostPort j = s.hostPort j := rfl
@[simp] theorem State.modMoon_core_eq {s : State} {j : Nat} {f : Moon → Moon} : (s.modMoon f).core j = s.core j := rfl
@[simp] theorem State.modMoon_district_eq {s : State} {j : Nat} {f : Moon → Moon} : (s.modMoon f).district j = s.district j := rfl
@[simp] theorem State.modMoon_slot_eq {s : State} {j : Nat} {f : Moon → Moon} : (s.modMoon f).slot j = s.slot j := rfl
@[simp] theorem State.modMoon_box_eq {s : State} {j : Nat} {f : Moon → Moon} : (s.modMoon f).box j = s.box j := rfl
@[simp] theorem State.modMoon_ring_eq {s : State} {j : Nat} {f : Moon → Moon} : (s.modMoon f).ring j = s.ring j := rfl
@[simp] theorem State.modMoon_queue_eq {s : State} {j : Nat} {f : Moon → Moon} : (s.modMoon f).queue j = s.queue j := rfl
@[simp] theorem State.modMoon_port_eq {s : State} {j : Nat} {f : Moon → Moon} : (s.modMoon f).port j = s.port j := rfl
@[simp] theorem State.modMoon_lane_eq {s : State} {j : Nat} {f : Moon → Moon} : (s.modMoon f).lane j = s.lane j := rfl
@[simp] theorem State.modMoon_hostPort_eq {s : State} {j : Nat} {f : Moon → Moon} : (s.modMoon f).hostPort j = s.hostPort j := rfl
@[simp] theorem State.setMem_core_eq {s : State} {j : Nat} {m : List Host.Cell} : (s.setMem m).core j = s.core j := rfl
@[simp] theorem State.setMem_district_eq {s : State} {j : Nat} {m : List Host.Cell} : (s.setMem m).district j = s.district j := rfl
@[simp] theorem State.setMem_slot_eq {s : State} {j : Nat} {m : List Host.Cell} : (s.setMem m).slot j = s.slot j := rfl
@[simp] theorem State.setMem_box_eq {s : State} {j : Nat} {m : List Host.Cell} : (s.setMem m).box j = s.box j := rfl
@[simp] theorem State.setMem_ring_eq {s : State} {j : Nat} {m : List Host.Cell} : (s.setMem m).ring j = s.ring j := rfl
@[simp] theorem State.setMem_queue_eq {s : State} {j : Nat} {m : List Host.Cell} : (s.setMem m).queue j = s.queue j := rfl
@[simp] theorem State.setMem_port_eq {s : State} {j : Nat} {m : List Host.Cell} : (s.setMem m).port j = s.port j := rfl
@[simp] theorem State.setMem_lane_eq {s : State} {j : Nat} {m : List Host.Cell} : (s.setMem m).lane j = s.lane j := rfl
@[simp] theorem State.setMem_hostPort_eq {s : State} {j : Nat} {m : List Host.Cell} : (s.setMem m).hostPort j = s.hostPort j := rfl
@[simp] theorem State.nextHandle_core_eq {s : State} {j : Nat}  : (s.nextHandle).core j = s.core j := rfl
@[simp] theorem State.nextHandle_district_eq {s : State} {j : Nat}  : (s.nextHandle).district j = s.district j := rfl
@[simp] theorem State.nextHandle_slot_eq {s : State} {j : Nat}  : (s.nextHandle).slot j = s.slot j := rfl
@[simp] theorem State.nextHandle_box_eq {s : State} {j : Nat}  : (s.nextHandle).box j = s.box j := rfl
@[simp] theorem State.nextHandle_ring_eq {s : State} {j : Nat}  : (s.nextHandle).ring j = s.ring j := rfl
@[simp] theorem State.nextHandle_queue_eq {s : State} {j : Nat}  : (s.nextHandle).queue j = s.queue j := rfl
@[simp] theorem State.nextHandle_port_eq {s : State} {j : Nat}  : (s.nextHandle).port j = s.port j := rfl
@[simp] theorem State.nextHandle_lane_eq {s : State} {j : Nat}  : (s.nextHandle).lane j = s.lane j := rfl
@[simp] theorem State.nextHandle_hostPort_eq {s : State} {j : Nat}  : (s.nextHandle).hostPort j = s.hostPort j := rfl
@[simp] theorem State.emit_core_eq {s : State} {j : Nat} {o : Output} : (s.emit o).core j = s.core j := rfl
@[simp] theorem State.emit_district_eq {s : State} {j : Nat} {o : Output} : (s.emit o).district j = s.district j := rfl
@[simp] theorem State.emit_slot_eq {s : State} {j : Nat} {o : Output} : (s.emit o).slot j = s.slot j := rfl
@[simp] theorem State.emit_box_eq {s : State} {j : Nat} {o : Output} : (s.emit o).box j = s.box j := rfl
@[simp] theorem State.emit_ring_eq {s : State} {j : Nat} {o : Output} : (s.emit o).ring j = s.ring j := rfl
@[simp] theorem State.emit_queue_eq {s : State} {j : Nat} {o : Output} : (s.emit o).queue j = s.queue j := rfl
@[simp] theorem State.emit_port_eq {s : State} {j : Nat} {o : Output} : (s.emit o).port j = s.port j := rfl
@[simp] theorem State.emit_lane_eq {s : State} {j : Nat} {o : Output} : (s.emit o).lane j = s.lane j := rfl
@[simp] theorem State.emit_hostPort_eq {s : State} {j : Nat} {o : Output} : (s.emit o).hostPort j = s.hostPort j := rfl
@[simp] theorem State.count_core_eq {s : State} {j : Nat} {i k : Nat} : (s.count i k).core j = s.core j := rfl
@[simp] theorem State.count_district_eq {s : State} {j : Nat} {i k : Nat} : (s.count i k).district j = s.district j := rfl
@[simp] theorem State.count_slot_eq {s : State} {j : Nat} {i k : Nat} : (s.count i k).slot j = s.slot j := rfl
@[simp] theorem State.count_box_eq {s : State} {j : Nat} {i k : Nat} : (s.count i k).box j = s.box j := rfl
@[simp] theorem State.count_ring_eq {s : State} {j : Nat} {i k : Nat} : (s.count i k).ring j = s.ring j := rfl
@[simp] theorem State.count_queue_eq {s : State} {j : Nat} {i k : Nat} : (s.count i k).queue j = s.queue j := rfl
@[simp] theorem State.count_port_eq {s : State} {j : Nat} {i k : Nat} : (s.count i k).port j = s.port j := rfl
@[simp] theorem State.count_lane_eq {s : State} {j : Nat} {i k : Nat} : (s.count i k).lane j = s.lane j := rfl
@[simp] theorem State.count_hostPort_eq {s : State} {j : Nat} {i k : Nat} : (s.count i k).hostPort j = s.hostPort j := rfl
@[simp] theorem State.setCount_core_eq {s : State} {j : Nat} {i v : Nat} : (s.setCount i v).core j = s.core j := rfl
@[simp] theorem State.setCount_district_eq {s : State} {j : Nat} {i v : Nat} : (s.setCount i v).district j = s.district j := rfl
@[simp] theorem State.setCount_slot_eq {s : State} {j : Nat} {i v : Nat} : (s.setCount i v).slot j = s.slot j := rfl
@[simp] theorem State.setCount_box_eq {s : State} {j : Nat} {i v : Nat} : (s.setCount i v).box j = s.box j := rfl
@[simp] theorem State.setCount_ring_eq {s : State} {j : Nat} {i v : Nat} : (s.setCount i v).ring j = s.ring j := rfl
@[simp] theorem State.setCount_queue_eq {s : State} {j : Nat} {i v : Nat} : (s.setCount i v).queue j = s.queue j := rfl
@[simp] theorem State.setCount_port_eq {s : State} {j : Nat} {i v : Nat} : (s.setCount i v).port j = s.port j := rfl
@[simp] theorem State.setCount_lane_eq {s : State} {j : Nat} {i v : Nat} : (s.setCount i v).lane j = s.lane j := rfl
@[simp] theorem State.setCount_hostPort_eq {s : State} {j : Nat} {i v : Nat} : (s.setCount i v).hostPort j = s.hostPort j := rfl
@[simp] theorem State.countDist_core_eq {s : State} {j : Nat} {d i k : Nat} : (s.countDist d i k).core j = s.core j := rfl
@[simp] theorem State.countDist_district_eq {s : State} {j : Nat} {d i k : Nat} : (s.countDist d i k).district j = s.district j := rfl
@[simp] theorem State.countDist_slot_eq {s : State} {j : Nat} {d i k : Nat} : (s.countDist d i k).slot j = s.slot j := rfl
@[simp] theorem State.countDist_box_eq {s : State} {j : Nat} {d i k : Nat} : (s.countDist d i k).box j = s.box j := rfl
@[simp] theorem State.countDist_ring_eq {s : State} {j : Nat} {d i k : Nat} : (s.countDist d i k).ring j = s.ring j := rfl
@[simp] theorem State.countDist_queue_eq {s : State} {j : Nat} {d i k : Nat} : (s.countDist d i k).queue j = s.queue j := rfl
@[simp] theorem State.countDist_port_eq {s : State} {j : Nat} {d i k : Nat} : (s.countDist d i k).port j = s.port j := rfl
@[simp] theorem State.countDist_lane_eq {s : State} {j : Nat} {d i k : Nat} : (s.countDist d i k).lane j = s.lane j := rfl
@[simp] theorem State.countDist_hostPort_eq {s : State} {j : Nat} {d i k : Nat} : (s.countDist d i k).hostPort j = s.hostPort j := rfl
@[simp] theorem State.setDist_core_eq {s : State} {j : Nat} {d i v : Nat} : (s.setDist d i v).core j = s.core j := rfl
@[simp] theorem State.setDist_district_eq {s : State} {j : Nat} {d i v : Nat} : (s.setDist d i v).district j = s.district j := rfl
@[simp] theorem State.setDist_slot_eq {s : State} {j : Nat} {d i v : Nat} : (s.setDist d i v).slot j = s.slot j := rfl
@[simp] theorem State.setDist_box_eq {s : State} {j : Nat} {d i v : Nat} : (s.setDist d i v).box j = s.box j := rfl
@[simp] theorem State.setDist_ring_eq {s : State} {j : Nat} {d i v : Nat} : (s.setDist d i v).ring j = s.ring j := rfl
@[simp] theorem State.setDist_queue_eq {s : State} {j : Nat} {d i v : Nat} : (s.setDist d i v).queue j = s.queue j := rfl
@[simp] theorem State.setDist_port_eq {s : State} {j : Nat} {d i v : Nat} : (s.setDist d i v).port j = s.port j := rfl
@[simp] theorem State.setDist_lane_eq {s : State} {j : Nat} {d i v : Nat} : (s.setDist d i v).lane j = s.lane j := rfl
@[simp] theorem State.setDist_hostPort_eq {s : State} {j : Nat} {d i v : Nat} : (s.setDist d i v).hostPort j = s.hostPort j := rfl
@[simp] theorem State.modOrb_core_eq {s : State} {j n : Nat} {f : OrbDist → OrbDist} : (s.modOrb n f).core j = s.core j := rfl
@[simp] theorem State.modOrb_slot_eq {s : State} {j n : Nat} {f : OrbDist → OrbDist} : (s.modOrb n f).slot j = s.slot j := rfl
@[simp] theorem State.modOrb_box_eq {s : State} {j n : Nat} {f : OrbDist → OrbDist} : (s.modOrb n f).box j = s.box j := rfl
@[simp] theorem State.modOrb_ring_eq {s : State} {j n : Nat} {f : OrbDist → OrbDist} : (s.modOrb n f).ring j = s.ring j := rfl
@[simp] theorem State.modOrb_queue_eq {s : State} {j n : Nat} {f : OrbDist → OrbDist} : (s.modOrb n f).queue j = s.queue j := rfl
@[simp] theorem State.modOrb_port_eq {s : State} {j n : Nat} {f : OrbDist → OrbDist} : (s.modOrb n f).port j = s.port j := rfl
@[simp] theorem State.modOrb_lane_eq {s : State} {j n : Nat} {f : OrbDist → OrbDist} : (s.modOrb n f).lane j = s.lane j := rfl
@[simp] theorem State.modOrb_hostPort_eq {s : State} {j n : Nat} {f : OrbDist → OrbDist} : (s.modOrb n f).hostPort j = s.hostPort j := rfl
@[simp] theorem State.modOrb_district {s : State} {n : Nat} {f : OrbDist → OrbDist} : (s.modOrb n f).district n = { s.district n with orb := f (s.district n).orb } :=
  Tbl.get_set_self ..
theorem State.modOrb_district_ne {s : State} {n m : Nat} {f : OrbDist → OrbDist} (h : m ≠ n) : (s.modOrb n f).district m = s.district m :=
  Tbl.get_set_ne _ _ _ h
@[simp] theorem State.modBar_core_eq {s : State} {j n : Nat} {f : Barrier → Barrier} : (s.modBar n f).core j = s.core j := rfl
@[simp] theorem State.modBar_slot_eq {s : State} {j n : Nat} {f : Barrier → Barrier} : (s.modBar n f).slot j = s.slot j := rfl
@[simp] theorem State.modBar_box_eq {s : State} {j n : Nat} {f : Barrier → Barrier} : (s.modBar n f).box j = s.box j := rfl
@[simp] theorem State.modBar_ring_eq {s : State} {j n : Nat} {f : Barrier → Barrier} : (s.modBar n f).ring j = s.ring j := rfl
@[simp] theorem State.modBar_queue_eq {s : State} {j n : Nat} {f : Barrier → Barrier} : (s.modBar n f).queue j = s.queue j := rfl
@[simp] theorem State.modBar_port_eq {s : State} {j n : Nat} {f : Barrier → Barrier} : (s.modBar n f).port j = s.port j := rfl
@[simp] theorem State.modBar_lane_eq {s : State} {j n : Nat} {f : Barrier → Barrier} : (s.modBar n f).lane j = s.lane j := rfl
@[simp] theorem State.modBar_hostPort_eq {s : State} {j n : Nat} {f : Barrier → Barrier} : (s.modBar n f).hostPort j = s.hostPort j := rfl
@[simp] theorem State.modBar_district {s : State} {n : Nat} {f : Barrier → Barrier} : (s.modBar n f).district n = { s.district n with bar := f (s.district n).bar } :=
  Tbl.get_set_self ..
theorem State.modBar_district_ne {s : State} {n m : Nat} {f : Barrier → Barrier} (h : m ≠ n) : (s.modBar n f).district m = s.district m :=
  Tbl.get_set_ne _ _ _ h
@[simp] theorem State.modImg_core_eq {s : State} {j n : Nat} {f : ImgDist → ImgDist} : (s.modImg n f).core j = s.core j := rfl
@[simp] theorem State.modImg_slot_eq {s : State} {j n : Nat} {f : ImgDist → ImgDist} : (s.modImg n f).slot j = s.slot j := rfl
@[simp] theorem State.modImg_box_eq {s : State} {j n : Nat} {f : ImgDist → ImgDist} : (s.modImg n f).box j = s.box j := rfl
@[simp] theorem State.modImg_ring_eq {s : State} {j n : Nat} {f : ImgDist → ImgDist} : (s.modImg n f).ring j = s.ring j := rfl
@[simp] theorem State.modImg_queue_eq {s : State} {j n : Nat} {f : ImgDist → ImgDist} : (s.modImg n f).queue j = s.queue j := rfl
@[simp] theorem State.modImg_port_eq {s : State} {j n : Nat} {f : ImgDist → ImgDist} : (s.modImg n f).port j = s.port j := rfl
@[simp] theorem State.modImg_lane_eq {s : State} {j n : Nat} {f : ImgDist → ImgDist} : (s.modImg n f).lane j = s.lane j := rfl
@[simp] theorem State.modImg_hostPort_eq {s : State} {j n : Nat} {f : ImgDist → ImgDist} : (s.modImg n f).hostPort j = s.hostPort j := rfl
@[simp] theorem State.modImg_district {s : State} {n : Nat} {f : ImgDist → ImgDist} : (s.modImg n f).district n = { s.district n with img := f (s.district n).img } :=
  Tbl.get_set_self ..
theorem State.modImg_district_ne {s : State} {n m : Nat} {f : ImgDist → ImgDist} (h : m ≠ n) : (s.modImg n f).district m = s.district m :=
  Tbl.get_set_ne _ _ _ h
@[simp] theorem State.modHost_core_eq {s : State} {j n : Nat} {f : HostDist → HostDist} : (s.modHost n f).core j = s.core j := rfl
@[simp] theorem State.modHost_slot_eq {s : State} {j n : Nat} {f : HostDist → HostDist} : (s.modHost n f).slot j = s.slot j := rfl
@[simp] theorem State.modHost_box_eq {s : State} {j n : Nat} {f : HostDist → HostDist} : (s.modHost n f).box j = s.box j := rfl
@[simp] theorem State.modHost_ring_eq {s : State} {j n : Nat} {f : HostDist → HostDist} : (s.modHost n f).ring j = s.ring j := rfl
@[simp] theorem State.modHost_queue_eq {s : State} {j n : Nat} {f : HostDist → HostDist} : (s.modHost n f).queue j = s.queue j := rfl
@[simp] theorem State.modHost_port_eq {s : State} {j n : Nat} {f : HostDist → HostDist} : (s.modHost n f).port j = s.port j := rfl
@[simp] theorem State.modHost_lane_eq {s : State} {j n : Nat} {f : HostDist → HostDist} : (s.modHost n f).lane j = s.lane j := rfl
@[simp] theorem State.modHost_hostPort_eq {s : State} {j n : Nat} {f : HostDist → HostDist} : (s.modHost n f).hostPort j = s.hostPort j := rfl
@[simp] theorem State.modHost_district {s : State} {n : Nat} {f : HostDist → HostDist} : (s.modHost n f).district n = { s.district n with host := f (s.district n).host } :=
  Tbl.get_set_self ..
theorem State.modHost_district_ne {s : State} {n m : Nat} {f : HostDist → HostDist} (h : m ≠ n) : (s.modHost n f).district m = s.district m :=
  Tbl.get_set_ne _ _ _ h
@[simp] theorem State.modFlt_core_eq {s : State} {j n : Nat} {f : FltDist → FltDist} : (s.modFlt n f).core j = s.core j := rfl
@[simp] theorem State.modFlt_slot_eq {s : State} {j n : Nat} {f : FltDist → FltDist} : (s.modFlt n f).slot j = s.slot j := rfl
@[simp] theorem State.modFlt_box_eq {s : State} {j n : Nat} {f : FltDist → FltDist} : (s.modFlt n f).box j = s.box j := rfl
@[simp] theorem State.modFlt_ring_eq {s : State} {j n : Nat} {f : FltDist → FltDist} : (s.modFlt n f).ring j = s.ring j := rfl
@[simp] theorem State.modFlt_queue_eq {s : State} {j n : Nat} {f : FltDist → FltDist} : (s.modFlt n f).queue j = s.queue j := rfl
@[simp] theorem State.modFlt_port_eq {s : State} {j n : Nat} {f : FltDist → FltDist} : (s.modFlt n f).port j = s.port j := rfl
@[simp] theorem State.modFlt_lane_eq {s : State} {j n : Nat} {f : FltDist → FltDist} : (s.modFlt n f).lane j = s.lane j := rfl
@[simp] theorem State.modFlt_hostPort_eq {s : State} {j n : Nat} {f : FltDist → FltDist} : (s.modFlt n f).hostPort j = s.hostPort j := rfl
@[simp] theorem State.modFlt_district {s : State} {n : Nat} {f : FltDist → FltDist} : (s.modFlt n f).district n = { s.district n with flt := f (s.district n).flt } :=
  Tbl.get_set_self ..
theorem State.modFlt_district_ne {s : State} {n m : Nat} {f : FltDist → FltDist} (h : m ≠ n) : (s.modFlt n f).district m = s.district m :=
  Tbl.get_set_ne _ _ _ h
@[simp] theorem State.modMir_core_eq {s : State} {j n : Nat} {f : MirDist → MirDist} : (s.modMir n f).core j = s.core j := rfl
@[simp] theorem State.modMir_slot_eq {s : State} {j n : Nat} {f : MirDist → MirDist} : (s.modMir n f).slot j = s.slot j := rfl
@[simp] theorem State.modMir_box_eq {s : State} {j n : Nat} {f : MirDist → MirDist} : (s.modMir n f).box j = s.box j := rfl
@[simp] theorem State.modMir_ring_eq {s : State} {j n : Nat} {f : MirDist → MirDist} : (s.modMir n f).ring j = s.ring j := rfl
@[simp] theorem State.modMir_queue_eq {s : State} {j n : Nat} {f : MirDist → MirDist} : (s.modMir n f).queue j = s.queue j := rfl
@[simp] theorem State.modMir_port_eq {s : State} {j n : Nat} {f : MirDist → MirDist} : (s.modMir n f).port j = s.port j := rfl
@[simp] theorem State.modMir_lane_eq {s : State} {j n : Nat} {f : MirDist → MirDist} : (s.modMir n f).lane j = s.lane j := rfl
@[simp] theorem State.modMir_hostPort_eq {s : State} {j n : Nat} {f : MirDist → MirDist} : (s.modMir n f).hostPort j = s.hostPort j := rfl
@[simp] theorem State.modMir_district {s : State} {n : Nat} {f : MirDist → MirDist} : (s.modMir n f).district n = { s.district n with mir := f (s.district n).mir } :=
  Tbl.get_set_self ..
theorem State.modMir_district_ne {s : State} {n m : Nat} {f : MirDist → MirDist} (h : m ≠ n) : (s.modMir n f).district m = s.district m :=
  Tbl.get_set_ne _ _ _ h
@[simp] theorem State.modPbx_core_eq {s : State} {j n : Nat} {f : PbxDist → PbxDist} : (s.modPbx n f).core j = s.core j := rfl
@[simp] theorem State.modPbx_slot_eq {s : State} {j n : Nat} {f : PbxDist → PbxDist} : (s.modPbx n f).slot j = s.slot j := rfl
@[simp] theorem State.modPbx_box_eq {s : State} {j n : Nat} {f : PbxDist → PbxDist} : (s.modPbx n f).box j = s.box j := rfl
@[simp] theorem State.modPbx_ring_eq {s : State} {j n : Nat} {f : PbxDist → PbxDist} : (s.modPbx n f).ring j = s.ring j := rfl
@[simp] theorem State.modPbx_queue_eq {s : State} {j n : Nat} {f : PbxDist → PbxDist} : (s.modPbx n f).queue j = s.queue j := rfl
@[simp] theorem State.modPbx_port_eq {s : State} {j n : Nat} {f : PbxDist → PbxDist} : (s.modPbx n f).port j = s.port j := rfl
@[simp] theorem State.modPbx_lane_eq {s : State} {j n : Nat} {f : PbxDist → PbxDist} : (s.modPbx n f).lane j = s.lane j := rfl
@[simp] theorem State.modPbx_hostPort_eq {s : State} {j n : Nat} {f : PbxDist → PbxDist} : (s.modPbx n f).hostPort j = s.hostPort j := rfl
@[simp] theorem State.modPbx_district {s : State} {n : Nat} {f : PbxDist → PbxDist} : (s.modPbx n f).district n = { s.district n with pbx := f (s.district n).pbx } :=
  Tbl.get_set_self ..
theorem State.modPbx_district_ne {s : State} {n m : Nat} {f : PbxDist → PbxDist} (h : m ≠ n) : (s.modPbx n f).district m = s.district m :=
  Tbl.get_set_ne _ _ _ h
@[simp] theorem State.modMemd_core_eq {s : State} {j n : Nat} {f : MemDist → MemDist} : (s.modMemd n f).core j = s.core j := rfl
@[simp] theorem State.modMemd_slot_eq {s : State} {j n : Nat} {f : MemDist → MemDist} : (s.modMemd n f).slot j = s.slot j := rfl
@[simp] theorem State.modMemd_box_eq {s : State} {j n : Nat} {f : MemDist → MemDist} : (s.modMemd n f).box j = s.box j := rfl
@[simp] theorem State.modMemd_ring_eq {s : State} {j n : Nat} {f : MemDist → MemDist} : (s.modMemd n f).ring j = s.ring j := rfl
@[simp] theorem State.modMemd_queue_eq {s : State} {j n : Nat} {f : MemDist → MemDist} : (s.modMemd n f).queue j = s.queue j := rfl
@[simp] theorem State.modMemd_port_eq {s : State} {j n : Nat} {f : MemDist → MemDist} : (s.modMemd n f).port j = s.port j := rfl
@[simp] theorem State.modMemd_lane_eq {s : State} {j n : Nat} {f : MemDist → MemDist} : (s.modMemd n f).lane j = s.lane j := rfl
@[simp] theorem State.modMemd_hostPort_eq {s : State} {j n : Nat} {f : MemDist → MemDist} : (s.modMemd n f).hostPort j = s.hostPort j := rfl
@[simp] theorem State.modMemd_district {s : State} {n : Nat} {f : MemDist → MemDist} : (s.modMemd n f).district n = { s.district n with mem := f (s.district n).mem } :=
  Tbl.get_set_self ..
theorem State.modMemd_district_ne {s : State} {n m : Nat} {f : MemDist → MemDist} (h : m ≠ n) : (s.modMemd n f).district m = s.district m :=
  Tbl.get_set_ne _ _ _ h
@[simp] theorem State.modNum_core_eq {s : State} {j n : Nat} {f : NumDist → NumDist} : (s.modNum n f).core j = s.core j := rfl
@[simp] theorem State.modNum_slot_eq {s : State} {j n : Nat} {f : NumDist → NumDist} : (s.modNum n f).slot j = s.slot j := rfl
@[simp] theorem State.modNum_box_eq {s : State} {j n : Nat} {f : NumDist → NumDist} : (s.modNum n f).box j = s.box j := rfl
@[simp] theorem State.modNum_ring_eq {s : State} {j n : Nat} {f : NumDist → NumDist} : (s.modNum n f).ring j = s.ring j := rfl
@[simp] theorem State.modNum_queue_eq {s : State} {j n : Nat} {f : NumDist → NumDist} : (s.modNum n f).queue j = s.queue j := rfl
@[simp] theorem State.modNum_port_eq {s : State} {j n : Nat} {f : NumDist → NumDist} : (s.modNum n f).port j = s.port j := rfl
@[simp] theorem State.modNum_lane_eq {s : State} {j n : Nat} {f : NumDist → NumDist} : (s.modNum n f).lane j = s.lane j := rfl
@[simp] theorem State.modNum_hostPort_eq {s : State} {j n : Nat} {f : NumDist → NumDist} : (s.modNum n f).hostPort j = s.hostPort j := rfl
@[simp] theorem State.modNum_district {s : State} {n : Nat} {f : NumDist → NumDist} : (s.modNum n f).district n = { s.district n with num := f (s.district n).num } :=
  Tbl.get_set_self ..
theorem State.modNum_district_ne {s : State} {n m : Nat} {f : NumDist → NumDist} (h : m ≠ n) : (s.modNum n f).district m = s.district m :=
  Tbl.get_set_ne _ _ _ h
@[simp] theorem State.modSnp_core_eq {s : State} {j n : Nat} {f : SnpDist → SnpDist} : (s.modSnp n f).core j = s.core j := rfl
@[simp] theorem State.modSnp_slot_eq {s : State} {j n : Nat} {f : SnpDist → SnpDist} : (s.modSnp n f).slot j = s.slot j := rfl
@[simp] theorem State.modSnp_box_eq {s : State} {j n : Nat} {f : SnpDist → SnpDist} : (s.modSnp n f).box j = s.box j := rfl
@[simp] theorem State.modSnp_ring_eq {s : State} {j n : Nat} {f : SnpDist → SnpDist} : (s.modSnp n f).ring j = s.ring j := rfl
@[simp] theorem State.modSnp_queue_eq {s : State} {j n : Nat} {f : SnpDist → SnpDist} : (s.modSnp n f).queue j = s.queue j := rfl
@[simp] theorem State.modSnp_port_eq {s : State} {j n : Nat} {f : SnpDist → SnpDist} : (s.modSnp n f).port j = s.port j := rfl
@[simp] theorem State.modSnp_lane_eq {s : State} {j n : Nat} {f : SnpDist → SnpDist} : (s.modSnp n f).lane j = s.lane j := rfl
@[simp] theorem State.modSnp_hostPort_eq {s : State} {j n : Nat} {f : SnpDist → SnpDist} : (s.modSnp n f).hostPort j = s.hostPort j := rfl
@[simp] theorem State.modSnp_district {s : State} {n : Nat} {f : SnpDist → SnpDist} : (s.modSnp n f).district n = { s.district n with snp := f (s.district n).snp } :=
  Tbl.get_set_self ..
theorem State.modSnp_district_ne {s : State} {n m : Nat} {f : SnpDist → SnpDist} (h : m ≠ n) : (s.modSnp n f).district m = s.district m :=
  Tbl.get_set_ne _ _ _ h

/-! ## Reading an instance of a state given field by field -/

@[simp] theorem State.mk_core {s : State} {j : Nat} {x0 x1 x2 x3 x4 x5 x6 x7 x8 x9 x11 x12 x13 x14 x15 x16 x17 x18 x19 x20 x21 x22 x23} :
    (State.mk x0 x1 x2 x3 x4 x5 x6 x7 x8 x9 s.cores x11 x12 x13 x14 x15 x16 x17 x18 x19 x20 x21 x22 x23).core j = s.core j := rfl
@[simp] theorem State.mk_district {s : State} {j : Nat} {x0 x1 x2 x3 x4 x5 x6 x7 x8 x10 x11 x12 x13 x14 x15 x16 x17 x18 x19 x20 x21 x22 x23} :
    (State.mk x0 x1 x2 x3 x4 x5 x6 x7 x8 s.dist x10 x11 x12 x13 x14 x15 x16 x17 x18 x19 x20 x21 x22 x23).district j = s.district j := rfl
@[simp] theorem State.mk_slot {s : State} {j : Nat} {x0 x1 x2 x3 x4 x5 x6 x7 x8 x9 x10 x11 x12 x13 x14 x16 x17 x18 x19 x20 x21 x22 x23} :
    (State.mk x0 x1 x2 x3 x4 x5 x6 x7 x8 x9 x10 x11 x12 x13 x14 s.slots x16 x17 x18 x19 x20 x21 x22 x23).slot j = s.slot j := rfl
@[simp] theorem State.mk_box {s : State} {j : Nat} {x0 x1 x2 x3 x4 x5 x6 x7 x8 x9 x10 x12 x13 x14 x15 x16 x17 x18 x19 x20 x21 x22 x23} :
    (State.mk x0 x1 x2 x3 x4 x5 x6 x7 x8 x9 x10 s.boxes x12 x13 x14 x15 x16 x17 x18 x19 x20 x21 x22 x23).box j = s.box j := rfl
@[simp] theorem State.mk_ring {s : State} {j : Nat} {x0 x1 x2 x3 x4 x5 x6 x7 x8 x9 x10 x11 x13 x14 x15 x16 x17 x18 x19 x20 x21 x22 x23} :
    (State.mk x0 x1 x2 x3 x4 x5 x6 x7 x8 x9 x10 x11 s.rings x13 x14 x15 x16 x17 x18 x19 x20 x21 x22 x23).ring j = s.ring j := rfl
@[simp] theorem State.mk_queue {s : State} {j : Nat} {x0 x1 x2 x3 x4 x5 x6 x7 x8 x9 x10 x11 x12 x14 x15 x16 x17 x18 x19 x20 x21 x22 x23} :
    (State.mk x0 x1 x2 x3 x4 x5 x6 x7 x8 x9 x10 x11 x12 s.queues x14 x15 x16 x17 x18 x19 x20 x21 x22 x23).queue j = s.queue j := rfl
@[simp] theorem State.mk_port {s : State} {j : Nat} {x0 x1 x2 x3 x4 x5 x6 x7 x8 x9 x10 x11 x12 x13 x14 x15 x17 x18 x19 x20 x21 x22 x23} :
    (State.mk x0 x1 x2 x3 x4 x5 x6 x7 x8 x9 x10 x11 x12 x13 x14 x15 s.ports x17 x18 x19 x20 x21 x22 x23).port j = s.port j := rfl
@[simp] theorem State.mk_lane {s : State} {j : Nat} {x0 x1 x2 x3 x4 x5 x6 x7 x8 x9 x10 x11 x12 x13 x14 x15 x16 x18 x19 x20 x21 x22 x23} :
    (State.mk x0 x1 x2 x3 x4 x5 x6 x7 x8 x9 x10 x11 x12 x13 x14 x15 x16 s.lanes x18 x19 x20 x21 x22 x23).lane j = s.lane j := rfl
@[simp] theorem State.mk_hostPort {s : State} {j : Nat} {x0 x1 x2 x3 x4 x5 x6 x7 x8 x9 x10 x11 x12 x13 x14 x15 x16 x17 x19 x20 x21 x22 x23} :
    (State.mk x0 x1 x2 x3 x4 x5 x6 x7 x8 x9 x10 x11 x12 x13 x14 x15 x16 x17 s.hosts x19 x20 x21 x22 x23).hostPort j = s.hostPort j := rfl
@[simp] theorem State.mk_active {s : State} {d : Nat} {x0 x1 x2 x3 x4 x5 x6 x7 x8 x10 x11 x12 x13 x14 x15 x16 x17 x18 x19 x20 x21 x22 x23} :
    (State.mk x0 x1 x2 x3 x4 x5 x6 x7 x8 s.dist x10 x11 x12 x13 x14 x15 x16 x17 x18 x19 x20 x21 x22 x23).active d = s.active d := rfl
@[simp] theorem State.mk_held {s : State} {d : Nat} {x0 x1 x2 x3 x4 x5 x6 x7 x8 x10 x11 x12 x13 x14 x15 x16 x17 x18 x19 x20 x21 x22 x23} :
    (State.mk x0 x1 x2 x3 x4 x5 x6 x7 x8 s.dist x10 x11 x12 x13 x14 x15 x16 x17 x18 x19 x20 x21 x22 x23).held d = s.held d := rfl
@[simp] theorem State.mk_fenced {s : State} {d : Nat} {x0 x1 x2 x3 x4 x5 x6 x7 x8 x10 x11 x12 x13 x14 x15 x16 x17 x18 x19 x20 x21 x22 x23} :
    (State.mk x0 x1 x2 x3 x4 x5 x6 x7 x8 s.dist x10 x11 x12 x13 x14 x15 x16 x17 x18 x19 x20 x21 x22 x23).fenced d = s.fenced d := rfl
@[simp] theorem State.mk_defined {s : State} {x0 x1 x2 x3 x4 x5 x6 x7 x8 x10 x11 x12 x13 x14 x15 x16 x17 x18 x19 x20 x21 x22 x23} :
    (State.mk x0 x1 x2 x3 x4 x5 x6 x7 x8 s.dist x10 x11 x12 x13 x14 x15 x16 x17 x18 x19 x20 x21 x22 x23).defined = s.defined := rfl

end Sys2Proof.Machine
end

