-- ==== Sys2Proof/Laws/Frames.lean ====
section
/-! SUPPORT. Frames of the shared operations that report and that stop work: which parts of the state they leave as they were. -/

namespace Sys2Proof.Machine

/-- Only the districts' own registers and counters differ. -/
def OnlyLog (s t : State) : Prop := t = { s with dist := t.dist, dcnt := t.dcnt }

theorem OnlyLog.refl (s : State) : OnlyLog s s := rfl

theorem OnlyLog.trans {s t u : State} (a : OnlyLog s t) (b : OnlyLog t u) : OnlyLog s u := by
  unfold OnlyLog at *
  rw [b, a]

theorem OnlyLog.each {α : Type} {s t : State} {l : List α} {f : α → State → State} (h : OnlyLog s t)
    (hf : ∀ x u, OnlyLog u (f x u)) : OnlyLog s (t.each l f) := by
  unfold State.each
  induction l generalizing t with
  | nil => exact h
  | cons a l ih => exact ih (h.trans (hf a t))

theorem OnlyLog.ite {s t u : State} {c : Prop} [Decidable c] (a : OnlyLog s t) (b : OnlyLog s u) : OnlyLog s (if c then t else u) := by
  split <;> assumption

theorem State.modDist_onlyLog (s : State) (d : Nat) (f : District → District) : OnlyLog s (s.modDist d f) := rfl
theorem State.countDist_onlyLog (s : State) (d i k : Nat) : OnlyLog s (s.countDist d i k) := rfl

theorem State.logTo_onlyLog (s : State) (e code : Nat) (cls : Class) (d : Nat) : OnlyLog s (s.logTo e code cls d) := rfl

theorem State.eventIn_onlyLog (s : State) (code : Nat) (cls : Class) (unit info : Nat) (wide : Bool) (home d : Nat) :
    OnlyLog s (s.eventIn code cls unit info wide home d) := by
  unfold State.eventIn
  have h := s.countDist_onlyLog d (42 + cls.code) 1
  refine OnlyLog.ite h (OnlyLog.ite ?_ ?_)
  · exact h.trans ((State.logTo_onlyLog ..).trans (State.modDist_onlyLog ..))
  · exact h.trans (State.logTo_onlyLog ..)

/-- An event is logged and counted, and changes nothing else. -/
theorem State.event_onlyLog (s : State) (code : Nat) (cls : Class) (d : Option Nat) (unit info : Nat) :
    OnlyLog s (s.event code cls d unit info) := by
  unfold State.event
  exact OnlyLog.ite (OnlyLog.each (OnlyLog.refl s) fun _ _ => State.eventIn_onlyLog ..) (State.eventIn_onlyLog ..)

theorem State.notice_onlyLog (s : State) (code : Nat) (d : Option Nat) (unit info : Nat) : OnlyLog s (s.notice code d unit info) :=
  State.event_onlyLog ..

/-- Memory, power, the orbit, the clock, Moon but for the soft-repair tables in flash, and what has left the module are as they were;
so are the queue of commands and the host's ports and windows. -/
def OnlyWork (s t : State) : Prop :=
  t = { s with spr := t.spr, dcnt := t.dcnt, dist := t.dist, cores := t.cores, boxes := t.boxes, rings := t.rings
               queues := t.queues, slots := t.slots, ports := t.ports, lanes := t.lanes
               moon := { s.moon with flash := { s.moon.flash with tables := t.moon.flash.tables } } }

theorem OnlyWork.refl (s : State) : OnlyWork s s := rfl

theorem OnlyWork.trans {s t u : State} (a : OnlyWork s t) (b : OnlyWork t u) : OnlyWork s u := by
  unfold OnlyWork at *
  rw [b, a]

theorem OnlyLog.onlyWork {s t : State} (h : OnlyLog s t) : OnlyWork s t := by
  unfold OnlyLog at h
  unfold OnlyWork
  rw [h]

theorem OnlyWork.each {α : Type} {s t : State} {l : List α} {f : α → State → State} (h : OnlyWork s t)
    (hf : ∀ x u, OnlyWork u (f x u)) : OnlyWork s (t.each l f) := by
  unfold State.each
  induction l generalizing t with
  | nil => exact h
  | cons a l ih => exact ih (h.trans (hf a t))

theorem OnlyWork.ite {s t u : State} {c : Prop} [Decidable c] (a : OnlyWork s t) (b : OnlyWork s u) : OnlyWork s (if c then t else u) := by
  split <;> assumption

theorem State.modCore_onlyWork (s : State) (n : Nat) (f : Core → Core) : OnlyWork s (s.modCore n f) := rfl
theorem State.modBox_onlyWork (s : State) (b : Nat) (f : Box → Box) : OnlyWork s (s.modBox b f) := rfl
theorem State.modRing_onlyWork (s : State) (r : Nat) (f : Ring → Ring) : OnlyWork s (s.modRing r f) := rfl
theorem State.modQueue_onlyWork (s : State) (q : Nat) (f : SQueue → SQueue) : OnlyWork s (s.modQueue q f) := rfl
theorem State.modPort_onlyWork (s : State) (p : Nat) (f : Port → Port) : OnlyWork s (s.modPort p f) := rfl
theorem State.modDist_onlyWork (s : State) (d : Nat) (f : District → District) : OnlyWork s (s.modDist d f) := rfl

theorem State.modFlt_onlyWork (s : State) (d : Nat) (f : FltDist → FltDist) : OnlyWork s (s.modFlt d f) := rfl
theorem State.modImg_onlyWork (s : State) (d : Nat) (f : ImgDist → ImgDist) : OnlyWork s (s.modImg d f) := rfl
theorem State.loseCmds_onlyWork (s : State) (d : Nat) : OnlyWork s (s.loseCmds d) := rfl
theorem State.haltCmds_onlyWork (s : State) (d : Nat) : OnlyWork s (s.haltCmds d) := rfl

theorem State.swapSlots_onlyWork (s : State) (d : Nat) : OnlyWork s (s.swapSlots d) := rfl
theorem State.dropFrames_onlyWork (s : State) (d : Nat) : OnlyWork s (s.dropFrames d) := rfl
theorem State.modLane_onlyWork (s : State) (k : Nat) (f : Lane → Lane) : OnlyWork s (s.modLane k f) := rfl

/-- Writing the soft-repair tables touches them and the marks of the swaps. -/
theorem State.saveTables_onlyWork (s : State) : OnlyWork s s.saveTables := by
  unfold State.saveTables
  split
  · exact OnlyWork.refl s
  · dsimp only
    split <;> rfl

theorem State.dropSwaps_onlyWork (s : State) (d : Nat) : OnlyWork s (s.dropSwaps d) := by
  unfold State.dropSwaps
  split
  · exact OnlyWork.refl s
  · refine OnlyWork.trans ?_ (State.saveTables_onlyWork _)
    rfl

theorem State.sendCtl_onlyWork (s : State) (d l op : Nat) (b : List Byte) : OnlyWork s (s.sendCtl d l op b) := by
  unfold State.sendCtl
  split
  · exact OnlyWork.refl s
  · exact State.modLane_onlyWork ..

theorem State.advance_onlyWork (s : State) (d r e : Nat) : OnlyWork s (s.advance d r e) := by
  unfold State.advance
  exact OnlyWork.ite (OnlyWork.refl s) ((State.modRing_onlyWork ..).trans (State.sendCtl_onlyWork ..))

theorem State.release_onlyWork (s : State) (d r unit : Nat) : OnlyWork s (s.release d r unit) := by
  unfold State.release
  split
  · exact OnlyWork.refl s
  · exact (State.modRing_onlyWork ..).trans (State.advance_onlyWork ..)

theorem State.killQueues_onlyWork (s : State) (d : Nat) : OnlyWork s (s.killQueues d) := by
  unfold State.killQueues
  refine OnlyWork.each (OnlyWork.refl s) fun x u => ?_
  exact OnlyWork.each (State.modQueue_onlyWork ..) fun y v => OnlyWork.ite (State.release_onlyWork ..) (OnlyWork.refl v)

theorem State.dropCores_onlyWork (s : State) (d : Nat) (tiles : Bool) : OnlyWork s (s.dropCores d tiles) := by
  unfold State.dropCores
  exact OnlyWork.each (OnlyWork.refl s) fun _ _ => State.modCore_onlyWork ..

/-- Stopping a district touches its work alone. -/
theorem State.stopDistrict_onlyWork (s : State) (d : Nat) : OnlyWork s (s.stopDistrict d) := by
  unfold State.stopDistrict
  have h1 := s.dropCores_onlyWork d true
  extract_lets s1 s2 s3 s4 s5 s6 s7 s8 s9 s10
  have h2 : OnlyWork s s2 := OnlyWork.ite (h1.trans (State.swapSlots_onlyWork ..)) h1
  have h3 : OnlyWork s s3 := OnlyWork.each h2 fun _ _ => State.modCore_onlyWork ..
  have h4 : OnlyWork s s4 := OnlyWork.each h3 fun _ _ => State.modBox_onlyWork ..
  have h5 : OnlyWork s s5 := h4.trans (State.killQueues_onlyWork ..)
  have h6 : OnlyWork s s6 := OnlyWork.each h5 fun _ _ => State.modRing_onlyWork ..
  have h7 : OnlyWork s s7 := h6.trans (State.dropSwaps_onlyWork ..)
  have h8 : OnlyWork s s8 := h7.trans (State.modDist_onlyWork ..)
  have h9 : OnlyWork s s9 := h8.trans (State.modDist_onlyWork ..)
  have h10 : OnlyWork s s10 := h9.trans (State.modDist_onlyWork ..)
  exact h10.trans (State.modDist_onlyWork ..)

/-- A fence stops the district's work, and touches nothing else. -/
theorem State.fence_onlyWork (s : State) (d code unit info : Nat) : OnlyWork s (s.fence d code unit info) := by
  unfold State.fence
  have h := (s.event_onlyLog code .fence (some d) unit info).onlyWork
  refine OnlyWork.ite h (OnlyWork.each ?_ fun _ _ => OnlyWork.ite (State.modPort_onlyWork ..) (OnlyWork.refl _))
  have h1 := ((h.trans (State.stopDistrict_onlyWork _ d)).trans (State.dropFrames_onlyWork _ d)).trans (State.loseCmds_onlyWork _ d)
  exact (h1.trans (State.modFlt_onlyWork _ d _)).trans (State.modImg_onlyWork _ d _)

/-- A halt's effect on power: nothing in a halted module, else HALTED, and MEM_KEPT where memory is trained. -/
theorem State.halt_pwr (s : State) (code : Nat) (d : Option Nat) (unit info : Nat) :
    (s.halt code d unit info).pwr
      = if s.halted then s.pwr else { s.pwr with halted := true, memKept := s.pwr.memKept || s.memc.trained } := by
  unfold State.halt
  have h := (s.event_onlyLog code .halt d unit info).onlyWork
  have e1 : (s.event code .halt d unit info).halted = s.halted := by unfold State.halted; rw [h]
  by_cases hh : s.halted
  · rw [if_pos (e1.trans hh), if_pos hh, h]
  · rw [if_neg (by rw [e1]; exact hh), if_neg hh]
    extract_lets s1 o s2
    have h1 : OnlyWork s s1 := OnlyWork.each h fun k _ => (State.stopDistrict_onlyWork _ k).trans (State.haltCmds_onlyWork _ k)
    have h2 : OnlyWork s s2 := OnlyWork.each h1 fun _ _ => State.modDist_onlyWork ..
    show { s2.pwr with halted := true, memKept := s2.pwr.memKept || s2.memc.trained } = _
    rw [h2]

/-- A halt leaves module memory as it is. -/
theorem State.halt_mem (s : State) (code : Nat) (d : Option Nat) (unit info : Nat) : (s.halt code d unit info).mem = s.mem := by
  unfold State.halt
  have h := (s.event_onlyLog code .halt d unit info).onlyWork
  by_cases hh : (s.event code .halt d unit info).halted
  · rw [if_pos hh, h]
  · rw [if_neg hh]
    extract_lets s1 o s2
    have h1 : OnlyWork s s1 := OnlyWork.each h fun k _ => (State.stopDistrict_onlyWork _ k).trans (State.haltCmds_onlyWork _ k)
    have h2 : OnlyWork s s2 := OnlyWork.each h1 fun _ _ => State.modDist_onlyWork ..
    show s2.mem = s.mem
    rw [h2]

/-! ## The districts after an event -/

/-- A district's fault registers with the log of another. -/
def FltDist.logged (f g : FltDist) : FltDist :=
  { f with head := g.head, tail := g.tail, lost := g.lost, seen := g.seen, lastCode := g.lastCode, entries := g.entries
           noted := g.noted }

/-- Every district is as it was but for its log. -/
def LogOnly (s t : State) : Prop := ∀ k, t.district k = { s.district k with flt := (s.district k).flt.logged (t.district k).flt }

theorem LogOnly.refl (s : State) : LogOnly s s := fun _ => rfl

theorem LogOnly.trans {s t u : State} (a : LogOnly s t) (b : LogOnly t u) : LogOnly s u := fun k => by
  rw [b k, a k]
  rfl

theorem LogOnly.each {α : Type} {s t : State} {l : List α} {f : α → State → State} (h : LogOnly s t)
    (hf : ∀ x u, LogOnly u (f x u)) : LogOnly s (t.each l f) := by
  unfold State.each
  induction l generalizing t with
  | nil => exact h
  | cons a l ih => exact ih (h.trans (hf a t))

theorem State.modFlt_logOnly (s : State) (d : Nat) (f : FltDist → FltDist)
    (hf : f (s.district d).flt = (s.district d).flt.logged (f (s.district d).flt)) : LogOnly s (s.modFlt d f) := fun k => by
  by_cases h : k = d
  · subst h; simp only [State.modFlt_district]; exact congrArg (fun x => { s.district k with flt := x }) hf
  · rw [State.modFlt_district_ne h]; rfl

theorem State.eventIn_logOnly (s : State) (code : Nat) (cls : Class) (unit info : Nat) (wide : Bool) (home d : Nat) :
    LogOnly s (s.eventIn code cls unit info wide home d) := by
  unfold State.eventIn
  have h : LogOnly s (s.countDist d (42 + cls.code) 1) := fun _ => rfl
  dsimp only
  split
  · exact h
  · split
    · exact h.trans ((State.modFlt_logOnly _ _ _ rfl).trans (State.modFlt_logOnly _ _ _ rfl))
    · exact h.trans (State.modFlt_logOnly _ _ _ rfl)

/-- An event changes nothing of a district but its log. -/
theorem State.event_logOnly (s : State) (code : Nat) (cls : Class) (d : Option Nat) (unit info : Nat) :
    LogOnly s (s.event code cls d unit info) := by
  unfold State.event
  split
  · exact LogOnly.each (LogOnly.refl s) fun _ u => State.eventIn_logOnly u code cls unit info _ _ _
  · exact State.eventIn_logOnly s code cls unit info _ _ _

theorem State.notice_logOnly (s : State) (code : Nat) (d : Option Nat) (unit info : Nat) : LogOnly s (s.notice code d unit info) :=
  State.event_logOnly s code .notice d unit info

/-! ## What an event leaves as it was -/

@[simp] theorem State.event_pending {s : State} {code : Nat} {cls : Class} {d : Option Nat} {unit info : Nat} : (s.event code cls d unit info).pending = s.pending := by rw [State.event_onlyLog]
@[simp] theorem State.event_free {s : State} {code : Nat} {cls : Class} {d : Option Nat} {unit info : Nat} : (s.event code cls d unit info).free = s.free := by rw [State.event_onlyLog]
@[simp] theorem State.event_mem {s : State} {code : Nat} {cls : Class} {d : Option Nat} {unit info : Nat} : (s.event code cls d unit info).mem = s.mem := by rw [State.event_onlyLog]
@[simp] theorem State.event_clk {s : State} {code : Nat} {cls : Class} {d : Option Nat} {unit info : Nat} : (s.event code cls d unit info).clk = s.clk := by rw [State.event_onlyLog]
@[simp] theorem State.event_pwr {s : State} {code : Nat} {cls : Class} {d : Option Nat} {unit info : Nat} : (s.event code cls d unit info).pwr = s.pwr := by rw [State.event_onlyLog]
@[simp] theorem State.event_orb {s : State} {code : Nat} {cls : Class} {d : Option Nat} {unit info : Nat} : (s.event code cls d unit info).orb = s.orb := by rw [State.event_onlyLog]
@[simp] theorem State.event_spr {s : State} {code : Nat} {cls : Class} {d : Option Nat} {unit info : Nat} : (s.event code cls d unit info).spr = s.spr := by rw [State.event_onlyLog]
@[simp] theorem State.event_cnt {s : State} {code : Nat} {cls : Class} {d : Option Nat} {unit info : Nat} : (s.event code cls d unit info).cnt = s.cnt := by rw [State.event_onlyLog]
@[simp] theorem State.event_cores {s : State} {code : Nat} {cls : Class} {d : Option Nat} {unit info : Nat} : (s.event code cls d unit info).cores = s.cores := by rw [State.event_onlyLog]
@[simp] theorem State.event_boxes {s : State} {code : Nat} {cls : Class} {d : Option Nat} {unit info : Nat} : (s.event code cls d unit info).boxes = s.boxes := by rw [State.event_onlyLog]
@[simp] theorem State.event_rings {s : State} {code : Nat} {cls : Class} {d : Option Nat} {unit info : Nat} : (s.event code cls d unit info).rings = s.rings := by rw [State.event_onlyLog]
@[simp] theorem State.event_queues {s : State} {code : Nat} {cls : Class} {d : Option Nat} {unit info : Nat} : (s.event code cls d unit info).queues = s.queues := by rw [State.event_onlyLog]
@[simp] theorem State.event_memc {s : State} {code : Nat} {cls : Class} {d : Option Nat} {unit info : Nat} : (s.event code cls d unit info).memc = s.memc := by rw [State.event_onlyLog]
@[simp] theorem State.event_slots {s : State} {code : Nat} {cls : Class} {d : Option Nat} {unit info : Nat} : (s.event code cls d unit info).slots = s.slots := by rw [State.event_onlyLog]
@[simp] theorem State.event_ports {s : State} {code : Nat} {cls : Class} {d : Option Nat} {unit info : Nat} : (s.event code cls d unit info).ports = s.ports := by rw [State.event_onlyLog]
@[simp] theorem State.event_lanes {s : State} {code : Nat} {cls : Class} {d : Option Nat} {unit info : Nat} : (s.event code cls d unit info).lanes = s.lanes := by rw [State.event_onlyLog]
@[simp] theorem State.event_hosts {s : State} {code : Nat} {cls : Class} {d : Option Nat} {unit info : Nat} : (s.event code cls d unit info).hosts = s.hosts := by rw [State.event_onlyLog]
@[simp] theorem State.event_windows {s : State} {code : Nat} {cls : Class} {d : Option Nat} {unit info : Nat} : (s.event code cls d unit info).windows = s.windows := by rw [State.event_onlyLog]
@[simp] theorem State.event_moon {s : State} {code : Nat} {cls : Class} {d : Option Nat} {unit info : Nat} : (s.event code cls d unit info).moon = s.moon := by rw [State.event_onlyLog]
@[simp] theorem State.event_jtag {s : State} {code : Nat} {cls : Class} {d : Option Nat} {unit info : Nat} : (s.event code cls d unit info).jtag = s.jtag := by rw [State.event_onlyLog]
@[simp] theorem State.event_out {s : State} {code : Nat} {cls : Class} {d : Option Nat} {unit info : Nat} : (s.event code cls d unit info).out = s.out := by rw [State.event_onlyLog]
@[simp] theorem State.event_tags {s : State} {code : Nat} {cls : Class} {d : Option Nat} {unit info : Nat} : (s.event code cls d unit info).tags = s.tags := by rw [State.event_onlyLog]
@[simp] theorem State.event_core_eq {s : State} {j : Nat} {code : Nat} {cls : Class} {d : Option Nat} {unit info : Nat} : (s.event code cls d unit info).core j = s.core j := by unfold State.core; rw [State.event_cores]
@[simp] theorem State.event_slot_eq {s : State} {j : Nat} {code : Nat} {cls : Class} {d : Option Nat} {unit info : Nat} : (s.event code cls d unit info).slot j = s.slot j := by unfold State.slot; rw [State.event_slots]
@[simp] theorem State.event_box_eq {s : State} {j : Nat} {code : Nat} {cls : Class} {d : Option Nat} {unit info : Nat} : (s.event code cls d unit info).box j = s.box j := by unfold State.box; rw [State.event_boxes]
@[simp] theorem State.event_ring_eq {s : State} {j : Nat} {code : Nat} {cls : Class} {d : Option Nat} {unit info : Nat} : (s.event code cls d unit info).ring j = s.ring j := by unfold State.ring; rw [State.event_rings]
@[simp] theorem State.event_queue_eq {s : State} {j : Nat} {code : Nat} {cls : Class} {d : Option Nat} {unit info : Nat} : (s.event code cls d unit info).queue j = s.queue j := by unfold State.queue; rw [State.event_queues]
@[simp] theorem State.event_port_eq {s : State} {j : Nat} {code : Nat} {cls : Class} {d : Option Nat} {unit info : Nat} : (s.event code cls d unit info).port j = s.port j := by unfold State.port; rw [State.event_ports]
@[simp] theorem State.event_lane_eq {s : State} {j : Nat} {code : Nat} {cls : Class} {d : Option Nat} {unit info : Nat} : (s.event code cls d unit info).lane j = s.lane j := by unfold State.lane; rw [State.event_lanes]
@[simp] theorem State.event_hostPort_eq {s : State} {j : Nat} {code : Nat} {cls : Class} {d : Option Nat} {unit info : Nat} : (s.event code cls d unit info).hostPort j = s.hostPort j := by unfold State.hostPort; rw [State.event_hosts]
@[simp] theorem State.event_halted {s : State} {code : Nat} {cls : Class} {d : Option Nat} {unit info : Nat} : (s.event code cls d unit info).halted = s.halted := by unfold State.halted; rw [State.event_pwr]
@[simp] theorem State.notice_pending {s : State} {code : Nat} {d : Option Nat} {unit info : Nat} : (s.notice code d unit info).pending = s.pending := by rw [State.notice_onlyLog]
@[simp] theorem State.notice_free {s : State} {code : Nat} {d : Option Nat} {unit info : Nat} : (s.notice code d unit info).free = s.free := by rw [State.notice_onlyLog]
@[simp] theorem State.notice_mem {s : State} {code : Nat} {d : Option Nat} {unit info : Nat} : (s.notice code d unit info).mem = s.mem := by rw [State.notice_onlyLog]
@[simp] theorem State.notice_clk {s : State} {code : Nat} {d : Option Nat} {unit info : Nat} : (s.notice code d unit info).clk = s.clk := by rw [State.notice_onlyLog]
@[simp] theorem State.notice_pwr {s : State} {code : Nat} {d : Option Nat} {unit info : Nat} : (s.notice code d unit info).pwr = s.pwr := by rw [State.notice_onlyLog]
@[simp] theorem State.notice_orb {s : State} {code : Nat} {d : Option Nat} {unit info : Nat} : (s.notice code d unit info).orb = s.orb := by rw [State.notice_onlyLog]
@[simp] theorem State.notice_spr {s : State} {code : Nat} {d : Option Nat} {unit info : Nat} : (s.notice code d unit info).spr = s.spr := by rw [State.notice_onlyLog]
@[simp] theorem State.notice_cnt {s : State} {code : Nat} {d : Option Nat} {unit info : Nat} : (s.notice code d unit info).cnt = s.cnt := by rw [State.notice_onlyLog]
@[simp] theorem State.notice_cores {s : State} {code : Nat} {d : Option Nat} {unit info : Nat} : (s.notice code d unit info).cores = s.cores := by rw [State.notice_onlyLog]
@[simp] theorem State.notice_boxes {s : State} {code : Nat} {d : Option Nat} {unit info : Nat} : (s.notice code d unit info).boxes = s.boxes := by rw [State.notice_onlyLog]
@[simp] theorem State.notice_rings {s : State} {code : Nat} {d : Option Nat} {unit info : Nat} : (s.notice code d unit info).rings = s.rings := by rw [State.notice_onlyLog]
@[simp] theorem State.notice_queues {s : State} {code : Nat} {d : Option Nat} {unit info : Nat} : (s.notice code d unit info).queues = s.queues := by rw [State.notice_onlyLog]
@[simp] theorem State.notice_memc {s : State} {code : Nat} {d : Option Nat} {unit info : Nat} : (s.notice code d unit info).memc = s.memc := by rw [State.notice_onlyLog]
@[simp] theorem State.notice_slots {s : State} {code : Nat} {d : Option Nat} {unit info : Nat} : (s.notice code d unit info).slots = s.slots := by rw [State.notice_onlyLog]
@[simp] theorem State.notice_ports {s : State} {code : Nat} {d : Option Nat} {unit info : Nat} : (s.notice code d unit info).ports = s.ports := by rw [State.notice_onlyLog]
@[simp] theorem State.notice_lanes {s : State} {code : Nat} {d : Option Nat} {unit info : Nat} : (s.notice code d unit info).lanes = s.lanes := by rw [State.notice_onlyLog]
@[simp] theorem State.notice_hosts {s : State} {code : Nat} {d : Option Nat} {unit info : Nat} : (s.notice code d unit info).hosts = s.hosts := by rw [State.notice_onlyLog]
@[simp] theorem State.notice_windows {s : State} {code : Nat} {d : Option Nat} {unit info : Nat} : (s.notice code d unit info).windows = s.windows := by rw [State.notice_onlyLog]
@[simp] theorem State.notice_moon {s : State} {code : Nat} {d : Option Nat} {unit info : Nat} : (s.notice code d unit info).moon = s.moon := by rw [State.notice_onlyLog]
@[simp] theorem State.notice_jtag {s : State} {code : Nat} {d : Option Nat} {unit info : Nat} : (s.notice code d unit info).jtag = s.jtag := by rw [State.notice_onlyLog]
@[simp] theorem State.notice_out {s : State} {code : Nat} {d : Option Nat} {unit info : Nat} : (s.notice code d unit info).out = s.out := by rw [State.notice_onlyLog]
@[simp] theorem State.notice_tags {s : State} {code : Nat} {d : Option Nat} {unit info : Nat} : (s.notice code d unit info).tags = s.tags := by rw [State.notice_onlyLog]
@[simp] theorem State.notice_core_eq {s : State} {j : Nat} {code : Nat} {d : Option Nat} {unit info : Nat} : (s.notice code d unit info).core j = s.core j := by unfold State.core; rw [State.notice_cores]
@[simp] theorem State.notice_slot_eq {s : State} {j : Nat} {code : Nat} {d : Option Nat} {unit info : Nat} : (s.notice code d unit info).slot j = s.slot j := by unfold State.slot; rw [State.notice_slots]
@[simp] theorem State.notice_box_eq {s : State} {j : Nat} {code : Nat} {d : Option Nat} {unit info : Nat} : (s.notice code d unit info).box j = s.box j := by unfold State.box; rw [State.notice_boxes]
@[simp] theorem State.notice_ring_eq {s : State} {j : Nat} {code : Nat} {d : Option Nat} {unit info : Nat} : (s.notice code d unit info).ring j = s.ring j := by unfold State.ring; rw [State.notice_rings]
@[simp] theorem State.notice_queue_eq {s : State} {j : Nat} {code : Nat} {d : Option Nat} {unit info : Nat} : (s.notice code d unit info).queue j = s.queue j := by unfold State.queue; rw [State.notice_queues]
@[simp] theorem State.notice_port_eq {s : State} {j : Nat} {code : Nat} {d : Option Nat} {unit info : Nat} : (s.notice code d unit info).port j = s.port j := by unfold State.port; rw [State.notice_ports]
@[simp] theorem State.notice_lane_eq {s : State} {j : Nat} {code : Nat} {d : Option Nat} {unit info : Nat} : (s.notice code d unit info).lane j = s.lane j := by unfold State.lane; rw [State.notice_lanes]
@[simp] theorem State.notice_hostPort_eq {s : State} {j : Nat} {code : Nat} {d : Option Nat} {unit info : Nat} : (s.notice code d unit info).hostPort j = s.hostPort j := by unfold State.hostPort; rw [State.notice_hosts]
@[simp] theorem State.notice_halted {s : State} {code : Nat} {d : Option Nat} {unit info : Nat} : (s.notice code d unit info).halted = s.halted := by unfold State.halted; rw [State.notice_pwr]
@[simp] theorem State.event_district_defn {s : State} {k : Nat} {code : Nat} {cls : Class} {d : Option Nat} {unit info : Nat} : ((s.event code cls d unit info).district k).defn = (s.district k).defn := by rw [State.event_logOnly]
@[simp] theorem State.event_district_orb {s : State} {k : Nat} {code : Nat} {cls : Class} {d : Option Nat} {unit info : Nat} : ((s.event code cls d unit info).district k).orb = (s.district k).orb := by rw [State.event_logOnly]
@[simp] theorem State.event_district_bar {s : State} {k : Nat} {code : Nat} {cls : Class} {d : Option Nat} {unit info : Nat} : ((s.event code cls d unit info).district k).bar = (s.district k).bar := by rw [State.event_logOnly]
@[simp] theorem State.event_district_img {s : State} {k : Nat} {code : Nat} {cls : Class} {d : Option Nat} {unit info : Nat} : ((s.event code cls d unit info).district k).img = (s.district k).img := by rw [State.event_logOnly]
@[simp] theorem State.event_district_host {s : State} {k : Nat} {code : Nat} {cls : Class} {d : Option Nat} {unit info : Nat} : ((s.event code cls d unit info).district k).host = (s.district k).host := by rw [State.event_logOnly]
@[simp] theorem State.event_district_mir {s : State} {k : Nat} {code : Nat} {cls : Class} {d : Option Nat} {unit info : Nat} : ((s.event code cls d unit info).district k).mir = (s.district k).mir := by rw [State.event_logOnly]
@[simp] theorem State.event_district_pbx {s : State} {k : Nat} {code : Nat} {cls : Class} {d : Option Nat} {unit info : Nat} : ((s.event code cls d unit info).district k).pbx = (s.district k).pbx := by rw [State.event_logOnly]
@[simp] theorem State.event_district_mem {s : State} {k : Nat} {code : Nat} {cls : Class} {d : Option Nat} {unit info : Nat} : ((s.event code cls d unit info).district k).mem = (s.district k).mem := by rw [State.event_logOnly]
@[simp] theorem State.event_district_num {s : State} {k : Nat} {code : Nat} {cls : Class} {d : Option Nat} {unit info : Nat} : ((s.event code cls d unit info).district k).num = (s.district k).num := by rw [State.event_logOnly]
@[simp] theorem State.event_district_snp {s : State} {k : Nat} {code : Nat} {cls : Class} {d : Option Nat} {unit info : Nat} : ((s.event code cls d unit info).district k).snp = (s.district k).snp := by rw [State.event_logOnly]
@[simp] theorem State.event_flt_rlead {s : State} {k : Nat} {code : Nat} {cls : Class} {d : Option Nat} {unit info : Nat} : ((s.event code cls d unit info).district k).flt.rlead = (s.district k).flt.rlead := by
  rw [State.event_logOnly]; rfl
@[simp] theorem State.event_flt_rleadSh {s : State} {k : Nat} {code : Nat} {cls : Class} {d : Option Nat} {unit info : Nat} : ((s.event code cls d unit info).district k).flt.rleadSh = (s.district k).flt.rleadSh := by
  rw [State.event_logOnly]; rfl
@[simp] theorem State.event_flt_fenced {s : State} {k : Nat} {code : Nat} {cls : Class} {d : Option Nat} {unit info : Nat} : ((s.event code cls d unit info).district k).flt.fenced = (s.district k).flt.fenced := by
  rw [State.event_logOnly]; rfl
@[simp] theorem State.event_flt_rewindable {s : State} {k : Nat} {code : Nat} {cls : Class} {d : Option Nat} {unit info : Nat} : ((s.event code cls d unit info).district k).flt.rewindable = (s.district k).flt.rewindable := by
  rw [State.event_logOnly]; rfl
@[simp] theorem State.event_flt_gen {s : State} {k : Nat} {code : Nat} {cls : Class} {d : Option Nat} {unit info : Nat} : ((s.event code cls d unit info).district k).flt.gen = (s.district k).flt.gen := by
  rw [State.event_logOnly]; rfl
@[simp] theorem State.event_flt_journalLost {s : State} {k : Nat} {code : Nat} {cls : Class} {d : Option Nat} {unit info : Nat} : ((s.event code cls d unit info).district k).flt.journalLost = (s.district k).flt.journalLost := by
  rw [State.event_logOnly]; rfl
@[simp] theorem State.event_flt_dirty {s : State} {k : Nat} {code : Nat} {cls : Class} {d : Option Nat} {unit info : Nat} : ((s.event code cls d unit info).district k).flt.dirty = (s.district k).flt.dirty := by
  rw [State.event_logOnly]; rfl
@[simp] theorem State.event_flt_prevDirty {s : State} {k : Nat} {code : Nat} {cls : Class} {d : Option Nat} {unit info : Nat} : ((s.event code cls d unit info).district k).flt.prevDirty = (s.district k).flt.prevDirty := by
  rw [State.event_logOnly]; rfl
@[simp] theorem State.event_flt_copyBack {s : State} {k : Nat} {code : Nat} {cls : Class} {d : Option Nat} {unit info : Nat} : ((s.event code cls d unit info).district k).flt.copyBack = (s.district k).flt.copyBack := by
  rw [State.event_logOnly]; rfl
@[simp] theorem State.event_flt_resetting {s : State} {k : Nat} {code : Nat} {cls : Class} {d : Option Nat} {unit info : Nat} : ((s.event code cls d unit info).district k).flt.resetting = (s.district k).flt.resetting := by
  rw [State.event_logOnly]; rfl
@[simp] theorem State.event_flt_restArm {s : State} {k : Nat} {code : Nat} {cls : Class} {d : Option Nat} {unit info : Nat} : ((s.event code cls d unit info).district k).flt.restArm = (s.district k).flt.restArm := by
  rw [State.event_logOnly]; rfl
@[simp] theorem State.event_flt_restStep {s : State} {k : Nat} {code : Nat} {cls : Class} {d : Option Nat} {unit info : Nat} : ((s.event code cls d unit info).district k).flt.restStep = (s.district k).flt.restStep := by
  rw [State.event_logOnly]; rfl
@[simp] theorem State.event_flt_restore {s : State} {k : Nat} {code : Nat} {cls : Class} {d : Option Nat} {unit info : Nat} : ((s.event code cls d unit info).district k).flt.restore = (s.district k).flt.restore := by
  rw [State.event_logOnly]; rfl
@[simp] theorem State.event_flt_receiving {s : State} {k : Nat} {code : Nat} {cls : Class} {d : Option Nat} {unit info : Nat} : ((s.event code cls d unit info).district k).flt.receiving = (s.district k).flt.receiving := by
  rw [State.event_logOnly]; rfl
@[simp] theorem State.event_flt_stale {s : State} {k : Nat} {code : Nat} {cls : Class} {d : Option Nat} {unit info : Nat} : ((s.event code cls d unit info).district k).flt.stale = (s.district k).flt.stale := by
  rw [State.event_logOnly]; rfl
@[simp] theorem State.event_flt_rollAt {s : State} {k : Nat} {code : Nat} {cls : Class} {d : Option Nat} {unit info : Nat} : ((s.event code cls d unit info).district k).flt.rollAt = (s.district k).flt.rollAt := by
  rw [State.event_logOnly]; rfl
@[simp] theorem State.event_flt_rollAsked {s : State} {k : Nat} {code : Nat} {cls : Class} {d : Option Nat} {unit info : Nat} : ((s.event code cls d unit info).district k).flt.rollAsked = (s.district k).flt.rollAsked := by
  rw [State.event_logOnly]; rfl
@[simp] theorem State.event_active {s : State} {k : Nat} {code : Nat} {cls : Class} {d : Option Nat} {unit info : Nat} : (s.event code cls d unit info).active k = s.active k := by
  unfold State.active; rw [State.event_district_img]
@[simp] theorem State.event_held {s : State} {k : Nat} {code : Nat} {cls : Class} {d : Option Nat} {unit info : Nat} : (s.event code cls d unit info).held k = s.held k := by
  unfold State.held; rw [State.event_district_orb]
@[simp] theorem State.event_fenced {s : State} {k : Nat} {code : Nat} {cls : Class} {d : Option Nat} {unit info : Nat} : (s.event code cls d unit info).fenced k = s.fenced k := by
  unfold State.fenced; rw [State.event_flt_fenced]
@[simp] theorem State.event_defined {s : State} {code : Nat} {cls : Class} {d : Option Nat} {unit info : Nat} : (s.event code cls d unit info).defined = s.defined := by
  unfold State.defined; simp only [State.event_district_defn]
@[simp] theorem State.notice_district_defn {s : State} {k : Nat} {code : Nat} {d : Option Nat} {unit info : Nat} : ((s.notice code d unit info).district k).defn = (s.district k).defn := by rw [State.notice_logOnly]
@[simp] theorem State.notice_district_orb {s : State} {k : Nat} {code : Nat} {d : Option Nat} {unit info : Nat} : ((s.notice code d unit info).district k).orb = (s.district k).orb := by rw [State.notice_logOnly]
@[simp] theorem State.notice_district_bar {s : State} {k : Nat} {code : Nat} {d : Option Nat} {unit info : Nat} : ((s.notice code d unit info).district k).bar = (s.district k).bar := by rw [State.notice_logOnly]
@[simp] theorem State.notice_district_img {s : State} {k : Nat} {code : Nat} {d : Option Nat} {unit info : Nat} : ((s.notice code d unit info).district k).img = (s.district k).img := by rw [State.notice_logOnly]
@[simp] theorem State.notice_district_host {s : State} {k : Nat} {code : Nat} {d : Option Nat} {unit info : Nat} : ((s.notice code d unit info).district k).host = (s.district k).host := by rw [State.notice_logOnly]
@[simp] theorem State.notice_district_mir {s : State} {k : Nat} {code : Nat} {d : Option Nat} {unit info : Nat} : ((s.notice code d unit info).district k).mir = (s.district k).mir := by rw [State.notice_logOnly]
@[simp] theorem State.notice_district_pbx {s : State} {k : Nat} {code : Nat} {d : Option Nat} {unit info : Nat} : ((s.notice code d unit info).district k).pbx = (s.district k).pbx := by rw [State.notice_logOnly]
@[simp] theorem State.notice_district_mem {s : State} {k : Nat} {code : Nat} {d : Option Nat} {unit info : Nat} : ((s.notice code d unit info).district k).mem = (s.district k).mem := by rw [State.notice_logOnly]
@[simp] theorem State.notice_district_num {s : State} {k : Nat} {code : Nat} {d : Option Nat} {unit info : Nat} : ((s.notice code d unit info).district k).num = (s.district k).num := by rw [State.notice_logOnly]
@[simp] theorem State.notice_district_snp {s : State} {k : Nat} {code : Nat} {d : Option Nat} {unit info : Nat} : ((s.notice code d unit info).district k).snp = (s.district k).snp := by rw [State.notice_logOnly]
@[simp] theorem State.notice_flt_rlead {s : State} {k : Nat} {code : Nat} {d : Option Nat} {unit info : Nat} : ((s.notice code d unit info).district k).flt.rlead = (s.district k).flt.rlead := by
  rw [State.notice_logOnly]; rfl
@[simp] theorem State.notice_flt_rleadSh {s : State} {k : Nat} {code : Nat} {d : Option Nat} {unit info : Nat} : ((s.notice code d unit info).district k).flt.rleadSh = (s.district k).flt.rleadSh := by
  rw [State.notice_logOnly]; rfl
@[simp] theorem State.notice_flt_fenced {s : State} {k : Nat} {code : Nat} {d : Option Nat} {unit info : Nat} : ((s.notice code d unit info).district k).flt.fenced = (s.district k).flt.fenced := by
  rw [State.notice_logOnly]; rfl
@[simp] theorem State.notice_flt_rewindable {s : State} {k : Nat} {code : Nat} {d : Option Nat} {unit info : Nat} : ((s.notice code d unit info).district k).flt.rewindable = (s.district k).flt.rewindable := by
  rw [State.notice_logOnly]; rfl
@[simp] theorem State.notice_flt_gen {s : State} {k : Nat} {code : Nat} {d : Option Nat} {unit info : Nat} : ((s.notice code d unit info).district k).flt.gen = (s.district k).flt.gen := by
  rw [State.notice_logOnly]; rfl
@[simp] theorem State.notice_flt_journalLost {s : State} {k : Nat} {code : Nat} {d : Option Nat} {unit info : Nat} : ((s.notice code d unit info).district k).flt.journalLost = (s.district k).flt.journalLost := by
  rw [State.notice_logOnly]; rfl
@[simp] theorem State.notice_flt_dirty {s : State} {k : Nat} {code : Nat} {d : Option Nat} {unit info : Nat} : ((s.notice code d unit info).district k).flt.dirty = (s.district k).flt.dirty := by
  rw [State.notice_logOnly]; rfl
@[simp] theorem State.notice_flt_prevDirty {s : State} {k : Nat} {code : Nat} {d : Option Nat} {unit info : Nat} : ((s.notice code d unit info).district k).flt.prevDirty = (s.district k).flt.prevDirty := by
  rw [State.notice_logOnly]; rfl
@[simp] theorem State.notice_flt_copyBack {s : State} {k : Nat} {code : Nat} {d : Option Nat} {unit info : Nat} : ((s.notice code d unit info).district k).flt.copyBack = (s.district k).flt.copyBack := by
  rw [State.notice_logOnly]; rfl
@[simp] theorem State.notice_flt_resetting {s : State} {k : Nat} {code : Nat} {d : Option Nat} {unit info : Nat} : ((s.notice code d unit info).district k).flt.resetting = (s.district k).flt.resetting := by
  rw [State.notice_logOnly]; rfl
@[simp] theorem State.notice_flt_restArm {s : State} {k : Nat} {code : Nat} {d : Option Nat} {unit info : Nat} : ((s.notice code d unit info).district k).flt.restArm = (s.district k).flt.restArm := by
  rw [State.notice_logOnly]; rfl
@[simp] theorem State.notice_flt_restStep {s : State} {k : Nat} {code : Nat} {d : Option Nat} {unit info : Nat} : ((s.notice code d unit info).district k).flt.restStep = (s.district k).flt.restStep := by
  rw [State.notice_logOnly]; rfl
@[simp] theorem State.notice_flt_restore {s : State} {k : Nat} {code : Nat} {d : Option Nat} {unit info : Nat} : ((s.notice code d unit info).district k).flt.restore = (s.district k).flt.restore := by
  rw [State.notice_logOnly]; rfl
@[simp] theorem State.notice_flt_receiving {s : State} {k : Nat} {code : Nat} {d : Option Nat} {unit info : Nat} : ((s.notice code d unit info).district k).flt.receiving = (s.district k).flt.receiving := by
  rw [State.notice_logOnly]; rfl
@[simp] theorem State.notice_flt_stale {s : State} {k : Nat} {code : Nat} {d : Option Nat} {unit info : Nat} : ((s.notice code d unit info).district k).flt.stale = (s.district k).flt.stale := by
  rw [State.notice_logOnly]; rfl
@[simp] theorem State.notice_flt_rollAt {s : State} {k : Nat} {code : Nat} {d : Option Nat} {unit info : Nat} : ((s.notice code d unit info).district k).flt.rollAt = (s.district k).flt.rollAt := by
  rw [State.notice_logOnly]; rfl
@[simp] theorem State.notice_flt_rollAsked {s : State} {k : Nat} {code : Nat} {d : Option Nat} {unit info : Nat} : ((s.notice code d unit info).district k).flt.rollAsked = (s.district k).flt.rollAsked := by
  rw [State.notice_logOnly]; rfl
@[simp] theorem State.notice_active {s : State} {k : Nat} {code : Nat} {d : Option Nat} {unit info : Nat} : (s.notice code d unit info).active k = s.active k := by
  unfold State.active; rw [State.notice_district_img]
@[simp] theorem State.notice_held {s : State} {k : Nat} {code : Nat} {d : Option Nat} {unit info : Nat} : (s.notice code d unit info).held k = s.held k := by
  unfold State.held; rw [State.notice_district_orb]
@[simp] theorem State.notice_fenced {s : State} {k : Nat} {code : Nat} {d : Option Nat} {unit info : Nat} : (s.notice code d unit info).fenced k = s.fenced k := by
  unfold State.fenced; rw [State.notice_flt_fenced]
@[simp] theorem State.notice_defined {s : State} {code : Nat} {d : Option Nat} {unit info : Nat} : (s.notice code d unit info).defined = s.defined := by
  unfold State.defined; simp only [State.notice_district_defn]

end Sys2Proof.Machine
end

