-- ==== Sys2Proof/Laws/Bytes.lean ====
section
/-! SUPPORT. Frames of the operations that write memory: which parts of the state they leave as they were. -/

namespace Sys2Proof.Machine

/-- Only memory, its address tags, what is journalled of it, its counters and MEM_KEPT differ. -/
def OnlyBytes (s t : State) : Prop := t = { s with mem := t.mem, tags := t.tags, pwr := t.pwr, cnt := t.cnt, dist := t.dist }

theorem OnlyBytes.refl (s : State) : OnlyBytes s s := rfl

theorem OnlyBytes.trans {s t u : State} (a : OnlyBytes s t) (b : OnlyBytes t u) : OnlyBytes s u := by
  unfold OnlyBytes at *
  rw [b, a]

theorem OnlyBytes.ite {s t u : State} {c : Prop} [Decidable c] (a : OnlyBytes s t) (b : OnlyBytes s u) :
    OnlyBytes s (if c then t else u) := by split <;> assumption

theorem OnlyBytes.each {α : Type} {s t : State} {l : List α} {f : α → State → State} (h : OnlyBytes s t)
    (hf : ∀ x u, OnlyBytes u (f x u)) : OnlyBytes s (t.each l f) := by
  unfold State.each
  induction l generalizing t with
  | nil => exact h
  | cons a l ih => exact ih (h.trans (hf a t))

theorem OnlyBytes.foldl {α β : Type} {s : State} {l : List α} (g : β → State) {f : β → α → β} {t : β} (h : OnlyBytes s (g t))
    (hf : ∀ u x, OnlyBytes (g u) (g (f u x))) : OnlyBytes s (g (l.foldl f t)) := by
  induction l generalizing t with
  | nil => exact h
  | cons a l ih => exact ih (h.trans (hf t a))

theorem State.setMem_onlyBytes (s : State) (m : List Host.Cell) : OnlyBytes s (s.setMem m) := rfl
theorem State.count_onlyBytes (s : State) (i k : Nat) : OnlyBytes s (s.count i k) := rfl
theorem State.modFlt_onlyBytes (s : State) (d : Nat) (f : FltDist → FltDist) : OnlyBytes s (s.modFlt d f) := rfl

/-- What goes with a write: tags and MEM_KEPT. -/
theorem State.touched_eq (s : State) (a len : Nat) :
    s.touched a len = { s with tags := (s.touched a len).tags, pwr := (s.touched a len).pwr } := by
  unfold State.touched
  dsimp only
  repeat' split
  all_goals rfl

theorem State.touched_onlyBytes (s : State) (a len : Nat) : OnlyBytes s (s.touched a len) := by
  rw [State.touched_eq]
  rfl

theorem State.store_onlyBytes (s : State) (a : Nat) (bs : List Byte) : OnlyBytes s (s.store a bs) :=
  (s.setMem_onlyBytes _).trans (State.touched_onlyBytes ..)

theorem State.move_onlyBytes (s : State) (src dst len : Nat) : OnlyBytes s (s.move src dst len) :=
  (s.setMem_onlyBytes _).trans (State.touched_onlyBytes ..)

theorem State.storeBits_onlyBytes (s : State) (a o w v : Nat) : OnlyBytes s (s.storeBits a o w v) := State.store_onlyBytes ..

theorem State.move_dist (s : State) (a b n : Nat) : (s.move a b n).dist = s.dist := by
  unfold State.move
  rw [State.touched_eq]
  rfl

/-- Only counters differ. -/
theorem State.countLines_eq (s : State) (i a len : Nat) : s.countLines i a len = { s with cnt := (s.countLines i a len).cnt } := by
  unfold State.countLines State.each
  generalize List.range 96 = l
  induction l generalizing s with
  | nil => rfl
  | cons c l ih => exact ih _

theorem State.countLines_onlyBytes (s : State) (i a len : Nat) : OnlyBytes s (s.countLines i a len) :=
  OnlyBytes.each (OnlyBytes.refl s) fun _ _ => State.count_onlyBytes ..

theorem State.dirtyPage_onlyBytes (s : State) (d i : Nat) : OnlyBytes s (s.dirtyPage d i) := by
  unfold State.dirtyPage
  refine OnlyBytes.ite (OnlyBytes.refl s) ?_
  extract_lets s1 a s2 s3
  have h1 : OnlyBytes s s1 := OnlyBytes.ite (State.modFlt_onlyBytes ..) (OnlyBytes.refl s)
  have h2 := ((h1.trans (State.move_onlyBytes s1 a (s1.slotAddr d i) MiB)).trans (State.countLines_onlyBytes _ 7 a MiB)).trans
    (State.countLines_onlyBytes _ 7 (s2.slotAddr d i) MiB)
  exact h2.trans (State.modFlt_onlyBytes ..)

theorem State.journal_onlyBytes (s : State) (d a len : Nat) : OnlyBytes s (s.journal d a len) := by
  unfold State.journal
  exact OnlyBytes.ite (OnlyBytes.refl s) (OnlyBytes.each (OnlyBytes.refl s) fun _ _ => State.dirtyPage_onlyBytes ..)

theorem State.env_modFlt {s : State} {d k : Nat} {f : FltDist → FltDist} (h : ∀ x, (f x).rollAt = x.rollAt) :
    (s.modFlt d f).env k = s.env k := by
  unfold State.env
  by_cases e : k = d
  · subst e; simp [h]
  · rw [State.modFlt_district_ne e]

theorem State.touched_env {s : State} {a len k : Nat} : (s.touched a len).env k = s.env k := by
  rw [State.touched_eq]
  rfl

theorem State.move_env {s : State} {src dst len k : Nat} : (s.move src dst len).env k = s.env k := State.touched_env

theorem State.each_env {α : Type} {s : State} {l : List α} {f : α → State → State} {k : Nat} (h : ∀ x u, (f x u).env k = u.env k) :
    (s.each l f).env k = s.env k := by
  unfold State.each
  induction l generalizing s with
  | nil => rfl
  | cons a l ih => exact ih.trans (h a s)

theorem State.countLines_env {s : State} {i a len k : Nat} : (s.countLines i a len).env k = s.env k := State.each_env fun _ _ => rfl

theorem State.dirtyPage_env {s : State} {d i k : Nat} : (s.dirtyPage d i).env k = s.env k := by
  unfold State.dirtyPage
  extract_lets f s1 a s2 s3
  split
  · rfl
  · have h1 : s1.env k = s.env k := by
      simp only [s1]
      split
      · refine State.env_modFlt ?_
        intro x
        rfl
      · rfl
    have h2 : s2.env k = s1.env k := State.move_env
    have h3 : s3.env k = s2.env k := State.countLines_env.trans State.countLines_env
    refine Eq.trans (State.env_modFlt ?_) (h3.trans (h2.trans h1))
    intro x
    rfl

/-- A copy keeps what conversions depend on: seed, step and attempt. -/
theorem State.copy_env {s : State} {d src dst len k : Nat} : (s.copy d src dst len).env k = s.env k := by
  unfold State.copy
  split
  · exact State.move_env
  · split
    · refine State.each_env fun _ _ => ?_
      dsimp only
      split
      · rfl
      · exact State.touched_env
    · rw [State.move_env]
      unfold State.journal
      split
      · rfl
      · exact State.each_env fun _ _ => State.dirtyPage_env

/-- A journalled write. -/
theorem State.write_onlyBytes (s : State) (d a : Nat) (bs : List Byte) : OnlyBytes s (s.write d a bs) := by
  unfold State.write
  exact OnlyBytes.ite (State.store_onlyBytes ..) (OnlyBytes.ite (OnlyBytes.ite (OnlyBytes.refl s) (State.store_onlyBytes ..))
    ((State.journal_onlyBytes ..).trans (State.store_onlyBytes ..)))

/-- A journalled copy. -/
theorem State.copy_onlyBytes (s : State) (d src dst len : Nat) : OnlyBytes s (s.copy d src dst len) := by
  unfold State.copy
  refine OnlyBytes.ite (State.move_onlyBytes ..) (OnlyBytes.ite (OnlyBytes.each (OnlyBytes.refl s) fun _ _ => ?_)
    ((State.journal_onlyBytes ..).trans (State.move_onlyBytes ..)))
  exact OnlyBytes.ite (OnlyBytes.refl _) ((State.setMem_onlyBytes ..).trans (State.touched_onlyBytes ..))

@[simp] theorem State.wroteLines_mem {s : State} {a len : Nat} : (s.wroteLines a len).mem = s.mem := by
  unfold State.wroteLines
  split
  · rfl
  · generalize (List.range _) = l
    unfold State.each
    induction l generalizing s with
    | nil => rfl
    | cons x l ih => exact ih

theorem State.wroteLines_onlyBytes (s : State) (a len : Nat) : OnlyBytes s (s.wroteLines a len) := by
  unfold State.wroteLines
  exact OnlyBytes.ite (OnlyBytes.refl s) (OnlyBytes.each (OnlyBytes.refl s) fun _ _ => State.count_onlyBytes ..)

theorem writeRow_onlyBytes (s : State) (core : Nat) (p : PassI) (c r cols : Nat) (cs : List Conv) :
    OnlyBytes s (writeRow s core p c r cols cs) := by
  unfold writeRow
  refine OnlyBytes.ite (OnlyBytes.each (OnlyBytes.refl s) fun _ _ => State.storeBits_onlyBytes ..) (OnlyBytes.ite ?_ ?_)
  · exact OnlyBytes.each (OnlyBytes.each (OnlyBytes.refl s) fun _ _ => State.storeBits_onlyBytes ..)
      fun _ _ => State.store_onlyBytes ..
  · exact OnlyBytes.each (OnlyBytes.refl s) fun _ _ => State.storeBits_onlyBytes ..

/-- One row of a pass. -/
theorem PassJob.release_onlyBytes (j : PassJob) (att : Nat) (x : PassRun) (r : Nat) : OnlyBytes x.s (j.release att x r).s := by
  unfold PassJob.release
  extract_lets p errs ar sA sW sG oslot
  split
  · exact OnlyBytes.refl _
  · split
    · exact OnlyBytes.refl _
    · split
      split
      dsimp only
      refine OnlyBytes.foldl PassRun.s (OnlyBytes.refl _) fun u ec => ?_
      split
      · exact OnlyBytes.refl _
      · split
        · exact OnlyBytes.refl _
        · exact (writeRow_onlyBytes ..).trans (OnlyBytes.ite (State.store_onlyBytes ..) (OnlyBytes.refl _))

/-- All attempts of a pass. -/
theorem PassJob.attempts_onlyBytes (j : PassJob) (resident : Bool) (left att : Nat) (x : PassRun) :
    OnlyBytes x.s (j.attempts resident left att x).1.s := by
  induction left generalizing att x resident with
  | zero =>
    unfold PassJob.attempts
    extract_lets fail stop x1 rows x2
    have h : OnlyBytes x.s x2.s := OnlyBytes.foldl PassRun.s (OnlyBytes.refl _) fun u r => PassJob.release_onlyBytes j att u r
    clear_value x2 rows fail
    split
    · exact h
    · split
      · exact h
      · exact h
  | succ n ih =>
    unfold PassJob.attempts
    extract_lets fail stop x1 rows x2
    have h : OnlyBytes x.s x2.s := OnlyBytes.foldl PassRun.s (OnlyBytes.refl _) fun u r => PassJob.release_onlyBytes j att u r
    clear_value x2 rows fail
    split
    · exact h
    · split
      · exact h
      · exact h.trans (ih _ _ _)

/-- The elements of an UPDATE. -/
theorem updateRun_onlyBytes (s : State) (env : Env) (core : Nat) (e : Descr) (lo hi : Nat) :
    OnlyBytes s (updateRun s env core e lo hi).1 := by
  unfold updateRun
  split
  extract_lets rd c
  refine OnlyBytes.foldl Prod.fst (OnlyBytes.refl s) fun u i => ?_
  obtain ⟨u, a⟩ := u
  dsimp only
  split
  · exact ((State.write_onlyBytes ..).trans (State.write_onlyBytes ..)).trans (State.write_onlyBytes ..)
  · exact (State.write_onlyBytes ..).trans (State.write_onlyBytes ..)

/-- A block of a PACK. -/
theorem packBlock_onlyBytes (s : State) (env : Env) (e : Descr) (b : Nat) : OnlyBytes s (packBlock s env e b).1 := by
  unfold packBlock
  extract_lets
  split
  exact OnlyBytes.foldl Prod.fst (State.write_onlyBytes ..) fun u i => State.write_onlyBytes ..

/-- A block of an UNPACK. -/
theorem unpackBlock_onlyBytes (s : State) (env : Env) (e : Descr) (srcs : List Nat) (b : Nat) :
    OnlyBytes s (unpackBlock s env e srcs b) := by
  unfold unpackBlock
  exact OnlyBytes.each (OnlyBytes.refl s) fun _ _ => State.write_onlyBytes ..

/-! ## The account of conversions -/

/-- Only slots, districts and counters differ. -/
def OnlyAcct (s t : State) : Prop := t = { s with slots := t.slots, dist := t.dist, cnt := t.cnt, dcnt := t.dcnt }

theorem OnlyAcct.refl (s : State) : OnlyAcct s s := rfl

theorem OnlyAcct.trans {s t u : State} (a : OnlyAcct s t) (b : OnlyAcct t u) : OnlyAcct s u := by
  unfold OnlyAcct at *
  rw [b, a]

theorem OnlyAcct.ite {s t u : State} {c : Prop} [Decidable c] (a : OnlyAcct s t) (b : OnlyAcct s u) :
    OnlyAcct s (if c then t else u) := by split <;> assumption

theorem OnlyAcct.each {α : Type} {s t : State} {l : List α} {f : α → State → State} (h : OnlyAcct s t)
    (hf : ∀ x u, OnlyAcct u (f x u)) : OnlyAcct s (t.each l f) := by
  unfold State.each
  induction l generalizing t with
  | nil => exact h
  | cons a l ih => exact ih (h.trans (hf a t))

theorem OnlyLog.onlyAcct {s t : State} (h : OnlyLog s t) : OnlyAcct s t := by
  unfold OnlyLog at h
  unfold OnlyAcct
  rw [h]

/-- Booking an account touches no core, box, memory or orbit. -/
theorem State.book_onlyAcct (s : State) (d unit info : Nat) (counted : Bool) (a : Acct) : OnlyAcct s (s.book d unit info counted a) := by
  unfold State.book
  extract_lets s1 s2
  have h1 : OnlyAcct s s1 := by
    refine OnlyAcct.each (OnlyAcct.refl s) fun x u => ?_
    obtain ⟨slot, e⟩ := x
    dsimp only
    have h : ∀ f : NumDist → NumDist, OnlyAcct u (if e = NumEv.values then u else u.modNum d f) := fun f => OnlyAcct.ite (OnlyAcct.refl u) rfl
    split
    · exact h _
    · exact OnlyAcct.ite (OnlyAcct.ite ((h _).trans rfl) ((h _).trans rfl)) (h _)
  have h2 : OnlyAcct s s2 := OnlyAcct.ite (h1.trans (State.notice_onlyLog ..).onlyAcct) h1
  exact OnlyAcct.ite (OnlyAcct.each h2 fun _ _ => rfl) h2

/-! ## What a pass does beside its rows -/

/-- Core `n` stays at its instruction; memory, the orbit, boxes, rings and stage queues are as they were. -/
structure SamePlace (n : Nat) (s t : State) : Prop where
  pc : (t.core n).pc = (s.core n).pc
  next : (t.core n).next = (s.core n).next
  mem : t.mem = s.mem
  orb : t.orb = s.orb
  boxes : t.boxes = s.boxes
  rings : t.rings = s.rings
  queues : t.queues = s.queues

theorem SamePlace.refl (n : Nat) (s : State) : SamePlace n s s := ⟨rfl, rfl, rfl, rfl, rfl, rfl, rfl⟩

theorem SamePlace.trans {n : Nat} {s t u : State} (a : SamePlace n s t) (b : SamePlace n t u) : SamePlace n s u :=
  ⟨b.1.trans a.1, b.2.trans a.2, b.3.trans a.3, b.4.trans a.4, b.5.trans a.5, b.6.trans a.6, b.7.trans a.7⟩

theorem SamePlace.each {n : Nat} {α : Type} {s t : State} {l : List α} {f : α → State → State} (h : SamePlace n s t)
    (hf : ∀ x u, SamePlace n u (f x u)) : SamePlace n s (t.each l f) := by
  unfold State.each
  induction l generalizing t with
  | nil => exact h
  | cons a l ih => exact ih (h.trans (hf a t))

theorem OnlyAcct.samePlace {n : Nat} {s t : State} (h : OnlyAcct s t) : SamePlace n s t := by
  have hc : t.core n = s.core n := by unfold State.core; rw [h]
  refine ⟨by rw [hc], by rw [hc], ?_, ?_, ?_, ?_, ?_⟩ <;> rw [h]

theorem State.modCore_samePlace {n : Nat} (s : State) (m : Nat) (f : Core → Core) (h : ∀ c, (f c).pc = c.pc ∧ (f c).next = c.next) :
    SamePlace n s (s.modCore m f) := by
  refine ⟨?_, ?_, rfl, rfl, rfl, rfl, rfl⟩ <;>
  · by_cases e : n = m
    · subst e; rw [State.modCore_core]; first | exact (h _).1 | exact (h _).2
    · rw [State.modCore_core_ne e]

theorem State.count_samePlace {n : Nat} (s : State) (i k : Nat) : SamePlace n s (s.count i k) := ⟨rfl, rfl, rfl, rfl, rfl, rfl, rfl⟩

theorem State.useArrays_samePlace {n : Nat} (s : State) (m : Nat) (p : PassI) : SamePlace n s (s.useArrays m p) := by
  unfold State.useArrays
  split
  · exact SamePlace.refl n s
  · exact SamePlace.each (SamePlace.refl n s) fun _ u => u.modCore_samePlace _ _ fun _ => ⟨rfl, rfl⟩

theorem State.countMacs_samePlace {n : Nat} (s : State) (m k : Nat) : SamePlace n s (s.countMacs m k) := by
  unfold State.countMacs
  refine (s.modCore_samePlace m (fun c => { c with macs := ((s.core m).macs + k) % 1024 }) fun _ => ⟨rfl, rfl⟩).trans ?_
  exact ⟨rfl, rfl, rfl, rfl, rfl, rfl, rfl⟩

/-- Failed checks are recorded and logged, and move nothing. -/
theorem State.passFailures_samePlace {n : Nat} (s : State) (d m : Nat) (j : PassJob) (k : Nat) (last : Option Nat) :
    SamePlace n s (s.passFailures d m j k last) := by
  unfold State.passFailures
  extract_lets fails all
  split
  · exact SamePlace.refl n s
  · dsimp only
    refine SamePlace.each ?_ fun _ u => (State.event_onlyLog ..).onlyAcct.samePlace
    refine ((State.modCore_samePlace s m _ ?_).trans (State.count_samePlace ..)).trans (State.count_samePlace ..)
    intro c
    exact ⟨rfl, rfl⟩

end Sys2Proof.Machine
end

