-- ==== Sys2Proof/Laws/Memory.lean ====
section
/-! SUPPORT. Memory: every operation keeps the canonical form, and what a read gives after a write. -/

namespace Sys2Proof.Machine

theorem Memory.set_mem {m : List Host.Cell} {a : Nat} {b : Byte} {c : Host.Cell} (h : c ∈ Memory.set m a b) :
    c ∈ m ∨ (c = (a, b) ∧ b ≠ Memory.blank) := by
  induction m with
  | nil => simp only [Memory.set] at h; split at h <;> simp_all
  | cons x r ih =>
    obtain ⟨x, v⟩ := x
    simp only [Memory.set] at h
    split at h
    · split at h
      · exact .inl h
      · simp only [List.mem_cons] at h ⊢; rcases h with h | h <;> simp_all
    · split at h
      · split at h
        · exact .inl (List.mem_cons_of_mem _ h)
        · simp only [List.mem_cons] at h ⊢; rcases h with h | h <;> simp_all
      · simp only [List.mem_cons] at h ⊢
        rcases h with h | h
        · exact .inl (.inl h)
        · exact (ih h).imp .inr id

theorem Memory.wf_nil : Memory.wf [] := ⟨.nil, nofun⟩

theorem Memory.wf_set {m : List Host.Cell} (a : Nat) (b : Byte) (h : Memory.wf m) : Memory.wf (Memory.set m a b) := by
  refine ⟨?_, fun c hc => (Memory.set_mem hc).elim (h.2 c) fun e => by rw [e.1]; exact e.2⟩
  obtain ⟨h, -⟩ := h
  induction m with
  | nil => simp only [Memory.set]; split <;> simp
  | cons x r ih =>
    obtain ⟨x, v⟩ := x
    simp only [List.pairwise_cons] at h
    simp only [Memory.set]
    split
    · split
      · simpa using h
      · simp only [List.pairwise_cons, List.mem_cons]
        refine ⟨?_, h⟩
        rintro c (rfl | hc)
        · assumption
        · have := h.1 c hc; simp at *; omega
    · split
      · split
        · exact h.2
        · subst a; simpa using h
      · simp only [List.pairwise_cons]
        refine ⟨fun c hc => ?_, ih h.2⟩
        rcases Memory.set_mem hc with hc | ⟨rfl, -⟩
        · exact h.1 c hc
        · simp at *; omega

theorem Memory.wf_write {m : List Host.Cell} (a : Nat) (bs : List Byte) (h : Memory.wf m) :
    Memory.wf (Memory.write m a bs) := by
  induction bs generalizing m a with
  | nil => exact h
  | cons b bs ih => exact ih _ (Memory.wf_set a b h)

theorem Memory.wf_place {m : List Host.Cell} (cs : List Host.Cell) (h : Memory.wf m) : Memory.wf (Memory.place m cs) := by
  unfold Memory.place
  induction cs generalizing m with
  | nil => exact h
  | cons c cs ih => exact ih (Memory.wf_set _ _ h)

theorem Memory.wf_filter {m : List Host.Cell} (f : Host.Cell → Bool) (h : Memory.wf m) : Memory.wf (m.filter f) :=
  ⟨h.1.filter f, fun c hc => h.2 c (List.mem_filter.1 hc).1⟩

theorem Memory.wf_copy {m : List Host.Cell} (src dst len : Nat) (h : Memory.wf m) : Memory.wf (Memory.copy m src dst len) :=
  Memory.wf_place _ (Memory.wf_filter _ h)

theorem Memory.get_below {r : List Host.Cell} {y : Nat} (h : ∀ c ∈ r, y < c.1) : Memory.get r y = Memory.blank := by
  induction r with
  | nil => rfl
  | cons d r ih =>
    have := h d (List.mem_cons_self ..)
    simp only [Memory.get]
    rw [if_neg (by omega), ih fun c hc => h c (List.mem_cons_of_mem _ hc)]

/-- Reading what a filter by address leaves. -/
theorem Memory.get_filter (f : Nat → Bool) (m : List Host.Cell) (a : Nat) :
    Memory.get (m.filter fun c => f c.1) a = if f a then Memory.get m a else Memory.blank := by
  induction m with
  | nil => simp [Memory.get]
  | cons c m ih =>
    rw [List.filter_cons]
    by_cases hc : a = c.1
    · subst hc
      by_cases hf : f c.1 = true
      · simp [hf, Memory.get]
      · rw [if_neg hf, ih, if_neg hf, if_neg hf]
    · split
      · simp [Memory.get, hc, ih]
      · rw [ih]; simp [Memory.get, hc]

theorem Memory.get_set {m : List Host.Cell} (h : Memory.wf m) (a : Nat) (b : Byte) (x : Nat) :
    Memory.get (Memory.set m a b) x = if x = a then b else Memory.get m x := by
  obtain ⟨h, -⟩ := h
  induction m with
  | nil => simp only [Memory.set]; split <;> simp_all [Memory.get]
  | cons c r ih =>
    obtain ⟨y, v⟩ := c
    simp only [List.pairwise_cons] at h
    have ih := ih h.2
    simp only [Memory.set]
    split
    · split
      · simp only [Memory.get]
        by_cases hx : x = a
        · subst hx
          rw [if_neg (by omega), Memory.get_below fun c hc => by have : y < c.1 := h.1 c hc; omega]
          simp [*]
        · simp [hx]
      · simp only [Memory.get]
    · split
      · subst a
        split
        · simp only [Memory.get]
          by_cases hx : x = y
          · subst hx; simp [Memory.get_below h.1, *]
          · simp [hx]
        · simp only [Memory.get]; split <;> rfl
      · simp only [Memory.get]
        by_cases hx : x = y
        · subst hx; rw [if_pos rfl, if_pos rfl, if_neg (by omega)]
        · simp [hx, ih]

theorem Memory.get_write {m : List Host.Cell} (h : Memory.wf m) (a : Nat) (bs : List Byte) (x : Nat) :
    Memory.get (Memory.write m a bs) x = if a ≤ x ∧ x < a + bs.length then bs.getD (x - a) 0 else Memory.get m x := by
  induction bs generalizing m a with
  | nil => simp [Memory.write] <;> omega
  | cons b bs ih =>
    simp only [Memory.write, ih (Memory.wf_set a b h), Memory.get_set h, List.length_cons]
    by_cases hx : x = a
    · subst hx; simp <;> omega
    · by_cases hy : a + 1 ≤ x ∧ x < a + 1 + bs.length
      · have : x - a = (x - (a + 1)) + 1 := by omega
        rw [if_pos hy, if_pos (by omega), this, List.getD_cons_succ]
      · rw [if_neg hy, if_neg hx, if_neg (by omega)]

/-- Reading after listed cells are placed. -/
theorem Memory.get_place (cs : List Host.Cell) : ∀ b, Memory.wf b → Memory.wf cs → ∀ x, Memory.get (Memory.place b cs) x
    = if Memory.get cs x = Memory.blank then Memory.get b x else Memory.get cs x := by
  induction cs with
  | nil => intro b _ _ x; simp [Memory.place, Memory.get]
  | cons c r ih =>
    intro b hb hc x
    obtain ⟨a1, a2⟩ := hc
    rw [List.pairwise_cons] at a1
    rw [show Memory.place b (c :: r) = Memory.place (Memory.set b c.1 c.2) r from rfl,
      ih _ (Memory.wf_set _ _ hb) ⟨a1.2, fun x hx => a2 x (List.mem_cons_of_mem _ hx)⟩, Memory.get_set hb]
    by_cases hx : x = c.1
    · subst hx
      have := Memory.get_below a1.1
      rw [if_pos this, if_pos rfl]
      have z := a2 c (List.mem_cons_self ..)
      rw [show Memory.get (c :: r) c.1 = c.2 by simp [Memory.get]]; exact (if_neg z).symm
    · rw [if_neg hx, show Memory.get (c :: r) x = Memory.get r x by simp [Memory.get, hx]]

end Sys2Proof.Machine
end

