-- ==== Sys2Proof/Laws/Boxes.lean ====
section
/-! SUPPORT. Postboxes: room, links, reads and dead letters. -/

namespace Sys2Proof.Machine

theorem leBytes_length (n v : Nat) : (leBytes n v).length = n := by
  induction n generalizing v with
  | zero => rfl
  | succ n ih => simp [leBytes, ih]

theorem readSlot_length (x : BoxItem) (tagged : Bool) : (readSlot x tagged).length = if tagged then 64 else 32 := by
  unfold readSlot
  have h : (List.range 4).length = 4 := rfl
  cases tagged <;> simp [leBytes_length, List.range, List.range.loop]

/-- Room in a postbox depends on a core only through its unlinked message. -/
theorem State.boxRoom_modCore (s : State) (n : Nat) (f : Core → Core) (h : ∀ c, (f c).unlinked = c.unlinked) (d b k : Nat) :
    (s.modCore n f).boxRoom d b k = s.boxRoom d b k := by
  have hu : ∀ m, ((s.modCore n f).core m).unlinked = (s.core m).unlinked := fun m => by
    by_cases e : m = n
    · subst e; simp [h]
    · rw [State.modCore_core_ne e]
  have e0 : (s.modCore n f).coresOf d = s.coresOf d := rfl
  have e1 : (s.modCore n f).claimed d b = s.claimed d b := by simp only [State.claimed, e0, hu]
  have e2 : (s.modCore n f).cells d = s.cells d := by
    have a : (s.modCore n f).boxesOf d = s.boxesOf d := rfl
    have b : (s.modCore n f).queuesOf d = s.queuesOf d := rfl
    simp only [State.cells, e0, hu, a, b]
    rfl
  have e3 : (s.modCore n f).active d = s.active d := rfl
  have e4 : (s.modCore n f).quota d = s.quota d := rfl
  simp only [State.boxRoom, e1, e2, e3, e4]
  rfl

/-- A postbox whose reader has nothing outstanding feeds no READ. -/
theorem State.feedReads_idle {s : State} {d b e : Nat} (he : (s.active d).bind (·.boxEntry b) = some e)
    (ho : (s.core (beReader e)).outs = []) : s.feedReads d b = s := by
  unfold State.feedReads
  simp only [he, ho]
  rfl

/-- An empty postbox feeds no READ. -/
theorem State.feedReads_empty {s : State} {d b : Nat} (h : (s.box b).items = []) : s.feedReads d b = s := by
  unfold State.feedReads
  split
  · rfl
  · dsimp only
    generalize hl : List.filter _ _ = l
    have hk : ∀ o ∈ l, ∀ x dst left t f, o.kind = .read x dst left t f → x = b := by
      intro o ho x dst left t f e
      rw [← hl] at ho
      have := (List.mem_filter.1 ho).2
      simpa [e] using this
    clear hl
    unfold State.each
    induction l with
    | nil => rfl
    | cons o l ih =>
      have e : s.feedRead (beReader ‹Nat›) o = s := by
        unfold State.feedRead
        split
        · rename_i x dst left t f e
          have := hk o (List.mem_cons_self ..) _ _ _ _ _ e
          subst this
          simp [h]
        · rfl
      rw [List.foldl_cons]
      show List.foldl _ (s.feedRead _ o) l = s
      rw [e]
      exact ih fun o ho => hk o (List.mem_cons_of_mem _ ho)

/-- A postbox that holds enough feeds its reader's only READ. -/
theorem State.feedReads_one {s : State} {d b e dst left pc : Nat} {tagged final : Bool} {srcs dsts : List (Nat × Nat)}
    (he : (s.active d).bind (·.boxEntry b) = some e) (ho : (s.core (beReader e)).outs = [⟨pc, .read b dst left tagged final, srcs, dsts⟩])
    (hn : left ≠ 0) (hl : left ≤ (s.box b).items.length) :
    s.feedReads d b = (((((s.modBox b fun x => { x with items := x.items.drop left }).each ((s.box b).items.take left).zipIdx fun x t =>
        t.store (sramAddr (beReader e) (dst + x.2 * if tagged then 64 else 32)) (readSlot x.1 tagged)).modCore (beReader e) fun c =>
        c.complete fun y => decide (y = ⟨pc, .read b dst left tagged final, srcs, dsts⟩))).finalRead b final) := by
  unfold State.feedReads
  simp only [he, ho]
  have hx : ((s.box b).items.take left).length = left := by simp <;> omega
  have h1 : min left (s.box b).items.length = left := by omega
  have h2 : (s.box b).items ≠ [] := by
    intro h
    rw [h] at hl
    simp at hl
    omega
  simp [State.each, State.feedRead, hn, h1, h2, hl]

/-- Slots stored one behind the other change nothing outside them. -/
theorem State.storeSlots_get {s : State} {base size : Nat} {xs : List (BoxItem × Nat)} {f : BoxItem → List Byte} {n : Nat}
    (hw : Memory.wf s.mem) (hx : ∀ x ∈ xs, x.2 < n) (hf : ∀ x, (f x).length ≤ size) (a : Nat) (ha : a < base ∨ base + n * size ≤ a) :
    Memory.wf (s.each xs fun x t => t.store (base + x.2 * size) (f x.1)).mem
      ∧ Memory.get (s.each xs fun x t => t.store (base + x.2 * size) (f x.1)).mem a = Memory.get s.mem a := by
  have hm : ∀ (t : State) b bs, (t.store b bs).mem = Memory.write t.mem b bs := by
    intro t b bs
    unfold State.store
    rw [State.touched_eq]
    rfl
  induction xs generalizing s with
  | nil => exact ⟨hw, rfl⟩
  | cons x l ih =>
    have h1 : x.2 < n := hx x (List.mem_cons_self ..)
    have h2 := hf x.1
    have hw' : Memory.wf (s.store (base + x.2 * size) (f x.1)).mem := by rw [hm]; exact Memory.wf_write _ _ hw
    have e := ih hw' fun y hy => hx y (List.mem_cons_of_mem _ hy)
    refine ⟨e.1, e.2.trans ?_⟩
    rw [hm, Memory.get_write hw, if_neg]
    have h3 : (x.2 + 1) * size ≤ n * size := Nat.mul_le_mul_right _ h1
    rw [Nat.add_mul] at h3
    omega

/-- Items linked into a live postbox that no READ waits for stand behind the others. -/
theorem State.linkItems_live {s : State} {d b e : Nat} {xs : List BoxItem} (hl : (s.box b).state ≠ 2)
    (he : (s.active d).bind (·.boxEntry b) = some e) (ho : (s.core (beReader e)).outs = []) :
    s.linkItems d b xs = (((s.modBox b fun x => { x with items := x.items ++ xs, high := max x.high (x.items.length + xs.length) }).count
      (ctrBox b 0) 1).count (ctrBox b 1) xs.length).noteCells d := by
  unfold State.linkItems
  rw [if_neg hl]
  apply State.feedReads_idle (e := e)
  · simpa [State.active, State.noteCells] using he
  · exact ho

/-- A dead letter leaves boxes and cores alone. -/
theorem State.deadLetter_frame (s : State) (d b : Nat) (x : BoxItem) (cause : Nat) :
    (s.deadLetter d b x cause).boxes = s.boxes ∧ (s.deadLetter d b x cause).cores = s.cores := by
  have ht : ∀ (t : State) a bs, (t.store a bs).boxes = t.boxes ∧ (t.store a bs).cores = t.cores := by
    intro t a bs
    have h := t.store_onlyBytes a bs
    constructor <;> rw [h]
  unfold State.deadLetter
  extract_lets s1 s2 s3 p n
  have h3 : s3.boxes = s.boxes ∧ s3.cores = s.cores := by
    simp only [s3]
    split <;> simp [s2, s1]
  split
  · simp [h3]
  · have := ht s3 (p.dlrBase + p.dlrHead % n * 64) (letterOf s3 d b x cause)
    simp [this, h3]

/-- Neither does a postbox's death, but for that box. -/
theorem State.killBox_frame (s : State) (d b cause : Nat) :
    (s.killBox d b cause).boxes = s.boxes.set b { s.box b with items := [], state := 2, dying := false }
      ∧ (s.killBox d b cause).cores = s.cores := by
  unfold State.killBox
  extract_lets xs s1
  have h : ∀ (l : List BoxItem) (t : State), (t.each l fun x t => t.deadLetter d b x cause).boxes = t.boxes
      ∧ (t.each l fun x t => t.deadLetter d b x cause).cores = t.cores := by
    intro l
    induction l with
    | nil => exact fun _ => ⟨rfl, rfl⟩
    | cons a l ih =>
      intro t
      have e := ih (t.deadLetter d b a cause)
      have f := t.deadLetter_frame d b a cause
      exact ⟨e.1.trans f.1, e.2.trans f.2⟩
  exact h xs s1

/-! ## Stores to core SRAM -/

@[simp] theorem State.store_mem {s : State} {a : Nat} {bs : List Byte} : (s.store a bs).mem = Memory.write s.mem a bs := by
  unfold State.store
  rw [State.touched_eq]
  rfl
@[simp] theorem State.store_core_eq {s : State} {a : Nat} {bs : List Byte} {k : Nat} : (s.store a bs).core k = s.core k := by
  unfold State.store
  rw [State.touched_eq]
  rfl
@[simp] theorem State.store_box_eq {s : State} {a : Nat} {bs : List Byte} {k : Nat} : (s.store a bs).box k = s.box k := by
  unfold State.store
  rw [State.touched_eq]
  rfl
@[simp] theorem State.store_queue_eq {s : State} {a : Nat} {bs : List Byte} {k : Nat} : (s.store a bs).queue k = s.queue k := by
  unfold State.store
  rw [State.touched_eq]
  rfl
@[simp] theorem State.store_ring_eq {s : State} {a : Nat} {bs : List Byte} {k : Nat} : (s.store a bs).ring k = s.ring k := by
  unfold State.store
  rw [State.touched_eq]
  rfl
@[simp] theorem State.store_district_eq {s : State} {a : Nat} {bs : List Byte} {k : Nat} : (s.store a bs).district k = s.district k := by
  unfold State.store
  rw [State.touched_eq]
  rfl
@[simp] theorem State.store_memc {s : State} {a : Nat} {bs : List Byte} : (s.store a bs).memc = s.memc := by
  unfold State.store
  rw [State.touched_eq]
  rfl

end Sys2Proof.Machine
end

