-- ==== Sys2Proof/Laws/Keeps.lean ====
section
/-! SUPPORT. The relation between the states before and after an operation, and how it passes through folds, tests and updates. -/

namespace Sys2Proof.Machine

/-- What every operation of the model does with some parts of the state, from `s` to `t`: the queue of commands stays, the memory
keeps its canonical form, and each flag that holds says one thing more: `p`, a halted module stays halted; `q`, the orbit number and
RUN stay; `w`, no byte of memory changes; `y`, the windows of the host's keys stay. An operation that does one of these has its lemma
with that flag false. -/
structure Keeps (p q w y : Bool) (s t : State) : Prop where
  pending : t.pending = s.pending
  mem : Memory.wf s.mem → Memory.wf t.mem
  halted : p = true → s.pwr.halted = true → t.pwr.halted = true
  orbit : q = true → t.orb.number = s.orb.number ∧ t.orb.run = s.orb.run
  bytes : w = true → t.mem = s.mem
  keys : y = true → t.windows = s.windows
theorem Keeps.refl {p q w y : Bool} (s : State) : Keeps p q w y s s := ⟨rfl, id, fun _ => id, fun _ => ⟨rfl, rfl⟩, fun _ => rfl, fun _ => rfl⟩
theorem Keeps.trans {p q w y : Bool} {s t u : State} (a : Keeps p q w y s t) (b : Keeps p q w y t u) : Keeps p q w y s u :=
  ⟨b.1.trans a.1, b.2 ∘ a.2, fun h => b.3 h ∘ a.3 h, fun h => ⟨(b.4 h).1.trans (a.4 h).1, (b.4 h).2.trans (a.4 h).2⟩,
    fun h => (b.5 h).trans (a.5 h), fun h => (b.6 h).trans (a.6 h)⟩
theorem Keeps.each {p q w y : Bool} {α : Type} {s t : State} {l : List α} {f : α → State → State} (h : Keeps p q w y s t)
    (hf : ∀ x u, Keeps p q w y s u → Keeps p q w y s (f x u)) : Keeps p q w y s (t.each l f) := by
  unfold State.each
  induction l generalizing t with
  | nil => exact h
  | cons a l ih => exact ih (hf a t h)
theorem Keeps.foldl {p q w y : Bool} {α : Type} {s t : State} {l : List α} {f : State → α → State} (h : Keeps p q w y s t)
    (hf : ∀ x u, Keeps p q w y s u → Keeps p q w y s (f u x)) : Keeps p q w y s (l.foldl f t) := by
  induction l generalizing t with
  | nil => exact h
  | cons a l ih => exact ih (hf a t h)
theorem Keeps.foldl1 {p q w y : Bool} {α β : Type} {s : State} {l : List α} {f : State × β → α → State × β} {t : State × β} (h : Keeps p q w y s t.1)
    (hf : ∀ x u, Keeps p q w y s u.1 → Keeps p q w y s (f u x).1) : Keeps p q w y s (l.foldl f t).1 := by
  induction l generalizing t with
  | nil => exact h
  | cons a l ih => exact ih (hf a t h)
theorem Keeps.foldl2 {p q w y : Bool} {α β : Type} {s : State} {l : List α} {f : β × State → α → β × State} {t : β × State} (h : Keeps p q w y s t.2)
    (hf : ∀ x u, Keeps p q w y s u.2 → Keeps p q w y s (f u x).2) : Keeps p q w y s (l.foldl f t).2 := by
  induction l generalizing t with
  | nil => exact h
  | cons a l ih => exact ih (hf a t h)
theorem Keeps.fst_eq {p q w y : Bool} {α : Type} {s u : State} {v : α} {r : State × α} (e : r = (u, v)) (h : Keeps p q w y s r.1) : Keeps p q w y s u := by
  subst e; exact h
theorem Keeps.snd_eq {p q w y : Bool} {α : Type} {s u : State} {v : α} {r : α × State} (e : r = (v, u)) (h : Keeps p q w y s r.2) : Keeps p q w y s u := by
  subst e; exact h
theorem Keeps.foldlOn {p q w y : Bool} {α β : Type} {s : State} {l : List α} (g : β → State) {f : β → α → β} {t : β}
    (h : Keeps p q w y s (g t)) (hf : ∀ x u, Keeps p q w y s (g u) → Keeps p q w y s (g (f u x))) : Keeps p q w y s (g (l.foldl f t)) := by
  induction l generalizing t with
  | nil => exact h
  | cons a l ih => exact ih (hf a t h)

theorem Keeps.ite {p q w y : Bool} {s a b : State} {c : Prop} [Decidable c] (ha : Keeps p q w y s a) (hb : Keeps p q w y s b) :
    Keeps p q w y s (if c then a else b) := by split <;> assumption
theorem Keeps.ite1 {p q w y : Bool} {α : Type} {s : State} {a b : State × α} {c : Prop} [Decidable c] (ha : Keeps p q w y s a.1) (hb : Keeps p q w y s b.1) :
    Keeps p q w y s (if c then a else b).1 := by split <;> assumption
theorem Keeps.ite2 {p q w y : Bool} {α : Type} {s : State} {a b : α × State} {c : Prop} [Decidable c] (ha : Keeps p q w y s a.2) (hb : Keeps p q w y s b.2) :
    Keeps p q w y s (if c then a else b).2 := by split <;> assumption
theorem Keeps.lit {p q w y : Bool} {s t : State} (h : Keeps p q w y s t)
    {x1 x2 x3 x4 x5 x6 x7 x8 x9 x10 x11 x12 x13 x14 x15 x17 x18 x19 x20} :
    Keeps p q w y s ⟨t.pending, x1, t.mem, x2, t.pwr, t.orb, x3, x4, x5, x6, x7, x8, x9, x10, x11, x12, x13, x14, x15, t.windows, x17, x18, x19, x20⟩ :=
  h.trans ⟨rfl, id, fun _ => id, fun _ => ⟨rfl, rfl⟩, fun _ => rfl, fun _ => rfl⟩
theorem Keeps.litP {p q w y : Bool} {s t : State} (h : Keeps p q w y s t) {pw : Power}
    {x1 x2 x3 x4 x5 x6 x7 x8 x9 x10 x11 x12 x13 x14 x15 x17 x18 x19 x20}
    (hp : p = true → t.pwr.halted = true → pw.halted = true) :
    Keeps p q w y s ⟨t.pending, x1, t.mem, x2, pw, t.orb, x3, x4, x5, x6, x7, x8, x9, x10, x11, x12, x13, x14, x15, t.windows, x17, x18, x19, x20⟩ :=
  h.trans ⟨rfl, id, hp, fun _ => ⟨rfl, rfl⟩, fun _ => rfl, fun _ => rfl⟩
theorem Keeps.litO {p q w y : Bool} {s t : State} (h : Keeps p q w y s t) {o : Orb}
    {x1 x2 x3 x4 x5 x6 x7 x8 x9 x10 x11 x12 x13 x14 x15 x17 x18 x19 x20}
    (hq : q = true → o.number = t.orb.number ∧ o.run = t.orb.run) :
    Keeps p q w y s ⟨t.pending, x1, t.mem, x2, t.pwr, o, x3, x4, x5, x6, x7, x8, x9, x10, x11, x12, x13, x14, x15, t.windows, x17, x18, x19, x20⟩ :=
  h.trans ⟨rfl, id, fun _ => id, hq, fun _ => rfl, fun _ => rfl⟩
theorem Keeps.litPO {p q w y : Bool} {s t : State} (h : Keeps p q w y s t) {pw : Power} {o : Orb}
    {x1 x2 x3 x4 x5 x6 x7 x8 x9 x10 x11 x12 x13 x14 x15 x17 x18 x19 x20}
    (hp : p = true → t.pwr.halted = true → pw.halted = true)
    (hq : q = true → o.number = t.orb.number ∧ o.run = t.orb.run) :
    Keeps p q w y s ⟨t.pending, x1, t.mem, x2, pw, o, x3, x4, x5, x6, x7, x8, x9, x10, x11, x12, x13, x14, x15, t.windows, x17, x18, x19, x20⟩ :=
  h.trans ⟨rfl, id, hp, hq, fun _ => rfl, fun _ => rfl⟩
theorem Keeps.litW {p q w y : Bool} {s t : State} (h : Keeps p q w y s t) {ws : Tbl Window}
    {x1 x2 x3 x4 x5 x6 x7 x8 x9 x10 x11 x12 x13 x14 x15 x17 x18 x19 x20} (hk : y = true → ws = t.windows) :
    Keeps p q w y s ⟨t.pending, x1, t.mem, x2, t.pwr, t.orb, x3, x4, x5, x6, x7, x8, x9, x10, x11, x12, x13, x14, x15, ws, x17, x18, x19, x20⟩ :=
  h.trans ⟨rfl, id, fun _ => id, fun _ => ⟨rfl, rfl⟩, fun _ => rfl, hk⟩

end Sys2Proof.Machine
end

