-- ==== Sys2Proof/Laws/Events.lean ====
section
/-! SUPPORT. What a fence, a hold and a rollback leave; counters. -/

namespace Sys2Proof.Machine

/-! ## Counters -/

theorem State.counter_count (s : State) (k n j : Nat) :
    (s.count k n).counter j = if j = k then (s.counter k + n) % 2 ^ 64 else s.counter j := by
  unfold State.counter State.count
  simp only [Tbl.get_set]

theorem State.counter_setCount (s : State) (k v j : Nat) : (s.setCount k v).counter j = if j = k then v else s.counter j := by
  unfold State.counter State.setCount
  simp only [Tbl.get_set]

@[simp] theorem State.counter_notice {s : State} {code : Nat} {d : Option Nat} {unit info j : Nat} :
    (s.notice code d unit info).counter j = s.counter j := by
  unfold State.counter
  rw [State.notice_cnt]

@[simp] theorem State.counter_event {s : State} {code : Nat} {cls : Class} {d : Option Nat} {unit info j : Nat} :
    (s.event code cls d unit info).counter j = s.counter j := by
  unfold State.counter
  rw [State.event_cnt]

/-- What no round of a fold changes, the fold does not change. -/
theorem State.each_field {α β : Type} (g : State → β) {f : α → State → State} (h : ∀ x t, g (f x t) = g t) (l : List α) (s : State) :
    g (s.each l f) = g s := by
  induction l generalizing s with
  | nil => rfl
  | cons a l ih => exact (ih _).trans (h a s)

/-! ## Fences and holds -/

theorem State.stopDistrict_cnt (s : State) (d : Nat) : (s.stopDistrict d).cnt = s.cnt := by
  rw [State.stopDistrict_onlyWork]

theorem State.fence_cnt (s : State) (d code unit info : Nat) : (s.fence d code unit info).cnt = s.cnt := by
  rw [State.fence_onlyWork]

theorem State.fence_fenced (s : State) (d code unit info : Nat) (h : s.halted = false) : (s.fence d code unit info).fenced d = true := by
  unfold State.fence
  extract_lets s1 s2 s3 s4
  split
  · rename_i h'
    simpa [s1, h] using h'
  · have : ∀ (l : List Nat) (t : State), t.fenced d = true →
        (t.each l fun p t => if t.tensorDistrict p == some d then t.modPort p fun x => { x with cardLocal := t.cardOf p } else t).fenced d
          = true := by
      intro l
      induction l with
      | nil => intro t h; exact h
      | cons a l ih =>
        intro t h
        simp only [State.each, List.foldl_cons]
        apply ih
        split
        · exact h
        · exact h
    apply this
    simp [s3, s4, State.fenced]

theorem State.enterHold_held (s : State) (d : Nat) (b : Bool) : (s.enterHold d b).held d = true := by
  unfold State.enterHold
  split
  · assumption
  · simp [State.held]

theorem State.rollbackHold_held (s : State) (d code unit info : Nat) (h1 : s.fenced d = false) (h2 : s.halted = false)
    (h3 : (s.active d).isSome) : (s.rollbackHold d code unit info).held d = true := by
  unfold State.rollbackHold
  extract_lets s1 b s2
  split
  · rename_i h
    have h4 : s1.fenced d = false := by simp [s1, h1]
    have h5 : s1.halted = false := by simp [s1, h2]
    have h6 : (s1.active d).isNone = false := by simp [s1]; cases hx : s.active d <;> simp_all
    simp [h4, h5, h6] at h
    exact h
  · exact State.enterHold_held ..

/-! ## Rollbacks -/

/-- Every district stands as it did: its definition, orbit registers, image and fence; and so do power and orbit. -/
structure SameStanding (s t : State) : Prop where
  defn : ∀ k, (t.district k).defn = (s.district k).defn
  orb : ∀ k, (t.district k).orb = (s.district k).orb
  img : ∀ k, (t.district k).img = (s.district k).img
  fenced : ∀ k, (t.district k).flt.fenced = (s.district k).flt.fenced
  rlead : ∀ k, (t.district k).flt.rlead = (s.district k).flt.rlead
  pwr : t.pwr = s.pwr
  orbit : t.orb = s.orb

theorem SameStanding.refl (s : State) : SameStanding s s := ⟨fun _ => rfl, fun _ => rfl, fun _ => rfl, fun _ => rfl, fun _ => rfl, rfl, rfl⟩

theorem SameStanding.trans {s t u : State} (a : SameStanding s t) (b : SameStanding t u) : SameStanding s u :=
  ⟨fun k => (b.defn k).trans (a.defn k), fun k => (b.orb k).trans (a.orb k), fun k => (b.img k).trans (a.img k),
    fun k => (b.fenced k).trans (a.fenced k), fun k => (b.rlead k).trans (a.rlead k), b.pwr.trans a.pwr, b.orbit.trans a.orbit⟩

theorem SameStanding.each {α : Type} {s t : State} {l : List α} {f : α → State → State} (h : SameStanding s t)
    (hf : ∀ x u, SameStanding u (f x u)) : SameStanding s (t.each l f) := by
  induction l generalizing t with
  | nil => exact h
  | cons a l ih => exact ih (h.trans (hf a t))

theorem SameStanding.of_dist {s t : State} (h : t.dist = s.dist) (hp : t.pwr = s.pwr) (ho : t.orb = s.orb) : SameStanding s t := by
  have : ∀ k, t.district k = s.district k := fun k => by unfold State.district; rw [h]
  exact ⟨fun k => by rw [this], fun k => by rw [this], fun k => by rw [this], fun k => by rw [this], fun k => by rw [this], hp, ho⟩

theorem State.modDist_standing (s : State) (d : Nat) (f : District → District)
    (h : ∀ x, (f x).defn = x.defn ∧ (f x).orb = x.orb ∧ (f x).img = x.img ∧ (f x).flt.fenced = x.flt.fenced ∧ (f x).flt.rlead = x.flt.rlead) :
    SameStanding s (s.modDist d f) := by
  have hx : ∀ k, (s.modDist d f).district k = if k = d then f (s.district d) else s.district k := fun k => Tbl.get_set ..
  refine ⟨?_, ?_, ?_, ?_, ?_, rfl, rfl⟩ <;> intro k <;> rw [hx] <;> by_cases hk : k = d <;>
    simp only [hk, if_true, if_false, (h _).1, (h _).2.1, (h _).2.2.1, (h _).2.2.2.1, (h _).2.2.2.2]

theorem State.complete_standing (s : State) (w : Sender) (kind : OutKind → Bool) : SameStanding s (s.complete w kind) := by
  unfold State.complete State.finishCmd
  cases w
  · exact SameStanding.of_dist rfl rfl rfl
  · exact State.modDist_standing _ _ _ fun _ => ⟨rfl, rfl, rfl, rfl, rfl⟩
  · exact State.modDist_standing _ _ _ fun _ => ⟨rfl, rfl, rfl, rfl, rfl⟩

theorem State.frameLeft_standing (s : State) (f : TxFrame) : SameStanding s (s.frameLeft f) := by
  unfold State.frameLeft
  split
  · exact State.complete_standing ..
  · exact SameStanding.refl s

theorem State.abort_standing (s : State) (d : Nat) : SameStanding s (s.abort d) := by
  unfold State.abort
  extract_lets s1 s2 s3 gone cut s4 s5 s6 s7 s8
  have h1 : SameStanding s s1 := SameStanding.each (SameStanding.refl s) fun _ _ => SameStanding.of_dist rfl rfl rfl
  have h2 : SameStanding s1 s2 := SameStanding.each (SameStanding.refl s1) fun _ _ => SameStanding.of_dist rfl rfl rfl
  have h3 : SameStanding s2 s3 := SameStanding.each (SameStanding.refl s2) fun _ _ => SameStanding.of_dist rfl rfl rfl
  clear_value s3 gone
  have h4 : SameStanding s3 s4 := by
    refine SameStanding.each (SameStanding.of_dist (t := s3.takeBack gone) rfl rfl rfl) fun f u => ?_
    split
    · exact State.frameLeft_standing ..
    · exact SameStanding.refl u
  clear_value s4 cut
  have h5 : SameStanding s4 s5 := SameStanding.of_dist rfl rfl rfl
  have h6 : SameStanding s5 s6 := State.modDist_standing _ _ _ fun _ => ⟨rfl, rfl, rfl, rfl, rfl⟩
  have h7 : SameStanding s6 s7 := State.modDist_standing _ _ _ fun _ => ⟨rfl, rfl, rfl, rfl, rfl⟩
  have h8 : SameStanding s7 s8 := State.modDist_standing _ _ _ fun _ => ⟨rfl, rfl, rfl, rfl, rfl⟩
  have c : SameStanding s8 (s8.countDist d 40 1) := SameStanding.of_dist rfl rfl rfl
  exact (((((((h1.trans h2).trans h3).trans h4).trans h5).trans h6).trans h7).trans h8).trans c

theorem State.abort_bar (s : State) (d : Nat) : ((s.abort d).district d).bar = { rolledBack := true } := by
  unfold State.abort
  simp

theorem State.sendCtl_dist (s : State) (d l opcode : Nat) (payload : List Byte) :
    (s.sendCtl d l opcode payload).dist = s.dist := by
  unfold State.sendCtl
  split <;> rfl

theorem State.sendCtl_standing (s : State) (d l opcode : Nat) (payload : List Byte) : SameStanding s (s.sendCtl d l opcode payload) := by
  unfold State.sendCtl
  split
  · exact SameStanding.refl s
  · exact SameStanding.of_dist rfl rfl rfl

theorem State.sendUp_dist (s : State) (d opcode : Nat) (payload : List Byte) (amax : Bool) :
    (s.sendUp d opcode payload amax).dist = s.dist := by
  unfold State.sendUp
  split
  · rfl
  · exact State.sendCtl_dist ..

theorem State.sendUp_standing (s : State) (d opcode : Nat) (payload : List Byte) (amax : Bool) :
    SameStanding s (s.sendUp d opcode payload amax) := by
  unfold State.sendUp
  split
  · exact SameStanding.refl s
  · exact State.sendCtl_standing ..

theorem State.sendDown_dist (s : State) (d opcode : Nat) (payload : List Byte) (amax : Bool) :
    (s.sendDown d opcode payload amax).dist = s.dist := by
  unfold State.sendDown
  split
  · rfl
  · generalize jobChildren _ amax = l
    have : ∀ (l : List Nat) (t : State), (t.each l fun l t => t.sendCtl d l opcode payload).dist = t.dist := by
      intro l
      induction l with
      | nil => intro t; rfl
      | cons a l ih => intro t; exact (ih _).trans (State.sendCtl_dist ..)
    exact this l s

theorem State.sendDown_standing (s : State) (d opcode : Nat) (payload : List Byte) (amax : Bool) :
    SameStanding s (s.sendDown d opcode payload amax) := by
  unfold State.sendDown
  split
  · exact SameStanding.refl s
  · exact SameStanding.each (SameStanding.refl s) fun _ _ => State.sendCtl_standing ..

/-- The first and the second rollback of a step (R348, R51), under an RLEAD that R353 allows: the district counts it, and waits for its
restart orbit. -/
theorem State.rollback_begins (s : State) (d code unit info : Nat) (hf : s.fenced d = false) (hh : s.halted = false)
    (hd : s.held d = false) (ha : (s.active d).isSome) (hg : (s.district d).bar.go = none) (hr : (s.district d).bar.rolledBack = false)
    (hn : (s.district d).orb.rollbacks < 2) (hl : (s.district d).flt.rlead ≠ 0) :
    ((s.rollback d code unit info).district d).orb = { (s.district d).orb with rollbacks := (s.district d).orb.rollbacks + 1 }
      ∧ ((s.rollback d code unit info).district d).bar.rolledBack = true ∧ (s.rollback d code unit info).fenced d = false := by
  unfold State.rollback
  extract_lets s1 s2 n s3 o s4 s5
  have h1 : (s1.fenced d || s1.halted || s1.held d || (s1.active d).isNone) = false := by
    simp [s1, hf, hh, hd]; exact ha
  have e1 : (s1.district d).bar = (s.district d).bar := by simp [s1]
  have a1 : SameStanding s1 s2 := State.abort_standing s1 d
  have n2 : n = (s.district d).orb.rollbacks + 1 := by simp only [n, a1.orb d]; simp [s1]
  have hn' : ¬ 3 ≤ n := by omega
  simp only [h1, e1, hg, hr, Option.isSome_none, Bool.false_eq_true, if_false, if_neg hn']
  have o2 : (s2.district d).orb = (s.district d).orb := (a1.orb d).trans (by simp [s1])
  have b2 : (s2.district d).bar.rolledBack = true := by rw [show (s2.district d).bar = _ from State.abort_bar s1 d]
  have f2 : s2.fenced d = false := (a1.fenced d).trans (by simpa [s1, State.fenced] using hf)
  have o4 : (s4.district d).orb = { (s.district d).orb with rollbacks := n } := by simp [s4, s3, o2]
  have b4 : (s4.district d).bar.rolledBack = true := by simp [s4, s3, b2]
  have f4 : s4.fenced d = false := by simpa [s4, s3, State.fenced] using f2
  have l3 : (s3.district d).flt.rlead = (s.district d).flt.rlead := by
    have e : (s3.district d).flt = (s2.district d).flt := by simp [s3]
    rw [e, a1.rlead d]; simp [s1]
  have late : ¬ o ≤ s4.orb.number := by
    have e : s4.orb.number = s3.orb.number := by simp only [s4, State.modBar_orb]
    simp only [o, l3, e]
    omega
  clear_value s4
  split
  · unfold State.rootRestart
    split
    · exact ⟨o4.trans (by rw [n2]), b4, f4⟩
    · generalize hp : s4.common d true ++ leBytes 8 o = p
      have a5 := State.sendDown_standing s4 d 0xB p false
      have b5 : ((s4.sendDown d 0xB p false).district d).bar = (s4.district d).bar := by
        unfold State.district; rw [State.sendDown_dist]
      unfold State.takeRestart
      rw [b5, if_pos b4]
      dsimp only
      rw [a5.orbit, if_neg (by simp [late])]
      simp only [State.fenced, State.modBar_district, a5.orb d, o4, n2, b5, b4, true_and]
      exact ⟨rfl, (a5.fenced d).trans f4⟩
  · have hx : ∀ p, (s5.sendUp d 0xA p false).district d = s5.district d := fun p => by
      unfold State.district; rw [State.sendUp_dist]
    simp only [State.fenced, hx, s5]
    simp only [State.modBar_district, o4, n2, b4, true_and]
    exact ⟨rfl, f4⟩

/-! ## Readers of a failed line -/

theorem State.failReader_pwr (s : State) (who : Reader) (st : Status) : (s.failReader who st).pwr = s.pwr := by
  unfold State.failReader
  cases who
  case core => rfl
  case host => rfl
  case load => rfl
  case entry => dsimp only; split <;> rfl
  case command => dsimp only; split <;> rfl
  case none => rfl

theorem State.failReader_cnt (s : State) (who : Reader) (st : Status) : (s.failReader who st).cnt = s.cnt := by
  unfold State.failReader
  cases who
  case core => rfl
  case host => rfl
  case load => rfl
  case entry => dsimp only; split <;> rfl
  case command => dsimp only; split <;> rfl
  case none => rfl

/-- Whether a rollback refills a line is a matter of the image and the journal alone (R220). -/
theorem State.refilled_of_district {s t : State} {d line : Nat} (h : t.district d = { s.district d with mem := (t.district d).mem }) :
    t.refilled d line = s.refilled d line := by
  have hi : (t.district d).img = (s.district d).img := by rw [h]
  have hf : (t.district d).flt = (s.district d).flt := by rw [h]
  have ha : t.active d = s.active d := by unfold State.active; rw [hi]
  have hr : t.regions d = s.regions d := by unfold State.regions; rw [ha]
  unfold State.refilled State.regionOf State.pageIndex State.journalled
  rw [hr, hf]

end Sys2Proof.Machine
end

