-- ==== Sys2Proof/Laws/KeepsOps.lean ====
section
/-! SUPPORT. What the operations and meanings keep: tables, memory writes, frames, rings, scaling slots, barriers. -/

namespace Sys2Proof.Machine

variable {p q w y : Bool} {s t : State}

theorem State.modCore_keeps {x1 : Nat} {x2 : Core → Core} (h : Keeps p q w y s t) :
    Keeps p q w y s (@State.modCore t x1 x2) := by
  unfold State.modCore
  try dsimp only
  repeat' (with_reducible
    first | assumption |
      ((conv => arg 6; arg 24); first | apply Keeps.lit | apply Keeps.litP | apply Keeps.litO | apply Keeps.litPO | apply Keeps.litW))

theorem State.modDist_keeps {x1 : Nat} {x2 : District → District} (h : Keeps p q w y s t) :
    Keeps p q w y s (@State.modDist t x1 x2) := by
  unfold State.modDist
  try dsimp only
  repeat' (with_reducible
    first | assumption |
      ((conv => arg 6; arg 24); first | apply Keeps.lit | apply Keeps.litP | apply Keeps.litO | apply Keeps.litPO | apply Keeps.litW))

theorem State.modSlot_keeps {x1 : Nat} {x2 : Slot → Slot} (h : Keeps p q w y s t) :
    Keeps p q w y s (@State.modSlot t x1 x2) := by
  unfold State.modSlot
  try dsimp only
  repeat' (with_reducible
    first | assumption |
      ((conv => arg 6; arg 24); first | apply Keeps.lit | apply Keeps.litP | apply Keeps.litO | apply Keeps.litPO | apply Keeps.litW))

theorem State.modBox_keeps {x1 : Nat} {x2 : Box → Box} (h : Keeps p q w y s t) :
    Keeps p q w y s (@State.modBox t x1 x2) := by
  unfold State.modBox
  try dsimp only
  repeat' (with_reducible
    first | assumption |
      ((conv => arg 6; arg 24); first | apply Keeps.lit | apply Keeps.litP | apply Keeps.litO | apply Keeps.litPO | apply Keeps.litW))

theorem State.modRing_keeps {x1 : Nat} {x2 : Ring → Ring} (h : Keeps p q w y s t) :
    Keeps p q w y s (@State.modRing t x1 x2) := by
  unfold State.modRing
  try dsimp only
  repeat' (with_reducible
    first | assumption |
      ((conv => arg 6; arg 24); first | apply Keeps.lit | apply Keeps.litP | apply Keeps.litO | apply Keeps.litPO | apply Keeps.litW))

theorem State.modQueue_keeps {x1 : Nat} {x2 : SQueue → SQueue} (h : Keeps p q w y s t) :
    Keeps p q w y s (@State.modQueue t x1 x2) := by
  unfold State.modQueue
  try dsimp only
  repeat' (with_reducible
    first | assumption |
      ((conv => arg 6; arg 24); first | apply Keeps.lit | apply Keeps.litP | apply Keeps.litO | apply Keeps.litPO | apply Keeps.litW))

theorem State.modOrb_keeps {x1 : Nat} {x2 : OrbDist → OrbDist} (h : Keeps p q w y s t) :
    Keeps p q w y s (@State.modOrb t x1 x2) := by
  unfold State.modOrb
  try dsimp only
  repeat' (with_reducible first | assumption | apply State.modDist_keeps)

theorem State.modBar_keeps {x1 : Nat} {x2 : Barrier → Barrier} (h : Keeps p q w y s t) :
    Keeps p q w y s (@State.modBar t x1 x2) := by
  unfold State.modBar
  try dsimp only
  repeat' (with_reducible first | assumption | apply State.modDist_keeps)

theorem State.modImg_keeps {x1 : Nat} {x2 : ImgDist → ImgDist} (h : Keeps p q w y s t) :
    Keeps p q w y s (@State.modImg t x1 x2) := by
  unfold State.modImg
  try dsimp only
  repeat' (with_reducible first | assumption | apply State.modDist_keeps)

theorem State.modHost_keeps {x1 : Nat} {x2 : HostDist → HostDist} (h : Keeps p q w y s t) :
    Keeps p q w y s (@State.modHost t x1 x2) := by
  unfold State.modHost
  try dsimp only
  repeat' (with_reducible first | assumption | apply State.modDist_keeps)

theorem State.modFlt_keeps {x1 : Nat} {x2 : FltDist → FltDist} (h : Keeps p q w y s t) :
    Keeps p q w y s (@State.modFlt t x1 x2) := by
  unfold State.modFlt
  try dsimp only
  repeat' (with_reducible first | assumption | apply State.modDist_keeps)

theorem State.modMir_keeps {x1 : Nat} {x2 : MirDist → MirDist} (h : Keeps p q w y s t) :
    Keeps p q w y s (@State.modMir t x1 x2) := by
  unfold State.modMir
  try dsimp only
  repeat' (with_reducible first | assumption | apply State.modDist_keeps)

theorem State.modPbx_keeps {x1 : Nat} {x2 : PbxDist → PbxDist} (h : Keeps p q w y s t) :
    Keeps p q w y s (@State.modPbx t x1 x2) := by
  unfold State.modPbx
  try dsimp only
  repeat' (with_reducible first | assumption | apply State.modDist_keeps)

theorem State.modMemd_keeps {x1 : Nat} {x2 : MemDist → MemDist} (h : Keeps p q w y s t) :
    Keeps p q w y s (@State.modMemd t x1 x2) := by
  unfold State.modMemd
  try dsimp only
  repeat' (with_reducible first | assumption | apply State.modDist_keeps)

theorem State.modNum_keeps {x1 : Nat} {x2 : NumDist → NumDist} (h : Keeps p q w y s t) :
    Keeps p q w y s (@State.modNum t x1 x2) := by
  unfold State.modNum
  try dsimp only
  repeat' (with_reducible first | assumption | apply State.modDist_keeps)

theorem State.modSnp_keeps {x1 : Nat} {x2 : SnpDist → SnpDist} (h : Keeps p q w y s t) :
    Keeps p q w y s (@State.modSnp t x1 x2) := by
  unfold State.modSnp
  try dsimp only
  repeat' (with_reducible first | assumption | apply State.modDist_keeps)

theorem State.draw_keeps (h : Keeps p q w y s t) : Keeps p q w y s (@State.draw t).2 :=
  h.trans ⟨rfl, id, fun _ => id, fun _ => ⟨rfl, rfl⟩, fun _ => rfl, fun _ => rfl⟩

theorem State.setMem_keeps {m : List Host.Cell} (h : Keeps p q false y s t)
    (hm : Memory.wf t.mem → Memory.wf m) : Keeps p q false y s (t.setMem m) := h.trans ⟨rfl, hm, fun _ => id, fun _ => ⟨rfl, rfl⟩, nofun, fun _ => rfl⟩

theorem State.touched_keeps {a n : Nat} (h : Keeps p q w y s t) : Keeps p q w y s (@State.touched t a n) := by
  unfold State.touched
  dsimp only
  repeat' split
  all_goals first | exact h | exact h.trans ⟨rfl, id, fun _ => id, fun _ => ⟨rfl, rfl⟩, fun _ => rfl, fun _ => rfl⟩

theorem State.store_keeps {a : Nat} {bs : List Byte} (h : Keeps p q false y s t) :
    Keeps p q false y s (@State.store t a bs) := State.touched_keeps (State.setMem_keeps h (Memory.wf_write _ _))

theorem State.move_keeps {x1 x2 x3 : Nat} (h : Keeps p q false y s t) :
    Keeps p q false y s (@State.move t x1 x2 x3) := State.touched_keeps (State.setMem_keeps h (Memory.wf_copy _ _ _))

theorem State.count_keeps {x1 x2 : Nat} (h : Keeps p q w y s t) :
    Keeps p q w y s (@State.count t x1 x2) := by
  unfold State.count
  try dsimp only
  repeat' (with_reducible
    first | assumption |
      ((conv => arg 6; arg 24); first | apply Keeps.lit | apply Keeps.litP | apply Keeps.litO | apply Keeps.litPO | apply Keeps.litW))

theorem State.setCount_keeps {x1 x2 : Nat} (h : Keeps p q w y s t) :
    Keeps p q w y s (@State.setCount t x1 x2) := by
  unfold State.setCount
  try dsimp only
  repeat' (with_reducible
    first | assumption |
      ((conv => arg 6; arg 24); first | apply Keeps.lit | apply Keeps.litP | apply Keeps.litO | apply Keeps.litPO | apply Keeps.litW))

theorem State.countDist_keeps {x1 x2 x3 : Nat} (h : Keeps p q w y s t) :
    Keeps p q w y s (@State.countDist t x1 x2 x3) := by
  unfold State.countDist
  try dsimp only
  repeat' (with_reducible
    first | assumption |
      ((conv => arg 6; arg 24); first | apply Keeps.lit | apply Keeps.litP | apply Keeps.litO | apply Keeps.litPO | apply Keeps.litW))

theorem State.setDist_keeps {x1 x2 x3 : Nat} (h : Keeps p q w y s t) :
    Keeps p q w y s (@State.setDist t x1 x2 x3) := by
  unfold State.setDist
  try dsimp only
  repeat' (with_reducible
    first | assumption |
      ((conv => arg 6; arg 24); first | apply Keeps.lit | apply Keeps.litP | apply Keeps.litO | apply Keeps.litPO | apply Keeps.litW))

theorem State.countLines_keeps {x1 x2 x3 : Nat} (h : Keeps p q w y s t) :
    Keeps p q w y s (@State.countLines t x1 x2 x3) := by
  unfold State.countLines
  try dsimp only
  repeat' (with_reducible first | assumption | refine Keeps.each ?_ (fun _ _ _ => ?_) | apply State.count_keeps)

theorem State.logTo_keeps {x1 x2 : Nat} {x3 : Class} {x4 : Nat} (h : Keeps p q w y s t) :
    Keeps p q w y s (@State.logTo t x1 x2 x3 x4) := by
  unfold State.logTo
  try dsimp only
  repeat' (with_reducible first | assumption | apply State.modFlt_keeps | split)

theorem State.eventIn_keeps {x1 : Nat} {x2 : Class} {x3 x4 : Nat} {x5 : Bool} {x6 x7 : Nat} (h : Keeps p q w y s t) :
    Keeps p q w y s (@State.eventIn t x1 x2 x3 x4 x5 x6 x7) := by
  unfold State.eventIn
  try dsimp only
  repeat' (with_reducible
    first | assumption | apply State.countDist_keeps | apply State.logTo_keeps | apply State.modFlt_keeps | split)

theorem State.event_keeps {x1 : Nat} {x2 : Class} {x3 : Option Nat} {x4 x5 : Nat} (h : Keeps p q w y s t) :
    Keeps p q w y s (@State.event t x1 x2 x3 x4 x5) := by
  unfold State.event
  try dsimp only
  repeat' (with_reducible first | assumption | refine Keeps.each ?_ (fun _ _ _ => ?_) | apply State.eventIn_keeps | split)

theorem State.notice_keeps {x1 : Nat} {x2 : Option Nat} {x3 x4 : Nat} (h : Keeps p q w y s t) :
    Keeps p q w y s (@State.notice t x1 x2 x3 x4) := by
  unfold State.notice
  try dsimp only
  repeat' (with_reducible first | assumption | apply State.event_keeps)

theorem State.dirtyPage_keeps {x1 x2 : Nat} (h : Keeps p q false y s t) :
    Keeps p q false y s (@State.dirtyPage t x1 x2) := by
  unfold State.dirtyPage
  try dsimp only
  repeat' (with_reducible
    first | assumption | apply State.modFlt_keeps | apply State.move_keeps | apply State.count_keeps |
      apply State.countLines_keeps | split)

theorem State.journal_keeps {x1 x2 x3 : Nat} (h : Keeps p q false y s t) :
    Keeps p q false y s (@State.journal t x1 x2 x3) := by
  unfold State.journal
  try dsimp only
  repeat' (with_reducible first | assumption | refine Keeps.each ?_ (fun _ _ _ => ?_) | apply State.dirtyPage_keeps | split)

theorem State.write_keeps {x1 x2 : Nat} {x3 : List Byte} (h : Keeps p q false y s t) :
    Keeps p q false y s (@State.write t x1 x2 x3) := by
  unfold State.write
  try dsimp only
  repeat' (with_reducible first | assumption | apply State.store_keeps | apply State.journal_keeps | split)

theorem State.copy_keeps {x1 x2 x3 x4 : Nat} (h : Keeps p q false y s t) :
    Keeps p q false y s (@State.copy t x1 x2 x3 x4) := by
  unfold State.copy
  try dsimp only
  repeat' (with_reducible
    first | assumption | refine Keeps.each ?_ (fun _ _ _ => ?_) | apply State.move_keeps | apply State.setMem_keeps |
      apply State.journal_keeps | exact fun h => Memory.wf_place _ (Memory.wf_filter _ h) | apply State.touched_keeps |
      split)

theorem State.modPort_keeps {x1 : Nat} {x2 : Port → Port} (h : Keeps p q w y s t) :
    Keeps p q w y s (@State.modPort t x1 x2) := by
  unfold State.modPort
  try dsimp only
  repeat' (with_reducible
    first | assumption |
      ((conv => arg 6; arg 24); first | apply Keeps.lit | apply Keeps.litP | apply Keeps.litO | apply Keeps.litPO | apply Keeps.litW))

theorem State.modLane_keeps {x1 : Nat} {x2 : Lane → Lane} (h : Keeps p q w y s t) :
    Keeps p q w y s (@State.modLane t x1 x2) := by
  unfold State.modLane
  try dsimp only
  repeat' (with_reducible
    first | assumption |
      ((conv => arg 6; arg 24); first | apply Keeps.lit | apply Keeps.litP | apply Keeps.litO | apply Keeps.litPO | apply Keeps.litW))

theorem State.emit_keeps {x1 : Output} (h : Keeps p q w y s t) :
    Keeps p q w y s (@State.emit t x1) := by
  unfold State.emit
  try dsimp only
  repeat' (with_reducible
    first | assumption |
      ((conv => arg 6; arg 24); first | apply Keeps.lit | apply Keeps.litP | apply Keeps.litO | apply Keeps.litPO | apply Keeps.litW))

theorem State.toPort_keeps {x1 : Nat} {x2 : TxFrame} (h : Keeps p q w y s t) :
    Keeps p q w y s (@State.toPort t x1 x2) := by
  unfold State.toPort
  try dsimp only
  repeat' (with_reducible first | assumption | apply State.modPort_keeps)

theorem State.portCtl_keeps {x1 x2 : Nat} {x3 : List Byte} (h : Keeps p q w y s t) :
    Keeps p q w y s (@State.portCtl t x1 x2 x3) := by
  unfold State.portCtl
  try dsimp only
  repeat' (with_reducible first | assumption | apply State.toPort_keeps | split)

theorem State.sendCtl_keeps {x1 x2 x3 : Nat} {x4 : List Byte} (h : Keeps p q w y s t) :
    Keeps p q w y s (@State.sendCtl t x1 x2 x3 x4) := by
  unfold State.sendCtl
  try dsimp only
  repeat' (with_reducible first | assumption | apply State.modLane_keeps | split)

theorem State.sendCard_keeps {x1 : Nat} (h : Keeps p q w y s t) :
    Keeps p q w y s (@State.sendCard t x1) := by
  unfold State.sendCard
  try dsimp only
  repeat' (with_reducible first | assumption | apply State.modPort_keeps | apply State.portCtl_keeps | split)

theorem State.sendPings_keeps {x1 : Nat} (h : Keeps p q w y s t) :
    Keeps p q w y s (@State.sendPings t x1) := by
  unfold State.sendPings
  try dsimp only
  repeat' (with_reducible
    first | assumption | refine Keeps.each ?_ (fun _ _ _ => ?_) | apply State.modPort_keeps | apply State.portCtl_keeps)

theorem State.cutFlash_keeps (h : Keeps p q w y s t) :
    Keeps p q w y s (@State.cutFlash t) := by
  unfold State.cutFlash
  try dsimp only
  repeat' (with_reducible
    first | assumption | apply State.draw_keeps |
      ((conv => arg 6; arg 24); first | apply Keeps.lit | apply Keeps.litP | apply Keeps.litO | apply Keeps.litPO | apply Keeps.litW))

theorem State.modFlash_keeps {x1 : Flash → Flash} (h : Keeps p q w y s t) :
    Keeps p q w y s (@State.modFlash t x1) := by
  unfold State.modFlash
  try dsimp only
  repeat' (with_reducible
    first | assumption |
      ((conv => arg 6; arg 24); first | apply Keeps.lit | apply Keeps.litP | apply Keeps.litO | apply Keeps.litPO | apply Keeps.litW))

theorem State.saveTables_keeps (h : Keeps p q w y s t) :
    Keeps p q w y s (@State.saveTables t) := by
  unfold State.saveTables
  try dsimp only
  repeat' (with_reducible
    first | assumption | apply State.modFlash_keeps |
      ((conv => arg 6; arg 24); first | apply Keeps.lit | apply Keeps.litP | apply Keeps.litO | apply Keeps.litPO | apply Keeps.litW) |
      split)

theorem State.saveKeys_keeps (h : Keeps p q w y s t) :
    Keeps p q w y s (@State.saveKeys t) := by
  unfold State.saveKeys
  try dsimp only
  repeat' (with_reducible
    first | assumption | apply State.modFlash_keeps |
      ((conv => arg 6; arg 24); first | apply Keeps.lit | apply Keeps.litP | apply Keeps.litO | apply Keeps.litPO | apply Keeps.litW))

theorem State.saveConfig_keeps (h : Keeps p q w y s t) :
    Keeps p q w y s (@State.saveConfig t) := by
  unfold State.saveConfig
  try dsimp only
  repeat' (with_reducible
    first | assumption | apply State.modFlash_keeps |
      ((conv => arg 6; arg 24); first | apply Keeps.lit | apply Keeps.litP | apply Keeps.litO | apply Keeps.litPO | apply Keeps.litW))

theorem State.runFirmware_keeps {x1 : Nat} {x2 : List Byte} (h : Keeps p q w y s t) :
    Keeps p q w y s (@State.runFirmware t x1 x2) := by
  unfold State.runFirmware
  try dsimp only
  repeat' (with_reducible
    first | assumption | apply State.saveTables_keeps |
      ((conv => arg 6; arg 24); first | apply Keeps.lit | apply Keeps.litP | apply Keeps.litO | apply Keeps.litPO | apply Keeps.litW))

theorem State.finishCmd_keeps {x1 x2 : Nat} {x3 : Status} {x4 : Nat} (h : Keeps p q w y s t) :
    Keeps p q w y s (@State.finishCmd t x1 x2 x3 x4) := by
  unfold State.finishCmd
  try dsimp only
  repeat' (with_reducible first | assumption | apply State.modHost_keeps | split)

theorem State.complete_keeps {x1 : Sender} {x2 : OutKind → Bool} (h : Keeps p q w y s t) :
    Keeps p q w y s (@State.complete t x1 x2) := by
  unfold State.complete
  try dsimp only
  repeat' (with_reducible
    first | assumption | apply State.modCore_keeps | apply State.finishCmd_keeps | apply State.modMir_keeps | split)

theorem State.noteCells_keeps {x1 : Nat} (h : Keeps p q w y s t) :
    Keeps p q w y s (@State.noteCells t x1) := by
  unfold State.noteCells
  try dsimp only
  repeat' (with_reducible first | assumption | apply State.modPbx_keeps)

theorem State.deadLetter_keeps {x1 x2 : Nat} {x3 : BoxItem} {x4 : Nat} (h : Keeps p q false y s t) :
    Keeps p q false y s (@State.deadLetter t x1 x2 x3 x4) := by
  unfold State.deadLetter
  try dsimp only
  repeat' (with_reducible
    first | assumption | apply State.modPbx_keeps | apply State.count_keeps | apply State.countDist_keeps |
      apply State.notice_keeps | apply State.store_keeps | split)

theorem State.killBox_keeps {x1 x2 x3 : Nat} (h : Keeps p q false y s t) :
    Keeps p q false y s (@State.killBox t x1 x2 x3) := by
  unfold State.killBox
  try dsimp only
  repeat' (with_reducible
    first | assumption | refine Keeps.each ?_ (fun _ _ _ => ?_) | apply State.modBox_keeps | apply State.deadLetter_keeps)

theorem State.flushBox_keeps {x1 : Nat} {x2 : Bool} (h : Keeps p q w y s t) :
    Keeps p q w y s (@State.flushBox t x1 x2) := by
  unfold State.flushBox
  try dsimp only
  repeat' (with_reducible first | assumption | apply State.count_keeps | apply State.modBox_keeps | split)

theorem State.reviveBoxes_keeps {x1 : Nat} (h : Keeps p q false y s t) :
    Keeps p q false y s (@State.reviveBoxes t x1) := by
  unfold State.reviveBoxes
  try dsimp only
  repeat' (with_reducible
    first | assumption | refine Keeps.each ?_ (fun _ _ _ => ?_) | apply State.modBox_keeps | apply State.killBox_keeps |
      split)

theorem State.advance_keeps {x1 x2 x3 : Nat} (h : Keeps p q w y s t) :
    Keeps p q w y s (@State.advance t x1 x2 x3) := by
  unfold State.advance
  try dsimp only
  repeat' (with_reducible first | assumption | apply State.modRing_keeps | apply State.sendCtl_keeps | split)

theorem State.release_keeps {x1 x2 x3 : Nat} (h : Keeps p q w y s t) :
    Keeps p q w y s (@State.release t x1 x2 x3) := by
  unfold State.release
  try dsimp only
  repeat' (with_reducible first | assumption | apply State.advance_keeps | apply State.modRing_keeps | split)

theorem State.takeBack_keeps {x1 : TxFrame → Bool} (h : Keeps p q w y s t) :
    Keeps p q w y s (@State.takeBack t x1) := by
  unfold State.takeBack
  try dsimp only
  repeat' (with_reducible
    first | assumption |
      ((conv => arg 6; arg 24); first | apply Keeps.lit | apply Keeps.litP | apply Keeps.litO | apply Keeps.litPO | apply Keeps.litW))

theorem State.frameLeft_keeps {x1 : TxFrame} (h : Keeps p q w y s t) :
    Keeps p q w y s (@State.frameLeft t x1) := by
  unfold State.frameLeft
  try dsimp only
  repeat' (with_reducible first | assumption | apply State.modCore_keeps | apply State.complete_keeps | split)

theorem State.killRing_keeps {x1 x2 : Nat} (h : Keeps p q w y s t) :
    Keeps p q w y s (@State.killRing t x1 x2) := by
  unfold State.killRing
  try dsimp only
  repeat' (with_reducible
    first | assumption | refine Keeps.each ?_ (fun _ _ _ => ?_) | apply State.modLane_keeps | apply State.modRing_keeps |
      apply State.count_keeps | apply State.complete_keeps | apply State.countDist_keeps | apply State.notice_keeps |
      apply State.takeBack_keeps | apply State.frameLeft_keeps | split)

theorem State.dropCores_keeps {x1 : Nat} {x2 : Bool} (h : Keeps p q w y s t) :
    Keeps p q w y s (@State.dropCores t x1 x2) := by
  unfold State.dropCores
  try dsimp only
  repeat' (with_reducible first | assumption | refine Keeps.each ?_ (fun _ _ _ => ?_) | apply State.modCore_keeps)

theorem State.dropMaxima_keeps {x1 : Nat} (h : Keeps p q w y s t) :
    Keeps p q w y s (@State.dropMaxima t x1) := by
  unfold State.dropMaxima
  try dsimp only
  repeat' (with_reducible
    first | assumption |
      ((conv => arg 6; arg 24); first | apply Keeps.lit | apply Keeps.litP | apply Keeps.litO | apply Keeps.litPO | apply Keeps.litW) |
      split)

theorem State.dropFrames_keeps {x1 : Nat} (h : Keeps p q w y s t) :
    Keeps p q w y s (@State.dropFrames t x1) := by
  unfold State.dropFrames
  try dsimp only
  repeat' (with_reducible
    first | assumption |
      ((conv => arg 6; arg 24); first | apply Keeps.lit | apply Keeps.litP | apply Keeps.litO | apply Keeps.litPO | apply Keeps.litW))

theorem State.dropSwaps_keeps {x1 : Nat} (h : Keeps p q w y s t) :
    Keeps p q w y s (@State.dropSwaps t x1) := by
  unfold State.dropSwaps
  try dsimp only
  repeat' (with_reducible
    first | assumption |
      ((conv => arg 6; arg 24); first | apply Keeps.lit | apply Keeps.litP | apply Keeps.litO | apply Keeps.litPO | apply Keeps.litW) |
      apply State.saveTables_keeps | split)

theorem State.swapSlots_keeps {x1 : Nat} (h : Keeps p q w y s t) :
    Keeps p q w y s (@State.swapSlots t x1) := by
  unfold State.swapSlots
  try dsimp only
  repeat' (with_reducible
    first | assumption |
      ((conv => arg 6; arg 24); first | apply Keeps.lit | apply Keeps.litP | apply Keeps.litO | apply Keeps.litPO | apply Keeps.litW) |
      split)

theorem State.killQueues_keeps {x1 : Nat} (h : Keeps p q w y s t) :
    Keeps p q w y s (@State.killQueues t x1) := by
  unfold State.killQueues
  try dsimp only
  repeat' (with_reducible
    first | assumption | refine Keeps.each ?_ (fun _ _ _ => ?_) | apply State.modQueue_keeps | apply State.release_keeps |
      ((conv => arg 6; arg 24); first | apply Keeps.lit | apply Keeps.litP | apply Keeps.litO | apply Keeps.litPO | apply Keeps.litW) |
      split)

theorem State.stopDistrict_keeps {x1 : Nat} (h : Keeps p q w y s t) :
    Keeps p q w y s (@State.stopDistrict t x1) := by
  unfold State.stopDistrict
  try dsimp only
  repeat' (with_reducible
    first | assumption | refine Keeps.each ?_ (fun _ _ _ => ?_) | apply State.dropCores_keeps | apply State.swapSlots_keeps |
      apply State.modCore_keeps | apply State.modBox_keeps | apply State.modQueue_keeps | apply State.modRing_keeps |
      apply State.dropFrames_keeps | apply State.dropSwaps_keeps | apply State.modHost_keeps | apply State.modBar_keeps |
      apply State.modMir_keeps | apply State.modFlt_keeps | apply State.killQueues_keeps | split)

theorem State.loseCmds_keeps {x1 : Nat} (h : Keeps p q w y s t) :
    Keeps p q w y s (@State.loseCmds t x1) := by
  unfold State.loseCmds
  try dsimp only
  repeat' (with_reducible
    first | assumption | apply State.modHost_keeps |
      ((conv => arg 6; arg 24); first | apply Keeps.lit | apply Keeps.litP | apply Keeps.litO | apply Keeps.litPO | apply Keeps.litW))

theorem State.haltCmds_keeps {x1 : Nat} (h : Keeps p q w y s t) :
    Keeps p q w y s (@State.haltCmds t x1) := by
  unfold State.haltCmds
  try dsimp only
  repeat' (with_reducible
    first | assumption | apply State.modHost_keeps |
      ((conv => arg 6; arg 24); first | apply Keeps.lit | apply Keeps.litP | apply Keeps.litO | apply Keeps.litPO | apply Keeps.litW) |
      split)

theorem State.fence_keeps {x1 x2 x3 x4 : Nat} (h : Keeps p q w y s t) :
    Keeps p q w y s (@State.fence t x1 x2 x3 x4) := by
  unfold State.fence
  try dsimp only
  repeat' (with_reducible
    first | assumption | refine Keeps.each ?_ (fun _ _ _ => ?_) | apply State.event_keeps | apply State.stopDistrict_keeps |
      apply State.modFlt_keeps | apply State.modImg_keeps | apply State.modPort_keeps | apply State.dropFrames_keeps |
      apply State.loseCmds_keeps | split)

theorem State.halt_keeps {x1 : Nat} {x2 : Option Nat} {x3 x4 : Nat} (h : Keeps p q w y s t) :
    Keeps p q w y s (@State.halt t x1 x2 x3 x4) := by
  unfold State.halt
  try dsimp only
  repeat' (with_reducible
    first | assumption | refine Keeps.each ?_ (fun _ _ _ => ?_) | apply State.event_keeps | apply State.stopDistrict_keeps |
      apply State.modImg_keeps |
      ((conv => arg 6; arg 24); first | apply Keeps.lit | apply Keeps.litP | apply Keeps.litO | apply Keeps.litPO | apply Keeps.litW) |
      exact fun _ _ => rfl | apply State.haltCmds_keeps | split)

theorem State.abort_keeps {x1 : Nat} (h : Keeps p q w y s t) :
    Keeps p q w y s (@State.abort t x1) := by
  unfold State.abort
  try dsimp only
  repeat' (with_reducible
    first | assumption | refine Keeps.each ?_ (fun _ _ _ => ?_) | apply State.dropCores_keeps | apply State.flushBox_keeps |
      apply State.modRing_keeps | apply State.complete_keeps | apply State.dropMaxima_keeps | apply State.modFlt_keeps |
      apply State.modBar_keeps | apply State.modMir_keeps | apply State.countDist_keeps |
      ((conv => arg 6; arg 24); first | apply Keeps.lit | apply Keeps.litP | apply Keeps.litO | apply Keeps.litPO | apply Keeps.litW) |
      apply State.takeBack_keeps | apply State.frameLeft_keeps | split)

theorem State.enterHold_keeps {x1 : Nat} {x2 : Bool} (h : Keeps p q w y s t) :
    Keeps p q w y s (@State.enterHold t x1 x2) := by
  unfold State.enterHold
  try dsimp only
  repeat' (with_reducible
    first | assumption | apply State.modBar_keeps | apply State.modOrb_keeps | apply State.countDist_keeps | split)

theorem State.rollbackHold_keeps {x1 x2 x3 x4 : Nat} (h : Keeps p q w y s t) :
    Keeps p q w y s (@State.rollbackHold t x1 x2 x3 x4) := by
  unfold State.rollbackHold
  try dsimp only
  repeat' (with_reducible
    first | assumption | apply State.event_keeps | apply State.modOrb_keeps | apply State.abort_keeps |
      apply State.enterHold_keeps | split)

theorem State.holdFor_keeps {x1 x2 x3 x4 : Nat} (h : Keeps p q w y s t) :
    Keeps p q w y s (@State.holdFor t x1 x2 x3 x4) := by
  unfold State.holdFor
  try dsimp only
  repeat' (with_reducible first | assumption | apply State.rollbackHold_keeps | split)

theorem State.sendDown_keeps {x1 x2 : Nat} {x3 : List Byte} {x4 : Bool} (h : Keeps p q w y s t) :
    Keeps p q w y s (@State.sendDown t x1 x2 x3 x4) := by
  unfold State.sendDown
  try dsimp only
  repeat' (with_reducible first | assumption | refine Keeps.each ?_ (fun _ _ _ => ?_) | apply State.sendCtl_keeps | split)

theorem State.sendUp_keeps {x1 x2 : Nat} {x3 : List Byte} {x4 : Bool} (h : Keeps p q w y s t) :
    Keeps p q w y s (@State.sendUp t x1 x2 x3 x4) := by
  unfold State.sendUp
  try dsimp only
  repeat' (with_reducible first | assumption | apply State.sendCtl_keeps | split)

theorem State.takeRestart_keeps {x1 x2 : Nat} (h : Keeps p q w y s t) :
    Keeps p q w y s (@State.takeRestart t x1 x2) := by
  unfold State.takeRestart
  try dsimp only
  repeat' (with_reducible
    first | assumption | apply State.event_keeps | apply State.abort_keeps | apply State.rollbackHold_keeps |
      apply State.modBar_keeps |
      ((conv => arg 6; arg 24); first | apply Keeps.lit | apply Keeps.litP | apply Keeps.litO | apply Keeps.litPO | apply Keeps.litW) |
      split)

theorem State.rootRestart_keeps {x1 x2 : Nat} (h : Keeps p q w y s t) :
    Keeps p q w y s (@State.rootRestart t x1 x2) := by
  unfold State.rootRestart
  try dsimp only
  repeat' (with_reducible
    first | assumption | apply State.modBar_keeps | apply State.sendDown_keeps | apply State.takeRestart_keeps | split)

theorem State.rollback_keeps {x1 x2 x3 x4 : Nat} (h : Keeps p q w y s t) :
    Keeps p q w y s (@State.rollback t x1 x2 x3 x4) := by
  unfold State.rollback
  try dsimp only
  repeat' (with_reducible
    first | assumption | refine Keeps.each ?_ (fun _ _ _ => ?_) | apply State.event_keeps | apply State.fence_keeps |
      apply State.abort_keeps | apply State.modOrb_keeps | apply State.modBar_keeps | apply State.rootRestart_keeps |
      apply State.sendUp_keeps | split)

theorem State.condition_keeps {x1 : Class} {x2 x3 x4 x5 : Nat} (h : Keeps p q w y s t) :
    Keeps p q w y s (@State.condition t x1 x2 x3 x4 x5) := by
  unfold State.condition
  try dsimp only
  repeat' (with_reducible
    first | assumption | apply State.notice_keeps | apply State.event_keeps | apply State.rollback_keeps |
      apply State.fence_keeps | apply State.halt_keeps | split)

theorem State.boxFault_keeps {x1 x2 x3 x4 : Nat} (h : Keeps p q w y s t) :
    Keeps p q w y s (@State.boxFault t x1 x2 x3 x4) := by
  unfold State.boxFault
  try dsimp only
  repeat' (with_reducible first | assumption | apply State.fence_keeps | apply State.modPbx_keeps)

theorem State.memFault_keeps {x1 x2 x3 x4 x5 : Nat} (h : Keeps p q w y s t) :
    Keeps p q w y s (@State.memFault t x1 x2 x3 x4 x5) := by
  unfold State.memFault
  try dsimp only
  repeat' (with_reducible first | assumption | apply State.fence_keeps | apply State.modMemd_keeps)

theorem State.nextHandle_keeps (h : Keeps p q w y s t) :
    Keeps p q w y s (@State.nextHandle t) := by
  unfold State.nextHandle
  try dsimp only
  repeat' (with_reducible
    first | assumption | apply Keeps.ite | apply Keeps.ite1 | apply Keeps.ite2 | refine Keeps.each ?_ (fun _ _ _ => ?_) |
      refine Keeps.foldl ?_ (fun _ _ _ => ?_) | refine Keeps.foldl1 ?_ (fun _ _ _ => ?_) |
      refine Keeps.foldl2 ?_ (fun _ _ _ => ?_) |
      ((conv => arg 6; arg 24); first | apply Keeps.lit | apply Keeps.litP | apply Keeps.litO | apply Keeps.litPO | apply Keeps.litW) |
      refine Keeps.fst_eq (by assumption) ?_ | refine Keeps.snd_eq (by assumption) ?_ | exact fun e => Bool.noConfusion e |
      exact fun _ => ⟨rfl, rfl⟩ | (intro _; constructor <;> split <;> rfl) | exact fun _ _ => rfl | exact fun _ h => h |
      split | intro _)

theorem State.takeItem_keeps {x1 x2 x3 x4 : Nat} (h : Keeps p q false y s t) :
    ∀ u, @State.takeItem t x1 x2 x3 x4 = some u → Keeps p q false y s u := by
  intro u hu
  unfold State.takeItem at hu
  try dsimp only at hu
  repeat' (first | contradiction | (injection hu with hu; subst hu) | split at hu)
  repeat' (with_reducible
    first | assumption | apply Keeps.ite | apply Keeps.ite1 | apply Keeps.ite2 | refine Keeps.each ?_ (fun _ _ _ => ?_) |
      refine Keeps.foldl ?_ (fun _ _ _ => ?_) | refine Keeps.foldl1 ?_ (fun _ _ _ => ?_) |
      refine Keeps.foldl2 ?_ (fun _ _ _ => ?_) | apply State.modQueue_keeps | apply State.nextHandle_keeps |
      apply State.store_keeps | apply State.count_keeps | apply State.modCore_keeps |
      ((conv => arg 6; arg 24); first | apply Keeps.lit | apply Keeps.litP | apply Keeps.litO | apply Keeps.litPO | apply Keeps.litW) |
      refine Keeps.fst_eq (by assumption) ?_ | refine Keeps.snd_eq (by assumption) ?_ | exact fun e => Bool.noConfusion e |
      exact fun _ => ⟨rfl, rfl⟩ | (intro _; constructor <;> split <;> rfl) | exact fun _ _ => rfl | exact fun _ h => h |
      split | intro _)

theorem State.feedAwaits_keeps {x1 x2 : Nat} (h : Keeps p q false y s t) :
    Keeps p q false y s (@State.feedAwaits t x1 x2) := by
  unfold State.feedAwaits
  try dsimp only
  repeat' (with_reducible
    first | assumption | refine Keeps.each ?_ (fun _ _ _ => ?_) | refine State.takeItem_keeps ?_ _ (by assumption) |
      apply State.modCore_keeps | apply State.complete_keeps | split)

theorem State.enter_keeps {x1 x2 : Nat} {x3 : SItem} (h : Keeps p q false y s t) :
    Keeps p q false y s (@State.enter t x1 x2 x3) := by
  unfold State.enter
  try dsimp only
  repeat' (with_reducible
    first | assumption | apply State.memFault_keeps | apply State.modQueue_keeps | apply State.count_keeps |
      apply State.noteCells_keeps | apply State.feedAwaits_keeps | apply State.modMemd_keeps | split)

theorem State.enqueue_keeps {x1 x2 : Nat} {x3 : SItem} {x4 : Option Sender} (h : Keeps p q false y s t) :
    Keeps p q false y s (@State.enqueue t x1 x2 x3 x4) := by
  unfold State.enqueue
  try dsimp only
  repeat' (with_reducible
    first | assumption | apply State.enter_keeps | apply State.complete_keeps | apply State.modQueue_keeps | split)

theorem State.spreadHold_keeps {x1 : Nat} {x2 : Option Nat} {x3 x4 x5 x6 : Nat} (h : Keeps p q w y s t) :
    Keeps p q w y s (@State.spreadHold t x1 x2 x3 x4 x5 x6) := by
  unfold State.spreadHold
  try dsimp only
  repeat' (with_reducible
    first | assumption | refine Keeps.each ?_ (fun _ _ _ => ?_) | apply State.sendCtl_keeps | apply State.modPort_keeps |
      split)

theorem State.loseNeighbour_keeps {x1 x2 x3 x4 x5 : Nat} (h : Keeps p q w y s t) :
    Keeps p q w y s (@State.loseNeighbour t x1 x2 x3 x4 x5) := by
  unfold State.loseNeighbour
  try dsimp only
  repeat' (with_reducible
    first | assumption | refine Keeps.each ?_ (fun _ _ _ => ?_) | apply State.killRing_keeps | apply State.holdFor_keeps |
      apply State.spreadHold_keeps | split)

theorem State.portLost_keeps {x1 x2 : Nat} (h : Keeps p q w y s t) :
    Keeps p q w y s (@State.portLost t x1 x2) := by
  unfold State.portLost
  try dsimp only
  repeat' (with_reducible first | assumption | apply State.loseNeighbour_keeps | split)

theorem State.sendRecord_keeps {x1 x2 x3 x4 x5 : Nat} {x6 : List Byte} {x7 : Option Sender} (h : Keeps p q w y s t) :
    Keeps p q w y s (@State.sendRecord t x1 x2 x3 x4 x5 x6 x7) := by
  unfold State.sendRecord
  try dsimp only
  repeat' (with_reducible
    first | assumption | apply State.modLane_keeps | apply State.modRing_keeps | apply State.count_keeps)

theorem State.pumpOne_keeps {x1 x2 x3 : Nat} (h : Keeps p q w y s t) :
    Keeps p q w y s (@State.pumpOne t x1 x2 x3).1 := by
  unfold State.pumpOne
  try dsimp only
  repeat' (with_reducible
    first | assumption | apply State.count_keeps | apply State.modRing_keeps | apply State.sendRecord_keeps | split)

theorem State.pumpGo_keeps {x0 x1 x2 k : Nat} (h : Keeps p q w y s t) :
    Keeps p q w y s (@State.pumpGo x0 x1 x2 k t) := by
  induction k generalizing t with
  | zero => exact h
  | succ k ih =>
    unfold State.pumpGo
    dsimp only
    exact Keeps.ite (ih (State.pumpOne_keeps h)) (State.pumpOne_keeps h)

theorem State.pump_keeps {x1 x2 x3 : Nat} (h : Keeps p q w y s t) :
    Keeps p q w y s (@State.pump t x1 x2 x3) := by
  unfold State.pump
  try dsimp only
  repeat' (with_reducible first | assumption | apply State.pumpGo_keeps)

theorem State.giveMessage_keeps {x1 x2 x3 : Nat} {x4 : Sender} {x5 x6 x7 : Nat} {x8 : List Byte} {x9 : Nat} {x10 : Bool} (h : Keeps p q w y s t) :
    Keeps p q w y s (@State.giveMessage t x1 x2 x3 x4 x5 x6 x7 x8 x9 x10) := by
  unfold State.giveMessage
  try dsimp only
  repeat' (with_reducible
    first | assumption | apply State.complete_keeps | apply State.count_keeps | apply State.pump_keeps |
      apply State.modRing_keeps | split)

theorem State.discardAt_keeps {x1 : Nat} (h : Keeps p q w y s t) :
    Keeps p q w y s (@State.discardAt t x1) := by
  unfold State.discardAt
  try dsimp only
  repeat' (with_reducible first | assumption | apply State.count_keeps)

theorem State.freeFlits_keeps {x1 x2 x3 : Nat} (h : Keeps p q w y s t) :
    Keeps p q w y s (@State.freeFlits t x1 x2 x3) := by
  unfold State.freeFlits
  try dsimp only
  repeat' (with_reducible first | assumption | apply State.modPort_keeps)

theorem State.dropRecord_keeps {x1 x2 x3 x4 : Nat} (h : Keeps p q w y s t) :
    Keeps p q w y s (@State.dropRecord t x1 x2 x3 x4) := by
  unfold State.dropRecord
  try dsimp only
  repeat' (with_reducible first | assumption | apply State.notice_keeps | apply State.count_keeps | apply State.modRing_keeps)

theorem State.beginRecord_keeps {x1 x2 x3 x4 : Nat} (h : Keeps p q w y s t) :
    Keeps p q w y s (@State.beginRecord t x1 x2 x3 x4) := by
  unfold State.beginRecord
  try dsimp only
  repeat' (with_reducible
    first | assumption | apply State.modRing_keeps | apply State.dropRecord_keeps | apply State.rollback_keeps |
      apply State.memFault_keeps | split)

theorem State.endRecord_keeps {x1 x2 x3 x4 : Nat} (h : Keeps p q false y s t) :
    Keeps p q false y s (@State.endRecord t x1 x2 x3 x4) := by
  unfold State.endRecord
  try dsimp only
  repeat' (with_reducible
    first | assumption | apply State.store_keeps | apply State.count_keeps | apply State.advance_keeps |
      apply State.modRing_keeps | apply State.enqueue_keeps | split)

theorem State.deliverData_keeps {x1 x2 : Nat} {x3 : RxFrame} (h : Keeps p q false y s t) :
    Keeps p q false y s (@State.deliverData t x1 x2 x3) := by
  unfold State.deliverData
  try dsimp only
  repeat' (with_reducible
    first | assumption | apply State.freeFlits_keeps | apply State.discardAt_keeps | apply State.modRing_keeps |
      apply State.sendCtl_keeps | apply State.count_keeps | apply State.beginRecord_keeps | apply State.store_keeps |
      apply State.endRecord_keeps | split)

theorem State.resetRings_keeps {x1 x2 : Nat} {x3 : Bool} (h : Keeps p q false y s t) :
    Keeps p q false y s (@State.resetRings t x1 x2 x3) := by
  unfold State.resetRings
  try dsimp only
  repeat' (with_reducible
    first | assumption | refine Keeps.each ?_ (fun _ _ _ => ?_) | apply State.notice_keeps | apply State.count_keeps |
      apply State.modRing_keeps | apply State.modQueue_keeps | apply State.modCore_keeps | apply State.deliverData_keeps |
      apply State.pump_keeps | split)

theorem State.announceRings_keeps {x1 : Nat} (h : Keeps p q w y s t) :
    Keeps p q w y s (@State.announceRings t x1) := by
  unfold State.announceRings
  try dsimp only
  repeat' (with_reducible first | assumption | refine Keeps.each ?_ (fun _ _ _ => ?_) | apply State.sendCtl_keeps | split)

theorem State.latchLedger_keeps {x1 : Nat} (h : Keeps p q w y s t) :
    Keeps p q w y s (@State.latchLedger t x1) := by
  unfold State.latchLedger
  try dsimp only
  repeat' (with_reducible
    first | assumption | refine Keeps.each ?_ (fun _ _ _ => ?_) | refine Keeps.foldl ?_ (fun _ _ _ => ?_) |
      apply State.setCount_keeps | apply State.count_keeps | apply State.setDist_keeps | split)

theorem State.giveEngine_keeps {x1 x2 : Nat} {x3 : List Byte} {x4 x5 : Nat} (h : Keeps p q w y s t) :
    Keeps p q w y s (@State.giveEngine t x1 x2 x3 x4 x5) := by
  unfold State.giveEngine
  try dsimp only
  repeat' (with_reducible first | assumption | apply State.modMir_keeps | apply State.giveMessage_keeps | split)

theorem State.sendSlots_keeps {x1 : Nat} (h : Keeps p q w y s t) :
    Keeps p q w y s (@State.sendSlots t x1) := by
  unfold State.sendSlots
  try dsimp only
  repeat' (with_reducible
    first | assumption | refine Keeps.each ?_ (fun _ _ _ => ?_) | apply State.modMir_keeps | apply State.giveEngine_keeps)

theorem State.startMirror_keeps {x1 : Nat} {x2 : Bool} (h : Keeps p q w y s t) :
    Keeps p q w y s (@State.startMirror t x1 x2) := by
  unfold State.startMirror
  try dsimp only
  repeat' (with_reducible
    first | assumption | refine Keeps.each ?_ (fun _ _ _ => ?_) | apply State.modMir_keeps | apply State.giveEngine_keeps |
      split)

theorem State.mirrorDw_keeps {x1 : Nat} (h : Keeps p q w y s t) :
    Keeps p q w y s (@State.mirrorDw t x1) := by
  unfold State.mirrorDw
  try dsimp only
  repeat' (with_reducible
    first | assumption | refine Keeps.each ?_ (fun _ _ _ => ?_) | apply State.modMir_keeps | apply State.giveEngine_keeps |
      split)

theorem State.absorbed_keeps {x1 x2 x3 x4 : Nat} (h : Keeps p q w y s t) :
    Keeps p q w y s (@State.absorbed t x1 x2 x3 x4) := by
  unfold State.absorbed
  try dsimp only
  repeat' (with_reducible first | assumption | apply State.notice_keeps | apply State.modOrb_keeps)

theorem State.mirrorCredit_keeps {x1 x2 : Nat} (h : Keeps p q w y s t) :
    Keeps p q w y s (@State.mirrorCredit t x1 x2) := by
  unfold State.mirrorCredit
  try dsimp only
  repeat' (with_reducible
    first | assumption | apply State.modBar_keeps | apply State.modMir_keeps | apply State.absorbed_keeps | split)

theorem State.startServe_keeps {x1 x2 x3 : Nat} (h : Keeps p q w y s t) :
    Keeps p q w y s (@State.startServe t x1 x2 x3) := by
  unfold State.startServe
  try dsimp only
  repeat' (with_reducible
    first | assumption | refine Keeps.each ?_ (fun _ _ _ => ?_) | apply State.modMir_keeps | apply State.giveEngine_keeps |
      split)

theorem State.badTree_keeps {x1 x2 : Nat} (h : Keeps p q w y s t) :
    Keeps p q w y s (@State.badTree t x1 x2) := by
  unfold State.badTree
  try dsimp only
  repeat' (with_reducible first | assumption | apply State.notice_keeps | apply State.count_keeps)

theorem State.sendMaxima_keeps {x1 x2 x3 : Nat} {x4 : List Nat} (h : Keeps p q w y s t) :
    Keeps p q w y s (@State.sendMaxima t x1 x2 x3 x4) := by
  unfold State.sendMaxima
  try dsimp only
  repeat' (with_reducible first | assumption | refine Keeps.each ?_ (fun _ _ _ => ?_) | apply State.sendCtl_keeps)

theorem State.timeoutBarrier_keeps {x1 x2 : Nat} (h : Keeps p q w y s t) :
    Keeps p q w y s (@State.timeoutBarrier t x1 x2) := by
  unfold State.timeoutBarrier
  try dsimp only
  repeat' (with_reducible first | assumption | apply State.rollbackHold_keeps)

theorem State.takeGo_keeps {x1 x2 : Nat} (h : Keeps p q w y s t) :
    Keeps p q w y s (@State.takeGo t x1 x2) := by
  unfold State.takeGo
  try dsimp only
  repeat' (with_reducible
    first | assumption | apply State.timeoutBarrier_keeps | apply State.modOrb_keeps | apply State.modBar_keeps | split)

theorem State.advanceBar_keeps {x1 : Nat} (h : Keeps p q w y s t) :
    Keeps p q w y s (@State.advanceBar t x1) := by
  unfold State.advanceBar
  try dsimp only
  repeat' (with_reducible
    first | assumption | apply State.modBar_keeps | apply State.sendDown_keeps | apply State.takeGo_keeps |
      apply State.modOrb_keeps | apply State.sendUp_keeps | split)

theorem State.holdDown_keeps {x1 : Nat} {x2 : List Nat} (h : Keeps p q w y s t) :
    Keeps p q w y s (@State.holdDown t x1 x2) := by
  unfold State.holdDown
  try dsimp only
  repeat' (with_reducible
    first | assumption | refine Keeps.each ?_ (fun _ _ _ => ?_) | apply State.modSlot_keeps | apply State.sendMaxima_keeps |
      apply State.modBar_keeps | apply State.sendSlots_keeps | apply State.advanceBar_keeps | split)

theorem State.advanceAmax_keeps {x1 : Nat} (h : Keeps p q w y s t) :
    Keeps p q w y s (@State.advanceAmax t x1) := by
  unfold State.advanceAmax
  try dsimp only
  repeat' (with_reducible
    first | assumption | apply State.modBar_keeps | apply State.holdDown_keeps | apply State.sendMaxima_keeps | split)

theorem State.onAmaxUp_keeps {x1 x2 x3 : Nat} {x4 : List Byte} (h : Keeps p q w y s t) :
    Keeps p q w y s (@State.onAmaxUp t x1 x2 x3 x4) := by
  unfold State.onAmaxUp
  try dsimp only
  repeat' (with_reducible
    first | assumption | apply State.badTree_keeps | apply State.modBar_keeps | apply State.advanceAmax_keeps | split)

theorem State.onAmaxDown_keeps {x1 x2 x3 : Nat} {x4 : List Byte} (h : Keeps p q w y s t) :
    Keeps p q w y s (@State.onAmaxDown t x1 x2 x3 x4) := by
  unfold State.onAmaxDown
  try dsimp only
  repeat' (with_reducible
    first | assumption | apply State.badTree_keeps | apply State.modBar_keeps | apply State.holdDown_keeps | split)

theorem State.onBarUp_keeps {x1 x2 x3 x4 : Nat} {x5 : Bool} (h : Keeps p q w y s t) :
    Keeps p q w y s (@State.onBarUp t x1 x2 x3 x4 x5) := by
  unfold State.onBarUp
  try dsimp only
  repeat' (with_reducible
    first | assumption | apply State.badTree_keeps | apply State.rootRestart_keeps | apply State.modBar_keeps |
      apply State.sendUp_keeps | apply State.advanceBar_keeps | split)

theorem State.onBarGo_keeps {x1 x2 x3 x4 : Nat} {x5 : Bool} (h : Keeps p q w y s t) :
    Keeps p q w y s (@State.onBarGo t x1 x2 x3 x4 x5) := by
  unfold State.onBarGo
  try dsimp only
  repeat' (with_reducible
    first | assumption | apply State.badTree_keeps | apply State.sendDown_keeps | apply State.abort_keeps |
      apply State.event_keeps | apply State.rollbackHold_keeps | apply State.modBar_keeps | apply State.fence_keeps |
      apply State.takeGo_keeps | apply State.takeRestart_keeps | split)

theorem State.onJobHold_keeps {x1 x2 x3 x4 x5 x6 : Nat} (h : Keeps p q w y s t) :
    Keeps p q w y s (@State.onJobHold t x1 x2 x3 x4 x5 x6) := by
  unfold State.onJobHold
  try dsimp only
  repeat' (with_reducible first | assumption | apply State.holdFor_keeps | apply State.spreadHold_keeps | split)

end Sys2Proof.Machine
end

