-- ==== Sys2Proof/Laws/KeepsLinks.lean ====
section
/-! SUPPORT. What the operations and meanings keep: time, links, frames received, images, ticks and orbits. -/

namespace Sys2Proof.Machine

variable {p q w y : Bool} {s t : State}

theorem State.idle_keeps (h : Keeps p q w y s t) :
    Keeps p q w y s (@State.idle t) := by
  unfold State.idle
  try dsimp only
  repeat' (with_reducible
    first | assumption |
      ((conv => arg 6; arg 24); first | apply Keeps.lit | apply Keeps.litP | apply Keeps.litO | apply Keeps.litPO | apply Keeps.litW) |
      apply State.advance_keeps | split)

theorem State.portNotice_keeps {x1 x2 x3 : Nat} (h : Keeps p q w y s t) :
    Keeps p q w y s (@State.portNotice t x1 x2 x3) := by
  unfold State.portNotice
  try dsimp only
  repeat' (with_reducible first | assumption | apply State.notice_keeps)

theorem State.sendFlit_keeps {x1 : Nat} {x2 : Bool} (h : Keeps p q w y s t) :
    Keeps p q w y s (@State.sendFlit t x1 x2) := by
  unfold State.sendFlit
  try dsimp only
  repeat' (with_reducible first | assumption | apply State.emit_keeps)

theorem State.placeFrame_keeps {x1 x2 x3 x4 : Nat} (h : Keeps p q w y s t) :
    Keeps p q w y s (@State.placeFrame t x1 x2 x3 x4) := by
  unfold State.placeFrame
  try dsimp only
  repeat' (with_reducible first | assumption | apply State.modLane_keeps | apply State.modPort_keeps | split)

theorem State.nextBseq_keeps {x1 : TxFrame} (h : Keeps p q w y s t) :
    Keeps p q w y s (@State.nextBseq t x1) := by
  unfold State.nextBseq
  try dsimp only
  repeat' (with_reducible
    first | assumption | apply State.modLane_keeps |
      ((conv => arg 6; arg 24); first | apply Keeps.lit | apply Keeps.litP | apply Keeps.litO | apply Keeps.litPO | apply Keeps.litW) |
      split)

theorem State.transmit_keeps {x1 : Nat} {x2 : TxFrame} (h : Keeps p q w y s t) :
    Keeps p q w y s (@State.transmit t x1 x2) := by
  unfold State.transmit
  try dsimp only
  repeat' (with_reducible
    first | assumption | apply State.modPort_keeps | apply State.count_keeps | apply State.freeFlits_keeps |
      apply State.emit_keeps | apply State.frameLeft_keeps | apply State.nextBseq_keeps | split)

theorem State.arbitrate_keeps {x1 : Nat} (h : Keeps p q w y s t) :
    Keeps p q w y s (@State.arbitrate t x1) := by
  unfold State.arbitrate
  try dsimp only
  repeat' (with_reducible
    first | assumption | apply Keeps.ite | refine Keeps.each ?_ (fun _ _ _ => ?_) | apply State.sendFlit_keeps |
      apply State.transmit_keeps | apply State.placeFrame_keeps | apply State.modPort_keeps | split)

theorem execFrameArbitrate_keeps {x0 : Fin 24} (h : Keeps p q w y s t) :
    ∀ u, @execFrameArbitrate x0 t = .next u → Keeps p q w y s u := by
  intro u hu
  unfold execFrameArbitrate at hu
  try dsimp only at hu
  repeat' (first | contradiction | (injection hu with hu; subst hu) | split at hu)
  repeat' (with_reducible first | assumption | apply Keeps.ite | apply State.arbitrate_keeps | split)

theorem State.laneMessage_keeps {x1 x2 x3 : Nat} (h : Keeps p q w y s t) :
    Keeps p q w y s (@State.laneMessage t x1 x2 x3) := by
  unfold State.laneMessage
  try dsimp only
  repeat' (with_reducible first | assumption | apply State.portCtl_keeps)

theorem State.laneSelected_keeps {x1 : Nat} (h : Keeps p q w y s t) :
    Keeps p q w y s (@State.laneSelected t x1) := by
  unfold State.laneSelected
  try dsimp only
  repeat' (with_reducible
    first | assumption | apply State.modPort_keeps |
      ((conv => arg 6; arg 24); first | apply Keeps.lit | apply Keeps.litP | apply Keeps.litO | apply Keeps.litPO | apply Keeps.litW) |
      split)

theorem State.dropLaneSwap_keeps {x1 : Nat} (h : Keeps p q w y s t) :
    Keeps p q w y s (@State.dropLaneSwap t x1) := by
  unfold State.dropLaneSwap
  try dsimp only
  repeat' (with_reducible
    first | assumption | apply State.modPort_keeps | apply State.saveTables_keeps | apply State.portNotice_keeps |
      ((conv => arg 6; arg 24); first | apply Keeps.lit | apply Keeps.litP | apply Keeps.litO | apply Keeps.litPO | apply Keeps.litW))

theorem State.startTraining_keeps {x1 : Nat} (h : Keeps p q w y s t) :
    Keeps p q w y s (@State.startTraining t x1) := by
  unfold State.startTraining
  try dsimp only
  repeat' (with_reducible first | assumption | apply State.modPort_keeps)

theorem State.startCards_keeps {x1 : Nat} (h : Keeps p q w y s t) :
    Keeps p q w y s (@State.startCards t x1) := by
  unfold State.startCards
  try dsimp only
  repeat' (with_reducible
    first | assumption | apply State.modPort_keeps | apply State.sendPings_keeps | apply State.sendCard_keeps)

theorem State.enterRetrain_keeps {x1 x2 : Nat} (h : Keeps p q w y s t) :
    Keeps p q w y s (@State.enterRetrain t x1 x2) := by
  unfold State.enterRetrain
  try dsimp only
  repeat' (with_reducible
    first | assumption | apply State.modPort_keeps | apply State.portNotice_keeps | apply State.count_keeps |
      apply State.sendCard_keeps)

theorem State.moveFrames_keeps {x1 : Nat} (h : Keeps p q w y s t) :
    Keeps p q w y s (@State.moveFrames t x1) := by
  unfold State.moveFrames
  try dsimp only
  repeat' (with_reducible
    first | assumption | refine Keeps.each ?_ (fun _ _ _ => ?_) | apply State.modPort_keeps | apply State.freeFlits_keeps |
      split)

theorem State.goDark_keeps {x1 x2 x3 : Nat} (h : Keeps p q w y s t) :
    Keeps p q w y s (@State.goDark t x1 x2 x3) := by
  unfold State.goDark
  try dsimp only
  repeat' (with_reducible
    first | assumption | apply State.modPort_keeps | apply State.portNotice_keeps | apply State.count_keeps |
      apply State.portLost_keeps | apply State.moveFrames_keeps | split)

theorem State.quarantine_keeps {x1 x2 : Nat} (h : Keeps p q w y s t) :
    Keeps p q w y s (@State.quarantine t x1 x2) := by
  unfold State.quarantine
  try dsimp only
  repeat' (with_reducible
    first | assumption | apply State.modPort_keeps | apply State.portNotice_keeps | apply State.count_keeps |
      apply State.portLost_keeps | apply State.portCtl_keeps |
      ((conv => arg 6; arg 24); first | apply Keeps.lit | apply Keeps.litP | apply Keeps.litO | apply Keeps.litPO | apply Keeps.litW) |
      split)

theorem State.activate_keeps {x1 x2 x3 : Nat} (h : Keeps p q w y s t) :
    Keeps p q w y s (@State.activate t x1 x2 x3) := by
  unfold State.activate
  try dsimp only
  repeat' (with_reducible
    first | assumption | apply State.modPort_keeps | apply State.draw_keeps | apply State.eventIn_keeps |
      apply State.sendCtl_keeps |
      ((conv => arg 6; arg 24); first | apply Keeps.lit | apply Keeps.litP | apply Keeps.litO | apply Keeps.litPO | apply Keeps.litW) |
      split)
  all_goals first | exact fun _ => ⟨rfl, rfl⟩ | exact fun _ => rfl | exact fun _ e => e | exact fun _ _ => rfl

theorem State.settle_keeps {x1 : Nat} (h : Keeps p q w y s t) :
    Keeps p q w y s (@State.settle t x1) := by
  unfold State.settle
  try dsimp only
  repeat' (with_reducible
    first | assumption | apply State.quarantine_keeps | apply State.activate_keeps | apply State.modPort_keeps | split)

theorem State.joinPorts_keeps (h : Keeps p q w y s t) :
    Keeps p q w y s (@State.joinPorts t) := by
  unfold State.joinPorts
  try dsimp only
  repeat' (with_reducible
    first | assumption | refine Keeps.each ?_ (fun _ _ _ => ?_) | apply State.settle_keeps | apply State.modPort_keeps |
      ((conv => arg 6; arg 24); first | apply Keeps.lit | apply Keeps.litP | apply Keeps.litO | apply Keeps.litPO | apply Keeps.litW) |
      split)

theorem State.takeCard_keeps {x1 : Nat} {x2 : List Byte} (h : Keeps p q w y s t) :
    Keeps p q w y s (@State.takeCard t x1 x2) := by
  unfold State.takeCard
  try dsimp only
  repeat' (with_reducible first | assumption | apply State.modPort_keeps | apply State.settle_keeps | split)

theorem State.takeEcho_keeps {x1 : Nat} {x2 : List Byte} {x3 : Nat} (h : Keeps p q w y s t) :
    Keeps p q w y s (@State.takeEcho t x1 x2 x3) := by
  unfold State.takeEcho
  try dsimp only
  repeat' (with_reducible first | assumption | apply State.modPort_keeps | apply State.settle_keeps | split)

theorem State.resend_keeps {x1 : Nat} {x2 : Option Nat} (h : Keeps p q w y s t) :
    Keeps p q w y s (@State.resend t x1 x2) := by
  unfold State.resend
  try dsimp only
  repeat' (with_reducible
    first | assumption | refine Keeps.each ?_ (fun _ _ _ => ?_) | apply State.enterRetrain_keeps | apply State.modPort_keeps |
      apply State.portNotice_keeps | apply State.count_keeps | apply State.emit_keeps | split)

theorem execRetryTimeout_keeps {x0 : Fin 24} (h : Keeps p q w y s t) :
    ∀ u, @execRetryTimeout x0 t = .next u → Keeps p q w y s u := by
  intro u hu
  unfold execRetryTimeout at hu
  try dsimp only at hu
  repeat' (first | contradiction | (injection hu with hu; subst hu) | split at hu)
  repeat' (with_reducible first | assumption | apply State.resend_keeps | split)

theorem execNakRepeat_keeps {x0 : Fin 24} (h : Keeps p q w y s t) :
    ∀ u, @execNakRepeat x0 t = .next u → Keeps p q w y s u := by
  intro u hu
  unfold execNakRepeat at hu
  try dsimp only at hu
  repeat' (first | contradiction | (injection hu with hu; subst hu) | split at hu)
  repeat' (with_reducible first | assumption | apply State.sendFlit_keeps | split)

theorem State.takeFlit_keeps {x1 x2 : Nat} (h : Keeps p q w y s t) :
    Keeps p q w y s (@State.takeFlit t x1 x2) := by
  unfold State.takeFlit
  try dsimp only
  repeat' (with_reducible
    first | assumption | apply State.modPort_keeps | apply State.resend_keeps | apply State.count_keeps |
      apply State.portLost_keeps | apply State.quarantine_keeps | refine Keeps.ite ?_ ?_ | split)

theorem execLinkFlit_keeps {x0 : Fin 24} {x1 : List Byte} (h : Keeps p q w y s t) :
    ∀ u, @execLinkFlit x0 x1 t = .next u → Keeps p q w y s u := by
  intro u hu
  unfold execLinkFlit at hu
  try dsimp only at hu
  repeat' (first | contradiction | (injection hu with hu; subst hu) | split at hu)
  repeat' (with_reducible first | assumption | apply State.takeFlit_keeps | split)

theorem execLaneLoss_keeps {x0 : Fin 24} {x1 : Nat} (h : Keeps p q w y s t) :
    ∀ u, @execLaneLoss x0 x1 t = .next u → Keeps p q w y s u := by
  intro u hu
  unfold execLaneLoss at hu
  try dsimp only at hu
  repeat' (first | contradiction | (injection hu with hu; subst hu) | split at hu)
  repeat' (with_reducible
    first | assumption | apply State.count_keeps | apply State.modPort_keeps | apply State.enterRetrain_keeps |
      apply State.saveTables_keeps | split)

theorem execRetrainEnd_keeps {x0 : Fin 24} {x1 : Bool} (h : Keeps p q w y s t) :
    ∀ u, @execRetrainEnd x0 x1 t = .next u → Keeps p q w y s u := by
  intro u hu
  unfold execRetrainEnd at hu
  try dsimp only at hu
  repeat' (first | contradiction | (injection hu with hu; subst hu) | split at hu)
  repeat' (with_reducible
    first | assumption | apply State.settle_keeps | apply State.modPort_keeps | apply State.goDark_keeps |
      apply State.enterRetrain_keeps | split)

theorem execDownTrainingAttempt_keeps {x0 : Fin 24} (h : Keeps p q w y s t) :
    ∀ u, @execDownTrainingAttempt x0 t = .next u → Keeps p q w y s u := by
  intro u hu
  unfold execDownTrainingAttempt at hu
  try dsimp only at hu
  repeat' (first | contradiction | (injection hu with hu; subst hu) | split at hu)
  repeat' (with_reducible first | assumption | apply State.startTraining_keeps | split)

theorem execLinkTrainingPhaseEnd_keeps {x0 : Fin 24} {x1 : Bool} {x2 x3 : Nat} {x4 : Option Nat} (h : Keeps p q w y s t) :
    ∀ u, @execLinkTrainingPhaseEnd x0 x1 x2 x3 x4 t = .next u → Keeps p q w y s u := by
  intro u hu
  unfold execLinkTrainingPhaseEnd at hu
  try dsimp only at hu
  repeat' (first | contradiction | (injection hu with hu; subst hu) | split at hu)
  repeat' (with_reducible
    first | assumption | apply State.startTraining_keeps | apply State.modPort_keeps | apply State.goDark_keeps |
      apply State.portNotice_keeps | apply State.startCards_keeps | split)

theorem execCardTimeout_keeps {x0 : Fin 24} (h : Keeps p q w y s t) :
    ∀ u, @execCardTimeout x0 t = .next u → Keeps p q w y s u := by
  intro u hu
  unfold execCardTimeout at hu
  try dsimp only at hu
  repeat' (first | contradiction | (injection hu with hu; subst hu) | split at hu)
  repeat' (with_reducible first | assumption | apply State.settle_keeps | split)

theorem State.refuseFrame_keeps {x1 : Nat} (h : Keeps p q w y s t) :
    Keeps p q w y s (@State.refuseFrame t x1) := by
  unfold State.refuseFrame
  try dsimp only
  repeat' (with_reducible first | assumption | apply State.sendFlit_keeps | apply State.modPort_keeps | split)

theorem State.accept_keeps {x1 : Nat} {x2 : Frame} {x3 : Nat} (h : Keeps p q w y s t) :
    Keeps p q w y s (@State.accept t x1 x2 x3).1 := by
  unfold State.accept
  try dsimp only
  repeat' (with_reducible
    first | assumption | apply State.refuseFrame_keeps | apply State.count_keeps | apply State.modPort_keeps |
      apply State.sendFlit_keeps | apply State.freeFlits_keeps | split)

theorem State.onAnnounce_keeps {x1 x2 : Nat} {x3 : List Byte} (h : Keeps p q w y s t) :
    Keeps p q w y s (@State.onAnnounce t x1 x2 x3) := by
  unfold State.onAnnounce
  try dsimp only
  repeat' (with_reducible
    first | assumption | apply State.memFault_keeps | apply State.modRing_keeps | apply State.pump_keeps | split)

theorem State.onCredit_keeps {x1 x2 x3 : Nat} {x4 : List Byte} (h : Keeps p q w y s t) :
    Keeps p q w y s (@State.onCredit t x1 x2 x3 x4) := by
  unfold State.onCredit
  try dsimp only
  repeat' (with_reducible
    first | assumption | apply State.advanceBar_keeps | apply State.mirrorCredit_keeps | apply State.pump_keeps |
      apply State.modRing_keeps | split)

theorem State.onNackDead_keeps {x1 x2 x3 : Nat} {x4 : List Byte} (h : Keeps p q w y s t) :
    Keeps p q w y s (@State.onNackDead t x1 x2 x3 x4) := by
  unfold State.onNackDead
  try dsimp only
  repeat' (with_reducible first | assumption | apply State.killRing_keeps | apply State.count_keeps | split)

theorem State.onCtl_keeps {x1 x2 x3 x4 : Nat} {x5 : List Byte} (h : Keeps p q w y s t) :
    Keeps p q w y s (@State.onCtl t x1 x2 x3 x4 x5) := by
  unfold State.onCtl
  try dsimp only
  repeat' (with_reducible
    first | assumption | apply State.portNotice_keeps | apply State.count_keeps | apply State.onAnnounce_keeps |
      apply State.onCredit_keeps | apply State.onNackDead_keeps | apply State.onAmaxUp_keeps | apply State.onAmaxDown_keeps |
      apply State.onBarUp_keeps | apply State.onBarGo_keeps | apply State.onJobHold_keeps | split)

theorem State.noRoute_keeps {x1 : RxFrame} (h : Keeps p q w y s t) :
    Keeps p q w y s (@State.noRoute t x1) := by
  unfold State.noRoute
  try dsimp only
  repeat' (with_reducible
    first | assumption | apply State.portNotice_keeps | apply State.freeFlits_keeps | apply State.discardAt_keeps)

theorem State.passOn_keeps {x1 x2 x3 : Nat} {x4 : RxFrame} (h : Keeps p q w y s t) :
    Keeps p q w y s (@State.passOn t x1 x2 x3 x4) := by
  unfold State.passOn
  try dsimp only
  repeat' (with_reducible first | assumption | apply State.modLane_keeps)

theorem State.route_keeps {x1 x2 : Nat} {x3 : RxFrame} (h : Keeps p q false y s t) :
    Keeps p q false y s (@State.route t x1 x2 x3) := by
  unfold State.route
  try dsimp only
  repeat' (with_reducible
    first | assumption | apply State.noRoute_keeps | apply State.count_keeps | apply State.passOn_keeps |
      apply State.freeFlits_keeps | apply State.discardAt_keeps | apply State.deliverData_keeps | apply State.onCtl_keeps |
      split)

theorem State.drain_keeps {x0 x1 x2 k : Nat} (h : Keeps p q false y s t) :
    Keeps p q false y s (@State.drain x0 x1 x2 k t) := by
  induction k generalizing t with
  | zero => exact h
  | succ k ih =>
    unfold State.drain
    dsimp only
    split
    · exact h
    · exact ih (State.route_keeps (State.modLane_keeps h))

theorem State.classed_keeps {x1 x2 : Nat} {x3 : List Byte} (h : Keeps p q false y s t) :
    Keeps p q false y s (@State.classed t x1 x2 x3) := by
  unfold State.classed
  try dsimp only
  repeat' (with_reducible
    first | assumption | apply State.noRoute_keeps | apply State.freeFlits_keeps | apply State.modLane_keeps |
      apply State.drain_keeps | split)

theorem State.receive_keeps {x1 : Nat} {x2 : Frame} {x3 : Nat} (h : Keeps p q false y s t) :
    Keeps p q false y s (@State.receive t x1 x2 x3) := by
  unfold State.receive
  try dsimp only
  repeat' (with_reducible
    first | assumption | apply State.accept_keeps | apply State.classed_keeps | refine Keeps.fst_eq (by assumption) ?_ |
      split)

theorem State.receivePort_keeps {x1 : Nat} {x2 : Frame} {x3 : Nat} {x4 : List Byte → State → State} (h : Keeps p q w y s t)
    (hx4 : ∀ y0 u, Keeps p q w y s u → Keeps p q w y s (x4 y0 u)) :
    Keeps p q w y s (@State.receivePort t x1 x2 x3 x4) := by
  unfold State.receivePort
  try dsimp only
  repeat' (with_reducible
    first | assumption | apply hx4 | apply State.accept_keeps | apply State.freeFlits_keeps | apply State.portNotice_keeps |
      apply State.count_keeps | refine Keeps.fst_eq (by assumption) ?_ | apply State.discardAt_keeps | split)

theorem State.sendBeacons_keeps (h : Keeps p q w y s t) :
    Keeps p q w y s (@State.sendBeacons t) := by
  unfold State.sendBeacons
  try dsimp only
  repeat' (with_reducible first | assumption | refine Keeps.each ?_ (fun _ _ _ => ?_) | apply State.portCtl_keeps | split)

theorem State.onBeacon_keeps {x1 x2 : Nat} {x3 : List Byte} (h : Keeps p q w y s t) :
    Keeps p q w y s (@State.onBeacon t x1 x2 x3) := by
  unfold State.onBeacon
  try dsimp only
  repeat' (with_reducible
    first | assumption | apply State.quarantine_keeps |
      ((conv => arg 6; arg 24); first | apply Keeps.lit | apply Keeps.litP | apply Keeps.litO | apply Keeps.litPO | apply Keeps.litW) |
      exact fun _ => ⟨rfl, rfl⟩ | split)

theorem execDataFrame_keeps {x0 : Fin 24} {x1 : Frame} (h : Keeps p q false y s t) :
    ∀ u, @execDataFrame x0 x1 t = .next u → Keeps p q false y s u := by
  intro u hu
  unfold execDataFrame at hu
  try dsimp only at hu
  repeat' (first | contradiction | (injection hu with hu; subst hu) | split at hu)
  repeat' (with_reducible first | assumption | apply State.receive_keeps)

theorem execCard_keeps {x0 : Fin 24} {x1 : Frame} (h : Keeps p q w y s t) :
    ∀ u, @execCard x0 x1 t = .next u → Keeps p q w y s u := by
  intro u hu
  unfold execCard at hu
  try dsimp only at hu
  repeat' (first | contradiction | (injection hu with hu; subst hu) | split at hu)
  repeat' (with_reducible first | assumption | apply State.receivePort_keeps | apply State.takeCard_keeps | intro _)

theorem execPing_keeps {x0 : Fin 24} {x1 : Frame} {x2 : Nat} (h : Keeps p q w y s t) :
    ∀ u, @execPing x0 x1 x2 t = .next u → Keeps p q w y s u := by
  intro u hu
  unfold execPing at hu
  try dsimp only at hu
  repeat' (first | contradiction | (injection hu with hu; subst hu) | split at hu)
  repeat' (with_reducible first | assumption | apply State.receivePort_keeps | apply State.portCtl_keeps | intro _)

theorem execEcho_keeps {x0 : Fin 24} {x1 : Frame} {x2 : Nat} (h : Keeps p q w y s t) :
    ∀ u, @execEcho x0 x1 x2 t = .next u → Keeps p q w y s u := by
  intro u hu
  unfold execEcho at hu
  try dsimp only at hu
  repeat' (first | contradiction | (injection hu with hu; subst hu) | split at hu)
  repeat' (with_reducible first | assumption | apply State.receivePort_keeps | apply State.takeEcho_keeps | intro _)

theorem execBeacon_keeps {x0 : Fin 24} {x1 : Frame} {x2 : Nat} (h : Keeps p q w y s t) :
    ∀ u, @execBeacon x0 x1 x2 t = .next u → Keeps p q w y s u := by
  intro u hu
  unfold execBeacon at hu
  try dsimp only at hu
  repeat' (first | contradiction | (injection hu with hu; subst hu) | split at hu)
  repeat' (with_reducible first | assumption | apply State.receivePort_keeps | apply State.onBeacon_keeps | intro _)

theorem execAnnounce_keeps {x0 : Fin 24} {x1 : Frame} (h : Keeps p q false y s t) :
    ∀ u, @execAnnounce x0 x1 t = .next u → Keeps p q false y s u := by
  intro u hu
  unfold execAnnounce at hu
  try dsimp only at hu
  repeat' (first | contradiction | (injection hu with hu; subst hu) | split at hu)
  repeat' (with_reducible first | assumption | apply State.receive_keeps)

theorem execCredit_keeps {x0 : Fin 24} {x1 : Frame} (h : Keeps p q false y s t) :
    ∀ u, @execCredit x0 x1 t = .next u → Keeps p q false y s u := by
  intro u hu
  unfold execCredit at hu
  try dsimp only at hu
  repeat' (first | contradiction | (injection hu with hu; subst hu) | split at hu)
  repeat' (with_reducible first | assumption | apply State.receive_keeps)

theorem execNackDead_keeps {x0 : Fin 24} {x1 : Frame} (h : Keeps p q false y s t) :
    ∀ u, @execNackDead x0 x1 t = .next u → Keeps p q false y s u := by
  intro u hu
  unfold execNackDead at hu
  try dsimp only at hu
  repeat' (first | contradiction | (injection hu with hu; subst hu) | split at hu)
  repeat' (with_reducible first | assumption | apply State.receive_keeps)

theorem execAmaxUp_keeps {x0 : Fin 24} {x1 : Frame} (h : Keeps p q false y s t) :
    ∀ u, @execAmaxUp x0 x1 t = .next u → Keeps p q false y s u := by
  intro u hu
  unfold execAmaxUp at hu
  try dsimp only at hu
  repeat' (first | contradiction | (injection hu with hu; subst hu) | split at hu)
  repeat' (with_reducible first | assumption | apply State.receive_keeps)

theorem execAmaxDown_keeps {x0 : Fin 24} {x1 : Frame} (h : Keeps p q false y s t) :
    ∀ u, @execAmaxDown x0 x1 t = .next u → Keeps p q false y s u := by
  intro u hu
  unfold execAmaxDown at hu
  try dsimp only at hu
  repeat' (first | contradiction | (injection hu with hu; subst hu) | split at hu)
  repeat' (with_reducible first | assumption | apply State.receive_keeps)

theorem execBarUp_keeps {x0 : Fin 24} {x1 : Frame} (h : Keeps p q false y s t) :
    ∀ u, @execBarUp x0 x1 t = .next u → Keeps p q false y s u := by
  intro u hu
  unfold execBarUp at hu
  try dsimp only at hu
  repeat' (first | contradiction | (injection hu with hu; subst hu) | split at hu)
  repeat' (with_reducible first | assumption | apply State.receive_keeps)

theorem execBarGo_keeps {x0 : Fin 24} {x1 : Frame} (h : Keeps p q false y s t) :
    ∀ u, @execBarGo x0 x1 t = .next u → Keeps p q false y s u := by
  intro u hu
  unfold execBarGo at hu
  try dsimp only at hu
  repeat' (first | contradiction | (injection hu with hu; subst hu) | split at hu)
  repeat' (with_reducible first | assumption | apply State.receive_keeps)

theorem execRestartBarUp_keeps {x0 : Fin 24} {x1 : Frame} (h : Keeps p q false y s t) :
    ∀ u, @execRestartBarUp x0 x1 t = .next u → Keeps p q false y s u := by
  intro u hu
  unfold execRestartBarUp at hu
  try dsimp only at hu
  repeat' (first | contradiction | (injection hu with hu; subst hu) | split at hu)
  repeat' (with_reducible first | assumption | apply State.receive_keeps)

theorem execRestartBarGo_keeps {x0 : Fin 24} {x1 : Frame} (h : Keeps p q false y s t) :
    ∀ u, @execRestartBarGo x0 x1 t = .next u → Keeps p q false y s u := by
  intro u hu
  unfold execRestartBarGo at hu
  try dsimp only at hu
  repeat' (first | contradiction | (injection hu with hu; subst hu) | split at hu)
  repeat' (with_reducible first | assumption | apply State.receive_keeps)

theorem execJobHold_keeps {x0 : Fin 24} {x1 : Frame} (h : Keeps p q false y s t) :
    ∀ u, @execJobHold x0 x1 t = .next u → Keeps p q false y s u := by
  intro u hu
  unfold execJobHold at hu
  try dsimp only at hu
  repeat' (first | contradiction | (injection hu with hu; subst hu) | split at hu)
  repeat' (with_reducible first | assumption | apply State.receive_keeps)

theorem State.onProposal_keeps {x1 x2 : Nat} (h : Keeps p q w y s t) :
    Keeps p q w y s (@State.onProposal t x1 x2) := by
  unfold State.onProposal
  try dsimp only
  repeat' (with_reducible
    first | assumption | apply State.modPort_keeps | apply State.saveTables_keeps | apply State.laneMessage_keeps |
      ((conv => arg 6; arg 24); first | apply Keeps.lit | apply Keeps.litP | apply Keeps.litO | apply Keeps.litPO | apply Keeps.litW) |
      split)

theorem State.onAgreement_keeps {x1 x2 : Nat} (h : Keeps p q w y s t) :
    Keeps p q w y s (@State.onAgreement t x1 x2) := by
  unfold State.onAgreement
  try dsimp only
  repeat' (with_reducible
    first | assumption | apply State.modPort_keeps | apply State.saveTables_keeps |
      ((conv => arg 6; arg 24); first | apply Keeps.lit | apply Keeps.litP | apply Keeps.litO | apply Keeps.litPO | apply Keeps.litW) |
      split)

theorem State.onMgmt_keeps {x1 : Nat} {x2 : List Byte} (h : Keeps p q w y s t) :
    Keeps p q w y s (@State.onMgmt t x1 x2) := by
  unfold State.onMgmt
  try dsimp only
  repeat' (with_reducible
    first | assumption | apply State.onProposal_keeps | apply State.laneSelected_keeps | apply State.onAgreement_keeps |
      ((conv => arg 6; arg 24); first | apply Keeps.lit | apply Keeps.litP | apply Keeps.litO | apply Keeps.litPO | apply Keeps.litW) |
      split)

theorem execMgmt_keeps {x0 : Fin 24} {x1 : Frame} (h : Keeps p q w y s t) :
    ∀ u, @execMgmt x0 x1 t = .next u → Keeps p q w y s u := by
  intro u hu
  unfold execMgmt at hu
  try dsimp only at hu
  repeat' (first | contradiction | (injection hu with hu; subst hu) | split at hu)
  repeat' (with_reducible
    first | assumption | apply State.receivePort_keeps |
      ((conv => arg 6; arg 24); first | apply Keeps.lit | apply Keeps.litP | apply Keeps.litO | apply Keeps.litPO | apply Keeps.litW) |
      intro _ | apply State.onMgmt_keeps)

theorem State.loadShadows_keeps {x1 : Nat} {x2 : Image} (h : Keeps p q w y s t) :
    Keeps p q w y s (@State.loadShadows t x1 x2) := by
  unfold State.loadShadows
  try dsimp only
  repeat' (with_reducible
    first | assumption | refine Keeps.each ?_ (fun _ _ _ => ?_) | apply State.modPort_keeps |
      ((conv => arg 6; arg 24); first | apply Keeps.lit | apply Keeps.litP | apply Keeps.litO | apply Keeps.litPO | apply Keeps.litW) |
      split)
  all_goals first | exact fun _ => ⟨rfl, rfl⟩ | exact fun _ => rfl | exact fun _ e => e | exact fun _ _ => rfl

theorem State.endLoad_keeps {x1 : Nat} (h : Keeps p q w y s t) :
    Keeps p q w y s (@State.endLoad t x1) := by
  unfold State.endLoad
  try dsimp only
  repeat' (with_reducible first | assumption | apply State.modImg_keeps | apply State.loadShadows_keeps | split)

theorem execLoadEnd_keeps {x0 : Fin 4} (h : Keeps p q w y s t) :
    ∀ u, @execLoadEnd x0 t = .next u → Keeps p q w y s u := by
  intro u hu
  unfold execLoadEnd at hu
  try dsimp only at hu
  repeat' (first | contradiction | (injection hu with hu; subst hu) | split at hu)
  repeat' (with_reducible first | assumption | apply State.endLoad_keeps | apply State.joinPorts_keeps | split)

theorem State.commitSlot_keeps {x1 : Nat} {x2 : List Nat} {x3 : Bool} {x4 : Nat} (h : Keeps p q w y s t) :
    Keeps p q w y s (@State.commitSlot t x1 x2 x3 x4) := by
  unfold State.commitSlot
  try dsimp only
  repeat' (with_reducible
    first | assumption | refine Keeps.each ?_ (fun _ _ _ => ?_) | apply State.modSlot_keeps | apply State.setCount_keeps |
      split)

theorem State.commitSlots_keeps {x1 : Nat} {x2 x3 : List Nat} {x4 : Bool} (h : Keeps p q w y s t) :
    Keeps p q w y s (@State.commitSlots t x1 x2 x3 x4) := by
  unfold State.commitSlots
  try dsimp only
  repeat' (with_reducible
    first | assumption | refine Keeps.each ?_ (fun _ _ _ => ?_) | apply State.modSlot_keeps | apply State.commitSlot_keeps)

theorem State.clearRingEntry_keeps {x1 : Nat} (h : Keeps p q w y s t) :
    Keeps p q w y s (@State.clearRingEntry t x1) := by
  unfold State.clearRingEntry
  try dsimp only
  repeat' (with_reducible
    first | assumption | refine Keeps.each ?_ (fun _ _ _ => ?_) | apply State.modQueue_keeps | apply State.finishCmd_keeps |
      apply State.modRing_keeps | split)

theorem State.commitRings_keeps {x1 : Nat} {x2 x3 : List Nat} (h : Keeps p q w y s t) :
    Keeps p q w y s (@State.commitRings t x1 x2 x3) := by
  unfold State.commitRings
  try dsimp only
  repeat' (with_reducible
    first | assumption | refine Keeps.each ?_ (fun _ _ _ => ?_) | apply State.modQueue_keeps | apply State.modRing_keeps |
      apply State.sendCtl_keeps | apply State.clearRingEntry_keeps | apply State.announceRings_keeps | split)

theorem State.commitBoxes_keeps {x1 : Nat} {x2 x3 : List Nat} (h : Keeps p q w y s t) :
    Keeps p q w y s (@State.commitBoxes t x1 x2 x3) := by
  unfold State.commitBoxes
  try dsimp only
  repeat' (with_reducible
    first | assumption | refine Keeps.each ?_ (fun _ _ _ => ?_) | apply State.modMemd_keeps | apply State.modPbx_keeps |
      apply State.count_keeps | apply State.modBox_keeps | split)

theorem State.commitHighs_keeps {x1 : Nat} (h : Keeps p q w y s t) :
    Keeps p q w y s (@State.commitHighs t x1) := by
  unfold State.commitHighs
  try dsimp only
  repeat' (with_reducible
    first | assumption | refine Keeps.each ?_ (fun _ _ _ => ?_) | apply State.modPbx_keeps | apply State.modMemd_keeps |
      apply State.modQueue_keeps |
      ((conv => arg 6; arg 24); first | apply Keeps.lit | apply Keeps.litP | apply Keeps.litO | apply Keeps.litPO | apply Keeps.litW))

theorem State.commitShadows_keeps {x1 : Nat} {x2 : Image} (h : Keeps p q w y s t) :
    Keeps p q w y s (@State.commitShadows t x1 x2) := by
  unfold State.commitShadows
  try dsimp only
  repeat' (with_reducible
    first | assumption | refine Keeps.each ?_ (fun _ _ _ => ?_) | apply State.modCore_keeps | apply State.modNum_keeps |
      apply State.modHost_keeps | apply State.modFlt_keeps | apply State.modMir_keeps |
      ((conv => arg 6; arg 24); first | apply Keeps.lit | apply Keeps.litP | apply Keeps.litO | apply Keeps.litPO | apply Keeps.litW) |
      exact fun _ => ⟨rfl, rfl⟩)

theorem State.commitPorts_keeps {x1 : Nat} {x2 x3 : List Nat} {x4 : Bool} (h : Keeps p q w y s t) :
    Keeps p q w y s (@State.commitPorts t x1 x2 x3 x4) := by
  unfold State.commitPorts
  try dsimp only
  repeat' (with_reducible
    first | assumption | refine Keeps.each ?_ (fun _ _ _ => ?_) | apply State.modImg_keeps | apply State.modPort_keeps |
      apply State.sendCard_keeps | apply State.settle_keeps | split)

theorem State.commitJob_keeps {x1 : Nat} {x2 : Image} (h : Keeps p q w y s t) :
    Keeps p q w y s (@State.commitJob t x1 x2) := by
  unfold State.commitJob
  try dsimp only
  repeat' (with_reducible first | assumption | apply State.modNum_keeps | split)

theorem State.firstStep_keeps {x1 : Nat} {x2 : Image} (h : Keeps p q w y s t) :
    Keeps p q w y s (@State.firstStep t x1 x2) := by
  unfold State.firstStep
  try dsimp only
  repeat' (with_reducible
    first | assumption | apply State.modOrb_keeps | apply State.modBar_keeps | apply State.modFlt_keeps |
      apply State.countDist_keeps | apply State.modMir_keeps | split)

theorem State.applyCommit_keeps {x1 : Nat} (h : Keeps p q w y s t) :
    Keeps p q w y s (@State.applyCommit t x1) := by
  unfold State.applyCommit
  try dsimp only
  repeat' (with_reducible
    first | assumption | refine Keeps.each ?_ (fun _ _ _ => ?_) | apply State.setDist_keeps | apply State.modImg_keeps |
      apply State.firstStep_keeps | apply State.commitShadows_keeps | apply State.commitJob_keeps |
      apply State.commitSlots_keeps | apply State.commitBoxes_keeps | apply State.commitRings_keeps |
      apply State.commitPorts_keeps | apply State.commitHighs_keeps | split)

theorem State.commitOutcome_keeps {x1 : Nat} {x2 x3 : Bool} (h : Keeps p q w y s t) :
    Keeps p q w y s (@State.commitOutcome t x1 x2 x3) := by
  unfold State.commitOutcome
  try dsimp only
  repeat' (with_reducible
    first | assumption | apply State.applyCommit_keeps | apply State.countDist_keeps | apply State.modImg_keeps | split)

theorem State.countTimes_keeps {x1 : CoreTime} (h : Keeps p q w y s t) :
    Keeps p q w y s (@State.countTimes t x1) := by
  unfold State.countTimes
  try dsimp only
  repeat' (with_reducible first | assumption | apply State.count_keeps)

theorem State.judgeCore_keeps {x1 x2 : Nat} {x3 : List (Nat × Nat)} (h : Keeps p q w y s t) :
    Keeps p q w y s (@State.judgeCore t x1 x2 x3) := by
  unfold State.judgeCore
  try dsimp only
  repeat' (with_reducible first | assumption | apply State.modCore_keeps | apply State.count_keeps | split)

theorem State.overrunFence_keeps {x1 x2 x3 x4 : Nat} (h : Keeps p q w y s t) :
    Keeps p q w y s (@State.overrunFence t x1 x2 x3 x4) := by
  unfold State.overrunFence
  try dsimp only
  repeat' (with_reducible
    first | assumption | apply State.modOrb_keeps | apply State.fence_keeps |
      ((conv => arg 6; arg 24); first | apply Keeps.lit | apply Keeps.litP | apply Keeps.litO | apply Keeps.litPO | apply Keeps.litW))

theorem State.judge_keeps {x1 x2 : Nat} {x3 : Bool} {x4 : List CoreTime} (h : Keeps p q w y s t) :
    Keeps p q w y s (@State.judge t x1 x2 x3 x4) := by
  unfold State.judge
  extract_lets ns timeOf overs twice causes leftOf best stream len streamLate streamTwice s1 s2 s3 lost
  have h3 : Keeps p q w y s s3 := by
    refine Keeps.each (Keeps.each (State.modOrb_keeps h) fun _ _ hu => ?_) fun _ _ hu => ?_
    · exact State.countTimes_keeps hu
    · exact State.judgeCore_keeps hu
  clear_value s3 twice lost causes streamTwice
  clear_value overs
  clear s1 s2
  split
  repeat' (with_reducible
    first | assumption | apply State.modOrb_keeps | apply State.rollback_keeps | apply State.fence_keeps |
      apply State.countTimes_keeps | apply State.judgeCore_keeps | apply State.overrunFence_keeps | apply State.event_keeps |
      refine Keeps.each ?_ (fun _ _ _ => ?_) | split)

theorem State.enterOrbit_keeps {x1 x2 : Nat} (h : Keeps p q w y s t) :
    Keeps p q w y s (@State.enterOrbit t x1 x2) := by
  unfold State.enterOrbit
  try dsimp only
  repeat' (with_reducible first | assumption | apply State.modCore_keeps | split)

theorem State.lateDone_keeps {x1 : Nat} {x2 : List CoreTime} (h : Keeps p q w y s t) :
    Keeps p q w y s (@State.lateDone t x1 x2) := by
  unfold State.lateDone
  try dsimp only
  repeat' (with_reducible
    first | assumption | apply State.modCore_keeps | apply State.fence_keeps | apply State.modOrb_keeps |
      apply State.absorbed_keeps | apply State.enterOrbit_keeps | apply State.overrunFence_keeps |
      refine Keeps.each ?_ (fun _ _ _ => ?_) | split)

theorem execLateWorkComplete_keeps {x0 : List CoreTime} (h : Keeps p q w y s t) :
    ∀ u, @execLateWorkComplete x0 t = .next u → Keeps p q w y s u := by
  intro u hu
  unfold execLateWorkComplete at hu
  try dsimp only at hu
  repeat' (first | contradiction | (injection hu with hu; subst hu) | split at hu)
  repeat' (with_reducible first | assumption | apply State.lateDone_keeps | refine Keeps.each ?_ (fun _ _ _ => ?_) | split)

theorem State.latchSlack_keeps {x1 : Nat} (h : Keeps p q w y s t) :
    Keeps p q w y s (@State.latchSlack t x1) := by
  unfold State.latchSlack
  try dsimp only
  repeat' (with_reducible
    first | assumption | refine Keeps.each ?_ (fun _ _ _ => ?_) | apply State.modCore_keeps | apply State.setCount_keeps |
      apply State.setDist_keeps | split)

theorem State.beginAttempt_keeps {x1 : Nat} {x2 : Bool} (h : Keeps p q false y s t) :
    Keeps p q false y s (@State.beginAttempt t x1 x2) := by
  unfold State.beginAttempt
  try dsimp only
  repeat' (with_reducible
    first | assumption | refine Keeps.each ?_ (fun _ _ _ => ?_) | apply State.modOrb_keeps | apply State.modBar_keeps |
      apply State.modCore_keeps | apply State.reviveBoxes_keeps | apply State.resetRings_keeps | split)

theorem State.stepBegin_keeps {x1 : Nat} (h : Keeps p q false y s t) :
    Keeps p q false y s (@State.stepBegin t x1) := by
  unfold State.stepBegin
  try dsimp only
  repeat' (with_reducible
    first | assumption | refine Keeps.each ?_ (fun _ _ _ => ?_) | apply State.latchLedger_keeps |
      apply State.latchSlack_keeps | apply State.modSlot_keeps | apply State.modFlt_keeps | apply State.modOrb_keeps |
      apply State.countDist_keeps | apply State.beginAttempt_keeps)

theorem State.restart_keeps {x1 : Nat} {x2 : Bool} (h : Keeps p q false y s t) :
    Keeps p q false y s (@State.restart t x1 x2) := by
  unfold State.restart
  try dsimp only
  repeat' (with_reducible
    first | assumption | apply State.modFlt_keeps | apply State.modOrb_keeps | apply State.beginAttempt_keeps |
      apply State.modHost_keeps | split)

theorem State.advanceStep_keeps {x1 : Nat} (h : Keeps p q false y s t) :
    Keeps p q false y s (@State.advanceStep t x1).1 := by
  unfold State.advanceStep
  try dsimp only
  repeat' (with_reducible
    first | assumption | apply State.restart_keeps | apply State.swapSlots_keeps | apply State.modFlt_keeps |
      apply State.rollbackHold_keeps | apply State.stepBegin_keeps | apply State.modOrb_keeps | split)

theorem State.swapQuad_keeps {x1 : Swap} {x2 : Bool} (h : Keeps p q w y s t) :
    Keeps p q w y s (@State.swapQuad t x1 x2) := by
  unfold State.swapQuad
  try dsimp only
  repeat' (with_reducible
    first | assumption | refine Keeps.each ?_ (fun _ _ _ => ?_) | apply State.modCore_keeps | apply State.notice_keeps |
      apply State.fence_keeps |
      ((conv => arg 6; arg 24); first | apply Keeps.lit | apply Keeps.litP | apply Keeps.litO | apply Keeps.litPO | apply Keeps.litW) |
      split)

theorem State.remapPages_keeps (h : Keeps p q w y s t) :
    Keeps p q w y s (@State.remapPages t) := by
  unfold State.remapPages
  try dsimp only
  repeat' (with_reducible
    first | assumption |
      ((conv => arg 6; arg 24); first | apply Keeps.lit | apply Keeps.litP | apply Keeps.litO | apply Keeps.litPO | apply Keeps.litW))

theorem State.boundary_keeps {x1 : List (Nat × TickKind)} {x2 : Bool} {x3 : List Nat} (h : Keeps p q w y s t) :
    Keeps p q w y s (@State.boundary t x1 x2 x3) := by
  unfold State.boundary
  try dsimp only
  repeat' (with_reducible
    first | assumption | refine Keeps.each ?_ (fun _ _ _ => ?_) | apply State.swapQuad_keeps | apply State.remapPages_keeps |
      split)

theorem State.startLaneSwaps_keeps {x1 : Nat} (h : Keeps p q w y s t) :
    Keeps p q w y s (@State.startLaneSwaps t x1) := by
  unfold State.startLaneSwaps
  try dsimp only
  repeat' (with_reducible first | assumption | refine Keeps.each ?_ (fun _ _ _ => ?_) | apply State.modPort_keeps | split)

theorem State.takeSnapshot_keeps {x1 : Nat} (h : Keeps p q w y s t) :
    Keeps p q w y s (@State.takeSnapshot t x1) := by
  unfold State.takeSnapshot
  try dsimp only
  repeat' (with_reducible first | assumption | apply State.modSnp_keeps)

theorem State.endWaits_keeps {x1 : Nat} (h : Keeps p q w y s t) :
    Keeps p q w y s (@State.endWaits t x1) := by
  unfold State.endWaits
  try dsimp only
  repeat' (with_reducible first | assumption | refine Keeps.each ?_ (fun _ _ _ => ?_) | apply State.finishCmd_keeps)

theorem State.stopCounting_keeps (h : Keeps p false w y s t) :
    Keeps p false w y s (@State.stopCounting t) := by
  unfold State.stopCounting
  try dsimp only
  repeat' (with_reducible
    first | assumption | refine Keeps.each ?_ (fun _ _ _ => ?_) | apply State.modSnp_keeps |
      ((conv => arg 6; arg 24); first | apply Keeps.lit | apply Keeps.litP | apply Keeps.litO | apply Keeps.litPO | apply Keeps.litW) |
      exact fun e => Bool.noConfusion e | apply State.finishCmd_keeps | split)

theorem State.tickAdvance_keeps {x1 : List Nat} (h : Keeps p q false y s t) :
    Keeps p q false y s (@State.tickAdvance t x1).1 := by
  unfold State.tickAdvance
  try dsimp only
  repeat' (with_reducible first | assumption | refine Keeps.foldl1 ?_ (fun _ _ _ => ?_) | apply State.advanceStep_keeps)

theorem State.noWork_keeps {x1 : Nat} (h : Keeps p q w y s t) :
    Keeps p q w y s (@State.noWork t x1) := by
  unfold State.noWork
  try dsimp only
  repeat' (with_reducible
    first | assumption | apply State.modOrb_keeps |
      ((conv => arg 6; arg 24); first | apply Keeps.lit | apply Keeps.litP | apply Keeps.litO | apply Keeps.litPO | apply Keeps.litW))

theorem State.tickJudge_keeps {x1 : TickMark} {x2 : List CoreTime} (h : Keeps p q w y s t) :
    Keeps p q w y s (@State.tickJudge t x1 x2) := by
  unfold State.tickJudge
  try dsimp only
  repeat' (with_reducible first | assumption | apply State.judge_keeps | apply State.noWork_keeps | split)

theorem State.tick_keeps {x1 : List CoreTime} {x2 : List Nat} (h : Keeps p false false y s t) :
    Keeps p false false y s (@State.tick t x1 x2) := by
  unfold State.tick
  try dsimp only
  repeat' (with_reducible
    first | assumption | refine Keeps.each ?_ (fun _ _ _ => ?_) | apply State.tickAdvance_keeps |
      apply State.tickJudge_keeps | apply State.takeSnapshot_keeps | apply State.commitOutcome_keeps |
      apply State.startLaneSwaps_keeps | apply State.boundary_keeps | apply State.startMirror_keeps |
      apply State.mirrorDw_keeps | apply State.enterOrbit_keeps | apply State.sendBeacons_keeps |
      ((conv => arg 6; arg 24); first | apply Keeps.lit | apply Keeps.litP | apply Keeps.litO | apply Keeps.litPO | apply Keeps.litW) |
      exact fun e => Bool.noConfusion e | apply State.endWaits_keeps | split)

theorem execOrbitTick_keeps {x0 : List CoreTime} {x1 : List Nat} (h : Keeps p false false y s t) :
    ∀ u, @execOrbitTick x0 x1 t = .next u → Keeps p false false y s u := by
  intro u hu
  unfold execOrbitTick at hu
  try dsimp only at hu
  repeat' (first | contradiction | (injection hu with hu; subst hu) | split at hu)
  repeat' (with_reducible first | assumption | apply State.stopCounting_keeps | apply State.tick_keeps | split)

theorem State.slip_keeps {x1 : Nat} (h : Keeps p q w y s t) :
    Keeps p q w y s (@State.slip t x1) := by
  unfold State.slip
  try dsimp only
  repeat' (with_reducible
    first | assumption | apply State.notice_keeps | apply State.halt_keeps |
      ((conv => arg 6; arg 24); first | apply Keeps.lit | apply Keeps.litP | apply Keeps.litO | apply Keeps.litPO | apply Keeps.litW) |
      exact fun _ => ⟨rfl, rfl⟩ | split)

theorem State.goodMark_keeps {x1 : Nat} {x2 : Option Nat} (h : Keeps p q w y s t) :
    Keeps p q w y s (@State.goodMark t x1 x2) := by
  unfold State.goodMark
  try dsimp only
  repeat' (with_reducible
    first | assumption | apply State.slip_keeps |
      ((conv => arg 6; arg 24); first | apply Keeps.lit | apply Keeps.litP | apply Keeps.litO | apply Keeps.litPO | apply Keeps.litW) |
      split)
  all_goals first | exact fun _ => ⟨rfl, rfl⟩ | exact fun _ => rfl | exact fun _ e => e | exact fun _ _ => rfl

theorem execTickMark_keeps {x0 x1 x2 : List Bool} {x3 : Nat} (h : Keeps p q w y s t) :
    ∀ u, @execTickMark x0 x1 x2 x3 t = .next u → Keeps p q w y s u := by
  intro u hu
  unfold execTickMark at hu
  try dsimp only at hu
  repeat' (first | contradiction | (injection hu with hu; subst hu) | split at hu)
  repeat' (with_reducible
    first | assumption | apply State.slip_keeps |
      ((conv => arg 6; arg 24); first | apply Keeps.lit | apply Keeps.litP | apply Keeps.litO | apply Keeps.litPO | apply Keeps.litW) |
      (intro _; constructor <;> split <;> rfl) | apply State.goodMark_keeps | split)

theorem execRefclkWindowEnd_keeps {x0 : Nat} (h : Keeps p q w y s t) :
    ∀ u, @execRefclkWindowEnd x0 t = .next u → Keeps p q w y s u := by
  intro u hu
  unfold execRefclkWindowEnd at hu
  try dsimp only at hu
  repeat' (first | contradiction | (injection hu with hu; subst hu) | split at hu)
  repeat' (with_reducible
    first | assumption |
      ((conv => arg 6; arg 24); first | apply Keeps.lit | apply Keeps.litP | apply Keeps.litO | apply Keeps.litPO | apply Keeps.litW) |
      (intro _; constructor <;> split <;> rfl) | split)

theorem execTickOkTimeout_keeps (h : Keeps p q w y s t) :
    ∀ u, @execTickOkTimeout t = .next u → Keeps p q w y s u := by
  intro u hu
  unfold execTickOkTimeout at hu
  try dsimp only at hu
  repeat' (first | contradiction | (injection hu with hu; subst hu) | split at hu)
  repeat' (with_reducible
    first | assumption |
      ((conv => arg 6; arg 24); first | apply Keeps.lit | apply Keeps.litP | apply Keeps.litO | apply Keeps.litPO | apply Keeps.litW) |
      exact fun _ => ⟨rfl, rfl⟩)

theorem execOrbitStart_keeps (h : Keeps p false w y s t) :
    ∀ u, @execOrbitStart t = .next u → Keeps p false w y s u := by
  intro u hu
  unfold execOrbitStart at hu
  try dsimp only at hu
  repeat' (first | contradiction | (injection hu with hu; subst hu) | split at hu)
  repeat' (with_reducible
    first | assumption |
      ((conv => arg 6; arg 24); first | apply Keeps.lit | apply Keeps.litP | apply Keeps.litO | apply Keeps.litPO | apply Keeps.litW) |
      exact fun e => Bool.noConfusion e | apply State.sendBeacons_keeps | split)

theorem execJoinStart_keeps (h : Keeps p false w y s t) :
    ∀ u, @execJoinStart t = .next u → Keeps p false w y s u := by
  intro u hu
  unfold execJoinStart at hu
  try dsimp only at hu
  repeat' (first | contradiction | (injection hu with hu; subst hu) | split at hu)
  repeat' (with_reducible
    first | assumption |
      ((conv => arg 6; arg 24); first | apply Keeps.lit | apply Keeps.litP | apply Keeps.litO | apply Keeps.litPO | apply Keeps.litW) |
      exact fun e => Bool.noConfusion e | apply State.sendBeacons_keeps | split)

theorem State.arrive_keeps {x1 : Nat} (h : Keeps p q w y s t) :
    Keeps p q w y s (@State.arrive t x1) := by
  unfold State.arrive
  try dsimp only
  repeat' (with_reducible
    first | assumption | apply State.modBar_keeps | apply State.modOrb_keeps | apply State.advanceBar_keeps |
      apply State.advanceAmax_keeps)

theorem execBarrierArrive_keeps {x0 : Fin 4} (h : Keeps p q w y s t) :
    ∀ u, @execBarrierArrive x0 t = .next u → Keeps p q w y s u := by
  intro u hu
  unfold execBarrierArrive at hu
  try dsimp only at hu
  repeat' (first | contradiction | (injection hu with hu; subst hu) | split at hu)
  repeat' (with_reducible first | assumption | apply State.arrive_keeps | split)

theorem execBarrierTimeout_keeps {x0 : Fin 4} (h : Keeps p q w y s t) :
    ∀ u, @execBarrierTimeout x0 t = .next u → Keeps p q w y s u := by
  intro u hu
  unfold execBarrierTimeout at hu
  try dsimp only at hu
  repeat' (first | contradiction | (injection hu with hu; subst hu) | split at hu)
  repeat' (with_reducible first | assumption | apply State.timeoutBarrier_keeps | split)

theorem execRestartTimeout_keeps {x0 : Fin 4} (h : Keeps p q w y s t) :
    ∀ u, @execRestartTimeout x0 t = .next u → Keeps p q w y s u := by
  intro u hu
  unfold execRestartTimeout at hu
  try dsimp only at hu
  repeat' (first | contradiction | (injection hu with hu; subst hu) | split at hu)
  repeat' (with_reducible first | assumption | apply State.rollbackHold_keeps | split)

theorem State.reserveSpare_keeps {x1 : Nat} {x2 : Bool} (h : Keeps p q w y s t) :
    Keeps p q w y s (@State.reserveSpare t x1 x2) := by
  unfold State.reserveSpare
  try dsimp only
  repeat' (with_reducible
    first | assumption |
      ((conv => arg 6; arg 24); first | apply Keeps.lit | apply Keeps.litP | apply Keeps.litO | apply Keeps.litPO | apply Keeps.litW) |
      apply State.saveTables_keeps | split)

theorem execQuadRotationSwap_keeps (h : Keeps p q w y s t) :
    ∀ u, @execQuadRotationSwap t = .next u → Keeps p q w y s u := by
  intro u hu
  unfold execQuadRotationSwap at hu
  try dsimp only at hu
  repeat' (first | contradiction | (injection hu with hu; subst hu) | split at hu)
  repeat' (with_reducible
    first | assumption | apply State.reserveSpare_keeps |
      ((conv => arg 6; arg 24); first | apply Keeps.lit | apply Keeps.litP | apply Keeps.litO | apply Keeps.litPO | apply Keeps.litW) |
      split)

theorem execLaneSwapSelected_keeps {x0 : Fin 24} (h : Keeps p q w y s t) :
    ∀ u, @execLaneSwapSelected x0 t = .next u → Keeps p q w y s u := by
  intro u hu
  unfold execLaneSwapSelected at hu
  try dsimp only at hu
  repeat' (first | contradiction | (injection hu with hu; subst hu) | split at hu)
  repeat' (with_reducible first | assumption | apply State.modPort_keeps | apply State.laneSelected_keeps | split)

theorem execSpareLaneSelect_keeps {x0 : Fin 24} (h : Keeps p q w y s t) :
    ∀ u, @execSpareLaneSelect x0 t = .next u → Keeps p q w y s u := by
  intro u hu
  unfold execSpareLaneSelect at hu
  try dsimp only at hu
  repeat' (first | contradiction | (injection hu with hu; subst hu) | split at hu)
  repeat' (with_reducible
    first | assumption | apply State.modPort_keeps | apply State.portCtl_keeps | apply State.portNotice_keeps |
      apply State.count_keeps | apply State.laneMessage_keeps | split)

theorem execLaneSwapTimeout_keeps {x0 : Fin 24} (h : Keeps p q w y s t) :
    ∀ u, @execLaneSwapTimeout x0 t = .next u → Keeps p q w y s u := by
  intro u hu
  unfold execLaneSwapTimeout at hu
  try dsimp only at hu
  repeat' (first | contradiction | (injection hu with hu; subst hu) | split at hu)
  repeat' (with_reducible
    first | assumption | apply State.portNotice_keeps | apply State.modPort_keeps | apply State.dropLaneSwap_keeps | split)

theorem execPreFecEstimateUpdate_keeps {x0 : Fin 24} {x1 x2 x3 x4 x5 x6 x7 : Nat} (h : Keeps p q w y s t) :
    ∀ u, @execPreFecEstimateUpdate x0 x1 x2 x3 x4 x5 x6 x7 t = .next u → Keeps p q w y s u := by
  intro u hu
  unfold execPreFecEstimateUpdate at hu
  try dsimp only at hu
  repeat' (first | contradiction | (injection hu with hu; subst hu) | split at hu)
  repeat' (with_reducible
    first | assumption | apply State.setCount_keeps | apply State.count_keeps | apply State.portCtl_keeps |
      apply State.modPort_keeps | apply State.laneMessage_keeps | split)

end Sys2Proof.Machine
end

