-- ==== Sys2Proof/Laws/KeepsCores.lean ====
section
/-! SUPPORT. What the operations and meanings keep: passes, boxes and transfers. -/

namespace Sys2Proof.Machine

variable {p q w y : Bool} {s t : State}

theorem State.book_keeps {x1 x2 x3 : Nat} {x4 : Bool} {x5 : Acct} (h : Keeps p q w y s t) :
    Keeps p q w y s (@State.book t x1 x2 x3 x4 x5) := by
  unfold State.book
  try dsimp only
  repeat' (with_reducible
    first | assumption | refine Keeps.each ?_ (fun _ _ _ => ?_) | apply State.modNum_keeps | apply State.modSlot_keeps |
      apply State.count_keeps | apply State.notice_keeps | split)

theorem State.storeBits_keeps {x1 x2 x3 x4 : Nat} (h : Keeps p q false y s t) :
    Keeps p q false y s (@State.storeBits t x1 x2 x3 x4) := by
  unfold State.storeBits
  try dsimp only
  repeat' (with_reducible first | assumption | apply State.store_keeps)

theorem writeRow_keeps {x1 : Nat} {x2 : PassI} {x3 x4 x5 : Nat} {x6 : List Conv} (h : Keeps p q false y s t) :
    Keeps p q false y s (@writeRow t x1 x2 x3 x4 x5 x6) := by
  unfold writeRow
  try dsimp only
  repeat' (with_reducible
    first | assumption | refine Keeps.each ?_ (fun _ _ _ => ?_) | apply State.storeBits_keeps | apply State.store_keeps |
      split)

theorem PassJob.release_keeps {p q y : Bool} {s : State} {j : PassJob} {att : Nat} {x : PassRun} {r : Nat} (h : Keeps p q false y s x.s) :
    Keeps p q false y s (j.release att x r).s := by
  unfold PassJob.release
  extract_lets pp errs ar sA sW sG oslot
  split
  · exact h
  · split
    · exact h
    · split
      split
      extract_lets x1 cores x2
      show Keeps p q false y s x2.s
      refine Keeps.foldlOn PassRun.s (f := fun x ec => _) h fun ec u hu => ?_
      split
      · exact hu
      · extract_lets ctx
        split
        split
        · exact hu
        · extract_lets s1 s2
          show Keeps p q false y s s2
          have h1 : Keeps p q false y s s1 := writeRow_keeps hu
          exact Keeps.ite (State.store_keeps h1) h1

theorem PassJob.attempts_keeps {p q y : Bool} {s : State} {j : PassJob} {resident : Bool} {left att : Nat} {x : PassRun}
    (h : Keeps p q false y s x.s) : Keeps p q false y s (j.attempts resident left att x).1.s := by
  induction left generalizing att x resident with
  | zero =>
    unfold PassJob.attempts
    extract_lets fail stop x1 rows x2
    have h2 : Keeps p q false y s x2.s := Keeps.foldlOn PassRun.s (f := j.release att) h fun _ _ hu => PassJob.release_keeps hu
    clear_value x2 rows x1 stop fail
    split
    · exact h2
    · split <;> exact h2
  | succ n ih =>
    unfold PassJob.attempts
    extract_lets fail stop x1 rows x2
    have h2 : Keeps p q false y s x2.s := Keeps.foldlOn PassRun.s (f := j.release att) h fun _ _ hu => PassJob.release_keeps hu
    clear_value x2 rows x1 stop fail
    split
    · exact h2
    · split
      · exact h2
      · simpa using ih h2

theorem updateRun_keeps {x1 : Env} {x2 : Nat} {x3 : Descr} {x4 x5 : Nat} (h : Keeps p q false y s t) :
    Keeps p q false y s (@updateRun t x1 x2 x3 x4 x5).1 := by
  unfold updateRun
  try dsimp only
  repeat' (with_reducible first | assumption | refine Keeps.foldl1 ?_ (fun _ _ _ => ?_) | apply State.write_keeps | split)

theorem PassRun.keeps_of_eq {p q y : Bool} {s : State} {α : Type} {x : PassRun} {v : α} {r : PassRun × α} (e : r = (x, v))
    (h : Keeps p q false y s r.1.s) : Keeps p q false y s x.s := by
  subst e; exact h

theorem packBlock_keeps {x1 : Env} {x2 : Descr} {x3 : Nat} (h : Keeps p q false y s t) :
    Keeps p q false y s (@packBlock t x1 x2 x3).1 := by
  unfold packBlock
  try dsimp only
  repeat' (with_reducible first | assumption | refine Keeps.foldl1 ?_ (fun _ _ _ => ?_) | apply State.write_keeps | split)

theorem unpackBlock_keeps {x1 : Env} {x2 : Descr} {x3 : List Nat} {x4 : Nat} (h : Keeps p q false y s t) :
    Keeps p q false y s (@unpackBlock t x1 x2 x3 x4) := by
  unfold unpackBlock
  try dsimp only
  repeat' (with_reducible first | assumption | refine Keeps.each ?_ (fun _ _ _ => ?_) | apply State.write_keeps | split)

theorem State.wroteLines_keeps {x1 x2 : Nat} (h : Keeps p q w y s t) :
    Keeps p q w y s (@State.wroteLines t x1 x2) := by
  unfold State.wroteLines
  try dsimp only
  repeat' (with_reducible first | assumption | refine Keeps.each ?_ (fun _ _ _ => ?_) | apply State.count_keeps | split)

theorem State.issue_keeps {x1 : Nat} (h : Keeps p q w y s t) :
    Keeps p q w y s (@State.issue t x1) := by
  unfold State.issue
  try dsimp only
  repeat' (with_reducible first | assumption | apply State.modCore_keeps)

theorem State.waitIssue_keeps {x1 : Nat} (h : Keeps p q w y s t) :
    Keeps p q w y s (@State.waitIssue t x1) := by
  unfold State.waitIssue
  try dsimp only
  repeat' (with_reducible
    first | assumption | apply State.modCore_keeps |
      ((conv => arg 6; arg 24); first | apply Keeps.lit | apply Keeps.litP | apply Keeps.litO | apply Keeps.litPO | apply Keeps.litW))

theorem State.advanceCore_keeps {x1 : Nat} (h : Keeps p q w y s t) :
    Keeps p q w y s (@State.advanceCore t x1) := by
  unfold State.advanceCore
  try dsimp only
  repeat' (with_reducible first | assumption | apply State.modCore_keeps)

theorem execLoop_keeps {x0 : Fin 512} (h : Keeps p q w y s t) :
    ∀ u, @execLoop x0 t = .next u → Keeps p q w y s u := by
  intro u hu
  unfold execLoop at hu
  try dsimp only at hu
  repeat' (first | contradiction | (injection hu with hu; subst hu) | split at hu)
  repeat' (with_reducible first | assumption | apply State.modCore_keeps | split)

theorem execEndloop_keeps {x0 : Fin 512} (h : Keeps p q w y s t) :
    ∀ u, @execEndloop x0 t = .next u → Keeps p q w y s u := by
  intro u hu
  unfold execEndloop at hu
  try dsimp only at hu
  repeat' (first | contradiction | (injection hu with hu; subst hu) | split at hu)
  repeat' (with_reducible first | assumption | apply State.modCore_keeps | split)

theorem State.leaveTile_keeps {x1 x2 : Nat} (h : Keeps p q w y s t) :
    Keeps p q w y s (@State.leaveTile t x1 x2) := by
  unfold State.leaveTile
  try dsimp only
  repeat' (with_reducible first | assumption | apply State.modCore_keeps | split)

theorem State.abandonTile_keeps {x1 x2 : Nat} {x3 : Status} (h : Keeps p q false y s t) :
    Keeps p q false y s (@State.abandonTile t x1 x2 x3) := by
  unfold State.abandonTile
  try dsimp only
  repeat' (with_reducible
    first | assumption | apply State.leaveTile_keeps | apply State.finishCmd_keeps | apply State.store_keeps |
      refine Keeps.each ?_ (fun _ _ _ => ?_) | split)

theorem State.keepForTile_keeps {x1 x2 x3 : Nat} (h : Keeps p q w y s t) :
    Keeps p q w y s (@State.keepForTile t x1 x2 x3) := by
  unfold State.keepForTile
  try dsimp only
  repeat' (with_reducible
    first | assumption | apply State.modCore_keeps |
      ((conv => arg 6; arg 24); first | apply Keeps.lit | apply Keeps.litP | apply Keeps.litO | apply Keeps.litPO | apply Keeps.litW) |
      split)

theorem execEndProg_keeps {x0 : Fin 512} (h : Keeps p q w y s t) :
    ∀ u, @execEndProg x0 t = .next u → Keeps p q w y s u := by
  intro u hu
  unfold execEndProg at hu
  try dsimp only at hu
  repeat' (first | contradiction | (injection hu with hu; subst hu) | split at hu)
  repeat' (with_reducible
    first | assumption | apply State.advanceCore_keeps | apply State.leaveTile_keeps | apply State.modHost_keeps |
      apply State.modCore_keeps | split)

theorem State.sramError_keeps {x1 x2 : Nat} {x3 : EccErr} (h : Keeps p q w y s t) :
    Keeps p q w y s (@State.sramError t x1 x2 x3) := by
  unfold State.sramError
  try dsimp only
  repeat' (with_reducible first | assumption | apply State.modCore_keeps | apply State.notice_keeps | split)

theorem State.coreRollback_keeps {x1 x2 x3 x4 : Nat} (h : Keeps p q false y s t) :
    Keeps p q false y s (@State.coreRollback t x1 x2 x3 x4) := by
  unfold State.coreRollback
  try dsimp only
  repeat' (with_reducible first | assumption | apply State.abandonTile_keeps | apply State.rollback_keeps)

theorem State.coreFence_keeps {x1 x2 x3 x4 : Nat} (h : Keeps p q false y s t) :
    Keeps p q false y s (@State.coreFence t x1 x2 x3 x4) :=
  State.fence_keeps (State.abandonTile_keeps h)

theorem State.sramErrors_keeps {x1 x2 : Nat} {x3 : List EccErr} (h : Keeps p q false y s t) :
    Keeps p q false y s (@State.sramErrors t x1 x2 x3).1 := by
  unfold State.sramErrors
  try dsimp only
  repeat' (with_reducible
    first | assumption | refine Keeps.each ?_ (fun _ _ _ => ?_) | apply State.sramError_keeps |
      apply State.coreRollback_keeps | apply State.abandonTile_keeps | apply State.rollback_keeps | split)

theorem State.countMacs_keeps {x1 x2 : Nat} (h : Keeps p q w y s t) :
    Keeps p q w y s (@State.countMacs t x1 x2) := by
  unfold State.countMacs
  try dsimp only
  repeat' (with_reducible first | assumption | apply State.count_keeps | apply State.modCore_keeps)

theorem State.exhausted_keeps {x1 x2 x3 : Nat} (h : Keeps p q false y s t) :
    Keeps p q false y s (@State.exhausted t x1 x2 x3) := by
  unfold State.exhausted
  try dsimp only
  repeat' (with_reducible
    first | assumption | apply State.coreFence_keeps | apply State.coreRollback_keeps | apply State.reserveSpare_keeps |
      ((conv => arg 6; arg 24); first | apply Keeps.lit | apply Keeps.litP | apply Keeps.litO | apply Keeps.litPO | apply Keeps.litW) |
      split)

theorem State.passFailures_keeps {x1 x2 : Nat} {x3 : PassJob} {x4 : Nat} {x5 : Option Nat} (h : Keeps p q w y s t) :
    Keeps p q w y s (@State.passFailures t x1 x2 x3 x4 x5) := by
  unfold State.passFailures
  try dsimp only
  repeat' (with_reducible
    first | assumption | refine Keeps.each ?_ (fun _ _ _ => ?_) | apply State.modCore_keeps | apply State.count_keeps |
      apply State.event_keeps |
      ((conv => arg 6; arg 24); first | apply Keeps.lit | apply Keeps.litP | apply Keeps.litO | apply Keeps.litPO | apply Keeps.litW) |
      split)

theorem State.useArrays_keeps {x1 : Nat} {x2 : PassI} (h : Keeps p q w y s t) :
    Keeps p q w y s (@State.useArrays t x1 x2) := by
  unfold State.useArrays
  try dsimp only
  repeat' (with_reducible first | assumption | refine Keeps.each ?_ (fun _ _ _ => ?_) | apply State.modCore_keeps | split)

theorem State.runPass_keeps {x1 : Fetched} {x2 : Nat} {x3 : PassErrs} (h : Keeps p q false y s t) :
    Keeps p q false y s (@State.runPass t x1 x2 x3) := by
  unfold State.runPass
  extract_lets pp c core j ctx
  refine Keeps.ite (State.issue_keeps h) ?_
  split
  rename_i s1 ok e
  have h1 : Keeps p q false y s s1 := Keeps.fst_eq e (State.sramErrors_keeps (State.issue_keeps h))
  refine Keeps.ite h1 ?_
  extract_lets s2
  have h2 : Keeps p q false y s s2 := State.count_keeps h1
  refine Keeps.ite (State.advanceCore_keeps h2) ?_
  have h3 : ∀ b, Keeps p q false y s (j.attempts b core.replayMax 0 ⟨s2, 0, {}, none⟩).1.s := fun b => PassJob.attempts_keeps h2
  repeat' (with_reducible
    first | assumption | apply State.advanceCore_keeps | apply State.countMacs_keeps | apply State.useArrays_keeps |
      apply State.book_keeps | apply State.passFailures_keeps | apply State.exhausted_keeps | apply State.modCore_keeps |
      apply State.coreFence_keeps | exact PassRun.keeps_of_eq (by assumption) (h3 _) | apply State.issue_keeps |
      apply State.sramErrors_keeps | apply State.count_keeps | split)

theorem execPass_keeps {x0 : Fin 512} {x1 : PassErrs} (h : Keeps p q false y s t) :
    ∀ u, @execPass x0 x1 t = .next u → Keeps p q false y s u := by
  intro u hu
  unfold execPass at hu
  try dsimp only at hu
  repeat' (first | contradiction | (injection hu with hu; subst hu) | split at hu)
  repeat' (with_reducible first | assumption | apply State.runPass_keeps | split)

theorem execArrayRampDown_keeps {x0 : Fin 512} (h : Keeps p q w y s t) :
    ∀ u, @execArrayRampDown x0 t = .next u → Keeps p q w y s u := by
  intro u hu
  unfold execArrayRampDown at hu
  try dsimp only at hu
  repeat' (first | contradiction | (injection hu with hu; subst hu) | split at hu)
  repeat' (with_reducible first | assumption | apply State.modCore_keeps)

theorem State.finalRead_keeps {x1 : Nat} {x2 : Bool} (h : Keeps p q w y s t) :
    Keeps p q w y s (@State.finalRead t x1 x2) := by
  unfold State.finalRead
  try dsimp only
  repeat' (with_reducible first | assumption | apply State.modBox_keeps | split)

theorem State.feedRead_keeps {x1 : Nat} {x2 : Outst} (h : Keeps p q false y s t) :
    Keeps p q false y s (@State.feedRead t x1 x2) := by
  unfold State.feedRead
  try dsimp only
  repeat' (with_reducible
    first | assumption | refine Keeps.each ?_ (fun _ _ _ => ?_) | apply State.modBox_keeps | apply State.store_keeps |
      apply State.finalRead_keeps | apply State.modCore_keeps | apply State.complete_keeps | split)

theorem State.feedReads_keeps {x1 x2 : Nat} (h : Keeps p q false y s t) :
    Keeps p q false y s (@State.feedReads t x1 x2) := by
  unfold State.feedReads
  try dsimp only
  repeat' (with_reducible first | assumption | refine Keeps.each ?_ (fun _ _ _ => ?_) | apply State.feedRead_keeps | split)

theorem State.linkItems_keeps {x1 x2 : Nat} {x3 : List BoxItem} (h : Keeps p q false y s t) :
    Keeps p q false y s (@State.linkItems t x1 x2 x3) := by
  unfold State.linkItems
  try dsimp only
  repeat' (with_reducible
    first | assumption | refine Keeps.each ?_ (fun _ _ _ => ?_) | apply State.deadLetter_keeps | apply State.modBox_keeps |
      apply State.count_keeps | apply State.feedReads_keeps | apply State.noteCells_keeps | split)

theorem State.laneOvf_keeps {x1 x2 x3 x4 : Nat} (h : Keeps p q w y s t) :
    Keeps p q w y s (@State.laneOvf t x1 x2 x3 x4) := by
  unfold State.laneOvf
  try dsimp only
  repeat' (with_reducible first | assumption | apply State.notice_keeps | apply State.modBox_keeps)

theorem State.endRound_keeps {x1 x2 x3 x4 : Nat} (h : Keeps p q w y s t) :
    Keeps p q w y s (@State.endRound t x1 x2 x3 x4) := by
  unfold State.endRound
  try dsimp only
  repeat' (with_reducible
    first | assumption | refine Keeps.each ?_ (fun _ _ _ => ?_) | apply State.laneOvf_keeps | apply State.modBox_keeps |
      split)

theorem State.contribute_keeps {x1 x2 x3 x4 x5 : Nat} (h : Keeps p q w y s t) :
    Keeps p q w y s (@State.contribute t x1 x2 x3 x4 x5) := by
  unfold State.contribute
  try dsimp only
  repeat' (with_reducible
    first | assumption | refine Keeps.each ?_ (fun _ _ _ => ?_) | apply State.boxFault_keeps | apply State.modBox_keeps |
      apply State.laneOvf_keeps | apply State.count_keeps | apply State.endRound_keeps | split)

theorem execCollectionRoundDeliver_keeps {x0 : Nat} (h : Keeps p q false y s t) :
    ∀ u, @execCollectionRoundDeliver x0 t = .next u → Keeps p q false y s u := by
  intro u hu
  unfold execCollectionRoundDeliver at hu
  try dsimp only at hu
  repeat' (first | contradiction | (injection hu with hu; subst hu) | split at hu)
  repeat' (with_reducible
    first | assumption | apply State.modBox_keeps | apply State.linkItems_keeps | apply State.count_keeps | split)

theorem State.sendGo_keeps {x1 x2 x3 : Nat} (h : Keeps p q false y s t) :
    Keeps p q false y s (@State.sendGo t x1 x2 x3) := by
  unfold State.sendGo
  try dsimp only
  repeat' (with_reducible
    first | assumption | refine Keeps.each ?_ (fun _ _ _ => ?_) | apply State.contribute_keeps | apply State.deadLetter_keeps |
      apply State.noteCells_keeps | apply State.modCore_keeps | split)

theorem execSend_keeps {x0 : Fin 512} {x1 : List EccErr} (h : Keeps p q false y s t) :
    ∀ u, @execSend x0 x1 t = .next u → Keeps p q false y s u := by
  intro u hu
  unfold execSend at hu
  try dsimp only at hu
  repeat' (first | contradiction | (injection hu with hu; subst hu) | split at hu)
  repeat' (with_reducible
    first | assumption | apply State.issue_keeps | apply State.sramErrors_keeps | apply State.sendGo_keeps |
      apply State.advanceCore_keeps | split)

theorem execSendClaim_keeps {x0 : Fin 512} (h : Keeps p q false y s t) :
    ∀ u, @execSendClaim x0 t = .next u → Keeps p q false y s u := by
  intro u hu
  unfold execSendClaim at hu
  try dsimp only at hu
  repeat' (first | contradiction | (injection hu with hu; subst hu) | split at hu)
  repeat' (with_reducible first | assumption | apply State.sendGo_keeps | apply State.modCore_keeps | split)

theorem execMessageLink_keeps {x0 : Fin 512} (h : Keeps p q false y s t) :
    ∀ u, @execMessageLink x0 t = .next u → Keeps p q false y s u := by
  intro u hu
  unfold execMessageLink at hu
  try dsimp only at hu
  repeat' (first | contradiction | (injection hu with hu; subst hu) | split at hu)
  repeat' (with_reducible first | assumption | apply State.linkItems_keeps | apply State.modCore_keeps | split)

theorem execRead_keeps {x0 : Fin 512} (h : Keeps p q false y s t) :
    ∀ u, @execRead x0 t = .next u → Keeps p q false y s u := by
  intro u hu
  unfold execRead at hu
  try dsimp only at hu
  repeat' (first | contradiction | (injection hu with hu; subst hu) | split at hu)
  repeat' (with_reducible
    first | assumption | apply State.boxFault_keeps | apply State.issue_keeps | apply State.finalRead_keeps |
      apply State.advanceCore_keeps | apply State.modCore_keeps | apply State.feedReads_keeps | apply State.waitIssue_keeps |
      split)

theorem execPostboxDeath_keeps {x0 : Nat} (h : Keeps p q false y s t) :
    ∀ u, @execPostboxDeath x0 t = .next u → Keeps p q false y s u := by
  intro u hu
  unfold execPostboxDeath at hu
  try dsimp only at hu
  repeat' (first | contradiction | (injection hu with hu; subst hu) | split at hu)
  repeat' (with_reducible first | assumption | apply State.killBox_keeps | apply State.boxFault_keeps | split)

theorem State.xferFault_keeps {x1 x2 x3 : Nat} {x4 : List EccErr} (h : Keeps p q false y s t) :
    Keeps p q false y s (@State.xferFault t x1 x2 x3 x4) := by
  unfold State.xferFault
  try dsimp only
  repeat' (with_reducible
    first | assumption | apply State.memFault_keeps | apply State.issue_keeps | apply State.sramErrors_keeps | split)

theorem State.xferCopy_keeps {x1 : Fetched} {x2 : Nat} {x3 : List EccErr} (h : Keeps p q false y s t) :
    Keeps p q false y s (@State.xferCopy t x1 x2 x3) := by
  unfold State.xferCopy
  try dsimp only
  repeat' (with_reducible
    first | assumption | apply State.xferFault_keeps | apply State.issue_keeps | apply State.sramErrors_keeps |
      apply State.wroteLines_keeps | apply State.copy_keeps | apply State.advanceCore_keeps | apply State.modCore_keeps |
      apply State.enqueue_keeps | apply State.waitIssue_keeps | apply State.keepForTile_keeps | split)

theorem execXferCopy_keeps {x0 : Fin 512} {x1 : List EccErr} (h : Keeps p q false y s t) :
    ∀ u, @execXferCopy x0 x1 t = .next u → Keeps p q false y s u := by
  intro u hu
  unfold execXferCopy at hu
  try dsimp only at hu
  repeat' (first | contradiction | (injection hu with hu; subst hu) | split at hu)
  repeat' (with_reducible first | assumption | apply State.xferCopy_keeps | split)

theorem State.coreMessage_keeps {x1 x2 x3 x4 x5 x6 x7 : Nat} {x8 : List (Nat × Nat)} (h : Keeps p q w y s t) :
    Keeps p q w y s (@State.coreMessage t x1 x2 x3 x4 x5 x6 x7 x8) := by
  unfold State.coreMessage
  try dsimp only
  repeat' (with_reducible
    first | assumption | apply State.modCore_keeps | apply State.advanceCore_keeps | apply State.giveMessage_keeps | split)

theorem execXferSend_keeps {x0 : Fin 512} {x1 : List EccErr} (h : Keeps p q false y s t) :
    ∀ u, @execXferSend x0 x1 t = .next u → Keeps p q false y s u := by
  intro u hu
  unfold execXferSend at hu
  try dsimp only at hu
  repeat' (first | contradiction | (injection hu with hu; subst hu) | split at hu)
  repeat' (with_reducible
    first | assumption | apply State.xferFault_keeps | apply State.issue_keeps | apply State.sramErrors_keeps |
      apply State.coreMessage_keeps | apply State.waitIssue_keeps | split)

theorem execXferForward_keeps {x0 : CoreRead} (h : Keeps p q false y s t) :
    ∀ u, @execXferForward x0 t = .next u → Keeps p q false y s u := by
  intro u hu
  unfold execXferForward at hu
  try dsimp only at hu
  repeat' (first | contradiction | (injection hu with hu; subst hu) | split at hu)
  repeat' (with_reducible
    first | assumption | apply State.issue_keeps | apply State.xferFault_keeps | apply State.coreMessage_keeps |
      apply State.waitIssue_keeps | apply State.sramErrors_keeps | split)

theorem State.releaseItem_keeps {x1 : Nat} {x2 : SItem} (h : Keeps p q w y s t) :
    Keeps p q w y s (@State.releaseItem t x1 x2) := by
  unfold State.releaseItem
  try dsimp only
  repeat' (with_reducible first | assumption | apply State.release_keeps | split)

theorem execXferRelease_keeps {x0 : CoreRead} (h : Keeps p q false y s t) :
    ∀ u, @execXferRelease x0 t = .next u → Keeps p q false y s u := by
  intro u hu
  unfold execXferRelease at hu
  try dsimp only at hu
  repeat' (first | contradiction | (injection hu with hu; subst hu) | split at hu)
  repeat' (with_reducible
    first | assumption | apply State.issue_keeps | apply State.xferFault_keeps | apply State.releaseItem_keeps |
      apply State.modCore_keeps | apply State.advanceCore_keeps | apply State.waitIssue_keeps | apply State.sramErrors_keeps |
      split)

theorem execAwaitItem_keeps {x0 : Fin 512} (h : Keeps p q false y s t) :
    ∀ u, @execAwaitItem x0 t = .next u → Keeps p q false y s u := by
  intro u hu
  unfold execAwaitItem at hu
  try dsimp only at hu
  repeat' (first | contradiction | (injection hu with hu; subst hu) | split at hu)
  repeat' (with_reducible
    first | assumption | apply State.issue_keeps | apply State.advanceCore_keeps |
      refine State.takeItem_keeps ?_ _ (by assumption) | apply State.modCore_keeps | apply State.waitIssue_keeps | split)

theorem execStageEnqueue_keeps {x0 : Nat} (h : Keeps p q false y s t) :
    ∀ u, @execStageEnqueue x0 t = .next u → Keeps p q false y s u := by
  intro u hu
  unfold execStageEnqueue at hu
  try dsimp only at hu
  repeat' (first | contradiction | (injection hu with hu; subst hu) | split at hu)
  repeat' (with_reducible
    first | assumption | apply State.enter_keeps | apply State.modQueue_keeps | apply State.complete_keeps | split)

theorem State.refuseTraining_keeps {x1 x2 x3 x4 x5 : Nat} {x6 : Option Nat} (h : Keeps p q w y s t) :
    Keeps p q w y s (@State.refuseTraining t x1 x2 x3 x4 x5 x6) := by
  unfold State.refuseTraining
  try dsimp only
  repeat' (with_reducible first | assumption | apply State.modCore_keeps | apply State.fence_keeps | apply State.count_keeps)

theorem State.groupErrors_keeps {x1 x2 x3 : Nat} {x4 : TrainErrs} {x5 : Nat} (h : Keeps p q false y s t) :
    Keeps p q false y s (@State.groupErrors t x1 x2 x3 x4 x5).1 := by
  unfold State.groupErrors
  try dsimp only
  repeat' (with_reducible
    first | assumption | refine Keeps.each ?_ (fun _ _ _ => ?_) | apply State.count_keeps | apply State.event_keeps |
      apply State.coreRollback_keeps | split)

theorem State.bookTraining_keeps {x1 x2 x3 : Nat} {x4 : Acct} (h : Keeps p q w y s t) :
    Keeps p q w y s (@State.bookTraining t x1 x2 x3 x4) := by
  unfold State.bookTraining
  try dsimp only
  repeat' (with_reducible first | assumption | apply State.book_keeps)

theorem State.startDescr_keeps {x1 : Nat} {x2 : TrainErrs} {x3 : Nat → Bool} {x4 : State → Fetched → Descr → State}
    (h : Keeps p q false y s t) (hx4 : ∀ u y1 y2, Keeps p q false y s u → Keeps p q false y s (x4 u y1 y2)) :
    Keeps p q false y s (@State.startDescr t x1 x2 x3 x4) := by
  unfold State.startDescr
  try dsimp only
  repeat' (with_reducible
    first | assumption | apply hx4 | apply State.issue_keeps | apply State.refuseTraining_keeps |
      apply State.sramErrors_keeps | apply State.waitIssue_keeps | split)

theorem State.runUpdate_keeps {x1 : Fetched} {x2 : Nat} {x3 : TrainErrs} {x4 : Descr} (h : Keeps p q false y s t) :
    Keeps p q false y s (@State.runUpdate t x1 x2 x3 x4) := by
  unfold State.runUpdate
  try dsimp only
  repeat' (with_reducible
    first | assumption | refine Keeps.each ?_ (fun _ _ _ => ?_) | apply State.count_keeps | apply State.advanceCore_keeps |
      apply State.notice_keeps | apply State.modCore_keeps | apply updateRun_keeps | apply State.bookTraining_keeps |
      apply State.wroteLines_keeps | apply State.groupErrors_keeps | split)

theorem execTrainUpdate_keeps {x0 : Fin 512} {x1 : TrainErrs} (h : Keeps p q false y s t) :
    ∀ u, @execTrainUpdate x0 x1 t = .next u → Keeps p q false y s u := by
  intro u hu
  unfold execTrainUpdate at hu
  try dsimp only at hu
  repeat' (first | contradiction | (injection hu with hu; subst hu) | split at hu)
  repeat' (with_reducible first | assumption | apply State.startDescr_keeps | apply State.runUpdate_keeps | intro _)

theorem State.runPack_keeps {x1 : Fetched} {x2 : Nat} {x3 : TrainErrs} {x4 : Descr} (h : Keeps p q false y s t) :
    Keeps p q false y s (@State.runPack t x1 x2 x3 x4) := by
  unfold State.runPack
  try dsimp only
  repeat' (with_reducible
    first | assumption | refine Keeps.each ?_ (fun _ _ _ => ?_) | refine Keeps.foldl1 ?_ (fun _ _ _ => ?_) |
      apply State.count_keeps | apply packBlock_keeps | apply State.bookTraining_keeps | apply State.wroteLines_keeps |
      apply State.groupErrors_keeps | apply State.advanceCore_keeps | split)

theorem execTrainPack_keeps {x0 : Fin 512} {x1 : TrainErrs} (h : Keeps p q false y s t) :
    ∀ u, @execTrainPack x0 x1 t = .next u → Keeps p q false y s u := by
  intro u hu
  unfold execTrainPack at hu
  try dsimp only at hu
  repeat' (first | contradiction | (injection hu with hu; subst hu) | split at hu)
  repeat' (with_reducible first | assumption | apply State.startDescr_keeps | apply State.runPack_keeps | intro _)

theorem State.consume_keeps {x1 x2 : Nat} {x3 : SItem} (h : Keeps p q w y s t) :
    Keeps p q w y s (@State.consume t x1 x2 x3) := by
  unfold State.consume
  try dsimp only
  repeat' (with_reducible
    first | assumption | apply State.modQueue_keeps | apply State.modCore_keeps | apply State.releaseItem_keeps)

theorem State.sumRecords_keeps {x1 x2 x3 : Nat} {x4 : TrainErrs} {x5 : Descr} {x6 : List (Option SItem)} (h : Keeps p q false y s t) :
    Keeps p q false y s (@State.sumRecords t x1 x2 x3 x4 x5 x6).1 := by
  unfold State.sumRecords
  try dsimp only
  repeat' (with_reducible
    first | assumption | refine Keeps.each ?_ (fun _ _ _ => ?_) | apply State.refuseTraining_keeps | apply unpackBlock_keeps |
      apply State.wroteLines_keeps | apply State.count_keeps | apply State.groupErrors_keeps | apply State.consume_keeps |
      split)

theorem State.runUnpack_keeps {x1 : Fetched} {x2 : Nat} {x3 : TrainErrs} {x4 : Descr} (h : Keeps p q false y s t) :
    Keeps p q false y s (@State.runUnpack t x1 x2 x3 x4) := by
  unfold State.runUnpack
  try dsimp only
  repeat' (with_reducible
    first | assumption | apply State.count_keeps | apply State.advanceCore_keeps | apply State.modCore_keeps |
      apply State.sumRecords_keeps | split)

theorem execTrainUnpack_keeps {x0 : Fin 512} {x1 : TrainErrs} (h : Keeps p q false y s t) :
    ∀ u, @execTrainUnpack x0 x1 t = .next u → Keeps p q false y s u := by
  intro u hu
  unfold execTrainUnpack at hu
  try dsimp only at hu
  repeat' (first | contradiction | (injection hu with hu; subst hu) | split at hu)
  repeat' (with_reducible
    first | assumption | apply State.sramErrors_keeps | apply State.sumRecords_keeps | apply State.modCore_keeps |
      apply State.startDescr_keeps | apply State.runUnpack_keeps | apply State.complete_keeps | split | intro _)

end Sys2Proof.Machine
end

