-- ==== Sys2Proof/Laws/KeepsCsr.lean ====
section
/-! SUPPORT. What the operations and meanings keep: register writes, memory lines and restores. -/

namespace Sys2Proof.Machine

variable {p q w y : Bool} {s t : State}

theorem State.endChecks_keeps {x1 : Nat} (h : Keeps p q w y s t) :
    Keeps p q w y s (@State.endChecks t x1) := by
  unfold State.endChecks
  try dsimp only
  repeat' (with_reducible first | assumption | apply State.modImg_keeps | split)

theorem execCommitChecksEnd_keeps {x0 : Fin 4} (h : Keeps p q w y s t) :
    ∀ u, @execCommitChecksEnd x0 t = .next u → Keeps p q w y s u := by
  intro u hu
  unfold execCommitChecksEnd at hu
  try dsimp only at hu
  repeat' (first | contradiction | (injection hu with hu; subst hu) | split at hu)
  repeat' (with_reducible first | assumption | apply State.endChecks_keeps | split)

theorem State.shWrite_keeps {x1 x2 : Nat} {x3 : State → State} (h : Keeps p q w y s t) (hx3 : ∀ u, Keeps p q w y s u → Keeps p q w y s (x3 u)) :
    Keeps p q w y s (@State.shWrite t x1 x2 x3).2 := by
  unfold State.shWrite
  try dsimp only
  repeat' (with_reducible first | assumption | apply hx3 | split)

theorem wrote_keeps (h : Keeps p q w y s t) :
    Keeps p q w y s (@wrote t).2 := by
  unfold wrote
  try dsimp only
  repeat' (with_reducible first | assumption)

theorem State.orbCtrl_keeps {x1 : Nat} (h : Keeps p q w y s t) :
    Keeps p q w y s (@State.orbCtrl t x1).2 := by
  unfold State.orbCtrl
  try dsimp only
  repeat' (with_reducible
    first | assumption |
      ((conv => arg 6; arg 24); first | apply Keeps.lit | apply Keeps.litP | apply Keeps.litO | apply Keeps.litPO | apply Keeps.litW) |
      (intro _; constructor <;> split <;> rfl) | (dsimp only) | apply State.joinPorts_keeps | split)

theorem State.orbResume_keeps {x1 x2 : Nat} (h : Keeps p q w y s t) :
    Keeps p q w y s (@State.orbResume t x1 x2).2 := by
  unfold State.orbResume
  try dsimp only
  repeat' (with_reducible first | assumption | apply State.modBar_keeps | split)

theorem State.orbWrite_keeps {x1 x2 x3 : Nat} (h : Keeps p q w y s t) :
    Keeps p q w y s (@State.orbWrite t x1 x2 x3).2 := by
  unfold State.orbWrite
  try dsimp only
  repeat' (with_reducible
    first | assumption | apply State.orbCtrl_keeps | apply State.shWrite_keeps | apply wrote_keeps | apply State.modOrb_keeps |
      apply State.orbResume_keeps |
      ((conv => arg 6; arg 24); first | apply Keeps.lit | apply Keeps.litP | apply Keeps.litO | apply Keeps.litPO | apply Keeps.litW) |
      exact fun _ => ⟨rfl, rfl⟩ | split | intro _)

theorem State.imgLoad_keeps {x1 x2 : Nat} (h : Keeps p q w y s t) :
    Keeps p q w y s (@State.imgLoad t x1 x2).2 := by
  unfold State.imgLoad
  try dsimp only
  repeat' (with_reducible first | assumption | apply State.modImg_keeps | split)

theorem State.imgCommit_keeps {x1 x2 : Nat} (h : Keeps p q w y s t) :
    Keeps p q w y s (@State.imgCommit t x1 x2).2 := by
  unfold State.imgCommit
  try dsimp only
  repeat' (with_reducible first | assumption | apply State.modImg_keeps | split)

theorem State.imgCancel_keeps {x1 : Nat} (h : Keeps p q w y s t) :
    Keeps p q w y s (@State.imgCancel t x1).2 := by
  unfold State.imgCancel
  try dsimp only
  repeat' (with_reducible first | assumption | apply State.modImg_keeps | split)

theorem State.imgWrite_keeps {x1 x2 x3 : Nat} (h : Keeps p q w y s t) :
    Keeps p q w y s (@State.imgWrite t x1 x2 x3).2 := by
  unfold State.imgWrite
  try dsimp only
  repeat' (with_reducible
    first | assumption | apply wrote_keeps | apply State.modImg_keeps | apply State.imgLoad_keeps |
      apply State.imgCommit_keeps | apply State.imgCancel_keeps | split)

theorem State.cmdTail_keeps {x1 x2 : Nat} (h : Keeps p q w y s t) :
    Keeps p q w y s (@State.cmdTail t x1 x2).2 := by
  unfold State.cmdTail
  try dsimp only
  repeat' (with_reducible first | assumption | apply State.modHost_keeps | split)

theorem State.cplHead_keeps {x1 x2 : Nat} (h : Keeps p q w y s t) :
    Keeps p q w y s (@State.cplHead t x1 x2).2 :=
  Keeps.ite2 h (by dsimp only; exact State.modHost_keeps h)

theorem State.cmdRing_keeps {x1 x2 : Nat} (h : Keeps p q w y s t) :
    Keeps p q w y s (@State.cmdRing t x1 x2).2 := by
  unfold State.cmdRing
  try dsimp only
  repeat' (with_reducible first | assumption | apply State.modHost_keeps | split)

theorem State.cplRing_keeps {x1 x2 : Nat} (h : Keeps p q w y s t) :
    Keeps p q w y s (@State.cplRing t x1 x2).2 := by
  unfold State.cplRing
  try dsimp only
  repeat' (with_reducible first | assumption | apply State.modHost_keeps | split)

theorem State.dstWrite_keeps {x1 x2 x3 : Nat} (h : Keeps p q w y s t) :
    Keeps p q w y s (@State.dstWrite t x1 x2 x3).2 := by
  unfold State.dstWrite
  try dsimp only
  repeat' (with_reducible
    first | assumption | apply wrote_keeps | apply State.modHost_keeps | apply State.cmdRing_keeps |
      apply State.cmdTail_keeps | apply State.cplRing_keeps | apply State.cplHead_keeps | apply State.shWrite_keeps | split |
      intro _)

theorem State.memWrite_keeps {x1 x2 x3 : Nat} (h : Keeps p q w y s t) :
    Keeps p q w y s (@State.memWrite t x1 x2 x3).2 := by
  unfold State.memWrite
  try dsimp only
  repeat' (with_reducible first | assumption | apply wrote_keeps | apply State.modMemd_keeps | split)

theorem State.tlkCtrl_keeps {x1 x2 : Nat} (h : Keeps p q w y s t) :
    Keeps p q w y s (@State.tlkCtrl t x1 x2).2 := by
  unfold State.tlkCtrl
  try dsimp only
  repeat' (with_reducible
    first | assumption | apply State.modPort_keeps | apply State.goDark_keeps | apply State.startTraining_keeps |
      apply State.enterRetrain_keeps | split)

theorem State.tlkWrite_keeps {x1 x2 x3 x4 : Nat} (h : Keeps p q w y s t) :
    Keeps p q w y s (@State.tlkWrite t x1 x2 x3 x4).2 := by
  unfold State.tlkWrite
  try dsimp only
  repeat' (with_reducible
    first | assumption | apply wrote_keeps | apply State.modPort_keeps | apply State.tlkCtrl_keeps |
      apply State.shWrite_keeps | split | intro _)

theorem State.pbxFlush_keeps {x1 : Bool} {x2 x3 : Nat} (h : Keeps p q w y s t) :
    Keeps p q w y s (@State.pbxFlush t x1 x2 x3).2 := by
  unfold State.pbxFlush
  try dsimp only
  repeat' (with_reducible first | assumption | refine Keeps.each ?_ (fun _ _ _ => ?_) | apply State.flushBox_keeps | split)

theorem State.dlrTail_keeps {x1 x2 : Nat} (h : Keeps p q w y s t) :
    Keeps p q w y s (@State.dlrTail t x1 x2).2 :=
  Keeps.ite2 h (by dsimp only; exact State.modPbx_keeps h)

theorem State.pbxWrite_keeps {x1 : Bool} {x2 x3 x4 : Nat} (h : Keeps p q w y s t) :
    Keeps p q w y s (@State.pbxWrite t x1 x2 x3 x4).2 := by
  unfold State.pbxWrite
  try dsimp only
  repeat' (with_reducible
    first | assumption | apply State.pbxFlush_keeps | apply wrote_keeps | apply State.modPbx_keeps |
      apply State.dlrTail_keeps | apply State.modBox_keeps | split)

theorem State.snpReq_keeps {x1 x2 : Nat} (h : Keeps p q w y s t) :
    Keeps p q w y s (@State.snpReq t x1 x2).2 := by
  unfold State.snpReq
  try dsimp only
  repeat' (with_reducible first | assumption | apply State.modSnp_keeps | split)

theorem State.snpWrite_keeps {x1 x2 x3 : Nat} (h : Keeps p q w y s t) :
    Keeps p q w y s (@State.snpWrite t x1 x2 x3).2 := by
  unfold State.snpWrite
  try dsimp only
  repeat' (with_reducible first | assumption | apply State.snpReq_keeps | apply wrote_keeps | apply State.modSnp_keeps | split)

theorem State.oldScales_keeps {x1 : Nat} (h : Keeps p q w y s t) :
    Keeps p q w y s (@State.oldScales t x1) := by
  unfold State.oldScales
  try dsimp only
  repeat' (with_reducible
    first | assumption | apply Keeps.ite | apply Keeps.ite1 | apply Keeps.ite2 | refine Keeps.each ?_ (fun _ _ _ => ?_) |
      refine Keeps.foldl ?_ (fun _ _ _ => ?_) | refine Keeps.foldl1 ?_ (fun _ _ _ => ?_) |
      refine Keeps.foldl2 ?_ (fun _ _ _ => ?_) |
      ((conv => arg 6; arg 24); first | apply Keeps.lit | apply Keeps.litP | apply Keeps.litO | apply Keeps.litPO | apply Keeps.litW) |
      refine Keeps.fst_eq (by assumption) ?_ | refine Keeps.snd_eq (by assumption) ?_ | exact fun e => Bool.noConfusion e |
      exact fun _ => ⟨rfl, rfl⟩ | (intro _; constructor <;> split <;> rfl) | exact fun _ _ => rfl | exact fun _ h => h |
      split | intro _)

theorem State.rewind_keeps {x1 : Nat} (h : Keeps p q w y s t) :
    Keeps p q w y s (@State.rewind t x1).2 := by
  unfold State.rewind
  try dsimp only
  repeat' (with_reducible
    first | assumption | apply Keeps.ite | apply Keeps.ite1 | apply Keeps.ite2 | refine Keeps.each ?_ (fun _ _ _ => ?_) |
      refine Keeps.foldl ?_ (fun _ _ _ => ?_) | refine Keeps.foldl1 ?_ (fun _ _ _ => ?_) |
      refine Keeps.foldl2 ?_ (fun _ _ _ => ?_) | apply State.oldScales_keeps | apply State.modOrb_keeps |
      apply State.modFlt_keeps |
      ((conv => arg 6; arg 24); first | apply Keeps.lit | apply Keeps.litP | apply Keeps.litO | apply Keeps.litPO | apply Keeps.litW) |
      refine Keeps.fst_eq (by assumption) ?_ | refine Keeps.snd_eq (by assumption) ?_ | exact fun e => Bool.noConfusion e |
      exact fun _ => ⟨rfl, rfl⟩ | (intro _; constructor <;> split <;> rfl) | exact fun _ _ => rfl | exact fun _ h => h |
      (dsimp only) | split | intro _)

theorem State.rollfwd_keeps {x1 : Nat} (h : Keeps p q w y s t) :
    Keeps p q w y s (@State.rollfwd t x1).2 := by
  unfold State.rollfwd
  try dsimp only
  repeat' (with_reducible first | assumption | apply State.modFlt_keeps | split)

theorem State.districtReset_keeps {x1 : Nat} (h : Keeps p q w y s t) :
    Keeps p q w y s (@State.districtReset t x1).2 := by
  unfold State.districtReset
  try dsimp only
  repeat' (with_reducible first | assumption | apply State.loseCmds_keeps | apply State.stopDistrict_keeps | apply State.modFlt_keeps | split)

theorem State.fltCmd_keeps {x1 : Bool} {x2 x3 : Nat} (h : Keeps p q w y s t) :
    Keeps p q w y s (@State.fltCmd t x1 x2 x3).2 := by
  unfold State.fltCmd
  try dsimp only
  repeat' (with_reducible
    first | assumption | apply State.rewind_keeps | apply State.rollfwd_keeps | apply State.districtReset_keeps | split)

theorem State.fltTail_keeps {x1 x2 : Nat} (h : Keeps p q w y s t) :
    Keeps p q w y s (@State.fltTail t x1 x2).2 := by
  unfold State.fltTail
  try dsimp only
  repeat' (with_reducible first | assumption | apply State.modFlt_keeps | split)

theorem State.fltRestore_keeps {x1 x2 : Nat} (h : Keeps p q w y s t) :
    Keeps p q w y s (@State.fltRestore t x1 x2).2 := by
  unfold State.fltRestore
  try dsimp only
  repeat' (with_reducible first | assumption | apply State.modFlt_keeps | split)

theorem State.fltWrite_keeps {x1 : Bool} {x2 x3 x4 : Nat} (h : Keeps p q w y s t) :
    Keeps p q w y s (@State.fltWrite t x1 x2 x3 x4).2 := by
  unfold State.fltWrite
  try dsimp only
  repeat' (with_reducible
    first | assumption | apply State.fltTail_keeps | apply wrote_keeps | apply State.modFlt_keeps | apply State.shWrite_keeps |
      apply State.fltCmd_keeps | apply State.fltRestore_keeps | split | intro _)

theorem State.serve_keeps {x1 x2 : Nat} (h : Keeps p q w y s t) :
    Keeps p q w y s (@State.serve t x1 x2).2 := by
  unfold State.serve
  try dsimp only
  repeat' (with_reducible first | assumption | apply State.startServe_keeps | split)

theorem State.sprWrite_keeps {x1 x2 : Nat} (h : Keeps p q w y s t) :
    Keeps p q w y s (@State.sprWrite t x1 x2).2 := by
  unfold State.sprWrite
  try dsimp only
  repeat' (with_reducible
    first | assumption | apply State.shWrite_keeps | apply State.modMir_keeps | apply State.serve_keeps | apply wrote_keeps |
      split | intro _)

theorem State.numWrite_keeps {x1 x2 x3 : Nat} (h : Keeps p q w y s t) :
    Keeps p q w y s (@State.numWrite t x1 x2 x3).2 := by
  unfold State.numWrite
  try dsimp only
  repeat' (with_reducible
    first | assumption | apply State.shWrite_keeps | apply State.modNum_keeps | apply wrote_keeps | split | intro _)

theorem State.coreWrite_keeps {x1 x2 x3 x4 : Nat} (h : Keeps p q w y s t) :
    Keeps p q w y s (@State.coreWrite t x1 x2 x3 x4).2 := by
  unfold State.coreWrite
  try dsimp only
  repeat' (with_reducible
    first | assumption | apply State.shWrite_keeps | apply State.modCore_keeps | apply wrote_keeps | split | intro _)

theorem State.timeWrite_keeps {x1 : Nat} (h : Keeps p q w y s t) :
    Keeps p q w y s (@State.timeWrite t x1).2 := by
  unfold State.timeWrite
  try dsimp only
  repeat' (with_reducible
    first | assumption |
      ((conv => arg 6; arg 24); first | apply Keeps.lit | apply Keeps.litP | apply Keeps.litO | apply Keeps.litPO | apply Keeps.litW) |
      (dsimp only) | split)

theorem State.pwrTarget_keeps {x1 : Nat} (h : Keeps p q w y s t) :
    Keeps p q w y s (@State.pwrTarget t x1).2 := by
  unfold State.pwrTarget
  try dsimp only
  repeat' (with_reducible
    first | assumption |
      ((conv => arg 6; arg 24); first | apply Keeps.lit | apply Keeps.litP | apply Keeps.litO | apply Keeps.litPO | apply Keeps.litW) |
      (dsimp only) | split | intro _)

theorem State.warmReset_keeps {x1 : Nat} (h : Keeps p q w y s t) :
    Keeps p q w y s (@State.warmReset t x1).2 := by
  unfold State.warmReset
  try dsimp only
  repeat' (with_reducible
    first | assumption |
      ((conv => arg 6; arg 24); first | apply Keeps.lit | apply Keeps.litP | apply Keeps.litO | apply Keeps.litPO | apply Keeps.litW) |
      (dsimp only) | split | intro _)

theorem State.coolMax_keeps {x1 : Nat} (h : Keeps p q w y s t) :
    Keeps p q w y s (@State.coolMax t x1).2 := by
  unfold State.coolMax
  try dsimp only
  repeat' (with_reducible
    first | assumption |
      ((conv => arg 6; arg 24); first | apply Keeps.lit | apply Keeps.litP | apply Keeps.litO | apply Keeps.litPO | apply Keeps.litW) |
      (dsimp only) | split | intro _)

theorem State.pwrWrite_keeps {x1 x2 : Nat} (h : Keeps p q w y s t) :
    Keeps p q w y s (@State.pwrWrite t x1 x2).2 := by
  unfold State.pwrWrite
  try dsimp only
  repeat' (with_reducible
    first | assumption | apply State.pwrTarget_keeps | apply State.warmReset_keeps | apply State.coolMax_keeps |
      apply wrote_keeps |
      ((conv => arg 6; arg 24); first | apply Keeps.lit | apply Keeps.litP | apply Keeps.litO | apply Keeps.litPO | apply Keeps.litW) |
      split | intro _)

theorem State.regPut_keeps {x1 : Bool} {x2 : Nat} {x3 : Block} {x4 x5 : Nat} (h : Keeps p q w y s t) :
    Keeps p q w y s (@State.regPut t x1 x2 x3 x4 x5).2 := by
  unfold State.regPut
  try dsimp only
  repeat' (with_reducible
    first | assumption | apply State.timeWrite_keeps | apply wrote_keeps | apply State.orbWrite_keeps |
      apply State.imgWrite_keeps | apply State.dstWrite_keeps | apply State.memWrite_keeps | apply State.tlkWrite_keeps |
      apply State.pbxWrite_keeps | apply State.snpWrite_keeps | apply State.fltWrite_keeps | apply State.sprWrite_keeps |
      apply State.numWrite_keeps | apply State.pwrWrite_keeps | apply State.coreWrite_keeps | split)

theorem State.csrWrite_keeps {x1 : Bool} {x2 x3 x4 : Nat} (h : Keeps p q w y s t) :
    Keeps p q w y s (@State.csrWrite t x1 x2 x3 x4).2 := by
  unfold State.csrWrite
  try dsimp only
  repeat' (with_reducible first | assumption | apply State.regPut_keeps | split)

theorem State.regWrite_keeps {x1 : Requester} {x2 x3 : Nat} (h : Keeps p q w y s t) :
    Keeps p q w y s (@State.regWrite t x1 x2 x3) := by
  unfold State.regWrite
  try dsimp only
  repeat' (with_reducible first | assumption | apply State.csrWrite_keeps | apply State.emit_keeps | split)

theorem execOrbArm_keeps {x0 : Requester} {x1 : W64} (h : Keeps p q w y s t) :
    ∀ u, @execOrbArm x0 x1 t = .next u → Keeps p q w y s u := by
  intro u hu
  unfold execOrbArm at hu
  try dsimp only at hu
  repeat' (first | contradiction | (injection hu with hu; subst hu) | split at hu)
  repeat' (with_reducible first | assumption | apply State.regWrite_keeps)

theorem execOrbDisarm_keeps {x0 : Requester} {x1 : W64} (h : Keeps p q w y s t) :
    ∀ u, @execOrbDisarm x0 x1 t = .next u → Keeps p q w y s u := by
  intro u hu
  unfold execOrbDisarm at hu
  try dsimp only at hu
  repeat' (first | contradiction | (injection hu with hu; subst hu) | split at hu)
  repeat' (with_reducible first | assumption | apply State.regWrite_keeps)

theorem execOrbJoin_keeps {x0 : Requester} {x1 : W64} (h : Keeps p q w y s t) :
    ∀ u, @execOrbJoin x0 x1 t = .next u → Keeps p q w y s u := by
  intro u hu
  unfold execOrbJoin at hu
  try dsimp only at hu
  repeat' (first | contradiction | (injection hu with hu; subst hu) | split at hu)
  repeat' (with_reducible first | assumption | apply State.regWrite_keeps)

theorem execOrbJoinWithdraw_keeps {x0 : Requester} {x1 : W64} (h : Keeps p q w y s t) :
    ∀ u, @execOrbJoinWithdraw x0 x1 t = .next u → Keeps p q w y s u := by
  intro u hu
  unfold execOrbJoinWithdraw at hu
  try dsimp only at hu
  repeat' (first | contradiction | (injection hu with hu; subst hu) | split at hu)
  repeat' (with_reducible first | assumption | apply State.regWrite_keeps)

theorem execOrbStop_keeps {x0 : Requester} {x1 : W64} (h : Keeps p q w y s t) :
    ∀ u, @execOrbStop x0 x1 t = .next u → Keeps p q w y s u := by
  intro u hu
  unfold execOrbStop at hu
  try dsimp only at hu
  repeat' (first | contradiction | (injection hu with hu; subst hu) | split at hu)
  repeat' (with_reducible first | assumption | apply State.regWrite_keeps)

theorem execOrbResume_keeps {x0 : Requester} {x1 : W64} (h : Keeps p q w y s t) :
    ∀ u, @execOrbResume x0 x1 t = .next u → Keeps p q w y s u := by
  intro u hu
  unfold execOrbResume at hu
  try dsimp only at hu
  repeat' (first | contradiction | (injection hu with hu; subst hu) | split at hu)
  repeat' (with_reducible first | assumption | apply State.regWrite_keeps)

theorem execShFieldWrite_keeps {x0 : Requester} {x1 : Nat} {x2 : W64} (h : Keeps p q w y s t) :
    ∀ u, @execShFieldWrite x0 x1 x2 t = .next u → Keeps p q w y s u := by
  intro u hu
  unfold execShFieldWrite at hu
  try dsimp only at hu
  repeat' (first | contradiction | (injection hu with hu; subst hu) | split at hu)
  repeat' (with_reducible first | assumption | apply State.regWrite_keeps | split)

theorem execRegisterWrite_keeps {x0 : Requester} {x1 : Nat} {x2 : W64} (h : Keeps p q w y s t) :
    ∀ u, @execRegisterWrite x0 x1 x2 t = .next u → Keeps p q w y s u := by
  intro u hu
  unfold execRegisterWrite at hu
  try dsimp only at hu
  repeat' (first | contradiction | (injection hu with hu; subst hu) | split at hu)
  repeat' (with_reducible first | assumption | apply State.regWrite_keeps)

theorem execPbxFlushBox_keeps {x0 : Requester} {x1 : Nat} (h : Keeps p q w y s t) :
    ∀ u, @execPbxFlushBox x0 x1 t = .next u → Keeps p q w y s u := by
  intro u hu
  unfold execPbxFlushBox at hu
  try dsimp only at hu
  repeat' (first | contradiction | (injection hu with hu; subst hu) | split at hu)
  repeat' (with_reducible first | assumption | apply State.regWrite_keeps)

theorem execPbxFlushAll_keeps {x0 : Requester} (h : Keeps p q w y s t) :
    ∀ u, @execPbxFlushAll x0 t = .next u → Keeps p q w y s u := by
  intro u hu
  unfold execPbxFlushAll at hu
  try dsimp only at hu
  repeat' (first | contradiction | (injection hu with hu; subst hu) | split at hu)
  repeat' (with_reducible first | assumption | apply State.regWrite_keeps)

theorem execDlrTailWrite_keeps {x0 : Requester} {x1 : Fin 4} {x2 : W64} (h : Keeps p q w y s t) :
    ∀ u, @execDlrTailWrite x0 x1 x2 t = .next u → Keeps p q w y s u := by
  intro u hu
  unfold execDlrTailWrite at hu
  try dsimp only at hu
  repeat' (first | contradiction | (injection hu with hu; subst hu) | split at hu)
  repeat' (with_reducible first | assumption | apply State.regWrite_keeps)

theorem execTlkDisable_keeps {x0 : Requester} {x1 : Fin 24} {x2 : W64} (h : Keeps p q w y s t) :
    ∀ u, @execTlkDisable x0 x1 x2 t = .next u → Keeps p q w y s u := by
  intro u hu
  unfold execTlkDisable at hu
  try dsimp only at hu
  repeat' (first | contradiction | (injection hu with hu; subst hu) | split at hu)
  repeat' (with_reducible first | assumption | apply State.regWrite_keeps)

theorem execTlkEnable_keeps {x0 : Requester} {x1 : Fin 24} {x2 : W64} (h : Keeps p q w y s t) :
    ∀ u, @execTlkEnable x0 x1 x2 t = .next u → Keeps p q w y s u := by
  intro u hu
  unfold execTlkEnable at hu
  try dsimp only at hu
  repeat' (first | contradiction | (injection hu with hu; subst hu) | split at hu)
  repeat' (with_reducible first | assumption | apply State.regWrite_keeps)

theorem execTlkRetrain_keeps {x0 : Requester} {x1 : Fin 24} {x2 : W64} (h : Keeps p q w y s t) :
    ∀ u, @execTlkRetrain x0 x1 x2 t = .next u → Keeps p q w y s u := by
  intro u hu
  unfold execTlkRetrain at hu
  try dsimp only at hu
  repeat' (first | contradiction | (injection hu with hu; subst hu) | split at hu)
  repeat' (with_reducible first | assumption | apply State.regWrite_keeps)

theorem execCmdTailWrite_keeps {x0 : Requester} {x1 : W64} (h : Keeps p q w y s t) :
    ∀ u, @execCmdTailWrite x0 x1 t = .next u → Keeps p q w y s u := by
  intro u hu
  unfold execCmdTailWrite at hu
  try dsimp only at hu
  repeat' (first | contradiction | (injection hu with hu; subst hu) | split at hu)
  repeat' (with_reducible first | assumption | apply State.regWrite_keeps)

theorem execCplHeadWrite_keeps {x0 : Requester} {x1 : W64} (h : Keeps p q w y s t) :
    ∀ u, @execCplHeadWrite x0 x1 t = .next u → Keeps p q w y s u := by
  intro u hu
  unfold execCplHeadWrite at hu
  try dsimp only at hu
  repeat' (first | contradiction | (injection hu with hu; subst hu) | split at hu)
  repeat' (with_reducible first | assumption | apply State.regWrite_keeps)

theorem execCmdRingWrite_keeps {x0 : Requester} {x1 : W64} (h : Keeps p q w y s t) :
    ∀ u, @execCmdRingWrite x0 x1 t = .next u → Keeps p q w y s u := by
  intro u hu
  unfold execCmdRingWrite at hu
  try dsimp only at hu
  repeat' (first | contradiction | (injection hu with hu; subst hu) | split at hu)
  repeat' (with_reducible first | assumption | apply State.regWrite_keeps)

theorem execCplRingWrite_keeps {x0 : Requester} {x1 : W64} (h : Keeps p q w y s t) :
    ∀ u, @execCplRingWrite x0 x1 t = .next u → Keeps p q w y s u := by
  intro u hu
  unfold execCplRingWrite at hu
  try dsimp only at hu
  repeat' (first | contradiction | (injection hu with hu; subst hu) | split at hu)
  repeat' (with_reducible first | assumption | apply State.regWrite_keeps)

theorem execImgLoad_keeps {x0 : Requester} {x1 : W64} (h : Keeps p q w y s t) :
    ∀ u, @execImgLoad x0 x1 t = .next u → Keeps p q w y s u := by
  intro u hu
  unfold execImgLoad at hu
  try dsimp only at hu
  repeat' (first | contradiction | (injection hu with hu; subst hu) | split at hu)
  repeat' (with_reducible first | assumption | apply State.regWrite_keeps)

theorem execImgCommit_keeps {x0 : Requester} {x1 : W64} (h : Keeps p q w y s t) :
    ∀ u, @execImgCommit x0 x1 t = .next u → Keeps p q w y s u := by
  intro u hu
  unfold execImgCommit at hu
  try dsimp only at hu
  repeat' (first | contradiction | (injection hu with hu; subst hu) | split at hu)
  repeat' (with_reducible first | assumption | apply State.regWrite_keeps)

theorem execImgCancel_keeps {x0 : Requester} {x1 : W64} (h : Keeps p q w y s t) :
    ∀ u, @execImgCancel x0 x1 t = .next u → Keeps p q w y s u := by
  intro u hu
  unfold execImgCancel at hu
  try dsimp only at hu
  repeat' (first | contradiction | (injection hu with hu; subst hu) | split at hu)
  repeat' (with_reducible first | assumption | apply State.regWrite_keeps)

theorem execSnpReqWrite_keeps {x0 : Requester} {x1 : W64} (h : Keeps p q w y s t) :
    ∀ u, @execSnpReqWrite x0 x1 t = .next u → Keeps p q w y s u := by
  intro u hu
  unfold execSnpReqWrite at hu
  try dsimp only at hu
  repeat' (first | contradiction | (injection hu with hu; subst hu) | split at hu)
  repeat' (with_reducible first | assumption | apply State.regWrite_keeps)

theorem execRewind_keeps {x0 : Requester} (h : Keeps p q w y s t) :
    ∀ u, @execRewind x0 t = .next u → Keeps p q w y s u := by
  intro u hu
  unfold execRewind at hu
  try dsimp only at hu
  repeat' (first | contradiction | (injection hu with hu; subst hu) | split at hu)
  repeat' (with_reducible first | assumption | apply State.regWrite_keeps)

theorem execRollfwd_keeps {x0 : Requester} (h : Keeps p q w y s t) :
    ∀ u, @execRollfwd x0 t = .next u → Keeps p q w y s u := by
  intro u hu
  unfold execRollfwd at hu
  try dsimp only at hu
  repeat' (first | contradiction | (injection hu with hu; subst hu) | split at hu)
  repeat' (with_reducible first | assumption | apply State.regWrite_keeps)

theorem execDreset_keeps {x0 : Requester} (h : Keeps p q w y s t) :
    ∀ u, @execDreset x0 t = .next u → Keeps p q w y s u := by
  intro u hu
  unfold execDreset at hu
  try dsimp only at hu
  repeat' (first | contradiction | (injection hu with hu; subst hu) | split at hu)
  repeat' (with_reducible first | assumption | apply State.regWrite_keeps)

theorem execFltTailWrite_keeps {x0 : Requester} {x1 : W64} (h : Keeps p q w y s t) :
    ∀ u, @execFltTailWrite x0 x1 t = .next u → Keeps p q w y s u := by
  intro u hu
  unfold execFltTailWrite at hu
  try dsimp only at hu
  repeat' (first | contradiction | (injection hu with hu; subst hu) | split at hu)
  repeat' (with_reducible first | assumption | apply State.regWrite_keeps)

theorem execFltRestoreWrite_keeps {x0 : Requester} {x1 : W64} (h : Keeps p q w y s t) :
    ∀ u, @execFltRestoreWrite x0 x1 t = .next u → Keeps p q w y s u := by
  intro u hu
  unfold execFltRestoreWrite at hu
  try dsimp only at hu
  repeat' (first | contradiction | (injection hu with hu; subst hu) | split at hu)
  repeat' (with_reducible first | assumption | apply State.regWrite_keeps)

theorem execSprServe_keeps {x0 : Requester} {x1 : Fin 4} {x2 : W64} (h : Keeps p q w y s t) :
    ∀ u, @execSprServe x0 x1 x2 t = .next u → Keeps p q w y s u := by
  intro u hu
  unfold execSprServe at hu
  try dsimp only at hu
  repeat' (first | contradiction | (injection hu with hu; subst hu) | split at hu)
  repeat' (with_reducible first | assumption | apply State.regWrite_keeps)

theorem execPwrResetWarm_keeps {x0 : Requester} (h : Keeps p q w y s t) :
    ∀ u, @execPwrResetWarm x0 t = .next u → Keeps p q w y s u := by
  intro u hu
  unfold execPwrResetWarm at hu
  try dsimp only at hu
  repeat' (first | contradiction | (injection hu with hu; subst hu) | split at hu)
  repeat' (with_reducible first | assumption | apply State.regWrite_keeps)

theorem execPwrTargetRun_keeps {x0 : Requester} (h : Keeps p q w y s t) :
    ∀ u, @execPwrTargetRun x0 t = .next u → Keeps p q w y s u := by
  intro u hu
  unfold execPwrTargetRun at hu
  try dsimp only at hu
  repeat' (first | contradiction | (injection hu with hu; subst hu) | split at hu)
  repeat' (with_reducible first | assumption | apply State.regWrite_keeps)

theorem execPwrTargetDrowse_keeps {x0 : Requester} (h : Keeps p q w y s t) :
    ∀ u, @execPwrTargetDrowse x0 t = .next u → Keeps p q w y s u := by
  intro u hu
  unfold execPwrTargetDrowse at hu
  try dsimp only at hu
  repeat' (first | contradiction | (injection hu with hu; subst hu) | split at hu)
  repeat' (with_reducible first | assumption | apply State.regWrite_keeps)

theorem execPwrTargetSleep_keeps {x0 : Requester} (h : Keeps p q w y s t) :
    ∀ u, @execPwrTargetSleep x0 t = .next u → Keeps p q w y s u := by
  intro u hu
  unfold execPwrTargetSleep at hu
  try dsimp only at hu
  repeat' (first | contradiction | (injection hu with hu; subst hu) | split at hu)
  repeat' (with_reducible first | assumption | apply State.regWrite_keeps)

theorem execGlbTimeWrite_keeps {x0 : Requester} {x1 : W64} (h : Keeps p q w y s t) :
    ∀ u, @execGlbTimeWrite x0 x1 t = .next u → Keeps p q w y s u := by
  intro u hu
  unfold execGlbTimeWrite at hu
  try dsimp only at hu
  repeat' (first | contradiction | (injection hu with hu; subst hu) | split at hu)
  repeat' (with_reducible first | assumption | apply State.regWrite_keeps)

theorem State.fabricError_keeps {x1 : Nat} {x2 : Bool} (h : Keeps p q w y s t) :
    Keeps p q w y s (@State.fabricError t x1 x2) := by
  unfold State.fabricError
  try dsimp only
  repeat' (with_reducible first | assumption | apply State.fence_keeps | apply State.halt_keeps | split)

theorem State.eccEvent_keeps {x1 x2 x3 : Nat} {x4 : MemDist → MemDist} (h : Keeps p q w y s t) :
    Keeps p q w y s (@State.eccEvent t x1 x2 x3 x4) := by
  unfold State.eccEvent
  try dsimp only
  repeat' (with_reducible first | assumption | apply State.modMemd_keeps)

theorem State.corrected_keeps {x1 x2 x3 : Nat} (h : Keeps p q w y s t) :
    Keeps p q w y s (@State.corrected t x1 x2 x3) := by
  unfold State.corrected
  try dsimp only
  repeat' (with_reducible first | assumption | apply State.eccEvent_keeps | apply State.count_keeps | apply State.notice_keeps)

theorem State.reissue_keeps {x1 x2 x3 : Nat} {x4 : Bool} (h : Keeps p q w y s t) :
    Keeps p q w y s (@State.reissue t x1 x2 x3 x4) := by
  unfold State.reissue
  try dsimp only
  repeat' (with_reducible
    first | assumption | apply State.eccEvent_keeps | apply State.count_keeps |
      ((conv => arg 6; arg 24); first | apply Keeps.lit | apply Keeps.litP | apply Keeps.litO | apply Keeps.litPO | apply Keeps.litW))

theorem State.lineFound_keeps {x1 x2 : Nat} {x3 : LineCheck} (h : Keeps p q w y s t) :
    Keeps p q w y s (@State.lineFound t x1 x2 x3) := by
  unfold State.lineFound
  try dsimp only
  repeat' (with_reducible first | assumption | apply State.corrected_keeps | apply State.reissue_keeps | split)

theorem State.lineRead_keeps {x1 x2 : Nat} {x3 : Bool} {x4 : LineOutcome} (h : Keeps p q w y s t) :
    Keeps p q w y s (@State.lineRead t x1 x2 x3 x4) := by
  unfold State.lineRead
  try dsimp only
  repeat' (with_reducible
    first | assumption | apply State.count_keeps | apply State.corrected_keeps | apply State.reissue_keeps |
      apply State.lineFound_keeps | apply State.fabricError_keeps | split)

theorem execMemLineRead_keeps {x0 : Nat} {x1 : Fin 4} {x2 : LineOutcome} (h : Keeps p q w y s t) :
    ∀ u, @execMemLineRead x0 x1 x2 t = .next u → Keeps p q w y s u := by
  intro u hu
  unfold execMemLineRead at hu
  try dsimp only at hu
  repeat' (first | contradiction | (injection hu with hu; subst hu) | split at hu)
  repeat' (with_reducible first | assumption | apply State.lineRead_keeps | split)

theorem State.failReader_keeps {x1 : Reader} {x2 : Status} (h : Keeps p q w y s t) :
    Keeps p q w y s (@State.failReader t x1 x2) := by
  unfold State.failReader
  try dsimp only
  repeat' (with_reducible
    first | assumption | apply State.emit_keeps | apply State.modImg_keeps | apply State.modHost_keeps |
      apply State.finishCmd_keeps | split)

theorem State.lineLost_keeps {x1 x2 x3 : Nat} {x4 : Bool} {x5 : Reader} (h : Keeps p q w y s t) :
    Keeps p q w y s (@State.lineLost t x1 x2 x3 x4 x5) := by
  unfold State.lineLost
  try dsimp only
  repeat' (with_reducible
    first | assumption | apply State.count_keeps | apply State.eccEvent_keeps | apply State.failReader_keeps |
      apply State.rollback_keeps | apply State.modMemd_keeps | apply State.fence_keeps |
      ((conv => arg 6; arg 24); first | apply Keeps.lit | apply Keeps.litP | apply Keeps.litO | apply Keeps.litPO | apply Keeps.litW) |
      split)

theorem State.lineAgain_keeps {x1 x2 : Nat} {x3 : Reader} {x4 : LineCheck} (h : Keeps p q w y s t) :
    Keeps p q w y s (@State.lineAgain t x1 x2 x3 x4) := by
  unfold State.lineAgain
  try dsimp only
  repeat' (with_reducible
    first | assumption | apply State.notice_keeps | apply State.corrected_keeps | apply State.lineLost_keeps | split)

theorem execMemReadRetry_keeps {x0 : Nat} {x1 : Fin 4} {x2 : LineOutcome} {x3 : Reader} (h : Keeps p q w y s t) :
    ∀ u, @execMemReadRetry x0 x1 x2 x3 t = .next u → Keeps p q w y s u := by
  intro u hu
  unfold execMemReadRetry at hu
  try dsimp only at hu
  repeat' (first | contradiction | (injection hu with hu; subst hu) | split at hu)
  repeat' (with_reducible
    first | assumption | apply State.count_keeps | apply State.notice_keeps | apply State.corrected_keeps |
      apply State.eccEvent_keeps | apply State.rollback_keeps | apply State.failReader_keeps | apply State.fence_keeps |
      apply State.modMemd_keeps |
      ((conv => arg 6; arg 24); first | apply Keeps.lit | apply Keeps.litP | apply Keeps.litO | apply Keeps.litPO | apply Keeps.litW) |
      apply State.lineAgain_keeps | apply State.fabricError_keeps | split)

theorem execScrubLine_keeps {x0 : Fin 4} {x1 : LineOutcome} (h : Keeps p q w y s t) :
    ∀ u, @execScrubLine x0 x1 t = .next u → Keeps p q w y s u := by
  intro u hu
  unfold execScrubLine at hu
  try dsimp only at hu
  repeat' (first | contradiction | (injection hu with hu; subst hu) | split at hu)
  repeat' (with_reducible
    first | assumption | refine Keeps.each ?_ (fun _ _ _ => ?_) | apply State.lineRead_keeps | apply State.count_keeps |
      apply State.setCount_keeps |
      ((conv => arg 6; arg 24); first | apply Keeps.lit | apply Keeps.litP | apply Keeps.litO | apply Keeps.litPO | apply Keeps.litW) |
      split)

theorem execPageRetire_keeps {x0 : Nat} (h : Keeps p q w y s t) :
    ∀ u, @execPageRetire x0 t = .next u → Keeps p q w y s u := by
  intro u hu
  unfold execPageRetire at hu
  try dsimp only at hu
  repeat' (first | contradiction | (injection hu with hu; subst hu) | split at hu)
  repeat' (with_reducible
    first | assumption | apply State.notice_keeps |
      ((conv => arg 6; arg 24); first | apply Keeps.lit | apply Keeps.litP | apply Keeps.litO | apply Keeps.litPO | apply Keeps.litW) |
      apply State.saveTables_keeps | split)

theorem execPostPackageRepair_keeps {x0 : Nat} {x1 : Bool} (h : Keeps p q w y s t) :
    ∀ u, @execPostPackageRepair x0 x1 t = .next u → Keeps p q w y s u := by
  intro u hu
  unfold execPostPackageRepair at hu
  try dsimp only at hu
  repeat' (first | contradiction | (injection hu with hu; subst hu) | split at hu)
  repeat' (with_reducible
    first | assumption | apply State.notice_keeps |
      ((conv => arg 6; arg 24); first | apply Keeps.lit | apply Keeps.litP | apply Keeps.litO | apply Keeps.litPO | apply Keeps.litW) |
      apply State.saveTables_keeps | split)

theorem execQuadTestEnd_keeps {x0 : Nat} {x1 : TestResult} (h : Keeps p q w y s t) :
    ∀ u, @execQuadTestEnd x0 x1 t = .next u → Keeps p q w y s u := by
  intro u hu
  unfold execQuadTestEnd at hu
  try dsimp only at hu
  repeat' (first | contradiction | (injection hu with hu; subst hu) | split at hu)
  repeat' (with_reducible
    first | assumption | apply State.notice_keeps |
      ((conv => arg 6; arg 24); first | apply Keeps.lit | apply Keeps.litP | apply Keeps.litO | apply Keeps.litPO | apply Keeps.litW) |
      apply State.saveTables_keeps | split)

theorem execLogFlashCopy_keeps {x0 : Fin 4} (h : Keeps p q w y s t) :
    ∀ u, @execLogFlashCopy x0 t = .next u → Keeps p q w y s u := by
  intro u hu
  unfold execLogFlashCopy at hu
  try dsimp only at hu
  repeat' (first | contradiction | (injection hu with hu; subst hu) | split at hu)
  repeat' (with_reducible
    first | assumption |
      ((conv => arg 6; arg 24); first | apply Keeps.lit | apply Keeps.litP | apply Keeps.litO | apply Keeps.litPO | apply Keeps.litW) |
      split)

theorem execCopybackDone_keeps {x0 : Fin 4} {x1 : List Nat} (h : Keeps p q false y s t) :
    ∀ u, @execCopybackDone x0 x1 t = .next u → Keeps p q false y s u := by
  intro u hu
  unfold execCopybackDone at hu
  try dsimp only at hu
  repeat' (first | contradiction | (injection hu with hu; subst hu) | split at hu)
  repeat' (with_reducible
    first | assumption | refine Keeps.each ?_ (fun _ _ _ => ?_) | apply State.count_keeps | apply State.move_keeps |
      apply State.modFlt_keeps | apply State.fence_keeps | apply State.countLines_keeps | apply State.rewind_keeps | split)

theorem State.unbindPorts_keeps {x1 : List Nat} (h : Keeps p q w y s t) :
    Keeps p q w y s (@State.unbindPorts t x1) := by
  unfold State.unbindPorts
  try dsimp only
  repeat' (with_reducible first | assumption | refine Keeps.each ?_ (fun _ _ _ => ?_) | apply State.modPort_keeps | split)

theorem State.dropImage_keeps {x1 : Nat} (h : Keeps p q false false s t) :
    Keeps p q false false s (@State.dropImage t x1) := by
  unfold State.dropImage
  try dsimp only
  repeat' (with_reducible
    first | assumption | apply Keeps.ite | apply Keeps.ite1 | apply Keeps.ite2 | refine Keeps.each ?_ (fun _ _ _ => ?_) |
      refine Keeps.foldl ?_ (fun _ _ _ => ?_) | refine Keeps.foldl1 ?_ (fun _ _ _ => ?_) |
      refine Keeps.foldl2 ?_ (fun _ _ _ => ?_) | apply State.killBox_keeps | apply State.modQueue_keeps |
      apply State.modRing_keeps | apply State.modCore_keeps | apply State.modHost_keeps | apply State.modImg_keeps |
      apply State.modOrb_keeps | apply State.modNum_keeps | apply State.unbindPorts_keeps |
      ((conv => arg 6; arg 24); first | apply Keeps.lit | apply Keeps.litP | apply Keeps.litO | apply Keeps.litPO | apply Keeps.litW) |
      refine Keeps.fst_eq (by assumption) ?_ | refine Keeps.snd_eq (by assumption) ?_ | exact fun e => Bool.noConfusion e |
      exact fun _ => ⟨rfl, rfl⟩ | (intro _; constructor <;> split <;> rfl) | exact fun _ _ => rfl | exact fun _ h => h |
      apply State.takeBack_keeps | split | intro _)

theorem State.cardsAfterFence_keeps {x1 : Nat} (h : Keeps p q w y s t) :
    Keeps p q w y s (@State.cardsAfterFence t x1) := by
  unfold State.cardsAfterFence
  try dsimp only
  repeat' (with_reducible
    first | assumption | refine Keeps.each ?_ (fun _ _ _ => ?_) | apply State.startCards_keeps | apply State.sendCard_keeps |
      split)

theorem execDistrictResetDone_keeps {x0 : Fin 4} (h : Keeps p q false false s t) :
    ∀ u, @execDistrictResetDone x0 t = .next u → Keeps p q false false s u := by
  intro u hu
  unfold execDistrictResetDone at hu
  try dsimp only at hu
  repeat' (first | contradiction | (injection hu with hu; subst hu) | split at hu)
  repeat' (with_reducible
    first | assumption | apply State.dropImage_keeps | apply State.modFlt_keeps | apply State.notice_keeps |
      apply State.cardsAfterFence_keeps | split)

theorem execRollfwdEnd_keeps {x0 : Fin 4} (h : Keeps p q w y s t) :
    ∀ u, @execRollfwdEnd x0 t = .next u → Keeps p q w y s u := by
  intro u hu
  unfold execRollfwdEnd at hu
  try dsimp only at hu
  repeat' (first | contradiction | (injection hu with hu; subst hu) | split at hu)
  repeat' (with_reducible
    first | assumption | apply State.dropMaxima_keeps | apply State.swapSlots_keeps | apply State.modFlt_keeps | split)

theorem State.recordFault_keeps {x1 x2 : Nat} (h : Keeps p q w y s t) :
    Keeps p q w y s (@State.recordFault t x1 x2) := by
  unfold State.recordFault
  try dsimp only
  repeat' (with_reducible first | assumption | apply State.fence_keeps)

theorem execMirrorRecord_keeps {x0 : Nat} (h : Keeps p q false y s t) :
    ∀ u, @execMirrorRecord x0 t = .next u → Keeps p q false y s u := by
  intro u hu
  unfold execMirrorRecord at hu
  try dsimp only at hu
  repeat' (first | contradiction | (injection hu with hu; subst hu) | split at hu)
  repeat' (with_reducible
    first | assumption | apply State.recordFault_keeps | apply State.move_keeps | apply State.store_keeps |
      apply State.release_keeps | apply State.modMir_keeps | split)

theorem State.restoreOne_keeps {x1 x2 x3 : Nat} (h : Keeps p q false y s t) :
    ∀ u, @State.restoreOne t x1 x2 x3 = some u → Keeps p q false y s u := by
  intro u hu
  unfold State.restoreOne at hu
  try dsimp only at hu
  repeat' (first | contradiction | (injection hu with hu; subst hu) | split at hu)
  repeat' (with_reducible
    first | assumption | refine Keeps.each ?_ (fun _ _ _ => ?_) | apply State.modSlot_keeps | apply State.modFlt_keeps |
      apply State.move_keeps)

theorem execRestoreRecord_keeps {x0 : Nat} (h : Keeps p q false y s t) :
    ∀ u, @execRestoreRecord x0 t = .next u → Keeps p q false y s u := by
  intro u hu
  unfold execRestoreRecord at hu
  try dsimp only at hu
  repeat' (first | contradiction | (injection hu with hu; subst hu) | split at hu)
  repeat' (with_reducible
    first | assumption | apply State.recordFault_keeps | refine State.restoreOne_keeps ?_ _ (by assumption) |
      apply State.release_keeps | apply State.modFlt_keeps | split)

end Sys2Proof.Machine
end

