-- ==== Sys2Proof/Laws/KeepsHost.lean ====
section
/-! SUPPORT. What the operations and meanings keep: host requests, host commands and tiles. -/

namespace Sys2Proof.Machine

variable {p q w y : Bool} {s t : State}

theorem State.modHostPort_keeps {x1 : Nat} {x2 : HostPort → HostPort} (h : Keeps p q w y s t) :
    Keeps p q w y s (@State.modHostPort t x1 x2) := by
  unfold State.modHostPort
  try dsimp only
  repeat' (with_reducible
    first | assumption |
      ((conv => arg 6; arg 24); first | apply Keeps.lit | apply Keeps.litP | apply Keeps.litO | apply Keeps.litPO | apply Keeps.litW))

theorem State.modQp_keeps {x1 x2 : Nat} {x3 : Qp → Qp} (h : Keeps p q w y s t) :
    Keeps p q w y s (@State.modQp t x1 x2 x3) := by
  unfold State.modQp
  try dsimp only
  repeat' (with_reducible first | assumption | apply State.modHostPort_keeps | split)

theorem State.giveAnswer_keeps {x1 : Nat} {x2 : Answer} (h : Keeps p q w y s t) :
    Keeps p q w y s (@State.giveAnswer t x1 x2) := by
  unfold State.giveAnswer
  try dsimp only
  repeat' (with_reducible
    first | assumption | apply State.count_keeps | apply State.modHostPort_keeps | apply State.emit_keeps | split)

theorem State.arrived_keeps {x1 x2 x3 : Nat} {x4 : Bool} (h : Keeps p q w y s t) :
    Keeps p q w y s (@State.arrived t x1 x2 x3 x4) := by
  unfold State.arrived
  try dsimp only
  repeat' (with_reducible
    first | assumption | apply State.count_keeps | apply State.emit_keeps | apply State.modQp_keeps | split)

theorem State.request_keeps {x1 x2 x3 : Nat} {x4 : Bool} {x5 : Nat → State → State × Status × Option (List Byte)}
    (h : Keeps p q w y s t) (hx5 : ∀ y0 u, Keeps p q w y s u → Keeps p q w y s (x5 y0 u).1) :
    Keeps p q w y s (@State.request t x1 x2 x3 x4 x5) := by
  unfold State.request
  try dsimp only
  repeat' (with_reducible first | assumption | apply hx5 | apply State.arrived_keeps | apply State.giveAnswer_keeps | split)

theorem State.rdmaPut_keeps {x4 : List Byte} (h : Keeps p q false y s t) :
    Keeps p q false y s (@State.rdmaPut t x1 x2 x3 x4).1 := by
  unfold State.rdmaPut
  refine Keeps.ite1 h (Keeps.ite1 h (Keeps.ite1 h (Keeps.ite1 ?_ ?_)))
  · split
    · exact State.csrWrite_keeps h
    · exact h
  · exact State.wroteLines_keeps (State.write_keeps h)

theorem execRdmaWrite_keeps {x0 : Fin 4} {x1 x2 x3 : Nat} {x4 : List Byte} {x5 : Bool} (h : Keeps p q false y s t) :
    ∀ u, @execRdmaWrite x0 x1 x2 x3 x4 x5 t = .next u → Keeps p q false y s u := by
  intro u hu
  unfold execRdmaWrite at hu
  try dsimp only at hu
  repeat' (first | contradiction | (injection hu with hu; subst hu) | split at hu)
  repeat' (with_reducible first | assumption | apply State.request_keeps | apply State.rdmaPut_keeps | intro _)

theorem State.immediateTail_keeps {x1 x2 x3 : Nat} (h : Keeps p q w y s t) :
    Keeps p q w y s (@State.immediateTail t x1 x2 x3) := by
  unfold State.immediateTail
  try dsimp only
  repeat' (with_reducible first | assumption | apply State.notice_keeps | apply State.modHost_keeps | split)

theorem execRdmaWriteImm_keeps {x0 : Fin 4} {x1 x2 x3 : Nat} {x4 : List Byte} {x5 : W32} {x6 : Bool} (h : Keeps p q false y s t) :
    ∀ u, @execRdmaWriteImm x0 x1 x2 x3 x4 x5 x6 t = .next u → Keeps p q false y s u := by
  intro u hu
  unfold execRdmaWriteImm at hu
  try dsimp only at hu
  repeat' (first | contradiction | (injection hu with hu; subst hu) | split at hu)
  repeat' (with_reducible
    first | assumption | apply State.request_keeps | apply State.rdmaPut_keeps | apply State.immediateTail_keeps | split |
      intro _)

theorem execRdmaRead_keeps {x0 : Fin 4} {x1 x2 x3 x4 : Nat} {x5 : Bool} (h : Keeps p q w y s t) :
    ∀ u, @execRdmaRead x0 x1 x2 x3 x4 x5 t = .next u → Keeps p q w y s u := by
  intro u hu
  unfold execRdmaRead at hu
  try dsimp only at hu
  repeat' (first | contradiction | (injection hu with hu; subst hu) | split at hu)
  repeat' (with_reducible first | assumption | apply State.request_keeps | intro _ | split)

theorem State.appendEntries_keeps {x1 : Nat} {x2 : List Byte} (h : Keeps p q false y s t) :
    Keeps p q false y s (@State.appendEntries t x1 x2).1 := by
  unfold State.appendEntries
  try dsimp only
  repeat' (with_reducible
    first | assumption | refine Keeps.each ?_ (fun _ _ _ => ?_) | apply State.store_keeps | apply State.modHost_keeps | split)

theorem execRoceSend_keeps {x0 : Fin 4} {x1 : Nat} {x2 : Option (List Byte)} {x3 : Bool} (h : Keeps p q false y s t) :
    ∀ u, @execRoceSend x0 x1 x2 x3 t = .next u → Keeps p q false y s u := by
  intro u hu
  unfold execRoceSend at hu
  try dsimp only at hu
  repeat' (first | contradiction | (injection hu with hu; subst hu) | split at hu)
  repeat' (with_reducible first | assumption | apply State.request_keeps | apply State.appendEntries_keeps | intro _ | split)

theorem execCmReq_keeps {x0 : Fin 4} {x1 : Nat} (h : Keeps p q w y s t) :
    ∀ u, @execCmReq x0 x1 t = .next u → Keeps p q w y s u := by
  intro u hu
  unfold execCmReq at hu
  try dsimp only at hu
  repeat' (first | contradiction | (injection hu with hu; subst hu) | split at hu)
  repeat' (with_reducible
    first | assumption | apply State.emit_keeps | apply State.modHostPort_keeps | apply State.count_keeps | split)

theorem execCmRtu_keeps {x0 : Fin 4} {x1 : Nat} (h : Keeps p q w y s t) :
    ∀ u, @execCmRtu x0 x1 t = .next u → Keeps p q w y s u := by
  intro u hu
  unfold execCmRtu at hu
  try dsimp only at hu
  repeat' (first | contradiction | (injection hu with hu; subst hu) | split at hu)
  repeat' (with_reducible first | assumption | apply State.modQp_keeps | split)

theorem execCmDreq_keeps {x0 : Fin 4} {x1 : Nat} (h : Keeps p q w y s t) :
    ∀ u, @execCmDreq x0 x1 t = .next u → Keeps p q w y s u := by
  intro u hu
  unfold execCmDreq at hu
  try dsimp only at hu
  repeat' (first | contradiction | (injection hu with hu; subst hu) | split at hu)
  repeat' (with_reducible first | assumption | apply State.emit_keeps | apply State.modHostPort_keeps | split)

theorem execCnp_keeps {x0 : Fin 4} {x1 : Nat} (h : Keeps p q w y s t) :
    ∀ u, @execCnp x0 x1 t = .next u → Keeps p q w y s u := by
  intro u hu
  unfold execCnp at hu
  try dsimp only at hu
  repeat' (first | contradiction | (injection hu with hu; subst hu) | split at hu)
  repeat' (with_reducible first | assumption | apply State.modQp_keeps | apply State.count_keeps | split)

theorem execRateIncreaseTimer_keeps {x0 : Fin 4} {x1 : Nat} (h : Keeps p q w y s t) :
    ∀ u, @execRateIncreaseTimer x0 x1 t = .next u → Keeps p q w y s u := by
  intro u hu
  unfold execRateIncreaseTimer at hu
  try dsimp only at hu
  repeat' (first | contradiction | (injection hu with hu; subst hu) | split at hu)
  repeat' (with_reducible first | assumption | apply State.modQp_keeps)

theorem execPfcPause_keeps {x0 : Fin 4} {x1 : Nat} (h : Keeps p q w y s t) :
    ∀ u, @execPfcPause x0 x1 t = .next u → Keeps p q w y s u := by
  intro u hu
  unfold execPfcPause at hu
  try dsimp only at hu
  repeat' (first | contradiction | (injection hu with hu; subst hu) | split at hu)
  repeat' (with_reducible first | assumption | apply State.count_keeps | apply State.modHostPort_keeps | split)

theorem execPfcPauseExpiry_keeps {x0 : Fin 4} {x1 : Nat} (h : Keeps p q w y s t) :
    ∀ u, @execPfcPauseExpiry x0 x1 t = .next u → Keeps p q w y s u := by
  intro u hu
  unfold execPfcPauseExpiry at hu
  try dsimp only at hu
  repeat' (first | contradiction | (injection hu with hu; subst hu) | split at hu)
  repeat' (with_reducible
    first | assumption | refine Keeps.each ?_ (fun _ _ _ => ?_) | apply State.modHostPort_keeps | apply State.count_keeps |
      apply State.emit_keeps | split)

theorem execPfcPauseTimeout_keeps {x0 : Fin 4} {x1 : Nat} (h : Keeps p q w y s t) :
    ∀ u, @execPfcPauseTimeout x0 x1 t = .next u → Keeps p q w y s u := by
  intro u hu
  unfold execPfcPauseTimeout at hu
  try dsimp only at hu
  repeat' (first | contradiction | (injection hu with hu; subst hu) | split at hu)
  repeat' (with_reducible
    first | assumption | apply State.modHostPort_keeps | apply State.notice_keeps | apply State.count_keeps | split)

theorem execHostLinkUp_keeps {x0 : Fin 4} (h : Keeps p q w y s t) :
    ∀ u, @execHostLinkUp x0 t = .next u → Keeps p q w y s u := by
  intro u hu
  unfold execHostLinkUp at hu
  try dsimp only at hu
  repeat' (first | contradiction | (injection hu with hu; subst hu) | split at hu)
  repeat' (with_reducible first | assumption | apply State.modHostPort_keeps | split)

theorem execHostLinkDown_keeps {x0 : Fin 4} (h : Keeps p q w y s t) :
    ∀ u, @execHostLinkDown x0 t = .next u → Keeps p q w y s u := by
  intro u hu
  unfold execHostLinkDown at hu
  try dsimp only at hu
  repeat' (first | contradiction | (injection hu with hu; subst hu) | split at hu)
  repeat' (with_reducible first | assumption | apply State.modHostPort_keeps)

theorem execNeighbourDiscovery_keeps {x0 : Fin 4} {x1 : Nat} (h : Keeps p q w y s t) :
    ∀ u, @execNeighbourDiscovery x0 x1 t = .next u → Keeps p q w y s u := by
  intro u hu
  unfold execNeighbourDiscovery at hu
  try dsimp only at hu
  repeat' (first | contradiction | (injection hu with hu; subst hu) | split at hu)
  repeat' (with_reducible first | assumption | apply State.emit_keeps | split)

theorem execCommandStart_keeps {x0 : Fin 4} (h : Keeps p q w y s t) :
    ∀ u, @execCommandStart x0 t = .next u → Keeps p q w y s u := by
  intro u hu
  unfold execCommandStart at hu
  try dsimp only at hu
  repeat' (first | contradiction | (injection hu with hu; subst hu) | split at hu)
  repeat' (with_reducible first | assumption | apply State.modHost_keeps | apply State.finishCmd_keeps | split)

theorem State.cmdStage_keeps {x1 x2 x3 : Nat} (h : Keeps p q w y s t) :
    Keeps p q w y s (@State.cmdStage t x1 x2 x3) := by
  unfold State.cmdStage
  try dsimp only
  repeat' (with_reducible first | assumption | apply State.modHost_keeps | split)

theorem execNop_keeps {x0 : Fin 4} {x1 : Nat} (h : Keeps p q w y s t) :
    ∀ u, @execNop x0 x1 t = .next u → Keeps p q w y s u := by
  intro u hu
  unfold execNop at hu
  try dsimp only at hu
  repeat' (first | contradiction | (injection hu with hu; subst hu) | split at hu)
  repeat' (with_reducible first | assumption | apply State.finishCmd_keeps | split)

theorem State.cmdCopy_keeps {x1 x2 x3 : Nat} (h : Keeps p q false y s t) :
    Keeps p q false y s (@State.cmdCopy t x1 x2 x3) := by
  unfold State.cmdCopy
  try dsimp only
  repeat' (with_reducible
    first | assumption | apply State.finishCmd_keeps | apply State.wroteLines_keeps | apply State.write_keeps |
      apply State.enqueue_keeps | apply State.cmdStage_keeps | split)

theorem execCopy_keeps {x0 : Fin 4} {x1 : Nat} (h : Keeps p q false y s t) :
    ∀ u, @execCopy x0 x1 t = .next u → Keeps p q false y s u := by
  intro u hu
  unfold execCopy at hu
  try dsimp only at hu
  repeat' (first | contradiction | (injection hu with hu; subst hu) | split at hu)
  repeat' (with_reducible first | assumption | apply State.cmdCopy_keeps | split)

theorem State.cmdMsg_keeps {x1 x2 x3 : Nat} (h : Keeps p q w y s t) :
    Keeps p q w y s (@State.cmdMsg t x1 x2 x3) := by
  unfold State.cmdMsg
  try dsimp only
  repeat' (with_reducible
    first | assumption | apply State.finishCmd_keeps | apply State.giveMessage_keeps | apply State.cmdStage_keeps | split)

theorem execMsg_keeps {x0 : Fin 4} {x1 : Nat} (h : Keeps p q w y s t) :
    ∀ u, @execMsg x0 x1 t = .next u → Keeps p q w y s u := by
  intro u hu
  unfold execMsg at hu
  try dsimp only at hu
  repeat' (first | contradiction | (injection hu with hu; subst hu) | split at hu)
  repeat' (with_reducible first | assumption | apply State.cmdMsg_keeps | split)

theorem State.windowOpen_keeps {x1 x2 x3 : Nat} (h : Keeps p q w false s t) :
    Keeps p q w false s (@State.windowOpen t x1 x2 x3) := by
  unfold State.windowOpen
  try dsimp only
  repeat' (with_reducible
    first | assumption | apply Keeps.ite | apply Keeps.ite1 | apply Keeps.ite2 | refine Keeps.each ?_ (fun _ _ _ => ?_) |
      refine Keeps.foldl ?_ (fun _ _ _ => ?_) | refine Keeps.foldl1 ?_ (fun _ _ _ => ?_) |
      refine Keeps.foldl2 ?_ (fun _ _ _ => ?_) | apply State.finishCmd_keeps |
      ((conv => arg 6; arg 24); first | apply Keeps.lit | apply Keeps.litP | apply Keeps.litO | apply Keeps.litPO | apply Keeps.litW) |
      refine Keeps.fst_eq (by assumption) ?_ | refine Keeps.snd_eq (by assumption) ?_ | exact fun e => Bool.noConfusion e |
      exact fun _ => ⟨rfl, rfl⟩ | (intro _; constructor <;> split <;> rfl) | exact fun _ _ => rfl | exact fun _ h => h |
      split | intro _)

theorem execWindowOpen_keeps {x0 : Fin 4} {x1 : Nat} (h : Keeps p q w false s t) :
    ∀ u, @execWindowOpen x0 x1 t = .next u → Keeps p q w false s u := by
  intro u hu
  unfold execWindowOpen at hu
  try dsimp only at hu
  repeat' (first | contradiction | (injection hu with hu; subst hu) | split at hu)
  repeat' (with_reducible
    first | assumption | apply Keeps.ite | apply Keeps.ite1 | apply Keeps.ite2 | refine Keeps.each ?_ (fun _ _ _ => ?_) |
      refine Keeps.foldl ?_ (fun _ _ _ => ?_) | refine Keeps.foldl1 ?_ (fun _ _ _ => ?_) |
      refine Keeps.foldl2 ?_ (fun _ _ _ => ?_) | apply State.windowOpen_keeps |
      ((conv => arg 6; arg 24); first | apply Keeps.lit | apply Keeps.litP | apply Keeps.litO | apply Keeps.litPO | apply Keeps.litW) |
      refine Keeps.fst_eq (by assumption) ?_ | refine Keeps.snd_eq (by assumption) ?_ | exact fun e => Bool.noConfusion e |
      exact fun _ => ⟨rfl, rfl⟩ | (intro _; constructor <;> split <;> rfl) | exact fun _ _ => rfl | exact fun _ h => h |
      split | intro _)

theorem State.windowClose_keeps {x1 x2 x3 : Nat} (h : Keeps p q w false s t) :
    Keeps p q w false s (@State.windowClose t x1 x2 x3) := by
  unfold State.windowClose
  try dsimp only
  repeat' (with_reducible
    first | assumption | apply Keeps.ite | apply Keeps.ite1 | apply Keeps.ite2 | refine Keeps.each ?_ (fun _ _ _ => ?_) |
      refine Keeps.foldl ?_ (fun _ _ _ => ?_) | refine Keeps.foldl1 ?_ (fun _ _ _ => ?_) |
      refine Keeps.foldl2 ?_ (fun _ _ _ => ?_) | apply State.finishCmd_keeps |
      ((conv => arg 6; arg 24); first | apply Keeps.lit | apply Keeps.litP | apply Keeps.litO | apply Keeps.litPO | apply Keeps.litW) |
      refine Keeps.fst_eq (by assumption) ?_ | refine Keeps.snd_eq (by assumption) ?_ | exact fun e => Bool.noConfusion e |
      exact fun _ => ⟨rfl, rfl⟩ | (intro _; constructor <;> split <;> rfl) | exact fun _ _ => rfl | exact fun _ h => h |
      split | intro _)

theorem execWindowClose_keeps {x0 : Fin 4} {x1 : Nat} (h : Keeps p q w false s t) :
    ∀ u, @execWindowClose x0 x1 t = .next u → Keeps p q w false s u := by
  intro u hu
  unfold execWindowClose at hu
  try dsimp only at hu
  repeat' (first | contradiction | (injection hu with hu; subst hu) | split at hu)
  repeat' (with_reducible
    first | assumption | apply Keeps.ite | apply Keeps.ite1 | apply Keeps.ite2 | refine Keeps.each ?_ (fun _ _ _ => ?_) |
      refine Keeps.foldl ?_ (fun _ _ _ => ?_) | refine Keeps.foldl1 ?_ (fun _ _ _ => ?_) |
      refine Keeps.foldl2 ?_ (fun _ _ _ => ?_) | apply State.windowClose_keeps |
      ((conv => arg 6; arg 24); first | apply Keeps.lit | apply Keeps.litP | apply Keeps.litO | apply Keeps.litPO | apply Keeps.litW) |
      refine Keeps.fst_eq (by assumption) ?_ | refine Keeps.snd_eq (by assumption) ?_ | exact fun e => Bool.noConfusion e |
      exact fun _ => ⟨rfl, rfl⟩ | (intro _; constructor <;> split <;> rfl) | exact fun _ _ => rfl | exact fun _ h => h |
      split | intro _)

theorem execCsrRead_keeps {x0 : Fin 4} {x1 : Nat} (h : Keeps p q w y s t) :
    ∀ u, @execCsrRead x0 x1 t = .next u → Keeps p q w y s u := by
  intro u hu
  unfold execCsrRead at hu
  try dsimp only at hu
  repeat' (first | contradiction | (injection hu with hu; subst hu) | split at hu)
  repeat' (with_reducible first | assumption | apply State.finishCmd_keeps | split)

theorem execCsrWrite_keeps {x0 : Fin 4} {x1 : Nat} (h : Keeps p q w y s t) :
    ∀ u, @execCsrWrite x0 x1 t = .next u → Keeps p q w y s u := by
  intro u hu
  unfold execCsrWrite at hu
  try dsimp only at hu
  repeat' (first | contradiction | (injection hu with hu; subst hu) | split at hu)
  repeat' (with_reducible first | assumption | apply State.csrWrite_keeps | apply State.finishCmd_keeps | split)

theorem execWaitOrbit_keeps {x0 : Fin 4} {x1 : Nat} (h : Keeps p q w y s t) :
    ∀ u, @execWaitOrbit x0 x1 t = .next u → Keeps p q w y s u := by
  intro u hu
  unfold execWaitOrbit at hu
  try dsimp only at hu
  repeat' (first | contradiction | (injection hu with hu; subst hu) | split at hu)
  repeat' (with_reducible first | assumption | apply State.finishCmd_keeps | apply State.cmdStage_keeps | split)

theorem execCompletionPost_keeps {x0 : Fin 4} (h : Keeps p q false y s t) :
    ∀ u, @execCompletionPost x0 t = .next u → Keeps p q false y s u := by
  intro u hu
  unfold execCompletionPost at hu
  try dsimp only at hu
  repeat' (first | contradiction | (injection hu with hu; subst hu) | split at hu)
  repeat' (with_reducible
    first | assumption | apply State.wroteLines_keeps | apply State.store_keeps | apply State.countDist_keeps |
      apply State.modHost_keeps | split)

theorem State.cmdTile_keeps {x1 x2 x3 : Nat} (h : Keeps p q w y s t) :
    Keeps p q w y s (@State.cmdTile t x1 x2 x3) := by
  unfold State.cmdTile
  try dsimp only
  repeat' (with_reducible first | assumption | apply State.finishCmd_keeps | apply State.cmdStage_keeps | split)

theorem execTile_keeps {x0 : Fin 4} {x1 : Nat} (h : Keeps p q w y s t) :
    ∀ u, @execTile x0 x1 t = .next u → Keeps p q w y s u := by
  intro u hu
  unfold execTile at hu
  try dsimp only at hu
  repeat' (first | contradiction | (injection hu with hu; subst hu) | split at hu)
  repeat' (with_reducible first | assumption | apply State.cmdTile_keeps | split)

theorem execTileDispatch_keeps {x0 : Fin 4} {x1 : Nat} (h : Keeps p q false y s t) :
    ∀ u, @execTileDispatch x0 x1 t = .next u → Keeps p q false y s u := by
  intro u hu
  unfold execTileDispatch at hu
  try dsimp only at hu
  repeat' (first | contradiction | (injection hu with hu; subst hu) | split at hu)
  repeat' (with_reducible
    first | assumption | apply State.move_keeps | apply State.count_keeps | apply State.modCore_keeps |
      apply State.cmdStage_keeps | split)

theorem State.cutCopy_keeps {x1 : Nat} (h : Keeps p q false y s t) :
    Keeps p q false y s (@State.cutCopy t x1) := by
  unfold State.cutCopy
  try dsimp only
  repeat' (with_reducible
    first | assumption | apply State.draw_keeps | apply State.wroteLines_keeps | apply State.copy_keeps | split)

theorem execTileStop_keeps {x0 : Fin 512} (h : Keeps p q false y s t) :
    ∀ u, @execTileStop x0 t = .next u → Keeps p q false y s u := by
  intro u hu
  unfold execTileStop at hu
  try dsimp only at hu
  repeat' (first | contradiction | (injection hu with hu; subst hu) | split at hu)
  repeat' (with_reducible
    first | assumption | apply State.cutCopy_keeps | apply State.notice_keeps | apply State.modHost_keeps |
      apply State.abandonTile_keeps | split)

theorem execTileOutDone_keeps {x0 : Fin 4} {x1 : Nat} (h : Keeps p q false y s t) :
    ∀ u, @execTileOutDone x0 x1 t = .next u → Keeps p q false y s u := by
  intro u hu
  unfold execTileOutDone at hu
  try dsimp only at hu
  repeat' (first | contradiction | (injection hu with hu; subst hu) | split at hu)
  repeat' (with_reducible
    first | assumption | apply State.modHost_keeps | apply State.wroteLines_keeps | apply State.write_keeps |
      apply State.finishCmd_keeps | split)

end Sys2Proof.Machine
end

