-- ==== Sys2Proof/Laws/KeepsModule.lean ====
section
/-! SUPPORT. What the operations and meanings keep: power, resets and Moon. -/

namespace Sys2Proof.Machine

variable {p q w y : Bool} {s t : State}

theorem State.modPwr_keeps {f : Power → Power} (h : Keeps p q w y s t)
    (hf : p = true → t.pwr.halted = true → (f t.pwr).halted = true) : Keeps p q w y s (@State.modPwr t f) :=
  h.trans ⟨rfl, id, hf, fun _ => ⟨rfl, rfl⟩, fun _ => rfl, fun _ => rfl⟩

theorem State.trip_keeps {x1 x2 : Nat} (h : Keeps p q w y s t) :
    Keeps p q w y s (@State.trip t x1 x2) := by
  unfold State.trip
  try dsimp only
  repeat' (with_reducible first | assumption | apply State.modPwr_keeps | apply State.halt_keeps | split | intro _)

theorem execLossOfTick_keeps {x0 : Bool} (h : Keeps p false w y s t) :
    ∀ u, @execLossOfTick x0 t = .next u → Keeps p false w y s u := by
  intro u hu
  unfold execLossOfTick at hu
  try dsimp only at hu
  repeat' (first | contradiction | (injection hu with hu; subst hu) | split at hu)
  repeat' (with_reducible first | assumption | apply State.trip_keeps | apply State.stopCounting_keeps | split)

theorem execDieHot_keeps (h : Keeps p q w y s t) :
    ∀ u, @execDieHot t = .next u → Keeps p q w y s u := by
  intro u hu
  unfold execDieHot at hu
  try dsimp only at hu
  repeat' (first | contradiction | (injection hu with hu; subst hu) | split at hu)
  repeat' (with_reducible first | assumption | apply State.trip_keeps)

theorem execDieCrit_keeps (h : Keeps p q w y s t) :
    ∀ u, @execDieCrit t = .next u → Keeps p q w y s u := by
  intro u hu
  unfold execDieCrit at hu
  try dsimp only at hu
  repeat' (first | contradiction | (injection hu with hu; subst hu) | split at hu)
  repeat' (with_reducible first | assumption | apply State.modPwr_keeps | apply State.trip_keeps | split | intro _)

theorem execVinUv_keeps (h : Keeps p q w y s t) :
    ∀ u, @execVinUv t = .next u → Keeps p q w y s u := by
  intro u hu
  unfold execVinUv at hu
  try dsimp only at hu
  repeat' (first | contradiction | (injection hu with hu; subst hu) | split at hu)
  repeat' (with_reducible first | assumption | apply State.trip_keeps)

theorem execVinOv_keeps (h : Keeps p q w y s t) :
    ∀ u, @execVinOv t = .next u → Keeps p q w y s u := by
  intro u hu
  unfold execVinOv at hu
  try dsimp only at hu
  repeat' (first | contradiction | (injection hu with hu; subst hu) | split at hu)
  repeat' (with_reducible first | assumption | apply State.trip_keeps)

theorem execCoolant_keeps (h : Keeps p q w y s t) :
    ∀ u, @execCoolant t = .next u → Keeps p q w y s u := by
  intro u hu
  unfold execCoolant at hu
  try dsimp only at hu
  repeat' (first | contradiction | (injection hu with hu; subst hu) | split at hu)
  repeat' (with_reducible first | assumption | apply State.trip_keeps)

theorem State.cleared_keeps {x1 : Bool} (h : Keeps false false false false s t) :
    Keeps false false false false s (@State.cleared t x1) :=
  h.trans ⟨by cases x1 <;> rfl, fun hw => by cases x1; exact Memory.wf_nil; exact Memory.wf_filter (fun c => !isSram c.1) hw,
    nofun, nofun, nofun, nofun⟩

theorem State.coldReset_keeps {x1 : Nat} (h : Keeps false false false false s t) :
    Keeps false false false false s (@State.coldReset t x1) := by
  unfold State.coldReset
  try dsimp only
  repeat' (with_reducible first | assumption | apply State.modPwr_keeps | apply State.cleared_keeps | intro _ | split)

theorem State.powerOff_keeps {x1 : Nat} (h : Keeps false false false false s t) :
    Keeps false false false false s (@State.powerOff t x1) := by
  unfold State.powerOff
  try dsimp only
  repeat' (with_reducible first | assumption | apply State.modPwr_keeps | apply State.cleared_keeps | intro _)

theorem execDieCritPowerOff_keeps (h : Keeps false false false false s t) :
    ∀ u, @execDieCritPowerOff t = .next u → Keeps false false false false s u := by
  intro u hu
  unfold execDieCritPowerOff at hu
  try dsimp only at hu
  repeat' (first | contradiction | (injection hu with hu; subst hu) | split at hu)
  repeat' (with_reducible first | assumption | apply State.powerOff_keeps | split)

theorem execInputBelow36v_keeps (h : Keeps false false false false s t) :
    ∀ u, @execInputBelow36v t = .next u → Keeps false false false false s u := by
  intro u hu
  unfold execInputBelow36v at hu
  try dsimp only at hu
  repeat' (first | contradiction | (injection hu with hu; subst hu) | split at hu)
  repeat' (with_reducible first | assumption | apply State.powerOff_keeps | split)

theorem execInputRise39v_keeps (h : Keeps false false false false s t) :
    ∀ u, @execInputRise39v t = .next u → Keeps false false false false s u := by
  intro u hu
  unfold execInputRise39v at hu
  try dsimp only at hu
  repeat' (first | contradiction | (injection hu with hu; subst hu) | split at hu)
  repeat' (with_reducible first | assumption | apply State.coldReset_keeps | split)

theorem execPorstN_keeps {x0 : Nat} (h : Keeps false false false false s t) :
    ∀ u, @execPorstN x0 t = .next u → Keeps false false false false s u := by
  intro u hu
  unfold execPorstN at hu
  try dsimp only at hu
  repeat' (first | contradiction | (injection hu with hu; subst hu) | split at hu)
  repeat' (with_reducible first | assumption | apply State.coldReset_keeps | apply State.draw_keeps | split)

theorem execJtagTrstN_keeps {x0 : Bool} (h : Keeps p q w y s t) :
    ∀ u, @execJtagTrstN x0 t = .next u → Keeps p q w y s u := by
  intro u hu
  unfold execJtagTrstN at hu
  try dsimp only at hu
  repeat' (first | contradiction | (injection hu with hu; subst hu) | split at hu)
  repeat' (with_reducible
    first | assumption |
      ((conv => arg 6; arg 24); first | apply Keeps.lit | apply Keeps.litP | apply Keeps.litO | apply Keeps.litPO | apply Keeps.litW))

theorem execWarmResetBegin_keeps (h : Keeps false false false false s t) :
    ∀ u, @execWarmResetBegin t = .next u → Keeps false false false false s u := by
  intro u hu
  unfold execWarmResetBegin at hu
  try dsimp only at hu
  repeat' (first | contradiction | (injection hu with hu; subst hu) | split at hu)
  repeat' (with_reducible first | assumption | apply State.modPwr_keeps | apply State.cleared_keeps | split | intro _)

theorem execIslandPowerUp_keeps (h : Keeps false false false false s t) :
    ∀ u, @execIslandPowerUp t = .next u → Keeps false false false false s u := by
  intro u hu
  unfold execIslandPowerUp at hu
  try dsimp only at hu
  repeat' (first | contradiction | (injection hu with hu; subst hu) | split at hu)
  repeat' (with_reducible
    first | assumption | apply State.modPwr_keeps | apply State.cleared_keeps |
      ((conv => arg 6; arg 24); first | apply Keeps.lit | apply Keeps.litP | apply Keeps.litO | apply Keeps.litPO | apply Keeps.litW) |
      split | intro _)

theorem execIslandPowerLoss_keeps (h : Keeps false false false false s t) :
    ∀ u, @execIslandPowerLoss t = .next u → Keeps false false false false s u := by
  intro u hu
  unfold execIslandPowerLoss at hu
  try dsimp only at hu
  repeat' (first | contradiction | (injection hu with hu; subst hu) | split at hu)
  repeat' (with_reducible first | assumption | apply State.modPwr_keeps | apply State.cleared_keeps | split | intro _)

theorem State.bootRom_keeps (h : Keeps p q w y s t) :
    Keeps p q w y s (@State.bootRom t) := by
  unfold State.bootRom
  try dsimp only
  repeat' (with_reducible
    first | assumption | apply State.notice_keeps |
      ((conv => arg 6; arg 24); first | apply Keeps.lit | apply Keeps.litP | apply Keeps.litO | apply Keeps.litPO | apply Keeps.litW) |
      apply State.runFirmware_keeps | split)

theorem State.takeStraps_keeps {x1 : List (List Nat)} (h : Keeps p q w y s t) :
    Keeps p q w y s (@State.takeStraps t x1) := by
  unfold State.takeStraps
  try dsimp only
  repeat' (with_reducible first | assumption | apply State.modPwr_keeps | apply State.notice_keeps | split | intro _)

theorem State.eraseKeys_keeps (h : Keeps p q w y s t) :
    Keeps p q w y s (@State.eraseKeys t) := by
  unfold State.eraseKeys
  try dsimp only
  repeat' (with_reducible
    first | assumption | refine Keeps.each ?_ (fun _ _ _ => ?_) | apply State.modImg_keeps |
      ((conv => arg 6; arg 24); first | apply Keeps.lit | apply Keeps.litP | apply Keeps.litO | apply Keeps.litPO | apply Keeps.litW))

theorem State.readFuses_keeps {x1 : Nat} (h : Keeps p q w y s t) :
    Keeps p q w y s (@State.readFuses t x1) := by
  unfold State.readFuses
  try dsimp only
  repeat' (with_reducible
    first | assumption | apply State.eraseKeys_keeps |
      ((conv => arg 6; arg 24); first | apply Keeps.lit | apply Keeps.litP | apply Keeps.litO | apply Keeps.litPO | apply Keeps.litW) |
      split)

theorem State.endBoot_keeps {x1 : Nat} (h : Keeps p q w y s t) :
    Keeps p q w y s (@State.endBoot t x1) := by
  unfold State.endBoot
  try dsimp only
  repeat' (with_reducible
    first | assumption | apply State.bootRom_keeps | apply State.modPwr_keeps | apply State.readFuses_keeps | split |
      intro _)

theorem State.endMemory_keeps {x1 : Nat} (h : Keeps p q w y s t) :
    Keeps p q w y s (@State.endMemory t x1) := by
  unfold State.endMemory
  try dsimp only
  repeat' (with_reducible
    first | assumption |
      ((conv => arg 6; arg 24); first | apply Keeps.lit | apply Keeps.litP | apply Keeps.litO | apply Keeps.litPO | apply Keeps.litW) |
      split | intro _)

theorem execStartupStageEnd_keeps {x0 : StageEnd} (h : Keeps p q w y s t) :
    ∀ u, @execStartupStageEnd x0 t = .next u → Keeps p q w y s u := by
  intro u hu
  unfold execStartupStageEnd at hu
  try dsimp only at hu
  repeat' (first | contradiction | (injection hu with hu; subst hu) | split at hu)
  repeat' (with_reducible
    first | assumption | apply State.modPwr_keeps | apply State.takeStraps_keeps | apply State.endBoot_keeps |
      apply State.endMemory_keeps | split | intro _)

theorem execRailGoodTimeout_keeps {x0 : Nat} (h : Keeps p q false y s t) :
    ∀ u, @execRailGoodTimeout x0 t = .next u → Keeps p q false y s u := by
  intro u hu
  unfold execRailGoodTimeout at hu
  try dsimp only at hu
  repeat' (first | contradiction | (injection hu with hu; subst hu) | split at hu)
  repeat' (with_reducible
    first | assumption | apply State.modPwr_keeps |
      exact h.trans ⟨rfl, fun _ => Memory.wf_nil, fun _ => id, fun _ => ⟨rfl, rfl⟩, nofun, fun _ => rfl⟩ | split | intro _)

theorem execRailRetry_keeps (h : Keeps p q w y s t) :
    ∀ u, @execRailRetry t = .next u → Keeps p q w y s u := by
  intro u hu
  unfold execRailRetry at hu
  try dsimp only at hu
  repeat' (first | contradiction | (injection hu with hu; subst hu) | split at hu)
  repeat' (with_reducible first | assumption | apply State.modPwr_keeps | split | intro _)

theorem State.enterDrowse_keeps (h : Keeps p q false y s t) :
    Keeps p q false y s (@State.enterDrowse t) := by
  unfold State.enterDrowse
  try dsimp only
  repeat' (with_reducible
    first | assumption | apply State.setMem_keeps | exact Memory.wf_filter _ |
      ((conv => arg 6; arg 24); first | apply Keeps.lit | apply Keeps.litP | apply Keeps.litO | apply Keeps.litPO | apply Keeps.litW) |
      intro _)

theorem State.leaveDrowse_keeps (h : Keeps p q w y s t) :
    Keeps p q w y s (@State.leaveDrowse t) := by
  unfold State.leaveDrowse
  try dsimp only
  repeat' (with_reducible
    first | assumption | refine Keeps.each ?_ (fun _ _ _ => ?_) | apply State.sendCard_keeps |
      ((conv => arg 6; arg 24); first | apply Keeps.lit | apply Keeps.litP | apply Keeps.litO | apply Keeps.litPO | apply Keeps.litW) |
      intro _)

theorem State.enterSleep_keeps (h : Keeps false false false false s t) :
    Keeps false false false false s (@State.enterSleep t) := by
  unfold State.enterSleep
  try dsimp only
  repeat' (with_reducible first | assumption | apply State.modPwr_keeps | apply State.cleared_keeps | intro _)

theorem execPowerStateReached_keeps (h : Keeps false false false false s t) :
    ∀ u, @execPowerStateReached t = .next u → Keeps false false false false s u := by
  intro u hu
  unfold execPowerStateReached at hu
  try dsimp only at hu
  repeat' (first | contradiction | (injection hu with hu; subst hu) | split at hu)
  repeat' (with_reducible
    first | assumption | apply State.enterDrowse_keeps | apply State.enterSleep_keeps | apply State.leaveDrowse_keeps | split)

theorem execLaneLockTimeout_keeps {x0 : Fin 24} (h : Keeps p q w y s t) :
    ∀ u, @execLaneLockTimeout x0 t = .next u → Keeps p q w y s u := by
  intro u hu
  unfold execLaneLockTimeout at hu
  try dsimp only at hu
  repeat' (first | contradiction | (injection hu with hu; subst hu) | split at hu)
  repeat' (with_reducible first | assumption | apply State.enterRetrain_keeps | split)

theorem State.modMoon_keeps {x1 : Moon → Moon} (h : Keeps p q w y s t) :
    Keeps p q w y s (@State.modMoon t x1) := by
  unfold State.modMoon
  try dsimp only
  repeat' (with_reducible
    first | assumption |
      ((conv => arg 6; arg 24); first | apply Keeps.lit | apply Keeps.litP | apply Keeps.litO | apply Keeps.litPO | apply Keeps.litW))

theorem State.restartMoon_keeps (h : Keeps p q w y s t) :
    Keeps p q w y s (@State.restartMoon t) := by
  unfold State.restartMoon
  try dsimp only
  repeat' (with_reducible
    first | assumption | refine Keeps.each ?_ (fun _ _ _ => ?_) | apply State.modMoon_keeps | apply State.portNotice_keeps |
      apply State.modPort_keeps | apply State.cutFlash_keeps)

theorem execMoonWatchdogExpiry_keeps {x0 : MoonError} {x1 : Bool} (h : Keeps p q w y s t) :
    ∀ u, @execMoonWatchdogExpiry x0 x1 t = .next u → Keeps p q w y s u := by
  intro u hu
  unfold execMoonWatchdogExpiry at hu
  try dsimp only at hu
  repeat' (first | contradiction | (injection hu with hu; subst hu) | split at hu)
  repeat' (with_reducible
    first | assumption | apply State.restartMoon_keeps | apply State.halt_keeps | apply State.notice_keeps | split)

theorem execMoonRestartDone_keeps (h : Keeps p q w y s t) :
    ∀ u, @execMoonRestartDone t = .next u → Keeps p q w y s u := by
  intro u hu
  unfold execMoonRestartDone at hu
  try dsimp only at hu
  repeat' (first | contradiction | (injection hu with hu; subst hu) | split at hu)
  repeat' (with_reducible first | assumption | apply State.bootRom_keeps | split)

theorem execSvnBurn_keeps (h : Keeps p q w y s t) :
    ∀ u, @execSvnBurn t = .next u → Keeps p q w y s u := by
  intro u hu
  unfold execSvnBurn at hu
  try dsimp only at hu
  repeat' (first | contradiction | (injection hu with hu; subst hu) | split at hu)
  repeat' (with_reducible first | assumption | apply State.modMoon_keeps | split)

theorem execPowerLimitCheck_keeps {x0 : Readings} (h : Keeps p q w y s t) :
    ∀ u, @execPowerLimitCheck x0 t = .next u → Keeps p q w y s u := by
  intro u hu
  unfold execPowerLimitCheck at hu
  try dsimp only at hu
  repeat' (first | contradiction | (injection hu with hu; subst hu) | split at hu)
  repeat' (with_reducible first | assumption | apply State.modMoon_keeps | apply State.notice_keeps | split)

theorem State.reply_keeps {x1 : MReq} {x2 : Status} {x3 : List Byte} (h : Keeps p q w y s t) :
    Keeps p q w y s (@State.reply t x1 x2 x3) := by
  unfold State.reply
  try dsimp only
  repeat' (with_reducible first | assumption | apply State.emit_keeps)

theorem State.vendor_keeps {x1 : MReq} {x2 : State → State × Status × List Byte} (h : Keeps p q w y s t)
    (hx2 : ∀ u, Keeps p q w y s u → Keeps p q w y s (x2 u).1) :
    Keeps p q w y s (@State.vendor t x1 x2) := by
  unfold State.vendor
  try dsimp only
  repeat' (with_reducible first | assumption | apply hx2 | apply State.reply_keeps | split)

theorem execGetStatus_keeps {x0 : MReq} (h : Keeps p q w y s t) :
    ∀ u, @execGetStatus x0 t = .next u → Keeps p q w y s u := by
  intro u hu
  unfold execGetStatus at hu
  try dsimp only at hu
  repeat' (first | contradiction | (injection hu with hu; subst hu) | split at hu)
  repeat' (with_reducible first | assumption | apply State.reply_keeps | apply State.vendor_keeps | exact fun _ hu => hu | split)

theorem execOwnerSet_keeps {x0 : MReq} {x1 : List Byte} (h : Keeps p q w y s t) :
    ∀ u, @execOwnerSet x0 x1 t = .next u → Keeps p q w y s u := by
  intro u hu
  unfold execOwnerSet at hu
  try dsimp only at hu
  repeat' (first | contradiction | (injection hu with hu; subst hu) | split at hu)
  repeat' (with_reducible
    first | assumption | apply State.reply_keeps | apply State.modMoon_keeps | apply State.vendor_keeps |
      apply State.saveKeys_keeps | exact fun _ hu => hu | split)

theorem State.define_keeps {x1 : Nat} {x2 : DistrictDef} (h : Keeps p q w false s t) :
    Keeps p q w false s (@State.define t x1 x2) := by
  unfold State.define
  try dsimp only
  repeat' (with_reducible
    first | assumption | apply Keeps.ite | apply Keeps.ite1 | apply Keeps.ite2 | refine Keeps.each ?_ (fun _ _ _ => ?_) |
      refine Keeps.foldl ?_ (fun _ _ _ => ?_) | refine Keeps.foldl1 ?_ (fun _ _ _ => ?_) |
      refine Keeps.foldl2 ?_ (fun _ _ _ => ?_) | apply State.modDist_keeps |
      ((conv => arg 6; arg 24); first | apply Keeps.lit | apply Keeps.litP | apply Keeps.litO | apply Keeps.litPO | apply Keeps.litW) |
      refine Keeps.fst_eq (by assumption) ?_ | refine Keeps.snd_eq (by assumption) ?_ | exact fun e => Bool.noConfusion e |
      exact fun _ => ⟨rfl, rfl⟩ | (intro _; constructor <;> split <;> rfl) | exact fun _ _ => rfl | exact fun _ h => h |
      split | intro _)

theorem State.defineAll_keeps {x1 : List DistrictDef} (h : Keeps p q w false s t) :
    Keeps p q w false s (@State.defineAll t x1) := by
  unfold State.defineAll
  try dsimp only
  repeat' (with_reducible
    first | assumption | refine Keeps.each ?_ (fun _ _ _ => ?_) | apply State.define_keeps |
      ((conv => arg 6; arg 24); first | apply Keeps.lit | apply Keeps.litP | apply Keeps.litO | apply Keeps.litPO | apply Keeps.litW))

theorem execDistrictSet_keeps {x0 : MReq} {x1 : List DistrictDef} (h : Keeps p q w false s t) :
    ∀ u, @execDistrictSet x0 x1 t = .next u → Keeps p q w false s u := by
  intro u hu
  unfold execDistrictSet at hu
  try dsimp only at hu
  repeat' (first | contradiction | (injection hu with hu; subst hu) | split at hu)
  repeat' (with_reducible first | assumption | apply State.vendor_keeps | apply State.defineAll_keeps | split | intro _)

theorem execOwnerClear_keeps {x0 : MReq} (h : Keeps p q w false s t) :
    ∀ u, @execOwnerClear x0 t = .next u → Keeps p q w false s u := by
  intro u hu
  unfold execOwnerClear at hu
  try dsimp only at hu
  repeat' (first | contradiction | (injection hu with hu; subst hu) | split at hu)
  repeat' (with_reducible
    first | assumption | refine Keeps.each ?_ (fun _ _ _ => ?_) | apply State.vendor_keeps | apply State.modMoon_keeps |
      apply State.modImg_keeps | apply State.defineAll_keeps | apply State.saveKeys_keeps | split | intro _)

theorem execDistrictReset_keeps {x0 : MReq} {x1 : Fin 4} (h : Keeps p q w y s t) :
    ∀ u, @execDistrictReset x0 x1 t = .next u → Keeps p q w y s u := by
  intro u hu
  unfold execDistrictReset at hu
  try dsimp only at hu
  repeat' (first | contradiction | (injection hu with hu; subst hu) | split at hu)
  repeat' (with_reducible first | assumption | apply State.vendor_keeps | apply State.districtReset_keeps | intro _)

theorem State.changeKey_keeps {x1 : Nat} {x2 : ImgDist → ImgDist} (h : Keeps p q w y s t) :
    Keeps p q w y s (@State.changeKey t x1 x2).1 := by
  unfold State.changeKey
  try dsimp only
  repeat' (with_reducible first | assumption | apply State.modImg_keeps | apply State.saveKeys_keeps | split)

theorem execKeyRegister_keeps {x0 : MReq} {x1 : Fin 4} {x2 : List Byte} {x3 : W32} (h : Keeps p q w y s t) :
    ∀ u, @execKeyRegister x0 x1 x2 x3 t = .next u → Keeps p q w y s u := by
  intro u hu
  unfold execKeyRegister at hu
  try dsimp only at hu
  repeat' (first | contradiction | (injection hu with hu; subst hu) | split at hu)
  repeat' (with_reducible first | assumption | apply State.vendor_keeps | apply State.changeKey_keeps | split | intro _)

theorem execKeyRevoke_keeps {x0 : MReq} {x1 : Fin 4} (h : Keeps p q w y s t) :
    ∀ u, @execKeyRevoke x0 x1 t = .next u → Keeps p q w y s u := by
  intro u hu
  unfold execKeyRevoke at hu
  try dsimp only at hu
  repeat' (first | contradiction | (injection hu with hu; subst hu) | split at hu)
  repeat' (with_reducible first | assumption | apply State.vendor_keeps | apply State.changeKey_keeps | intro _)

theorem execMoonCsrRead_keeps {x0 : MReq} {x1 : Fin 4} {x2 : Nat} (h : Keeps p q w y s t) :
    ∀ u, @execMoonCsrRead x0 x1 x2 t = .next u → Keeps p q w y s u := by
  intro u hu
  unfold execMoonCsrRead at hu
  try dsimp only at hu
  repeat' (first | contradiction | (injection hu with hu; subst hu) | split at hu)
  repeat' (with_reducible first | assumption | apply State.vendor_keeps | intro _)

theorem execMoonCsrWrite_keeps {x0 : MReq} {x1 : Fin 4} {x2 : Nat} {x3 : W64} (h : Keeps p q w y s t) :
    ∀ u, @execMoonCsrWrite x0 x1 x2 x3 t = .next u → Keeps p q w y s u := by
  intro u hu
  unfold execMoonCsrWrite at hu
  try dsimp only at hu
  repeat' (first | contradiction | (injection hu with hu; subst hu) | split at hu)
  repeat' (with_reducible first | assumption | apply State.vendor_keeps | apply State.csrWrite_keeps | intro _)

theorem execLogRead_keeps {x0 : MReq} {x1 x2 : Nat} (h : Keeps p q w y s t) :
    ∀ u, @execLogRead x0 x1 x2 t = .next u → Keeps p q w y s u := by
  intro u hu
  unfold execLogRead at hu
  try dsimp only at hu
  repeat' (first | contradiction | (injection hu with hu; subst hu) | split at hu)
  repeat' (with_reducible first | assumption | apply State.vendor_keeps | split | intro _)

theorem execSnpRead_keeps {x0 : MReq} {x1 : Fin 4} {x2 x3 : Nat} (h : Keeps p q w y s t) :
    ∀ u, @execSnpRead x0 x1 x2 x3 t = .next u → Keeps p q w y s u := by
  intro u hu
  unfold execSnpRead at hu
  try dsimp only at hu
  repeat' (first | contradiction | (injection hu with hu; subst hu) | split at hu)
  repeat' (with_reducible first | assumption | apply State.vendor_keeps | split | intro _)

theorem execCardGet_keeps {x0 : MReq} (h : Keeps p q w y s t) :
    ∀ u, @execCardGet x0 t = .next u → Keeps p q w y s u := by
  intro u hu
  unfold execCardGet at hu
  try dsimp only at hu
  repeat' (first | contradiction | (injection hu with hu; subst hu) | split at hu)
  repeat' (with_reducible first | assumption | apply State.vendor_keeps | intro _)

theorem execCardRecheck_keeps {x0 : MReq} {x1 : Fin 24} (h : Keeps p q w y s t) :
    ∀ u, @execCardRecheck x0 x1 t = .next u → Keeps p q w y s u := by
  intro u hu
  unfold execCardRecheck at hu
  try dsimp only at hu
  repeat' (first | contradiction | (injection hu with hu; subst hu) | split at hu)
  repeat' (with_reducible first | assumption | apply State.vendor_keeps | apply State.sendCard_keeps | split | intro _)

theorem State.configure_keeps {x1 : ConfigItem} (h : Keeps p q w y s t) :
    Keeps p q w y s (@State.configure t x1) := by
  unfold State.configure
  try dsimp only
  repeat' (with_reducible
    first | assumption | apply State.modMoon_keeps | apply State.modHostPort_keeps |
      ((conv => arg 6; arg 24); first | apply Keeps.lit | apply Keeps.litP | apply Keeps.litO | apply Keeps.litPO | apply Keeps.litW) |
      split)

theorem execConfigSet_keeps {x0 : MReq} {x1 : List ConfigItem} (h : Keeps p q w y s t) :
    ∀ u, @execConfigSet x0 x1 t = .next u → Keeps p q w y s u := by
  intro u hu
  unfold execConfigSet at hu
  try dsimp only at hu
  repeat' (first | contradiction | (injection hu with hu; subst hu) | split at hu)
  repeat' (with_reducible
    first | assumption | refine Keeps.each ?_ (fun _ _ _ => ?_) | apply State.vendor_keeps | apply State.configure_keeps |
      apply State.saveConfig_keeps | split | intro _)

theorem execDebugUnlock_keeps {x0 : MReq} {x1 x2 x3 x4 : Nat} (h : Keeps p q w y s t) :
    ∀ u, @execDebugUnlock x0 x1 x2 x3 x4 t = .next u → Keeps p q w y s u := by
  intro u hu
  unfold execDebugUnlock at hu
  try dsimp only at hu
  repeat' (first | contradiction | (injection hu with hu; subst hu) | split at hu)
  repeat' (with_reducible
    first | assumption | apply State.vendor_keeps | apply State.draw_keeps | apply State.modMoon_keeps |
      apply State.restartMoon_keeps | split | intro _)

theorem State.spdmAnswer_keeps {x1 : Transport} {x2 : Nat} {x3 : List Byte} (h : Keeps p q w y s t) :
    Keeps p q w y s (@State.spdmAnswer t x1 x2 x3) := by
  unfold State.spdmAnswer
  try dsimp only
  repeat' (with_reducible first | assumption | apply State.emit_keeps)

theorem State.spdmError_keeps {x1 : Transport} {x2 : Nat} (h : Keeps p q w y s t) :
    Keeps p q w y s (@State.spdmError t x1 x2) := by
  unfold State.spdmError
  try dsimp only
  repeat' (with_reducible first | assumption | apply State.emit_keeps)

theorem State.spdmAt_keeps {x1 : Transport} {x2 : Nat} {x3 : State → State} (h : Keeps p q w y s t)
    (hx3 : ∀ u, Keeps p q w y s u → Keeps p q w y s (x3 u)) :
    Keeps p q w y s (@State.spdmAt t x1 x2 x3) := by
  unfold State.spdmAt
  try dsimp only
  repeat' (with_reducible first | assumption | apply hx3 | apply State.spdmError_keeps | split)

theorem execGetVersion_keeps {x0 : Transport} (h : Keeps p q w y s t) :
    ∀ u, @execGetVersion x0 t = .next u → Keeps p q w y s u := by
  intro u hu
  unfold execGetVersion at hu
  try dsimp only at hu
  repeat' (first | contradiction | (injection hu with hu; subst hu) | split at hu)
  repeat' (with_reducible
    first | assumption | apply State.spdmAt_keeps | apply State.spdmAnswer_keeps | apply State.modMoon_keeps | intro _)

theorem execGetCapabilities_keeps {x0 : Transport} (h : Keeps p q w y s t) :
    ∀ u, @execGetCapabilities x0 t = .next u → Keeps p q w y s u := by
  intro u hu
  unfold execGetCapabilities at hu
  try dsimp only at hu
  repeat' (first | contradiction | (injection hu with hu; subst hu) | split at hu)
  repeat' (with_reducible
    first | assumption | apply State.spdmAt_keeps | apply State.draw_keeps | apply State.spdmAnswer_keeps |
      apply State.modMoon_keeps | intro _ | apply State.emit_keeps)

theorem execNegotiateAlgorithms_keeps {x0 : Transport} {x1 : Bool} (h : Keeps p q w y s t) :
    ∀ u, @execNegotiateAlgorithms x0 x1 t = .next u → Keeps p q w y s u := by
  intro u hu
  unfold execNegotiateAlgorithms at hu
  try dsimp only at hu
  repeat' (first | contradiction | (injection hu with hu; subst hu) | split at hu)
  repeat' (with_reducible
    first | assumption | apply State.spdmAt_keeps | apply State.spdmError_keeps | apply State.draw_keeps |
      apply State.spdmAnswer_keeps | apply State.modMoon_keeps | apply State.emit_keeps | split | intro _)

theorem execGetDigests_keeps {x0 : Transport} (h : Keeps p q w y s t) :
    ∀ u, @execGetDigests x0 t = .next u → Keeps p q w y s u := by
  intro u hu
  unfold execGetDigests at hu
  try dsimp only at hu
  repeat' (first | contradiction | (injection hu with hu; subst hu) | split at hu)
  repeat' (with_reducible
    first | assumption | apply State.spdmAt_keeps | apply State.spdmError_keeps | apply State.spdmAnswer_keeps | split |
      intro _)

theorem execGetCertificate_keeps {x0 : Transport} {x1 x2 x3 : Nat} (h : Keeps p q w y s t) :
    ∀ u, @execGetCertificate x0 x1 x2 x3 t = .next u → Keeps p q w y s u := by
  intro u hu
  unfold execGetCertificate at hu
  try dsimp only at hu
  repeat' (first | contradiction | (injection hu with hu; subst hu) | split at hu)
  repeat' (with_reducible
    first | assumption | apply State.spdmAt_keeps | apply State.spdmError_keeps | apply State.spdmAnswer_keeps | split |
      intro _)

theorem State.signed_keeps {x1 : Transport} {x2 x3 : Nat} {x4 : List Byte} (h : Keeps p q w y s t) :
    Keeps p q w y s (@State.signed t x1 x2 x3 x4) := by
  unfold State.signed
  try dsimp only
  repeat' (with_reducible first | assumption | apply State.draw_keeps | apply State.spdmAnswer_keeps)

theorem execChallenge_keeps {x0 : Transport} {x1 x2 : Nat} (h : Keeps p q w y s t) :
    ∀ u, @execChallenge x0 x1 x2 t = .next u → Keeps p q w y s u := by
  intro u hu
  unfold execChallenge at hu
  try dsimp only at hu
  repeat' (first | contradiction | (injection hu with hu; subst hu) | split at hu)
  repeat' (with_reducible
    first | assumption | apply State.spdmAt_keeps | apply State.spdmError_keeps | apply State.signed_keeps | split | intro _)

theorem execGetMeasurements_keeps {x0 : Transport} {x1 x2 x3 : Nat} (h : Keeps p q w y s t) :
    ∀ u, @execGetMeasurements x0 x1 x2 x3 t = .next u → Keeps p q w y s u := by
  intro u hu
  unfold execGetMeasurements at hu
  try dsimp only at hu
  repeat' (first | contradiction | (injection hu with hu; subst hu) | split at hu)
  repeat' (with_reducible
    first | assumption | apply State.spdmAt_keeps | apply State.spdmError_keeps | apply State.signed_keeps | split | intro _)

theorem execKeyExchange_keeps {x0 : Transport} {x1 : ExchangeSlot} (h : Keeps p q w y s t) :
    ∀ u, @execKeyExchange x0 x1 t = .next u → Keeps p q w y s u := by
  intro u hu
  unfold execKeyExchange at hu
  try dsimp only at hu
  repeat' (first | contradiction | (injection hu with hu; subst hu) | split at hu)
  repeat' (with_reducible
    first | assumption | apply State.spdmAt_keeps | apply State.spdmError_keeps | apply State.modMoon_keeps |
      apply State.signed_keeps | apply State.draw_keeps | split | intro _)

theorem State.inSession_keeps {x1 : Transport} {x2 : Nat} {x3 : Bool} {x4 : State → State} (h : Keeps p q w y s t)
    (hx4 : ∀ u, Keeps p q w y s u → Keeps p q w y s (x4 u)) :
    Keeps p q w y s (@State.inSession t x1 x2 x3 x4) := by
  unfold State.inSession
  try dsimp only
  repeat' (with_reducible
    first | assumption | apply hx4 | apply State.spdmAt_keeps | apply State.spdmError_keeps | split | intro _)

theorem State.modSession_keeps {x1 : Nat} {x2 : Session → Session} (h : Keeps p q w y s t) :
    Keeps p q w y s (@State.modSession t x1 x2) := by
  unfold State.modSession
  try dsimp only
  repeat' (with_reducible first | assumption | apply State.modMoon_keeps | split)

theorem State.dropSession_keeps {x1 : Nat} (h : Keeps p q w y s t) :
    Keeps p q w y s (@State.dropSession t x1) := by
  unfold State.dropSession
  try dsimp only
  repeat' (with_reducible first | assumption | apply State.modMoon_keeps)

theorem execFinish_keeps {x0 : Transport} {x1 : Nat} {x2 x3 : Bool} (h : Keeps p q w y s t) :
    ∀ u, @execFinish x0 x1 x2 x3 t = .next u → Keeps p q w y s u := by
  intro u hu
  unfold execFinish at hu
  try dsimp only at hu
  repeat' (first | contradiction | (injection hu with hu; subst hu) | split at hu)
  repeat' (with_reducible
    first | assumption | apply State.inSession_keeps | apply State.spdmAnswer_keeps | apply State.modSession_keeps |
      apply State.spdmError_keeps | apply State.dropSession_keeps | split | intro _)

theorem execKeyUpdate_keeps {x0 : Transport} {x1 : Nat} (h : Keeps p q w y s t) :
    ∀ u, @execKeyUpdate x0 x1 t = .next u → Keeps p q w y s u := by
  intro u hu
  unfold execKeyUpdate at hu
  try dsimp only at hu
  repeat' (first | contradiction | (injection hu with hu; subst hu) | split at hu)
  repeat' (with_reducible
    first | assumption | apply State.inSession_keeps | apply State.spdmAnswer_keeps | apply State.modSession_keeps | intro _)

theorem execHeartbeat_keeps {x0 : Transport} {x1 : Nat} (h : Keeps p q w y s t) :
    ∀ u, @execHeartbeat x0 x1 t = .next u → Keeps p q w y s u := by
  intro u hu
  unfold execHeartbeat at hu
  try dsimp only at hu
  repeat' (first | contradiction | (injection hu with hu; subst hu) | split at hu)
  repeat' (with_reducible first | assumption | apply State.inSession_keeps | apply State.spdmAnswer_keeps | intro _)

theorem execEndSession_keeps {x0 : Transport} {x1 : Nat} (h : Keeps p q w y s t) :
    ∀ u, @execEndSession x0 x1 t = .next u → Keeps p q w y s u := by
  intro u hu
  unfold execEndSession at hu
  try dsimp only at hu
  repeat' (first | contradiction | (injection hu with hu; subst hu) | split at hu)
  repeat' (with_reducible
    first | assumption | apply State.inSession_keeps | apply State.spdmAnswer_keeps | apply State.dropSession_keeps | intro _)

theorem State.pldmAnswer_keeps {x1 : Transport} {x2 : Nat} (h : Keeps p q w y s t) :
    Keeps p q w y s (@State.pldmAnswer t x1 x2) := by
  unfold State.pldmAnswer
  try dsimp only
  repeat' (with_reducible first | assumption | apply State.emit_keeps)

theorem State.pldm_keeps {x1 : Transport} {x2 : State → State} (h : Keeps p q w y s t) (hx2 : ∀ u, Keeps p q w y s u → Keeps p q w y s (x2 u)) :
    Keeps p q w y s (@State.pldm t x1 x2) := by
  unfold State.pldm
  try dsimp only
  repeat' (with_reducible first | assumption | apply hx2 | split)

theorem State.setUpdate_keeps {x1 : Option Update} (h : Keeps p q w y s t) :
    Keeps p q w y s (@State.setUpdate t x1) := by
  unfold State.setUpdate
  try dsimp only
  repeat' (with_reducible first | assumption | apply State.modMoon_keeps)

theorem State.pldmStage_keeps {x1 : Transport} {x2 : Nat} {x3 : Update → State → State} (h : Keeps p q w y s t)
    (hx3 : ∀ y0 u, Keeps p q w y s u → Keeps p q w y s (x3 y0 u)) :
    Keeps p q w y s (@State.pldmStage t x1 x2 x3) := by
  unfold State.pldmStage
  try dsimp only
  repeat' (with_reducible
    first | assumption | apply hx3 | apply State.pldm_keeps | apply State.pldmAnswer_keeps | split | intro _)

theorem execRequestUpdate_keeps {x0 : Transport} (h : Keeps p q w y s t) :
    ∀ u, @execRequestUpdate x0 t = .next u → Keeps p q w y s u := by
  intro u hu
  unfold execRequestUpdate at hu
  try dsimp only at hu
  repeat' (first | contradiction | (injection hu with hu; subst hu) | split at hu)
  repeat' (with_reducible
    first | assumption | apply State.pldm_keeps | apply State.pldmAnswer_keeps | apply State.setUpdate_keeps | split |
      intro _)

theorem execPassComponentTable_keeps {x0 : Transport} (h : Keeps p q w y s t) :
    ∀ u, @execPassComponentTable x0 t = .next u → Keeps p q w y s u := by
  intro u hu
  unfold execPassComponentTable at hu
  try dsimp only at hu
  repeat' (first | contradiction | (injection hu with hu; subst hu) | split at hu)
  repeat' (with_reducible
    first | assumption | apply State.pldmStage_keeps | apply State.pldmAnswer_keeps | apply State.setUpdate_keeps | intro _ |
      ((conv => arg 6; arg 24); first | apply Keeps.lit | apply Keeps.litP | apply Keeps.litO | apply Keeps.litPO | apply Keeps.litW))

theorem execUpdateComponent_keeps {x0 : Transport} {x1 : Nat} (h : Keeps p q w y s t) :
    ∀ u, @execUpdateComponent x0 x1 t = .next u → Keeps p q w y s u := by
  intro u hu
  unfold execUpdateComponent at hu
  try dsimp only at hu
  repeat' (first | contradiction | (injection hu with hu; subst hu) | split at hu)
  repeat' (with_reducible
    first | assumption | apply State.pldmStage_keeps | apply State.pldmAnswer_keeps | apply State.setUpdate_keeps |
      ((conv => arg 6; arg 24); first | apply Keeps.lit | apply Keeps.litP | apply Keeps.litO | apply Keeps.litPO | apply Keeps.litW) |
      split | intro _)

theorem execRequestFirmwareData_keeps {x0 : Transport} {x1 : Nat} {x2 : List Byte} (h : Keeps p q w y s t) :
    ∀ u, @execRequestFirmwareData x0 x1 x2 t = .next u → Keeps p q w y s u := by
  intro u hu
  unfold execRequestFirmwareData at hu
  try dsimp only at hu
  repeat' (first | contradiction | (injection hu with hu; subst hu) | split at hu)
  repeat' (with_reducible
    first | assumption | apply State.pldmStage_keeps | apply State.pldmAnswer_keeps | apply State.setUpdate_keeps |
      apply State.modMoon_keeps | apply State.modFlash_keeps |
      ((conv => arg 6; arg 24); first | apply Keeps.lit | apply Keeps.litP | apply Keeps.litO | apply Keeps.litPO | apply Keeps.litW) |
      split | intro _)

theorem execTransferComplete_keeps {x0 : Transport} (h : Keeps p q w y s t) :
    ∀ u, @execTransferComplete x0 t = .next u → Keeps p q w y s u := by
  intro u hu
  unfold execTransferComplete at hu
  try dsimp only at hu
  repeat' (first | contradiction | (injection hu with hu; subst hu) | split at hu)
  repeat' (with_reducible
    first | assumption | apply State.pldmStage_keeps | apply State.pldmAnswer_keeps | apply State.setUpdate_keeps | intro _ |
      ((conv => arg 6; arg 24); first | apply Keeps.lit | apply Keeps.litP | apply Keeps.litO | apply Keeps.litPO | apply Keeps.litW))

theorem execVerifyComplete_keeps {x0 : Transport} (h : Keeps p q w y s t) :
    ∀ u, @execVerifyComplete x0 t = .next u → Keeps p q w y s u := by
  intro u hu
  unfold execVerifyComplete at hu
  try dsimp only at hu
  repeat' (first | contradiction | (injection hu with hu; subst hu) | split at hu)
  repeat' (with_reducible
    first | assumption | apply State.pldmStage_keeps | apply State.pldmAnswer_keeps | apply State.setUpdate_keeps |
      ((conv => arg 6; arg 24); first | apply Keeps.lit | apply Keeps.litP | apply Keeps.litO | apply Keeps.litPO | apply Keeps.litW) |
      split | intro _)

theorem execActivateFirmware_keeps {x0 : Transport} (h : Keeps p q w y s t) :
    ∀ u, @execActivateFirmware x0 t = .next u → Keeps p q w y s u := by
  intro u hu
  unfold execActivateFirmware at hu
  try dsimp only at hu
  repeat' (first | contradiction | (injection hu with hu; subst hu) | split at hu)
  repeat' (with_reducible
    first | assumption | apply State.pldmStage_keeps | apply State.setUpdate_keeps | apply State.pldmAnswer_keeps |
      apply State.modMoon_keeps | apply State.restartMoon_keeps | apply State.runFirmware_keeps | split | intro _)

theorem execMctpControl_keeps {x0 : Transport} {x1 : Nat} {x2 : List Byte} (h : Keeps p q w y s t) :
    ∀ u, @execMctpControl x0 x1 x2 t = .next u → Keeps p q w y s u := by
  intro u hu
  unfold execMctpControl at hu
  try dsimp only at hu
  repeat' (first | contradiction | (injection hu with hu; subst hu) | split at hu)
  repeat' (with_reducible first | assumption | apply State.draw_keeps | apply State.emit_keeps | split)

theorem execJtagTck_keeps {x0 x1 x2 : Bool} (h : Keeps p q w y s t) :
    ∀ u, @execJtagTck x0 x1 x2 t = .next u → Keeps p q w y s u := by
  intro u hu
  unfold execJtagTck at hu
  try dsimp only at hu
  repeat' (first | contradiction | (injection hu with hu; subst hu) | split at hu)
  repeat' (with_reducible
    first | assumption | apply State.draw_keeps | apply State.emit_keeps |
      ((conv => arg 6; arg 24); first | apply Keeps.lit | apply Keeps.litP | apply Keeps.litO | apply Keeps.litPO | apply Keeps.litW) |
      split)

end Sys2Proof.Machine
end

