-- ==== Sys2Proof/Laws/Receive.lean ====
section
/-! SUPPORT. What receiving a frame does before its meaning: acceptance, order, route. -/

namespace Sys2Proof.Machine

theorem testBit_bits' (n lo len i : Nat) : (bits n lo len).testBit i = (decide (i < len) && n.testBit (lo + i)) := by
  unfold bits
  rw [Nat.testBit_mod_two_pow, Nat.testBit_shiftRight]

/-- A field below a cut is a field of what the cut leaves. -/
theorem bits_mod (n k lo len : Nat) (h : lo + len ≤ k) : bits (n % 2 ^ k) lo len = bits n lo len := by
  apply Nat.eq_of_testBit_eq
  intro i
  rw [testBit_bits', testBit_bits', Nat.testBit_mod_two_pow]
  by_cases hi : i < len
  · have : lo + i < k := by omega
    simp [hi, this]
  · simp [hi]

theorem hdr_mod (g : Nat) :
    hdrType (g % 2 ^ 224) = hdrType g ∧ hdrVc (g % 2 ^ 224) = hdrVc g ∧ hdrOpcode (g % 2 ^ 224) = hdrOpcode g
      ∧ hdrTclass (g % 2 ^ 224) = hdrTclass g ∧ hdrRing (g % 2 ^ 224) = hdrRing g ∧ hdrBegin (g % 2 ^ 224) = hdrBegin g
      ∧ hdrEnd (g % 2 ^ 224) = hdrEnd g ∧ hdrLen (g % 2 ^ 224) = hdrLen g := by
  refine ⟨?_, ?_, ?_, ?_, ?_, ?_, ?_, ?_⟩
  · unfold hdrType fld; exact bits_mod _ _ _ _ (by decide)
  · unfold hdrVc fld; exact bits_mod _ _ _ _ (by decide)
  · unfold hdrOpcode fld; exact bits_mod _ _ _ _ (by decide)
  · unfold hdrTclass fld; rw [bits_mod _ _ _ _ (by decide)]
  · unfold hdrRing fld; exact bits_mod _ _ _ _ (by decide)
  · unfold hdrBegin fld; rw [bits_mod _ _ _ _ (by decide)]
  · unfold hdrEnd fld; rw [bits_mod _ _ _ _ (by decide)]
  · unfold hdrLen fld; exact bits_mod _ _ _ _ (by decide)

/-- The state after the acceptance of a frame with `n` payload bytes on port `p` (R254): counted, and acknowledged at once. -/
def State.taken (s : State) (p n : Nat) : State :=
  (((s.modPort p fun x => { x with gotFrame := true, expected := (x.expected + 1) % 4096, nakSent := false }).count (ctrPort p 1) 1).count
    (ctrPort p 3) (flitsOf n)).sendFlit p false

theorem State.accept_of_takes {s : State} {p : Nat} {f : Frame} {row h : Nat} {pay : List Byte} (a : s.takes p f row h pay) :
    s.accept p f row = (s.taken p pay.length, some (h, pay)) := by
  obtain ⟨h1, h2, h3, h4, h5, h6, h7, h8, h9⟩ := a
  unfold State.accept
  have c1 : (s.halted || decide ((s.port p).state < 4) || decide (8 < (s.port p).state)) = false := by
    simp [h1]; omega
  simp only [c1, h4, Bool.false_eq_true, if_false, ← h6]
  rw [if_neg (by simp [h7]), if_neg (by simp [h8]), if_pos h9, ← h5]
  rfl

/-- Only counters, ports, queues of the lines and what left the module differ; ports keep all but their sequence, and room. -/
structure OnlyLines (s t : State) : Prop where
  same : t = { s with cnt := t.cnt, ports := t.ports, lanes := t.lanes, out := t.out }
  port : ∀ k, t.port k = { s.port k with gotFrame := (t.port k).gotFrame, expected := (t.port k).expected, nakSent := (t.port k).nakSent, freed := (t.port k).freed }

theorem OnlyLines.refl (s : State) : OnlyLines s s := ⟨rfl, fun _ => rfl⟩

theorem OnlyLines.trans {s t u : State} (a : OnlyLines s t) (b : OnlyLines t u) : OnlyLines s u :=
  ⟨by rw [b.same, a.same], fun k => by rw [b.port, a.port]⟩

theorem State.modPort_onlyLines (s : State) (p : Nat) (f : Port → Port)
    (h : ∀ x, f x = { x with gotFrame := (f x).gotFrame, expected := (f x).expected, nakSent := (f x).nakSent, freed := (f x).freed }) :
    OnlyLines s (s.modPort p f) := by
  refine ⟨rfl, fun k => ?_⟩
  by_cases hk : k = p
  · subst hk; rw [State.modPort_port]; exact h _
  · rw [State.modPort_port_ne hk]

theorem State.taken_onlyLines (s : State) (p n : Nat) : OnlyLines s (s.taken p n) := by
  unfold State.taken
  exact (State.modPort_onlyLines s p (fun x => { x with gotFrame := true, expected := (x.expected + 1) % 4096, nakSent := false }) fun _ => rfl).trans
    ⟨rfl, fun _ => rfl⟩

theorem State.freeFlits_onlyLines (s : State) (p cls n : Nat) : OnlyLines s (s.freeFlits p cls n) :=
  State.modPort_onlyLines s p _ fun _ => rfl

theorem State.modLane_onlyLines (s : State) (k : Nat) (f : Lane → Lane) : OnlyLines s (s.modLane k f) := ⟨rfl, fun _ => rfl⟩

theorem OnlyLines.portEntry {s t : State} (a : OnlyLines s t) (p : Nat) : t.portEntry p = s.portEntry p := by rw [a.same]; rfl
theorem OnlyLines.job {s t : State} (a : OnlyLines s t) (d : Nat) : t.job d = s.job d := by rw [a.same]; rfl
theorem OnlyLines.coord {s t : State} (a : OnlyLines s t) (d : Nat) : t.coord d = s.coord d := by rw [a.same]; rfl
theorem OnlyLines.fenced {s t : State} (a : OnlyLines s t) (d : Nat) : t.fenced d = s.fenced d := by rw [a.same]; rfl
theorem OnlyLines.district {s t : State} (a : OnlyLines s t) (d : Nat) : t.district d = s.district d := by rw [a.same]; rfl
theorem OnlyLines.ring {s t : State} (a : OnlyLines s t) (r : Nat) : t.ring r = s.ring r := by rw [a.same]; rfl
theorem OnlyLines.wrongClass {s t : State} (a : OnlyLines s t) (p h : Nat) : t.wrongClass p h = s.wrongClass p h := by
  have e1 : (t.port p).state = (s.port p).state := by rw [a.port]
  have e2 : t.cardEntry p = s.cardEntry p := by rw [a.same]; rfl
  have e3 : t.loadedEntry p = s.loadedEntry p := by rw [a.same]; rfl
  have e4 : t.tensorDistrict p = s.tensorDistrict p := by rw [a.same]; rfl
  have e5 : t.job = s.job := by funext d; rw [a.same]; rfl
  have e6 : ∀ d, t.district d = s.district d := fun d => by rw [a.same]; rfl
  unfold State.wrongClass State.portJob
  rw [e1, e2, e3, e4, e5]
  simp only [e6]
theorem OnlyLines.mem {s t : State} (a : OnlyLines s t) : t.mem = s.mem := by rw [a.same]
theorem OnlyLines.pwr {s t : State} (a : OnlyLines s t) : t.pwr = s.pwr := by rw [a.same]
theorem OnlyLines.orb {s t : State} (a : OnlyLines s t) : t.orb = s.orb := by rw [a.same]

/-- Type of a good frame's header (R252). -/
theorem type_of_good {f : Frame} (h : frameBad f = false) :
    (hdrType (leNat (f.bytes.take 32)) = 1 ∧ hdrVc (leNat (f.bytes.take 32)) < 4)
      ∨ (hdrType (leNat (f.bytes.take 32)) = 2 ∧ hdrVc (leNat (f.bytes.take 32)) = 4) := by
  unfold frameBad at h
  simp only [Bool.or_eq_false_iff, Bool.not_eq_false', Bool.or_eq_true, Bool.and_eq_true, beq_iff_eq, decide_eq_true_eq] at h
  exact h.1.1.1.1

/-- What the opcode of a frame of row `row` is, and its RESTART bit. -/
theorem opcode_of_row {g row : Nat} {pay : List Byte} (h : frameRow g pay = row) (hr : row ≠ 0) :
    hdrType g ≠ 1 ∧ (hdrOpcode g = row ∨ (16 + hdrOpcode g = row ∧ isRestart pay = true)) := by
  unfold frameRow at h
  simp only at h
  split at h
  · exact absurd h.symm hr
  · rename_i h1
    refine ⟨h1, ?_⟩
    split at h
    · rename_i h2; simp only [Bool.and_eq_true] at h2; exact .inr ⟨h, h2.2⟩
    · split at h
      · exact .inl h
      · exact absurd h.symm hr

/-- A frame in the order of its class is routed at once. -/
theorem State.classed_next {s : State} {p d e h : Nat} {pay : List Byte} (he : s.portEntry p = some (d, e)) (ht : hdrTclass h = false)
    (hs : (s.lane (laneKey d (peLport e) (hdrVc h))).store = [])
    (hb : hdrBseq h = (s.lane (laneKey d (peLport e) (hdrVc h))).expected) :
    ∃ u, OnlyLines s u ∧ u.ports = s.ports ∧ s.classed p h pay = u.route d e ⟨p, hdrVc h, flitsOf pay.length, h, pay⟩ := by
  unfold State.classed
  simp only [ht, Bool.false_eq_true, if_false, he, hs, List.any_nil, Bool.or_false, List.length_nil]
  have hlt : hdrBseq h < 2 ^ 16 := bits_lt _ _ _
  have hg : gap 16 (hdrBseq h) (s.lane (laneKey d (peLport e) (hdrVc h))).expected = 0 := by rw [hb]; unfold gap; omega
  rw [hg, if_neg (by decide)]
  refine ⟨(s.modLane (laneKey d (peLport e) (hdrVc h)) fun x =>
      { x with store := x.store ++ [(hdrBseq h, ⟨p, hdrVc h, flitsOf pay.length, h, pay⟩)] }).modLane (laneKey d (peLport e) (hdrVc h))
      fun x => { x with expected := (x.expected + 1) % 2 ^ 16, store := x.store.filter (·.1 != hdrBseq h) }, ?_, rfl, ?_⟩
  · exact (State.modLane_onlyLines ..).trans (State.modLane_onlyLines ..)
  · unfold State.drain
    simp only [State.modLane_lane, hs, List.nil_append, List.find?_cons, ← hb, beq_self_eq_true]
    unfold State.drain
    rfl

theorem State.receive_routed {s : State} {p d e j : Nat} {f : Frame} {row h : Nat} {pay : List Byte} (a : s.takes p f row h pay)
    (b : s.deliversTo p d e j h) :
    ∃ u, OnlyLines s u ∧ (u.port p).expected = ((s.port p).expected + 1) % 4096 ∧
      s.receive p f row = u.route d e ⟨p, hdrVc h, flitsOf pay.length, h, pay⟩ := by
  obtain ⟨h1, h2, h3, h4, h5, h6, h7, h8⟩ := b
  unfold State.receive
  rw [State.accept_of_takes a]
  simp only
  have o := State.taken_onlyLines s p pay.length
  have hl : ∀ k, (s.taken p pay.length).lane k = s.lane k := fun _ => rfl
  obtain ⟨u, o2, hp, e2⟩ := State.classed_next (s := s.taken p pay.length) (p := p) (pay := pay) (by rw [o.portEntry]; exact h1) h4
    (by rw [hl]; exact h7) (by rw [hl]; exact h8)
  refine ⟨u, o.trans o2, ?_, e2⟩
  have : u.port p = (s.taken p pay.length).port p := by unfold State.port; rw [hp]
  rw [this]
  have : (s.taken p pay.length).port p
      = (s.modPort p fun x => { x with gotFrame := true, expected := (x.expected + 1) % 4096, nakSent := false }).port p := rfl
  rw [this, State.modPort_port]

/-- A CTL frame for the district in its order reaches its meaning (R273). -/
theorem State.receive_ctl {s : State} {p d e j : Nat} {f : Frame} {row h : Nat} {pay : List Byte} (a : s.takes p f row h pay)
    (b : s.deliversTo p d e j h) (hr : row ≠ 0) :
    ∃ u, OnlyLines s u ∧ (u.port p).expected = ((s.port p).expected + 1) % 4096 ∧ s.receive p f row = u.onCtl d (peLport e) p h pay := by
  obtain ⟨u, o, hx, e1⟩ := State.receive_routed a b
  obtain ⟨h1, h2, h3, h4, h5, h6, h7, h8⟩ := b
  obtain ⟨a1, a2, a3, a4, a5, a6, a7, a8, a9⟩ := a
  have ty : hdrType h ≠ 1 := by rw [a5, (hdr_mod _).1]; exact (opcode_of_row a7 hr).1
  refine ⟨u.freeFlits p (hdrVc h) (flitsOf pay.length), o.trans (State.freeFlits_onlyLines ..), ?_, ?_⟩
  · unfold State.freeFlits
    rw [State.modPort_port]
    exact hx
  · rw [e1]
    unfold State.route
    simp only [o.job, h2, h3, h4, o.coord, h5, o.fenced, h6, ty, bne_self_eq_false, ne_eq, not_true_eq_false, if_true, if_false,
      Bool.false_eq_true]

/-- A frame of the port itself reaches its meaning when its length fits (R273). -/
theorem State.receivePort_taken {s : State} {p : Nat} {f : Frame} {row h : Nat} {pay : List Byte} (a : s.takes p f row h pay)
    (hl : ctlLength (hdrOpcode h) pay = true) (hw : s.wrongClass p h = false) (act : List Byte → State → State) :
    s.receivePort p f row act = act pay ((s.taken p pay.length).freeFlits p (if hdrTclass h then 5 else 4) (flitsOf pay.length)) := by
  unfold State.receivePort
  rw [State.accept_of_takes a]
  have o := (s.taken_onlyLines p pay.length).trans (State.freeFlits_onlyLines _ p (if hdrTclass h then 5 else 4) (flitsOf pay.length))
  simp only [o.wrongClass, hw, hl, Bool.false_eq_true, if_true, if_false]

@[simp] theorem State.sendFlit_port {s : State} {p k : Nat} {b : Bool} : (s.sendFlit p b).port k = s.port k := rfl

/-- A frame that is not accepted is refused (R252, R254): with a NAK unless one has been sent. -/
theorem State.refuseFrame_cases (s : State) (p : Nat) :
    (s.refuseFrame p).out = (if (s.port p).nakSent then s.out else .flit p (linkSlot ((s.refuseFrame p).linkFlit p true)) :: s.out)
      ∧ ((s.refuseFrame p).port p).nakSent = true ∧ ((s.refuseFrame p).port p).expected = (s.port p).expected
      ∧ OnlyLines s (s.refuseFrame p) ∧ (s.refuseFrame p).cnt = s.cnt := by
  unfold State.refuseFrame
  split
  · rename_i h
    exact ⟨rfl, h, rfl, OnlyLines.refl s, rfl⟩
  · refine ⟨rfl, ?_, ?_, ?_, rfl⟩
    · rw [State.sendFlit_port, State.modPort_port]
    · rw [State.sendFlit_port, State.modPort_port]
    · exact (State.modPort_onlyLines s p (fun x => { x with nakSent := true }) fun _ => rfl).trans ⟨rfl, fun _ => rfl⟩

theorem State.accept_bad {s : State} {p : Nat} {f : Frame} {row : Nat} (h1 : s.halted = false) (h2 : 4 ≤ (s.port p).state)
    (h3 : (s.port p).state ≤ 8) (h4 : frameBad f = true) : s.accept p f row = ((s.count (ctrPort p 15) 1).refuseFrame p, none) := by
  unfold State.accept
  have c1 : (s.halted || decide ((s.port p).state < 4) || decide (8 < (s.port p).state)) = false := by
    simp [h1]; omega
  simp only [c1, h4, Bool.false_eq_true, if_false, if_true]

theorem State.accept_out {s : State} {p : Nat} {f : Frame} {row g : Nat} {pay : List Byte} (h1 : s.halted = false)
    (h2 : 4 ≤ (s.port p).state) (h3 : (s.port p).state ≤ 8) (h4 : frameBad f = false) (hg : g = leNat (f.bytes.take 32))
    (hp : pay = (f.bytes.drop 32).take (hdrLen g)) (hr : frameRow g pay = row) (hf : hdrFseq g ≠ (s.port p).expected) :
    s.accept p f row = (s.refuseFrame p, none) := by
  subst hg
  unfold State.accept
  have c1 : (s.halted || decide ((s.port p).state < 4) || decide (8 < (s.port p).state)) = false := by
    simp [h1]; omega
  simp only [c1, h4, Bool.false_eq_true, if_false, ← hp]
  rw [if_neg (by simp [hr]), if_pos hf]

/-- Every frame command stops at its acceptance when that fails. -/
theorem exec_frame_refused {s t : State} {p : Fin 24} {f : Frame} {n row : Nat} {c : Instr} (hc : (c, row) ∈ frameCommands p f n)
    (ha : s.accept p f row = (t, none)) : exec c s = .next t := by
  have all : ∀ x ∈ frameCommands p f n, s.accept p f x.2 = (t, none) → exec x.1 s = .next t := by
    simp only [frameCommands, List.forall_mem_cons]
    repeat' apply And.intro
    case right => exact fun x hx => nomatch hx
    all_goals intro h
    all_goals simp only [exec, execDataFrame, execCard, execPing, execEcho, execBeacon, execAnnounce, execCredit, execNackDead, execAmaxUp,
      execAmaxDown, execBarUp, execBarGo, execRestartBarUp, execRestartBarGo, execJobHold, execMgmt, State.receive, State.receivePort, h]
  exact all (c, row) hc ha

end Sys2Proof.Machine
end

