-- ==== Sys2Proof/Laws/Ticks.lean ====
section
/-! SUPPORT. What a tick makes of the orbit number (R39, R41). -/

namespace Sys2Proof.Machine

/-- After the number is counted up, nothing else that a tick does moves it or ends the count. -/
theorem State.tick_orb (s : State) (times : List CoreTime) (ready : List Nat) :
    (s.tick times ready).orb.number = (s.orb.number + 1) % 2 ^ 64 ∧ (s.tick times ready).orb.run = s.orb.run := by
  suffices h : ∀ s1 : State, s1 = { s with
      orb := { s.orb with number := (s.orb.number + 1) % 2 ^ 64, lastTick := s.clk.ref }
      ports := s.ports.map fun _ x => { x with transitActive := x.transitNow, transitNow := false } } →
      Keeps false true false false s1 (s.tick times ready) by
    have := (h _ rfl).orbit rfl
    exact this
  intro s1 h1
  unfold State.tick
  dsimp only
  repeat' (with_reducible
    first | assumption | refine Keeps.each ?_ (fun _ _ _ => ?_) | apply State.tickAdvance_keeps | apply State.tickJudge_keeps |
      apply State.takeSnapshot_keeps | apply State.commitOutcome_keeps | apply State.startLaneSwaps_keeps |
      apply State.boundary_keeps | apply State.startMirror_keeps | apply State.mirrorDw_keeps | apply State.enterOrbit_keeps |
      apply State.sendBeacons_keeps | apply State.endWaits_keeps | (subst h1; exact Keeps.refl _) |
      ((conv => arg 6; arg 24); first | apply Keeps.lit | apply Keeps.litP | apply Keeps.litO | apply Keeps.litPO | apply Keeps.litW) |
      exact fun e => Bool.noConfusion e | split)

end Sys2Proof.Machine
end

