-- ==== Sys2Proof/Laws/Writes.lean ====
section
/-! SUPPORT. A register write that reaches its register. -/

namespace Sys2Proof.Machine

/-- It does what the register's block does, on behalf of the district, and its completion names the status. -/
theorem State.regWrite_of_reaches {s : State} {r : Requester} {d : Nat} {b : Block} {o off v : Nat} (h : s.reaches r d b o)
    (hb : blockOf off = some (b, o)) (h8 : off % 8 = 0) :
    ∃ m, s.rights r = some (m, some d) ∧
      s.regWrite r off v = (s.regPut m d b o v).2.emit (.access r (csrBase + off) (s.regPut m d b o v).1 0) := by
  have e1 : ¬ (csrBase + off < csrBase) := by omega
  have e3 : (csrBase + off) % 8 = 0 := by simp only [csrBase]; omega
  rcases h with h | ⟨h, h2, h3⟩
  · exact ⟨true, h, by simp [State.regWrite, h, State.csrWrite, hb, e1, e3]⟩
  · exact ⟨false, h, by simp [State.regWrite, h, h2, h3, State.csrWrite, hb, e1, e3]⟩

/-! ## The registers that commands write, by their block and offset -/

variable {s : State} {m : Bool} {d v : Nat}

theorem State.regPut_time : s.regPut m d .glb 0x010 v = s.timeWrite v := rfl
theorem State.regPut_flush : s.regPut m d .pbx 0x008 v = s.pbxFlush m d v := rfl
theorem State.regPut_orbCtrl : s.regPut m d .orb 0x000 v = s.orbCtrl v := by
  show s.orbWrite d 0x000 v = _
  generalize h : 0x000 = o
  unfold State.orbWrite
  split <;> first | (exfalso; omega) | (exfalso; simp_all; done) | exact Eq.refl _
theorem State.regPut_orbResume : s.regPut m d .orb 0x038 v = s.orbResume d v := by
  show s.orbWrite d 0x038 v = _
  generalize h : 0x038 = o
  unfold State.orbWrite
  split <;> first | (exfalso; omega) | (exfalso; simp_all; done) | exact Eq.refl _
theorem State.regPut_cmdRing : s.regPut m d .dst 0x028 v = s.cmdRing d v := by
  show s.dstWrite d 0x028 v = _
  generalize h : 0x028 = o
  unfold State.dstWrite
  split <;> first | (exfalso; omega) | (exfalso; simp_all; done) | exact Eq.refl _
theorem State.regPut_cmdTail : s.regPut m d .dst 0x030 v = s.cmdTail d v := by
  show s.dstWrite d 0x030 v = _
  generalize h : 0x030 = o
  unfold State.dstWrite
  split <;> first | (exfalso; omega) | (exfalso; simp_all; done) | exact Eq.refl _
theorem State.regPut_cplRing : s.regPut m d .dst 0x040 v = s.cplRing d v := by
  show s.dstWrite d 0x040 v = _
  generalize h : 0x040 = o
  unfold State.dstWrite
  split <;> first | (exfalso; omega) | (exfalso; simp_all; done) | exact Eq.refl _
theorem State.regPut_cplHead : s.regPut m d .dst 0x050 v = s.cplHead d v := by
  show s.dstWrite d 0x050 v = _
  generalize h : 0x050 = o
  unfold State.dstWrite
  split <;> first | (exfalso; omega) | (exfalso; simp_all; done) | exact Eq.refl _
theorem State.regPut_snpReq : s.regPut m d .snp 0x000 v = s.snpReq d v := by
  show s.snpWrite d 0x000 v = _
  generalize h : 0x000 = o
  unfold State.snpWrite
  split <;> first | (exfalso; omega) | (exfalso; simp_all; done) | exact Eq.refl _
theorem State.regPut_fltTail : s.regPut m d .flt 0x008 v = s.fltTail d v := by
  show s.fltWrite m d 0x008 v = _
  generalize h : 0x008 = o
  unfold State.fltWrite
  split <;> first | (exfalso; omega) | (exfalso; simp_all; done) | exact Eq.refl _
theorem State.regPut_fltCmd : s.regPut m d .flt 0x028 v = s.fltCmd m d v := by
  show s.fltWrite m d 0x028 v = _
  generalize h : 0x028 = o
  unfold State.fltWrite
  split <;> first | (exfalso; omega) | (exfalso; simp_all; done) | exact Eq.refl _
theorem State.regPut_fltRestore : s.regPut m d .flt 0x030 v = s.fltRestore d v := by
  show s.fltWrite m d 0x030 v = _
  generalize h : 0x030 = o
  unfold State.fltWrite
  split <;> first | (exfalso; omega) | (exfalso; simp_all; done) | exact Eq.refl _
theorem State.regPut_pwrTarget : s.regPut m d .pwr 0x008 v = s.pwrTarget v := by
  show s.pwrWrite 0x008 v = _
  generalize h : 0x008 = o
  unfold State.pwrWrite
  split <;> first | (exfalso; omega) | (exfalso; simp_all; done) | exact Eq.refl _
theorem State.regPut_warmReset : s.regPut m d .pwr 0x010 v = s.warmReset v := by
  show s.pwrWrite 0x010 v = _
  generalize h : 0x010 = o
  unfold State.pwrWrite
  split <;> first | (exfalso; omega) | (exfalso; simp_all; done) | exact Eq.refl _
theorem State.regPut_load (h : bits v 48 2 = 1) : s.regPut m d .img 0x010 v = s.imgLoad d (bits v 0 48) := by
  show (match bits v 48 2 with | 1 => _ | 2 => _ | 3 => _ | _ => _) = _
  rw [h]
  exact Eq.refl _
theorem State.regPut_commit (h : bits v 48 2 = 2) : s.regPut m d .img 0x010 v = s.imgCommit d (bits v 0 48) := by
  show (match bits v 48 2 with | 1 => _ | 2 => _ | 3 => _ | _ => _) = _
  rw [h]
  exact Eq.refl _
theorem State.regPut_cancel (h : bits v 48 2 = 3) : s.regPut m d .img 0x010 v = s.imgCancel d := by
  show (match bits v 48 2 with | 1 => _ | 2 => _ | 3 => _ | _ => _) = _
  rw [h]
  exact Eq.refl _

end Sys2Proof.Machine
end

