-- ==== Sys2Proof/Laws/Recovery.lean ====
section
/-! SUPPORT. Halting, fencing, rolling back, loading and moving. -/

set_option linter.unusedVariables false
set_option linter.unusedSimpArgs false

namespace Sys2Proof.Machine

theorem halt_pwr_halted (s : State) (c d u i) : (s.halt c d u i).pwr.halted = true := by
  unfold State.halt; dsimp only; split
  · assumption
  · rfl

theorem trip_facts (s : State) (i c : Nat) (h1 : s.powered = true) (h2 : s.pwr.stage ≠ 1) :
   (s.trip i c).pwr.halted = true ∧ (s.trip i c).pwr.trip = s.pwr.trip ||| 2 ^ i := by
  have hi : s.pwr.islandOn = true := by
    unfold State.powered at h1
    simp only [Bool.and_eq_true] at h1
    exact h1.1.1
  unfold State.trip
  rw [if_neg (by simp [hi])]
  extract_lets s1 s2
  have hp : s1.powered = true := h1
  have : ¬ s2.pwr.stage = 1 := h2
  rw [if_neg (by simp [hp]), if_neg this, State.halt_pwr]
  have e : s2.halted = s.pwr.halted := rfl
  have e2 : s2.pwr.halted = s.pwr.halted := rfl
  have e3 : s2.pwr.trip = s.pwr.trip ||| 2 ^ i := rfl
  rw [e]
  split <;> simp_all

theorem State.finishCmd_onlyLog (s : State) (d i : Nat) (st : Status) (x : Nat) : OnlyLog s (s.finishCmd d i st x) := by
  unfold State.finishCmd
  exact State.modDist_onlyLog ..

theorem stop_pwr (s : State) : s.stopCounting.pwr = s.pwr ∧ s.stopCounting.orb.run = false ∧ s.stopCounting.orb.number = 0 ∧ s.stopCounting.orb.stop = false ∧ s.stopCounting.mem = s.mem := by
  unfold State.stopCounting
  extract_lets o1 s1 s2
  have h2 : OnlyLog s1 s2 := OnlyLog.each (OnlyLog.refl _) fun _ _ => OnlyLog.each (OnlyLog.refl _) fun _ _ => State.finishCmd_onlyLog ..
  have : OnlyLog s1 (s2.each s2.defined fun d t => if (t.district d).snp.state = 0 then t else t.modSnp d fun x => { x with orbit := 0, state := 0, missed := true }) :=
    OnlyLog.each h2 fun _ _ => OnlyLog.ite (OnlyLog.refl _) (State.modDist_onlyLog ..)
  rw [this]; simp [s1]

theorem enterHold_held (s : State) (d : Nat) (b : Bool) : (s.enterHold d b).held d = true := by
  unfold State.enterHold
  split
  · assumption
  · simp [State.held]

theorem rollbackHold_held (s : State) (d c u i : Nat) (h1 : s.fenced d = false) (h2 : s.halted = false) (h3 : (s.active d).isSome) :
   (s.rollbackHold d c u i).held d = true := by
  unfold State.rollbackHold
  extract_lets s1 b s2
  split
  · rename_i h
    have h4 : s1.fenced d = false := by simp [s1, h1]
    have h5 : s1.halted = false := by simp [s1, h2]
    have h6 : (s1.active d).isNone = false := by simp [s1]; cases hx : s.active d <;> simp_all
    simp [h4, h5, h6] at h; exact h
  · exact enterHold_held ..

theorem fence_fenced (s : State) (d c u i : Nat) (h2 : s.halted = false) : (s.fence d c u i).fenced d = true := by
  unfold State.fence
  extract_lets s1 s2 s3 s4
  split
  · rename_i h
    simpa [s1, h2] using h
  · rename_i h
    have : ∀ (l : List Nat) (t : State), t.fenced d = true → (t.each l fun p t => if t.tensorDistrict p == some d then t.modPort p fun x => { x with cardLocal := t.cardOf p } else t).fenced d = true := by
      intro l
      induction l with
      | nil => intro t h; exact h
      | cons a l ih =>
        intro t h
        simp only [State.each, List.foldl_cons]
        apply ih
        split
        · exact h
        · exact h
    apply this
    simp [s3, s4, State.fenced]

theorem worst_mem (fs : List Finding) (f : Finding) (h : worst fs = some f) : f ∈ fs := by
  have : ∀ (fs : List Finding) (b : Option Finding), fs.foldl (fun b f => match b with | none => some f | some x => if f.before x then some f else some x) b = some f →
      b = some f ∨ f ∈ fs := by
    intro fs
    induction fs with
    | nil => intro b h; exact .inl h
    | cons a fs ih =>
      intro b h
      rcases ih _ h with h | h
      · cases b with
        | none => exact .inr (by simp_all)
        | some x =>
          simp only at h
          split at h
          · exact .inr (by simp_all)
          · exact .inl h
      · exact .inr (by simp [h])
  rcases this fs none h with h | h
  · cases h
  · exact h

theorem loadFinding_ok {s : State} {d : Nat} {bs : List Byte} {img : Image} (h : s.loadFinding d bs = .ok img) :
    256 ≤ bs.length ∧ fld (leNat (bs.take 256)) 0 0 32 = 0x3154534B
      ∧ fld (leNat (bs.take 256)) 8 0 32 = bs.length ∧ img.header = leNat (bs.take 256) ∧ img.digest = (bs.drop 32).take 48
      ∧ img.digest = sha384 (bs.drop 256) ∧ imgDistrict img.header = d
      ∧ ((s.district d).img.keyed = true → imgSigned img.header = true ∧ fld img.header 24 0 32 = (s.district d).img.keyId
        ∧ ecdsaVerify (s.district d).img.key (sha384 (bs.take 96)) (beNat ((bs.drop 96).take 48)) (beNat ((bs.drop 144).take 48)) = true) := by
  unfold State.loadFinding at h
  extract_lets g h0 zeros nsect body digest at h
  split at h
  · cases h
  · next h1 =>
    split at h
    · cases h
    · next h2 =>
      split at h
      · cases h
      · next secs _ =>
        split at h
        · cases h
        · next h3 =>
          split at h
          · cases h
          · next h4 =>
            split at h
            · cases h
            · next h5 =>
              injection h with h
              subst h
              simp only [Bool.or_eq_true, decide_eq_true_eq, not_or] at h1
              simp only [Bool.or_eq_true, decide_eq_true_eq, not_or, ne_eq] at h2
              obtain ⟨⟨⟨⟨a1, a2⟩, a3⟩, a4⟩, a5⟩ := h1
              refine ⟨by omega, Decidable.not_not.mp a2, ?_, rfl, rfl, Decidable.not_not.mp h3, Decidable.not_not.mp h5, ?_⟩
              · exact Decidable.not_not.mp h2.1.1
              · intro hk
                simp only [show g = (s.district d).img from rfl, hk, Bool.true_and, Bool.not_eq_true', Bool.and_eq_false_iff, not_or, Bool.not_eq_false, beq_iff_eq] at h4
                exact ⟨h4.1.1, h4.1.2, h4.2⟩

theorem move_facts (u : State) (a b n : Nat) :
    (u.move a b n).mem = Memory.copy u.mem a b n ∧ (u.move a b n).dist = u.dist ∧ (u.move a b n).cores = u.cores
      ∧ (u.move a b n).rings = u.rings ∧ (u.move a b n).pwr.halted = u.pwr.halted ∧ (u.move a b n).windows = u.windows := by
  have hh : (u.move a b n).pwr.halted = u.pwr.halted := by
    unfold State.move State.touched
    dsimp only
    repeat' split
    all_goals rfl
  refine ⟨?_, ?_, ?_, ?_, hh, ?_⟩ <;> (unfold State.move; rw [State.touched_eq]; rfl)

/-- A page copied back, its lines counted on both channels. -/
theorem move_counted (u : State) (a b n x y : Nat) :
    let v := ((u.move a b n).countLines 7 x n).countLines 7 y n
    v.mem = Memory.copy u.mem a b n ∧ v.dist = u.dist ∧ v.cores = u.cores ∧ v.rings = u.rings ∧ v.pwr.halted = u.pwr.halted
      ∧ v.windows = u.windows := by
  intro v
  have e : v = { u.move a b n with cnt := v.cnt } := by
    have e2 := State.countLines_eq ((u.move a b n).countLines 7 x n) 7 y n
    rw [State.countLines_eq (u.move a b n) 7 x n] at e2
    dsimp only [v]
    rw [State.countLines_eq (u.move a b n) 7 x n]
    exact e2
  rw [e]
  exact move_facts u a b n

theorem eachMove {s : State} {d : Nat} (l : List Nat) (n : Nat → Nat → Nat × Nat) (u : State) (h : u.dist = s.dist) :
    let t := u.each l fun i t => ((t.move (t.slotAddr d i) (t.pageAddr d i) MiB).countLines 7 (s.slotAddr d i) MiB).countLines 7 (s.pageAddr d i) MiB
    t.mem = l.foldl (fun m i => Memory.copy m (s.slotAddr d i) (s.pageAddr d i) MiB) u.mem ∧ t.dist = s.dist ∧ t.cores = u.cores ∧ t.rings = u.rings
      ∧ t.pwr.halted = u.pwr.halted ∧ t.windows = u.windows := by
  induction l generalizing u with
  | nil => exact ⟨rfl, h, rfl, rfl, rfl, rfl⟩
  | cons i l ih =>
    have e1 : u.slotAddr d i = s.slotAddr d i := by
      unfold State.slotAddr State.regions State.active State.district; rw [h]
    have e2 : u.pageAddr d i = s.pageAddr d i := by
      unfold State.pageAddr State.journalled State.regions State.active State.district; rw [h]
    generalize hv : ((u.move (u.slotAddr d i) (u.pageAddr d i) MiB).countLines 7 (s.slotAddr d i) MiB).countLines 7 (s.pageAddr d i) MiB = v
    have hm : v.mem = Memory.copy u.mem (s.slotAddr d i) (s.pageAddr d i) MiB ∧ v.dist = u.dist ∧ v.cores = u.cores ∧ v.rings = u.rings ∧ v.pwr.halted = u.pwr.halted ∧ v.windows = u.windows := by
      rw [← hv, e1, e2]
      exact move_counted ..
    obtain ⟨a1, a2, a3, a4, a5, a6⟩ := ih v (hm.2.1.trans h)
    have ee : (u.each (i :: l) fun i t => ((t.move (t.slotAddr d i) (t.pageAddr d i) MiB).countLines 7 (s.slotAddr d i) MiB).countLines 7 (s.pageAddr d i) MiB)
      = v.each l fun i t => ((t.move (t.slotAddr d i) (t.pageAddr d i) MiB).countLines 7 (s.slotAddr d i) MiB).countLines 7 (s.pageAddr d i) MiB := by
        unfold State.each
        rw [List.foldl_cons]
        dsimp only
        rw [hv]
    dsimp only
    rw [ee]
    refine ⟨?_, a2, a3.trans hm.2.2.1, a4.trans hm.2.2.2.1, a5.trans hm.2.2.2.2.1, a6.trans hm.2.2.2.2.2⟩
    rw [a1, hm.1]; rfl

theorem lookupKey_filter_key {α : Type} (f : Nat → Bool) (l : List (Nat × α)) (k : Nat) :
    lookupKey k (l.filter fun e => f e.1) = if f k then lookupKey k l else none := by
  induction l with
  | nil => simp [lookupKey]
  | cons e l ih =>
    rw [List.filter_cons]
    by_cases hk : k = e.1
    · subst hk
      by_cases hf : f e.1 = true
      · simp [hf, lookupKey]
      · simp [hf, ih, lookupKey]
    · split
      · simp [lookupKey, hk, ih]
      · rw [ih]; simp [lookupKey, hk]

theorem dropImage_leaves (s : State) (d : Nat) :
    ((s.dropImage d).district d).img.active = none ∧ ((s.dropImage d).district d).img.commit = 0 ∧ ((s.dropImage d).district d).orb.phase = .none
      ∧ ((s.dropImage d).district d).host.cmdEn = false ∧ ((s.dropImage d).district d).host.cplEn = false ∧ ((s.dropImage d).district d).host.cmds = []
      ∧ (s.dropImage d).windows = ⟨s.windows.entries.filter fun w => w.1 / 256 != d || w.1 % 256 == 0⟩ := by
  unfold State.dropImage
  extract_lets s0 ps s1 s2 s3 s4 s5 s6 o s7 s8 s9
  have k4 : s4.windows = s.windows := by
    have : Keeps false false false true s s4 := by
      dsimp only [s4, s3, s2, s1, s0]
      repeat' (with_reducible first | apply State.takeBack_keeps | exact Keeps.refl s | refine Keeps.each ?_ (fun _ _ _ => ?_) | apply State.killBox_keeps | apply State.modQueue_keeps | apply State.modRing_keeps | apply State.modCore_keeps | assumption | split)
    exact this.keys rfl
  clear_value s4
  have e : ∀ (ps : List Nat) (t : State), (t.unbindPorts ps).dist = t.dist ∧ (t.unbindPorts ps).windows = t.windows := by
    intro ps t
    unfold State.unbindPorts
    constructor
    · refine State.each_field (fun t => t.dist) ?_ _ _
      intro x u; rfl
    · refine State.each_field (fun t => t.windows) ?_ _ _
      intro x u; rfl
  have ed : ∀ k, (s9.unbindPorts ps).district k = s9.district k := fun k => by unfold State.district; rw [(e _ _).1]
  rw [ed, (e _ _).2]
  have n9 : s9.district d = { s8.district d with num := (s9.district d).num } := by
    dsimp only [s9]; unfold State.modNum State.modDist State.district; rw [Tbl.get_set_self]
  have n8 : s8.district d = { s7.district d with orb := (s8.district d).orb } := by
    dsimp only [s8]; unfold State.modOrb State.modDist State.district; rw [Tbl.get_set_self]
  have n8' : (s8.district d).orb.phase = .none := by
    dsimp only [s8]; rw [State.modOrb_district]
  have n7 : s7.district d = { s6.district d with img := (s7.district d).img } := by
    dsimp only [s7]; unfold State.modImg State.modDist State.district; rw [Tbl.get_set_self]
  have n7' : (s7.district d).img.active = none ∧ (s7.district d).img.commit = 0 := by
    dsimp only [s7]; rw [State.modImg_district]
    refine ⟨rfl, ?_⟩
    dsimp only
    split
    · assumption
    · rfl
  have n6 : (s6.district d).host = { (s5.district d).host with cmdEn := false, cplEn := false, cmds := [], outs := [] } := by
    dsimp only [s6]; rw [State.modHost_district]
  have w9 : s9.windows = s5.windows := rfl
  refine ⟨?_, ?_, ?_, ?_, ?_, ?_, ?_⟩
  · rw [n9, n8]; exact n7'.1
  · rw [n9, n8]; exact n7'.2
  · rw [n9]; exact n8'
  · rw [n9, n8, n7]; exact congrArg HostDist.cmdEn n6
  · rw [n9, n8, n7]; exact congrArg HostDist.cplEn n6
  · rw [n9, n8, n7]; exact congrArg HostDist.cmds n6
  · rw [w9]
    show (⟨s4.windows.entries.filter _⟩ : Tbl Window) = _
    rw [k4]

theorem release_mem (s : State) (d r u : Nat) : (s.release d r u).mem = s.mem :=
  (State.release_keeps (p := false) (q := false) (w := true) (y := true) (Keeps.refl _)).bytes rfl

theorem release_windows (s : State) (d r u : Nat) : (s.release d r u).windows = s.windows :=
  (State.release_keeps (p := false) (q := false) (w := true) (y := true) (Keeps.refl _)).keys rfl

theorem fence_mem (s : State) (d a b c : Nat) : (s.fence d a b c).mem = s.mem :=
  (State.fence_keeps (p := false) (q := false) (w := true) (y := true) (Keeps.refl _)).bytes rfl

theorem release_dist (s : State) (d r u k : Nat) : ((s.release d r u).district k).flt = (s.district k).flt := by
  have a : ∀ (t : State) e, (t.advance d r e).district k = t.district k := by
    intro t e
    unfold State.advance
    extract_lets x gone v
    split
    · rfl
    · unfold State.district
      rw [State.sendCtl_dist]
      rfl
  unfold State.release
  split
  · rfl
  · rw [a]; rfl

theorem move_mem' (s : State) (a b n : Nat) : (s.move a b n).mem = Memory.copy s.mem a b n := by
  unfold State.move
  rw [State.touched_eq]
  rfl

theorem move_district (s : State) (a b n k : Nat) : (s.move a b n).district k = s.district k := by
  unfold State.move
  rw [State.touched_eq]
  rfl

theorem move_halted (s : State) (a b n : Nat) : (s.move a b n).halted = s.halted := by
  unfold State.move State.touched State.setMem State.halted
  dsimp only
  repeat' split
  all_goals rfl

theorem zeroed (l : List Nat) (t : State) (c : Nat) (h : c ∈ l ∨ t.counter (ctrChannel c 6) = 0) :
    (t.each l fun k t => t.setCount (ctrChannel k 6) 0).counter (ctrChannel c 6) = 0 := by
  induction l generalizing t with
  | nil => rcases h with h | h
           · cases h
           · exact h
  | cons a l ih =>
    apply ih
    rw [State.counter_setCount]
    rcases h with h | h
    · rcases List.mem_cons.1 h with h | h
      · right; simp [h]
      · left; exact h
    · right
      split
      · rfl
      · exact h

end Sys2Proof.Machine
end

