-- ==== Sys2Proof/Laws/Host.lean ====
section
/-! SUPPORT. Host ports, their connections and the command engine. -/

set_option linter.unusedVariables false
set_option linter.unusedSimpArgs false

namespace Sys2Proof.Machine

/-- Only counters, host ports (their QPs) and what left the module differ. -/
structure OnlyHosts (s t : State) : Prop where
  same : t = { s with cnt := t.cnt, hosts := t.hosts, out := t.out }
  port : ∀ k, t.hostPort k = { s.hostPort k with qps := (t.hostPort k).qps }

theorem OnlyHosts.refl (s : State) : OnlyHosts s s := ⟨rfl, fun _ => rfl⟩

theorem OnlyHosts.trans {s t u : State} (a : OnlyHosts s t) (b : OnlyHosts t u) : OnlyHosts s u :=
  ⟨by rw [b.same, a.same], fun k => by rw [b.port, a.port]⟩

theorem modHostPort_self (s : State) (p : Nat) (f : HostPort → HostPort) : (s.modHostPort p f).hostPort p = f (s.hostPort p) := by
  unfold State.modHostPort State.hostPort; exact Tbl.get_set_self ..

theorem modHostPort_ne (s : State) {p k : Nat} (f : HostPort → HostPort) (h : k ≠ p) : (s.modHostPort p f).hostPort k = s.hostPort k := by
  unfold State.modHostPort State.hostPort; exact Tbl.get_set_ne _ _ _ h

theorem modQp_onlyHosts (s : State) (p q : Nat) (f : Qp → Qp) : OnlyHosts s (s.modQp p q f) := by
  unfold State.modQp
  split
  · exact OnlyHosts.refl s
  · refine ⟨rfl, fun k => ?_⟩
    by_cases hk : k = p
    · subst hk; rw [modHostPort_self]
    · rw [modHostPort_ne _ _ hk]

theorem arrived_onlyHosts (s : State) (p q n : Nat) (ce : Bool) : OnlyHosts s (s.arrived p q n ce) := by
  unfold State.arrived
  extract_lets s1 s2 x due now
  have h1 : OnlyHosts s s1 := ⟨rfl, fun _ => rfl⟩
  split
  · exact h1
  · have h2 : OnlyHosts s s2 := h1.trans ⟨rfl, fun _ => rfl⟩
    clear_value s2
    split
    · exact (h2.trans (modQp_onlyHosts ..)).trans ⟨rfl, fun _ => rfl⟩
    · exact h2

theorem portGate_same {s u : State} (o : OnlyHosts s u) (d : Option Nat) : u.portGate d = s.portGate d := by rw [o.same]; rfl

theorem hostDistrict_same {s u : State} (o : OnlyHosts s u) (p : Nat) : u.hostDistrict p = s.hostDistrict p := by rw [o.same]; rfl

theorem giveAnswer_out {s : State} {p : Nat} {a : Answer} (h : (s.hostPort p).paused = []) :
    (s.giveAnswer p a).out = .answer a :: s.out ∧ (s.giveAnswer p a).mem = s.mem ∧ (s.giveAnswer p a).dist = s.dist ∧ (s.giveAnswer p a).rings = s.rings
      ∧ (s.giveAnswer p a).cores = s.cores ∧ (s.giveAnswer p a).windows = s.windows := by
  unfold State.giveAnswer
  simp only [h, List.contains_nil, Bool.false_eq_true, if_false]
  cases a <;> exact ⟨rfl, rfl, rfl, rfl, rfl, rfl⟩

theorem request_open {s : State} {p qp d len : Nat} {ce : Bool} (h1 : s.hostUp p = true) (h2 : (s.qp p qp).isSome) (h3 : s.hostDistrict p = some d)
    (h5 : s.portGate (some d) = none) (f : Nat → State → State × Status × Option (List Byte)) :
    s.request p qp len ce f = (f d (s.arrived p qp len ce)).1.giveAnswer p (answerOf p qp (f d (s.arrived p qp len ce)).2.1 (f d (s.arrived p qp len ce)).2.2) := by
  have o := arrived_onlyHosts s p qp len ce
  have h2' : (s.qp p qp).isNone = false := by cases h : s.qp p qp <;> simp_all
  unfold State.request
  simp only [h1, h2', Bool.not_true, Bool.false_and, Bool.or_self, Bool.false_eq_true, if_false, hostDistrict_same o, h3, portGate_same o, h5, Option.getD_some]

theorem rdmaPut_ok {u : State} {d rkey addr : Nat} {data : List Byte} (hd : data ≠ []) (hl : data.length ≤ 2 ^ 31) (ha : addr < csrBase)
    (hk : u.keyOk d rkey addr data.length true = true) : u.rdmaPut d rkey addr data = ((u.write d addr data).wroteLines addr data.length, .done) := by
  have he : data.isEmpty = false := by cases data <;> simp_all
  have hl' : ¬ 2 ^ 31 < data.length := by omega
  have ha' : ¬ csrBase ≤ addr := by omega
  unfold State.rdmaPut
  rw [if_neg (by simp [he]), if_neg hl', if_neg (by simp [hk]), if_neg ha']

theorem rdmaPut_no {u : State} {d rkey addr : Nat} {data : List Byte} (hd : data ≠ []) (hl : data.length ≤ 2 ^ 31)
    (hk : u.keyOk d rkey addr data.length true = false) : u.rdmaPut d rkey addr data = (u, .refusedAccess) := by
  have he : data.isEmpty = false := by cases data <;> simp_all
  have hl' : ¬ 2 ^ 31 < data.length := by omega
  unfold State.rdmaPut
  rw [if_neg (by simp [he]), if_neg hl', if_pos (by simp [hk])]

theorem rdmaGet_ok {u : State} {d rkey addr len : Nat} (h0 : 0 < len) (hl : len ≤ 2 ^ 31) (ha : addr < csrBase)
    (hk : u.keyOk d rkey addr len false = true) : u.rdmaGet d rkey addr len = (.done, if isSram addr then u.bytes addr len else u.oldBytes d addr len) := by
  have h0' : ¬ len = 0 := by omega
  have hl' : ¬ 2 ^ 31 < len := by omega
  have ha' : ¬ csrBase ≤ addr := by omega
  unfold State.rdmaGet
  rw [if_neg h0', if_neg hl', if_neg (by simp [hk]), if_neg ha']

theorem rdmaGet_no {u : State} {d rkey addr len : Nat} (h0 : 0 < len) (hl : len ≤ 2 ^ 31)
    (hk : u.keyOk d rkey addr len false = false) : u.rdmaGet d rkey addr len = (.refusedAccess, []) := by
  have h0' : ¬ len = 0 := by omega
  have hl' : ¬ 2 ^ 31 < len := by omega
  unfold State.rdmaGet
  rw [if_neg h0', if_neg hl', if_pos (by simp [hk])]

theorem wroteLines_host (s : State) (a n d : Nat) : ((s.wroteLines a n).district d).host = (s.district d).host := by
  unfold State.wroteLines
  split
  · rfl
  · refine State.each_field (fun t => (t.district d).host) ?_ _ s
    exact fun _ _ => rfl

theorem modFlt_host (s : State) (d k : Nat) (f : FltDist → FltDist) : ((s.modFlt d f).district k).host = (s.district k).host := by
  by_cases h : k = d
  · subst h; rw [State.modFlt_district]
  · rw [State.modFlt_district_ne h]

theorem write_host (s : State) (d a k : Nat) (bs : List Byte) : ((s.write d a bs).district k).host = (s.district k).host := by
  have hp : ∀ (i : Nat) (t : State), ((t.dirtyPage d i).district k).host = (t.district k).host := by
    intro i t
    unfold State.dirtyPage
    extract_lets f s1 a s2 s3
    split
    · rfl
    · rw [modFlt_host]
      have h3 : s3.dist = s2.dist := by
        dsimp only [s3]
        rw [State.countLines_eq, State.countLines_eq s2]
      have h2 : s2.dist = s1.dist := State.move_dist s1 a (s1.slotAddr d i) MiB
      have : s3.district k = s1.district k := by unfold State.district; rw [h3, h2]
      rw [this]
      dsimp only [s1]
      split
      · rw [modFlt_host]
      · rfl
  unfold State.write
  split
  · rw [State.store_district_eq]
  · split
    · split
      · rfl
      · rw [State.store_district_eq]
    · rw [State.store_district_eq]
      unfold State.journal
      split
      · rfl
      · refine State.each_field (fun t => (t.district k).host) ?_ _ s
        exact hp

theorem lookupKey_filter {α : Type} (k : Nat) (l : List (Nat × α)) : lookupKey k (l.filter fun e => e.1 != k) = none := by
  induction l with
  | nil => rfl
  | cons e l ih =>
    by_cases h : e.1 = k
    · rw [List.filter_cons_of_neg (by simp [h])]; exact ih
    · rw [List.filter_cons_of_pos (by simp [h])]
      have h' : ¬ k = e.1 := fun x => h x.symm
      simp [lookupKey, h', ih]

theorem lookupKey_filter_ne {α : Type} {j k : Nat} (h : j ≠ k) (l : List (Nat × α)) : lookupKey j (l.filter fun e => e.1 != k) = lookupKey j l := by
  induction l with
  | nil => rfl
  | cons e l ih =>
    by_cases h' : e.1 = k
    · rw [List.filter_cons_of_neg (by simp [h']), ih]
      have : ¬ j = e.1 := by omega
      simp [lookupKey, this]
    · rw [List.filter_cons_of_pos (by simp [h'])]
      by_cases h2 : e.1 = j
      · simp [lookupKey, h2]
      · have h3 : ¬ j = e.1 := fun x => h2 x.symm
        simp [lookupKey, h3, ih]

theorem emit_hostPort (s : State) (o : Output) (p : Nat) : (s.emit o).hostPort p = s.hostPort p := rfl

theorem count_hostPort (s : State) (k n p : Nat) : (s.count k n).hostPort p = s.hostPort p := rfl

theorem answers_out (l : List Answer) (t : State) : (t.each l fun a t => t.emit (.answer a)).out = (l.map Output.answer).reverse ++ t.out := by
  induction l generalizing t with
  | nil => rfl
  | cons a l ih =>
    refine (ih (t.emit (.answer a))).trans ?_
    simp [State.emit]

theorem answers_hosts (l : List Answer) (t : State) : (t.each l fun a t => t.emit (.answer a)).hosts = t.hosts := by
  refine State.each_field (fun t => t.hosts) ?_ _ _
  exact fun _ _ => rfl

theorem answers_mem (l : List Answer) (t : State) : (t.each l fun a t => t.emit (.answer a)).mem = t.mem := by
  refine State.each_field (fun t => t.mem) ?_ _ _
  exact fun _ _ => rfl

theorem takeAddress_qps (x : HostPort) : x.takeAddress.qps = x.qps := by
  unfold HostPort.takeAddress
  split
  · rfl
  · split <;> rfl

theorem modQp_qp {s : State} {p q : Nat} {x : Qp} (h : s.qp p q = some x) (f : Qp → Qp) :
    (s.modQp p q f).qp p q = some (f x) ∧ (s.modQp p q f).mem = s.mem := by
  unfold State.modQp
  have h' : lookupKey q (s.hostPort p).qps.entries = some x := h
  rw [h']
  refine ⟨?_, rfl⟩
  unfold State.qp
  rw [modHostPort_self]
  simp only [Tbl.set]
  rw [lookupKey_insertKey]; simp

theorem modHost_back (s : State) (d k : Nat) (f : HostDist → HostDist) (h : k ≠ d) : ((s.modHost d f).district k) = (s.district k) := by
  unfold State.modHost State.modDist State.district
  exact Tbl.get_set_ne _ _ _ h

theorem finishCmd_cmds (s : State) (d i : Nat) (st : Status) (n : Nat) : ((s.finishCmd d i st n).district d).host = { (s.district d).host with cmds := (s.district d).host.cmds.map fun c => if c.index = i && c.done.isNone then { c with done := some (st, n, s.orbitNow) } else c } := by
  unfold State.finishCmd
  rw [State.modHost_district]

theorem finishCmd_mem (s : State) (d i : Nat) (st : Status) (n : Nat) : (s.finishCmd d i st n).mem = s.mem := rfl

theorem put_host (s : State) (d a n k : Nat) (bs : List Byte) : (((s.write d a bs).wroteLines a n).district k).host = (s.district k).host := by
  rw [wroteLines_host, write_host]

theorem put_orbit (s : State) (d a n : Nat) (bs : List Byte) : ((s.write d a bs).wroteLines a n).orbitNow = s.orbitNow := by
  have : ((s.write d a bs).wroteLines a n).orb = s.orb := by
    have h : ((s.write d a bs).wroteLines a n).orb = (s.write d a bs).orb := by
      unfold State.wroteLines
      split
      · rfl
      · refine State.each_field (fun t => t.orb) ?_ _ _
        exact fun _ _ => rfl
    rw [h, State.write_onlyBytes]
  unfold State.orbitNow; rw [this]

end Sys2Proof.Machine
end

