-- ==== Sys2Proof/Laws/Ports.lean ====
section
/-! SUPPORT. Frames, rings and ports. -/

set_option linter.unusedVariables false
set_option linter.unusedSimpArgs false

namespace Sys2Proof.Machine

theorem ctl_op {f : Frame} {s : State} {p row h : Nat} {pay : List Byte} (a : s.takes p f row h pay) (h0 : row ≠ 0) (hr : row ≤ 13) : hdrOpcode h = row := by
  obtain ⟨a1, a2, a3, a4, a5, a6, a7, a8, a9⟩ := a
  rw [a5, (hdr_mod _).2.2.1]
  have := (opcode_of_row a7 h0).2
  omega

theorem pump_idle {s : State} {d r e : Nat} (h : (s.ring r).waiting = []) : s.pump d r e = s := by
  unfold State.pump
  rw [h]
  rfl

theorem txRing_same {s u : State} (o : OnlyLines s u) (d l i : Nat) : u.txRing d l i = s.txRing d l i := by rw [o.same]; rfl

theorem active_same {s u : State} (o : OnlyLines s u) (d : Nat) : u.active d = s.active d := by rw [o.same]; rfl

theorem held_same {s u : State} (o : OnlyLines s u) (d : Nat) : u.held d = s.held d := by rw [o.same]; rfl

theorem complete_ring (s : State) (w : Sender) (k : OutKind → Bool) (i : Nat) : (s.complete w k).ring i = s.ring i := by
  unfold State.complete State.finishCmd
  cases w <;> rfl

theorem frameLeft_ring (s : State) (f : TxFrame) (i : Nat) : (s.frameLeft f).ring i = s.ring i := by
  unfold State.frameLeft
  split
  · exact complete_ring ..
  · rfl

theorem killRing_ring (s : State) (d r k : Nat) : (s.killRing d r).ring k = if k = r then { s.ring r with state := 2, waiting := [] } else s.ring k := by
  unfold State.killRing
  extract_lets x mine cut s1 s2 s3 s4 s5
  have h2 : s2.ring k = if k = r then { s.ring r with state := 2, waiting := [] } else s.ring k := by
    have e1 : ∀ j, s1.ring j = s.ring j := fun _ => rfl
    by_cases hk : k = r
    · subst hk; dsimp only [s2]; rw [State.modRing_ring, if_pos rfl, e1]
    · dsimp only [s2]; rw [State.modRing_ring_ne hk, if_neg hk, e1]
  have h3 : s3.ring k = s2.ring k := rfl
  have h4 : s4.ring k = s3.ring k := State.each_field (fun t => t.ring k) (fun m t => complete_ring ..) _ s3
  have h5 : s5.ring k = s4.ring k := State.each_field (fun t => t.ring k) (fun f t => frameLeft_ring ..) _ s4
  have h : s5.ring k = if k = r then { s.ring r with state := 2, waiting := [] } else s.ring k := h5.trans (h4.trans (h3.trans h2))
  clear_value s5
  split
  · exact h
  · split
    · exact h
    · rw [State.notice_ring_eq]; exact h

theorem spreadHold_dist (s : State) (d : Nat) (x : Option Nat) (a b c e : Nat) : (s.spreadHold d x a b c e).dist = s.dist := by
  unfold State.spreadHold
  refine State.each_field State.dist (fun l t => ?_) _ s
  split
  · exact State.sendCtl_dist ..
  · refine State.each_field State.dist ?_ _ t
    exact fun _ _ => rfl

theorem holdFor_held (s : State) (d code unit info : Nat) (h1 : s.fenced d = false) (h2 : s.halted = false) (h3 : (s.active d).isSome) :
    (s.holdFor d code unit info).held d = true := by
  unfold State.holdFor
  dsimp only
  split <;> exact State.rollbackHold_held _ _ _ _ _ h1 h2 h3

theorem restart_row {f : Frame} {s : State} {p row h : Nat} {pay : List Byte} (a : s.takes p f row h pay) (h0 : row ≠ 0) :
    (row = 0xA ∨ row = 0xB → hdrOpcode h = row ∧ isRestart pay = false)
      ∧ (row = 0x1A ∨ row = 0x1B → 16 + hdrOpcode h = row ∧ isRestart pay = true) := by
  obtain ⟨a1, a2, a3, a4, a5, a6, a7, a8, a9⟩ := a
  rw [a5, (hdr_mod _).2.2.1]
  unfold frameRow at a7
  simp only at a7
  split at a7
  · exact absurd a7.symm h0
  · split at a7
    · rename_i h2
      simp only [Bool.and_eq_true, Bool.or_eq_true, decide_eq_true_eq] at h2
      constructor
      · intro h; omega
      · intro _; exact ⟨a7, h2.2⟩
    · rename_i h2
      simp only [Bool.and_eq_true, Bool.or_eq_true, decide_eq_true_eq, not_and, Bool.not_eq_true] at h2
      split at a7
      · constructor
        · intro h
          refine ⟨a7, h2 ?_⟩
          rcases h with h | h
          · left; omega
          · right; omega
        · intro h; simp only [Bool.and_eq_true, decide_eq_true_eq] at *; omega
      · exact absurd a7.symm h0

theorem advanceBar_down {s : State} {d : Nat} (h : (s.district d).bar.down = false) : s.advanceBar d = s := by
  unfold State.advanceBar
  extract_lets b kids
  have hb : b.down = false := h
  split
  · rfl
  · rw [if_pos (by simp [hb])]

theorem advanceAmax_none {s : State} {d : Nat} (h : (s.district d).bar.arrived = none) : s.advanceAmax d = s := by
  unfold State.advanceAmax
  simp [h]

theorem slotsOf_same {s u : State} (o : OnlyLines s u) (d : Nat) : u.slotsOf d = s.slotsOf d := by rw [o.same]; rfl

theorem keepBytes {s t : State} (h : Keeps false false true false s t) : t.mem = s.mem := h.bytes rfl

theorem modBar_active (s : State) (d k : Nat) (f : Barrier → Barrier) : (s.modBar d f).active k = s.active k := by
  unfold State.active
  by_cases h : k = d
  · subst h; rw [State.modBar_district]
  · rw [State.modBar_district_ne h]

theorem modBar_slotsOf (s : State) (d k : Nat) (f : Barrier → Barrier) : (s.modBar d f).slotsOf k = s.slotsOf k := by
  unfold State.slotsOf State.entries
  rw [modBar_active]

theorem modBar_job (s : State) (d k : Nat) (f : Barrier → Barrier) : (s.modBar d f).job k = s.job k := by
  unfold State.job
  rw [modBar_active]

theorem combined_keep (l : List (Nat × Nat)) (s : State) (k : Nat) (h : ∀ x ∈ l, x.1 ≠ k) :
    (s.each l fun (k, v) t => t.modSlot k fun x => { x with combined := some v }).slot k = s.slot k := by
  induction l generalizing s with
  | nil => rfl
  | cons a l ih =>
    refine (ih _ fun x hx => h x (List.mem_cons_of_mem _ hx)).trans ?_
    exact State.modSlot_slot_ne (h a List.mem_cons_self).symm

theorem combined_all (ks : List Nat) (vs : List Nat) (s : State) (hn : ks.Nodup) (hl : vs.length = ks.length) :
    ∀ (i k v : Nat), ks[i]? = some k → vs[i]? = some v →
      ((s.each (ks.zip vs) fun (k, v) t => t.modSlot k fun x => { x with combined := some v }).slot k).combined = some v := by
  induction ks generalizing s vs with
  | nil => intro i k v h; simp at h
  | cons a l ih =>
    cases vs with
    | nil => simp at hl
    | cons b vs =>
      intro i k v h1 h2
      cases i with
      | zero =>
        simp only [List.getElem?_cons_zero, Option.some.injEq] at h1 h2
        subst h1 h2
        have := combined_keep (l.zip vs) (s.modSlot a fun x => { x with combined := some b }) a (by
          intro x hx hc
          have := (List.of_mem_zip (a := x.1) (b := x.2) hx).1
          rw [hc] at this
          exact (List.nodup_cons.1 hn).1 this)
        show (State.slot (State.each _ (l.zip vs) _) a).combined = _
        rw [this, State.modSlot_slot]
      | succ i =>
        simp only [List.getElem?_cons_succ] at h1 h2
        exact ih vs _ (List.nodup_cons.1 hn).2 (by simpa using hl) i k v h1 h2

theorem holdDown_leaf {s w : State} {d j : Nat} {got : List (Nat × Nat)} (w1 : w.slotsOf d = s.slotsOf d) (w2 : w.job d = some j)
    (w3 : (w.district d).mir.send = false) (w4 : w.mem = s.mem) (hc : jobChildren j true = []) (hp : jobParent j false ≠ none)
    (hn : (s.slotsOf d).Nodup) (hl : got.length = (s.slotsOf d).length) :
    ((w.holdDown d (got.map (·.2))).district d).bar.down = true ∧ (w.holdDown d (got.map (·.2))).mem = s.mem ∧
      ∀ (i k : Nat) (v : Nat × Nat), (s.slotsOf d)[i]? = some k → got[i]? = some v → ((w.holdDown d (got.map (·.2))).slot k).combined = some v.2 := by
  unfold State.holdDown
  rw [w1]
  generalize hx : w.each ((s.slotsOf d).zip (got.map (·.2))) (fun (k, v) t => t.modSlot k fun x => { x with combined := some v }) = x
  have xs := combined_all (s.slotsOf d) (got.map (·.2)) w hn (by simpa using hl)
  rw [hx] at xs
  have xd : x.dist = w.dist := by
    rw [← hx]; refine State.each_field State.dist ?_ _ w; exact fun _ _ => rfl
  have xm : x.mem = w.mem := by
    rw [← hx]; refine State.each_field State.mem ?_ _ w; exact fun _ _ => rfl
  have xj : x.job d = some j := by unfold State.job State.active State.district; rw [xd]; exact w2
  have xmir : (x.district d).mir.send = false := by unfold State.district; rw [xd]; exact w3
  clear hx
  simp only [xj, hc, State.each, List.foldl_nil, State.modBar_district, xmir, Bool.false_and, Bool.false_eq_true, if_false]
  generalize hy : x.modBar d (fun b => { b with down := true }) = y
  have y1 : (y.district d).bar.down = true := by rw [← hy, State.modBar_district]
  have y2 : y.mem = s.mem := by rw [← hy]; exact xm.trans w4
  have y3 : ∀ k, y.slot k = x.slot k := fun k => by rw [← hy]; rfl
  have y4 : y.job d = some j := by rw [← hy, modBar_job]; exact xj
  clear hy
  have main : ((y.advanceBar d).district d).bar.down = true ∧ (y.advanceBar d).mem = y.mem ∧ ∀ k, (y.advanceBar d).slot k = y.slot k := by
    unfold State.advanceBar
    extract_lets b kids z
    split
    · exact ⟨y1, rfl, fun _ => rfl⟩
    · split
      · exact ⟨y1, rfl, fun _ => rfl⟩
      · have zr : z.isRoot d false = false := by
          unfold State.isRoot
          have : z.job d = some j := by dsimp only [z]; rw [modBar_job]; exact y4
          rw [this]
          cases hq : jobParent j false <;> simp_all
        simp only [zr, Bool.false_eq_true, if_false]
        have z1 : (z.district d).bar.down = true := by dsimp only [z]; rw [State.modBar_district]; exact y1
        have z2 : z.mem = y.mem := rfl
        have z3 : ∀ k, z.slot k = y.slot k := fun _ => rfl
        clear_value z
        refine ⟨?_, ?_, ?_⟩
        · rw [State.modOrb_district]
          show ((z.sendUp d 0xA _ false).district d).bar.down = true
          unfold State.district; rw [State.sendUp_dist]; exact z1
        · exact (keepBytes (State.sendUp_keeps (Keeps.refl z))).trans z2
        · intro k
          refine Eq.trans ?_ (z3 k)
          show (z.sendUp d 0xA _ false).slot k = z.slot k
          unfold State.sendUp State.sendCtl
          split
          · rfl
          · split <;> rfl
  refine ⟨main.1, main.2.1.trans y2, ?_⟩
  intro i k v h1 h2
  rw [main.2.2, y3]
  exact xs i k v.2 h1 (by rw [List.getElem?_map, h2]; rfl)

theorem port_op {f : Frame} {s : State} {p row h : Nat} {pay : List Byte} (a : s.takes p f row h pay) (h0 : row ≠ 0) (hr : row ≤ 13) (hc : ctlLength row pay = true) :
    ctlLength (hdrOpcode h) pay = true := by rw [ctl_op a h0 hr]; exact hc

theorem taken_port (s : State) (p n c m : Nat) : ((s.taken p n).freeFlits p c m).port p = { s.port p with gotFrame := true, expected := ((s.port p).expected + 1) % 4096, nakSent := false, freed := (s.port p).freed.modify c fun v => (v + m) % 2 ^ 16 } := by
  unfold State.freeFlits
  rw [State.modPort_port]
  have : (s.taken p n).port p = (s.modPort p fun x => { x with gotFrame := true, expected := (x.expected + 1) % 4096, nakSent := false }).port p := rfl
  rw [this, State.modPort_port]

theorem taken_port_ne (s : State) (p n c m k : Nat) (h : k ≠ p) : ((s.taken p n).freeFlits p c m).port k = s.port k := by
  unfold State.freeFlits
  rw [State.modPort_port_ne h]
  have : (s.taken p n).port k = (s.modPort p fun x => { x with gotFrame := true, expected := (x.expected + 1) % 4096, nakSent := false }).port k := rfl
  rw [this, State.modPort_port_ne h]

theorem lookup_insert {α : Type} (k : Nat) (v : α) (l : List (Nat × α)) : lookupKey k (insertKey k v l) = some v := by
  induction l with
  | nil => simp [insertKey, lookupKey]
  | cons a l ih =>
    obtain ⟨j, w⟩ := a
    unfold insertKey
    split
    · simp [lookupKey]
    · split
      · simp [lookupKey]
      · rename_i h1 h2
        simp [lookupKey, h2, ih]

theorem store_ports (s : State) (a : Nat) (b : List Byte) : (s.store a b).ports = s.ports := by unfold State.store; rw [State.touched_eq]; rfl

theorem store_rings (s : State) (a : Nat) (b : List Byte) : (s.store a b).rings = s.rings := by unfold State.store; rw [State.touched_eq]; rfl

theorem store_orb (s : State) (a : Nat) (b : List Byte) : (s.store a b).orb = s.orb := by unfold State.store; rw [State.touched_eq]; rfl

theorem store_dist (s : State) (a : Nat) (b : List Byte) : (s.store a b).dist = s.dist := by unfold State.store; rw [State.touched_eq]; rfl

theorem freeFlits_ring (s : State) (p c n k : Nat) : (s.freeFlits p c n).ring k = s.ring k := rfl

theorem flags8 (v : Nat) (h : fld v 0 0 5 = 8) : fld v 0 0 1 = 0 ∧ fld v 0 1 1 = 0 ∧ fld v 0 2 1 = 0 ∧ fld v 0 3 1 = 1 ∧ fld v 0 4 1 = 0 := by
  unfold fld bits at *
  simp only [Nat.shiftRight_eq_div_pow] at *
  omega

theorem emit_all (l : List (Nat × TxFrame)) (p : Nat) (s : State) :
    let t := s.each l fun (n, f) t => let (h, b) := f.image n; t.emit (.frame p (frameSlots h b))
    t = { s with out := (l.map fun f => Output.frame p (frameSlots (f.2.image f.1).1 (f.2.image f.1).2)).reverse ++ s.out } := by
  induction l generalizing s with
  | nil => rfl
  | cons a l ih =>
    obtain ⟨n, f⟩ := a
    refine (ih _).trans ?_
    simp only [List.map_cons, List.reverse_cons, List.append_assoc, State.emit, List.singleton_append]

theorem enterRetrain_port (s : State) (p i : Nat) : ((s.enterRetrain p i).port p).state = 8 ∧ ((s.enterRetrain p i).port p).resends = 0
    ∧ ((s.enterRetrain p i).port p).replay = (s.port p).replay ∧ ((s.enterRetrain p i).port p).map = (s.port p).map ∧ ((s.enterRetrain p i).port p).spareUsed = (s.port p).spareUsed
    ∧ ((s.enterRetrain p i).port p).failedRetrains = (s.port p).failedRetrains ∧ ((s.enterRetrain p i).port p).retrainEv = true := by
  have card : ∀ u : State, ∃ q, (u.sendCard p).port p = { u.port p with cardLocal := u.cardOf p, queue := q } := by
    intro u
    unfold State.sendCard
    dsimp only
    split
    · exact ⟨(u.port p).queue, by rw [State.modPort_port]⟩
    · unfold State.portCtl State.toPort
      split
      · exact ⟨(u.port p).queue, by rw [State.modPort_port]⟩
      · dsimp only
        exact ⟨_, by rw [State.modPort_port, State.modPort_port]⟩
  unfold State.enterRetrain
  dsimp only
  obtain ⟨q, hq⟩ := card (((s.modPort p fun x => { x with state := 8, retrainEv := true, resends := 0, qcause := 0, cardSeen := false }).count (ctrPort p 6) 1).portNotice p 0x41 i)
  rw [hq]
  have : (((s.modPort p fun x => { x with state := 8, retrainEv := true, resends := 0, qcause := 0, cardSeen := false }).count (ctrPort p 6) 1).portNotice p 0x41 i).port p = { s.port p with state := 8, retrainEv := true, resends := 0, qcause := 0, cardSeen := false } := by
    unfold State.portNotice
    rw [State.notice_port_eq]
    rw [State.count_port_eq, State.modPort_port]
  rw [this]
  exact ⟨rfl, rfl, rfl, rfl, rfl, rfl, rfl⟩

theorem drr_keep (ready : Nat → Option TxFrame) (w : Nat → Nat) (n : Nat) (x : Port) :
    (drrGo ready w n x).1.queue = x.queue ∧ (drrGo ready w n x).1.replay = x.replay ∧ (drrGo ready w n x).1.next = x.next := by
  induction n generalizing x with
  | zero => exact ⟨rfl, rfl, rfl⟩
  | succ k ih =>
    unfold drrGo
    extract_lets c y
    split
    · exact ih _
    · have hy : y.queue = x.queue ∧ y.replay = x.replay ∧ y.next = x.next := by dsimp only [y]; split <;> exact ⟨rfl, rfl, rfl⟩
      clear_value y
      split
      · exact hy
      · have := ih { y with drrAt := (c + 1) % 4, drrOn := false }
        exact ⟨this.1.trans hy.1, this.2.1.trans hy.2.1, this.2.2.trans hy.2.2⟩

/-- The next BSEQ of a class touches the queues of the lines alone. -/
theorem State.nextBseq_eq (s : State) (f : TxFrame) : s.nextBseq f = { s with lanes := (s.nextBseq f).lanes } := by
  unfold State.nextBseq
  split <;> rfl

theorem transmit_plain (s : State) (p : Nat) (f : TxFrame) (hw : f.who = none) (hs : f.src = none) :
    ((s.transmit p f).port p).queue = (s.port p).queue.erase f ∧ ((s.transmit p f).port p).replay = (s.port p).replay ++ [((s.port p).next, { s.asSent f with who := none })]
      ∧ ((s.transmit p f).port p).next = ((s.port p).next + 1) % 4096
      ∧ (s.transmit p f).out = .frame p (frameSlots ((s.asSent f).image (s.port p).next).1 ((s.asSent f).image (s.port p).next).2) :: s.out
      ∧ (∀ k, k ≠ p → (s.transmit p f).port k = s.port k) ∧ (s.transmit p f).mem = s.mem ∧ (s.transmit p f).rings = s.rings ∧ (s.transmit p f).cores = s.cores := by
  unfold State.transmit
  simp only [hs, State.frameLeft, hw]
  generalize hu : (State.count _ (ctrPort p 2) f.flits) = u
  have n1 := s.nextBseq_eq f
  have n2 : ∀ k, (s.nextBseq f).port k = s.port k := fun k => by unfold State.port; rw [n1]
  have e1 : (u.port p).queue = (s.port p).queue.erase f ∧ (u.port p).replay = (s.port p).replay ++ [((s.port p).next, { s.asSent f with who := none })]
      ∧ (u.port p).next = ((s.port p).next + 1) % 4096 := by
    rw [← hu, State.count_port_eq, State.count_port_eq, State.modPort_port, n2]; exact ⟨rfl, rfl, rfl⟩
  have e2 : u.out = s.out := by rw [← hu, State.count_out, State.count_out, State.modPort_out, n1]
  have e3 : ∀ k, k ≠ p → u.port k = s.port k := by intro k hk; rw [← hu, State.count_port_eq, State.count_port_eq, State.modPort_port_ne hk, n2]
  have e4 : u.mem = s.mem ∧ u.rings = s.rings ∧ u.cores = s.cores := by
    rw [← hu, n1]
    exact ⟨rfl, rfl, rfl⟩
  clear hu
  have hv : ∀ v : State, v = (if f.arb = 5 then u.count (ctrPort p 13) f.flits else u) → v.ports = u.ports ∧ v.out = u.out ∧ v.mem = u.mem ∧ v.rings = u.rings ∧ v.cores = u.cores := by
    intro v hv; subst hv; split <;> exact ⟨rfl, rfl, rfl, rfl, rfl⟩
  generalize hv' : (if f.arb = 5 then u.count (ctrPort p 13) f.flits else u) = v
  obtain ⟨v1, v2, v3, v4, v5⟩ := hv v hv'.symm
  have vp : ∀ k, v.port k = u.port k := fun k => by unfold State.port; rw [v1]
  simp only [State.emit_port_eq, State.emit_out, State.emit_mem, State.emit_rings, State.emit_cores, vp, e1.1, e1.2.1, e1.2.2, v2, e2, v3, v4, v5, true_and]
  exact ⟨e3, e4⟩

theorem complete_ports (s : State) (w : Sender) (k : OutKind → Bool) : (s.complete w k).ports = s.ports := by
  unfold State.complete State.finishCmd
  cases w <;> rfl

/-- Every port keeps its state, causes and mark of going down. -/
def PK (s t : State) : Prop := ∀ k, (t.port k).state = (s.port k).state ∧ (t.port k).dcause = (s.port k).dcause ∧ (t.port k).downEv = (s.port k).downEv ∧ (t.port k).qcause = (s.port k).qcause

theorem PK.refl (s : State) : PK s s := fun _ => ⟨rfl, rfl, rfl, rfl⟩

theorem PK.trans {s t u : State} (a : PK s t) (b : PK t u) : PK s u := fun k => ⟨(b k).1.trans (a k).1, (b k).2.1.trans (a k).2.1, (b k).2.2.1.trans (a k).2.2.1, (b k).2.2.2.trans (a k).2.2.2⟩

theorem PK.of {s t : State} (h : t.ports = s.ports) : PK s t := fun k => by unfold State.port; rw [h]; exact ⟨rfl, rfl, rfl, rfl⟩

theorem PK.each {α : Type} {s t : State} {l : List α} {f : α → State → State} (h : PK s t) (hf : ∀ x u, PK u (f x u)) : PK s (t.each l f) := by
  induction l generalizing t with
  | nil => exact h
  | cons a l ih => exact ih (h.trans (hf a t))

theorem PK.mod (s : State) (p : Nat) (f : Port → Port) (h : ∀ x, (f x).state = x.state ∧ (f x).dcause = x.dcause ∧ (f x).downEv = x.downEv ∧ (f x).qcause = x.qcause) : PK s (s.modPort p f) := by
  intro k
  by_cases hk : k = p
  · subst hk; rw [State.modPort_port]; exact h _
  · rw [State.modPort_port_ne hk]; exact ⟨rfl, rfl, rfl, rfl⟩

/-- Taking frames back empties queues alone. -/
theorem takeBack_pk (s : State) (g : TxFrame → Bool) : PK s (s.takeBack g) := by
  intro k
  have e : (s.takeBack g).port k = { s.port k with queue := (s.port k).queue.filter fun f => !(f.turn.isSome && g f) } := by
    unfold State.port State.takeBack
    exact Tbl.get_map _ _ _ _ rfl
  rw [e]
  exact ⟨rfl, rfl, rfl, rfl⟩

theorem frameLeft_ports (s : State) (f : TxFrame) : (s.frameLeft f).ports = s.ports := by
  unfold State.frameLeft
  split
  · exact complete_ports ..
  · rfl

theorem abort_pk (s : State) (d : Nat) : PK s (s.abort d) := by
  unfold State.abort
  extract_lets s1 s2 s3 gone cut s4 s5 s6 s7 s8
  have h1 : PK s s1 := PK.each (PK.refl s) fun _ u => PK.of rfl
  have h2 : PK s1 s2 := PK.each (PK.refl s1) fun _ u => PK.of rfl
  have h3 : PK s2 s3 := PK.each (PK.refl s2) fun _ u => PK.of rfl
  clear_value s3 gone cut
  have h4 : PK s3 s4 := by
    refine PK.each (takeBack_pk s3 gone) fun f u => ?_
    split
    · exact PK.of (frameLeft_ports ..)
    · exact PK.refl u
  clear_value s4
  have h5 : PK s4 s5 := PK.of rfl
  have h6 : PK s5 s6 := PK.of rfl
  have h7 : PK s6 s7 := PK.of rfl
  have h8 : PK s7 s8 := PK.of rfl
  have h9 : PK s8 (s8.countDist d 40 1) := PK.of rfl
  exact (((((((h1.trans h2).trans h3).trans h4).trans h5).trans h6).trans h7).trans h8).trans h9

theorem rollbackHold_pk (s : State) (d a b c : Nat) : PK s (s.rollbackHold d a b c) := by
  unfold State.rollbackHold
  extract_lets s1 x s2
  have h1 : PK s s1 := PK.of State.event_ports
  split
  · exact h1
  · have h2 : PK s1 s2 := by
      dsimp only [s2]
      split
      · exact PK.of rfl
      · exact abort_pk _ _
    clear_value s2
    unfold State.enterHold
    split
    · exact h1.trans h2
    · exact (h1.trans h2).trans (PK.of rfl)

theorem holdFor_pk (s : State) (d a b c : Nat) : PK s (s.holdFor d a b c) := by
  unfold State.holdFor
  dsimp only
  split <;> exact rollbackHold_pk _ _ _ _ _

theorem killRing_pk (s : State) (d r : Nat) : PK s (s.killRing d r) := by
  unfold State.killRing
  extract_lets x mine cut s1 s2 s3 s4 s5
  have h1 : PK s s1 := takeBack_pk s mine
  clear_value s1
  have h3 : PK s1 s3 := PK.of rfl
  have h4 : PK s3 s4 := PK.of (State.each_field State.ports (fun m t => complete_ports ..) _ s3)
  have h5 : PK s4 s5 := PK.of (State.each_field State.ports (fun m t => frameLeft_ports ..) _ s4)
  have h : PK s s5 := ((h1.trans h3).trans h4).trans h5
  clear_value s5
  split
  · exact h
  · split
    · exact h.trans (PK.of rfl)
    · exact h.trans (PK.of State.notice_ports)

theorem spreadHold_pk (s : State) (d : Nat) (x : Option Nat) (a b c e : Nat) : PK s (s.spreadHold d x a b c e) := by
  unfold State.spreadHold
  refine PK.each (PK.refl s) fun l u => ?_
  split
  · refine PK.of ?_; unfold State.sendCtl; split <;> rfl
  · exact PK.each (PK.refl u) fun p v => PK.mod v p _ fun _ => ⟨rfl, rfl, rfl, rfl⟩

theorem portLost_pk (s : State) (p c : Nat) : PK s (s.portLost p c) := by
  unfold State.portLost
  split
  · exact PK.refl s
  · split
    · exact PK.refl s
    · split
      · exact PK.refl s
      · unfold State.loseNeighbour
        extract_lets s1 s2
        have h1 : PK s s1 := PK.each (PK.refl s) fun r u => killRing_pk _ _ _
        split
        · exact h1
        · have h2 : PK s1 s2 := holdFor_pk _ _ _ _ _
          exact (h1.trans h2).trans (spreadHold_pk _ _ _ _ _ _ _)

theorem moveFrames_pk (s : State) (p : Nat) : PK s (s.moveFrames p) := by
  unfold State.moveFrames
  extract_lets x fs s1
  have h1 : PK s s1 := PK.mod s p _ fun _ => ⟨rfl, rfl, rfl, rfl⟩
  clear_value s1
  split
  · exact h1
  · extract_lets ps ps'
    refine PK.each h1 fun f u => ?_
    split
    · exact PK.mod u _ _ fun _ => ⟨rfl, rfl, rfl, rfl⟩
    · split
      · exact PK.mod u _ _ fun _ => ⟨rfl, rfl, rfl, rfl⟩
      · exact PK.refl u

theorem goDark_port (s : State) (p dc : Nat) : ((s.goDark p 0 dc).port p).state = 0 ∧ ((s.goDark p 0 dc).port p).dcause = dc ∧ ((s.goDark p 0 dc).port p).downEv = true := by
  unfold State.goDark
  extract_lets s1 s2
  have e1 : (s1.port p).state = 0 ∧ (s1.port p).dcause = dc ∧ (s1.port p).downEv = true := by
    dsimp only [s1]; rw [State.modPort_port]; exact ⟨rfl, rfl, by simp⟩
  have h2 : PK s1 s2 := by
    dsimp only [s2]; rw [if_pos rfl]; unfold State.portNotice; exact PK.of (by rw [State.notice_ports]; rfl)
  have h := (h2.trans (moveFrames_pk s2 p)).trans (portLost_pk _ p 3) p
  exact ⟨h.1.trans e1.1, h.2.1.trans e1.2.1, h.2.2.1.trans e1.2.2⟩

/-- A frame of the port itself goes into its queue, unless a fence stops it. -/
theorem portCtl_port (u : State) (p op : Nat) (b : List Byte) : ∃ q, (u.portCtl p op b).port p = { u.port p with queue := q } := by
  unfold State.portCtl State.toPort
  split
  · exact ⟨(u.port p).queue, rfl⟩
  · dsimp only
    exact ⟨_, by rw [State.modPort_port]⟩

theorem portCtl_only (u : State) (p op : Nat) (b : List Byte) : u.portCtl p op b = { u with ports := (u.portCtl p op b).ports } := by
  unfold State.portCtl State.toPort
  split <;> rfl

theorem portCtl_port_ne (u : State) (p op k : Nat) (b : List Byte) (h : k ≠ p) : (u.portCtl p op b).port k = u.port k := by
  unfold State.portCtl State.toPort
  split
  · rfl
  · exact State.modPort_port_ne h

theorem sendCard_port (u : State) (p : Nat) : ∃ q, (u.sendCard p).port p = { u.port p with cardLocal := u.cardOf p, queue := q } := by
    unfold State.sendCard
    dsimp only
    split
    · exact ⟨(u.port p).queue, by rw [State.modPort_port]⟩
    · unfold State.portCtl State.toPort
      split
      · exact ⟨(u.port p).queue, by rw [State.modPort_port]⟩
      · dsimp only
        exact ⟨_, by rw [State.modPort_port, State.modPort_port]⟩

theorem sendPings_port (u : State) (p : Nat) : ((u.sendPings p).port p).state = (u.port p).state ∧ ((u.sendPings p).port p).echoes = 0 ∧ ((u.sendPings p).port p).cardSeen = (u.port p).cardSeen := by
  unfold State.sendPings
  dsimp only
  have : ∀ (l : List Nat) (v : State), ((v.each l fun _ t => t.portCtl p 2 (leBytes 8 0)).port p).state = (v.port p).state ∧ ((v.each l fun _ t => t.portCtl p 2 (leBytes 8 0)).port p).echoes = (v.port p).echoes ∧ ((v.each l fun _ t => t.portCtl p 2 (leBytes 8 0)).port p).cardSeen = (v.port p).cardSeen := by
    intro l
    induction l with
    | nil => intro v; exact ⟨rfl, rfl, rfl⟩
    | cons a l ih =>
      intro v
      have h := ih (v.portCtl p 2 (leBytes 8 0))
      obtain ⟨q, hp⟩ := portCtl_port v p 2 (leBytes 8 0)
      rw [hp] at h
      exact h
  have h := this (List.range 16) (u.modPort p fun x => { x with echoes := 0 })
  rw [State.modPort_port] at h
  exact h

theorem sendCard_cnt (u : State) (p : Nat) : (u.sendCard p).cnt = u.cnt := by
  unfold State.sendCard
  dsimp only
  split
  · rfl
  · rw [portCtl_only]; rfl

theorem enterRetrain_cnt (s : State) (p i : Nat) : (s.enterRetrain p i).cnt = s.cnt.set (ctrPort p 6) ((s.cnt.get 0 (ctrPort p 6) + 1) % 2 ^ 64) := by
  unfold State.enterRetrain
  dsimp only
  rw [sendCard_cnt]
  unfold State.portNotice
  rw [State.notice_cnt]
  rfl

theorem cardMap_none {s : State} {p : Nat} (h1 : s.orb.join = false) (h2 : s.portEntry p = none) : s.cardMap p = none := by
  unfold State.cardMap
  rw [h1, h2]
  rfl

theorem settle_none {s : State} {p : Nat} (h1 : s.orb.join = false) (h2 : s.portEntry p = none) (h3 : s.tensorDistrict p = none) :
    s.settle p = s.modPort p fun x => { x with state := 5, qcause := 0 } := by
  unfold State.settle
  rw [cardMap_none h1 h2, h3]

theorem quarantine_plain (s : State) (p c : Nat) (h1 : (s.port p).state ≠ 7) (h4 : s.portEntry p = none) :
    ((s.quarantine p c).port p).state = 7 ∧ ((s.quarantine p c).port p).qcause = c ∧ (s.quarantine p c).counter (ctrPort p 18) = (s.counter (ctrPort p 18) + 1) % 2 ^ 64
      ∧ (∀ k, k ≠ p → (s.quarantine p c).port k = s.port k) := by
  unfold State.quarantine
  extract_lets x pr k m s1 s2 s3
  rw [if_neg h1]
  have e1 : s2.port p = { s.port p with state := 7, qcause := c } := by dsimp only [s2]; rw [State.modPort_port]; rfl
  have e2 : ∀ k, k ≠ p → s2.port k = s.port k := by intro k hk; dsimp only [s2]; rw [State.modPort_port_ne hk]; rfl
  have e3 : s2.cnt = s.cnt := rfl
  have e4 : s2.portEntry p = s.portEntry p := rfl
  clear_value s2
  have f1 : ∀ k, s3.port k = s2.port k := by intro k; dsimp only [s3]; unfold State.portNotice; rw [State.notice_port_eq]; rfl
  have f2 : s3.cnt = s2.cnt.set (ctrPort p 18) ((s2.cnt.get 0 (ctrPort p 18) + 1) % 2 ^ 64) := by dsimp only [s3]; unfold State.portNotice; rw [State.notice_cnt]; rfl
  have f3 : s3.portEntry p = none := by
    have : s3.portEntry p = s2.portEntry p := by
      dsimp only [s3]; unfold State.portNotice State.portEntry; rw [State.notice_defined]
      congr 1; funext d; rw [State.notice_active]; rfl
    rw [this, e4]; exact h4
  clear_value s3
  have g : (s3.portCtl p 0xD k.bytes).portLost p 4 = s3.portCtl p 0xD k.bytes := by
    unfold State.portLost
    have : (s3.portCtl p 0xD k.bytes).portEntry p = none := by rw [portCtl_only]; exact f3
    rw [this]
  rw [g]
  obtain ⟨q, hq⟩ := portCtl_port s3 p 0xD k.bytes
  rw [hq]
  refine ⟨by rw [f1, e1], by rw [f1, e1], ?_, ?_⟩
  · show (s3.portCtl p 0xD k.bytes).cnt.get 0 _ = _
    rw [portCtl_only, f2, Tbl.get_set_self, e3]; rfl
  · intro k hk
    rw [portCtl_port_ne _ _ _ _ _ hk, f1, e2 k hk]

/-- The opcode of a CTL frame that a module makes is the one it was made with (R251, R273). -/
theorem hdrOpcode_mkHdr (dest src len op tag : Nat) (a : Bool) (h : op < 256) :
    hdrOpcode (mkHdr 2 4 false false dest src len op tag 0 + put 13 1 (boolBit a)) = op := by
  simp only [hdrOpcode, fld, bits, mkHdr, put, boolBit]
  simp only [Nat.reduceMul, Nat.reduceAdd, Nat.reducePow]
  split <;> omega

end Sys2Proof.Machine
end

