-- ==== Sys2Proof/Laws/Management.lean ====
section
/-! SUPPORT. Resets, start-up, Moon and the management commands. -/

set_option linter.unusedVariables false
set_option linter.unusedSimpArgs false

namespace Sys2Proof.Machine

/-- An update that is cut off leaves the copy in force (R384). -/
theorem FlashPair.cut_inForce {α : Type} (x : FlashPair α) : x.cut.inForce = x.inForce := by
  obtain ⟨⟨ca, na, sa⟩, ⟨cb, nb, sb⟩⟩ := x
  unfold FlashPair.cut
  split
  · next h =>
    unfold FlashPair.useA at h
    simp only [Bool.and_eq_true] at h
    simp [FlashPair.inForce, FlashPair.useA, h.1, h.2]
  · next h =>
    unfold FlashPair.useA at h
    simp only [Bool.not_eq_true] at h
    simp [FlashPair.inForce, FlashPair.useA, h]

theorem Flash.cut_same (f : Flash) (n : Nat) : f.same (f.cut n) := by
  unfold Flash.cut
  refine ⟨rfl, ?_, ?_, ?_⟩ <;> (dsimp only; split <;> first | rfl | exact FlashPair.cut_inForce _)

theorem State.cutFlash_same (s : State) : s.moon.flash.same s.cutFlash.moon.flash := Flash.cut_same ..

theorem keptDistrict_facts (s : State) (d : Nat) :
    (s.keptDistrict d).img.active = none ∧ (s.keptDistrict d).img.keyed = (lookupKey d s.moon.flash.keys.inForce.content.keys).isSome
      ∧ (∀ id key, lookupKey d s.moon.flash.keys.inForce.content.keys = some (id, key) →
        (s.keptDistrict d).img.keyId = id ∧ (s.keptDistrict d).img.key = key)
      ∧ (s.keptDistrict d).flt.fenced = false ∧ (s.keptDistrict d).orb = {}
      ∧ (s.keptDistrict d).defn = (if d = 0 then District.whole else {}).defn := by
  have h : ∀ x : District, x = (if d = 0 then District.whole else {}) →
      x.img.active = none ∧ x.img.keyed = false ∧ x.flt.fenced = false ∧ x.orb = {} := by
    intro x hx
    subst hx
    split <;> exact ⟨rfl, rfl, rfl, rfl⟩
  obtain ⟨h1, h2, h3, h4⟩ := h _ rfl
  unfold State.keptDistrict
  extract_lets x
  split
  · next e => rw [e]; exact ⟨h1, h2, nofun, h3, h4, rfl⟩
  · next id key e =>
    rw [e]
    refine ⟨rfl, rfl, ?_, h3, h4, rfl⟩
    intro i k hk
    cases hk
    exact ⟨rfl, rfl⟩

theorem cleared_resetOf (s : State) (w : Bool) (f : Power → Power) (hh : (f (s.cleared w).pwr).halted = false) (hs : (f (s.cleared w).pwr).stage = 1) :
    s.resetOf ((s.cleared w).modPwr f) := by
  have hm := s.cutFlash_same
  have e : ∃ tags, s.cleared w = { s.cutFlash.wiped w with tags := tags } := by cases w <;> exact ⟨_, rfl⟩
  obtain ⟨tags, e⟩ := e
  rw [e] at hh hs ⊢
  obtain ⟨-, h1, h2, h3⟩ := hm
  refine ⟨rfl, rfl, rfl, rfl, rfl, rfl, rfl, rfl, congrArg (fun x => RepairTables.ports (FlashCopy.content x)) h1, rfl, rfl, rfl, rfl, hh, hs, rfl, rfl, rfl,
    rfl, rfl, rfl, rfl, congrArg (fun x => KeyTables.owner (FlashCopy.content x)) h2, s.cutFlash_same, rfl,
    congrArg (fun x => ConfigTables.cfg (FlashCopy.content x)) h3, congrArg (fun x => RepairTables.retired (FlashCopy.content x)) h1,
    congrArg (fun x => RepairTables.repairs (FlashCopy.content x)) h1, ?_⟩
  intro d hd
  have four : d = 0 ∨ d = 1 ∨ d = 2 ∨ d = 3 := by omega
  have : ((({ s.cutFlash.wiped w with tags := tags } : State)).modPwr f).district d = s.cutFlash.keptDistrict d := by
    rcases four with h | h | h | h <;> subst h <;> rfl
  obtain ⟨k1, k2, k3, k4, k5, k6⟩ := keptDistrict_facts s.cutFlash d
  rw [h2] at k2 k3
  unfold State.fenced
  rw [this]
  refine ⟨k1, k2, k3, k4, k5, k6.trans ?_⟩
  rcases four with h | h | h | h <;> subst h <;> rfl

theorem get_keptMem (m : List Host.Cell) (a : Nat) (ha : isSram a = false) : Memory.get (m.filter fun c => !isSram c.1) a = Memory.get m a := by
  rw [Memory.get_filter (fun a => !isSram a), ha]; rfl

theorem get_keptSram (m : List Host.Cell) (a : Nat) (ha : isSram a = true) : Memory.get (m.filter fun c => !isSram c.1) a = Memory.get [] a := by
  rw [Memory.get_filter (fun a => !isSram a), ha]; rfl

theorem sendCard_onlyPorts (u : State) (p : Nat) : u.sendCard p = { u with ports := (u.sendCard p).ports } := by
  unfold State.sendCard
  extract_lets c s1
  split
  · rfl
  · rw [portCtl_only]; rfl

theorem restartMoon_leaves (s : State) :
    s.restartMoon.moon = { s.moon with
        fw := 0, running := false, restarts := (s.moon.restarts + 1) % 2 ^ 16, sessions := [], spdm := 0, update := none, nonce := none
        ramImage := [], udsLocked := false, cdi := [], flash := s.restartMoon.moon.flash }
      ∧ s.moon.flash.same s.restartMoon.moon.flash ∧ s.restartMoon.mem = s.mem ∧ s.restartMoon.orb = s.orb
      ∧ s.restartMoon.cores = s.cores ∧ s.restartMoon.rings = s.rings ∧ s.restartMoon.hosts = s.hosts
      ∧ s.restartMoon.halted = s.halted ∧ s.restartMoon.out = s.out := by
  unfold State.restartMoon
  extract_lets s1
  generalize hl : List.filter _ (List.range 24) = l
  have f : ∀ {β : Type} (g : State → β) (_ : ∀ (t : State) p f c, g ((t.modPort p f).portNotice p c 0) = g t),
      g (s1.cutFlash.each l fun p t => (t.modPort p fun x => { x with swapTx := none, swapRx := none }).portNotice p 0x48 0) = g s1.cutFlash :=
    fun g hg => State.each_field g (fun _ _ => hg ..) l _
  have n : ∀ (t : State) p f c, ((t.modPort p f).portNotice p c 0) = { t with
      ports := ((t.modPort p f).portNotice p c 0).ports, dist := ((t.modPort p f).portNotice p c 0).dist
      dcnt := ((t.modPort p f).portNotice p c 0).dcnt } := by
    intro t p f c
    unfold State.portNotice
    rw [State.notice_onlyLog]
    rfl
  have hm := f (fun t => t.moon) fun t p f c => by rw [n]
  have hf := State.cutFlash_same s1
  rw [hm]
  refine ⟨rfl, hf, f (fun t => t.mem) ?_, f (fun t => t.orb) ?_, f (fun t => t.cores) ?_, f (fun t => t.rings) ?_, f (fun t => t.hosts) ?_,
    f (fun t => t.pwr.halted) ?_, f (fun t => t.out) ?_⟩ <;>
    (intro t p f c; rw [n])

theorem fiveOnes : ∀ t : Tap, (((((t.next true).next true).next true).next true).next true) = .reset := by
  intro t; cases t <;> rfl

theorem halt_halted (s : State) (c : Nat) (d : Option Nat) (u i : Nat) : (s.halt c d u i).halted = true := by
  unfold State.halt
  extract_lets s1 s2 o s3
  split
  · assumption
  · rfl

theorem runFirmware_leaves (s : State) (fw : Nat) (img : List Byte) :
    ((s.runFirmware fw img).moon.boot = s.moon.boot ∧ (s.runFirmware fw img).mem = s.mem ∧ (s.runFirmware fw img).cores = s.cores)
      ∧ (s.runFirmware fw img).moon.running = true := by
  have h : ∀ u : State, u.saveTables.moon.boot = u.moon.boot ∧ u.saveTables.mem = u.mem ∧ u.saveTables.cores = u.cores
      ∧ u.saveTables.moon.running = u.moon.running := by
    intro u
    unfold State.saveTables State.modFlash
    split
    · exact ⟨rfl, rfl, rfl, rfl⟩
    · dsimp only
      split <;> exact ⟨rfl, rfl, rfl, rfl⟩
  unfold State.runFirmware
  obtain ⟨h1, h2, h3, h4⟩ := h _
  exact ⟨⟨h1.trans rfl, h2.trans rfl, h3.trans rfl⟩, h4.trans rfl⟩

theorem bootRom_leaves (s : State) : (s.bootRom).moon.boot = (s.moon.boot + 1) % 2 ^ 32 ∧ (s.bootRom).mem = s.mem ∧ (s.bootRom).cores = s.cores
    ∧ (s.bootRom).moon.running = decide (s.pwr.bootChoice ≠ 1 ∧ fwAccepted s.moon.minSvn s.moon.flash.image = true) := by
  unfold State.bootRom
  extract_lets m0 s1 s2
  have hs2 : s2.pwr = s.pwr ∧ s2.moon = s1.moon ∧ s2.mem = s.mem ∧ s2.cores = s.cores := by
    dsimp only [s2]
    split
    · exact ⟨by rw [State.notice_pwr], by rw [State.notice_moon], by rw [State.notice_mem], by rw [State.notice_cores]⟩
    · exact ⟨rfl, rfl, rfl, rfl⟩
  have e1 : s1.moon.minSvn = s.moon.minSvn := rfl
  have e2 : s1.moon.flash = s.moon.flash := rfl
  have hb : s2.moon.boot = (s.moon.boot + 1) % 2 ^ 32 := by rw [hs2.2.1]
  have hc : (s2.pwr.bootChoice ≠ 1 && fwAccepted s2.moon.minSvn s2.moon.flash.image) = (s.pwr.bootChoice ≠ 1 && fwAccepted s.moon.minSvn s.moon.flash.image) := by
    rw [hs2.1, hs2.2.1]
  clear_value s2
  rw [hc]
  split
  · next h =>
    have hr := runFirmware_leaves s2 1 s2.moon.flash.image
    refine ⟨hr.1.1.trans hb, hr.1.2.1.trans hs2.2.2.1, hr.1.2.2.trans hs2.2.2.2, ?_⟩
    simp only [Bool.and_eq_true, decide_eq_true_eq] at h
    rw [hr.2, decide_eq_true h]
  · next h =>
    refine ⟨hb, hs2.2.2.1, hs2.2.2.2, ?_⟩
    simp only [Bool.and_eq_true, decide_eq_true_eq] at h
    show false = _
    rw [decide_eq_false h]

theorem notAccepted {m : Nat} {img : List Byte} (h : fwSvn img < m) : fwAccepted m img = false := by
  unfold fwAccepted
  have : decide (m ≤ fwSvn img) = false := by simp; omega
  rw [this, Bool.and_false]

theorem vendor_ok {s : State} {q : MReq} (h1 : s.takesVendor q = true) (h2 : s.ownerSession q = true) (h3 : q.unlisted = false)
    (f : State → State × Status × List Byte) : s.vendor q f = (f s).1.reply q (f s).2.1 (f s).2.2 := by
  unfold State.vendor
  simp [h1, h2, h3]

/-- A code that R400 does not list. -/
theorem vendor_unlisted {s : State} {q : MReq} (h1 : s.takesVendor q = true) (h2 : s.ownerSession q = true) (h3 : q.unlisted = true)
    (f : State → State × Status × List Byte) : s.vendor q f = s.reply q .refusedInvalid [] := by
  unfold State.vendor
  simp [h1, h2, h3]

theorem vendor_off {s : State} {q : MReq} (h1 : s.takesVendor q = false) (f : State → State × Status × List Byte) : s.vendor q f = s := by
  unfold State.vendor
  simp [h1]

theorem vendor_no {s : State} {q : MReq} (h1 : s.takesVendor q = true) (h2 : s.ownerSession q = false)
    (f : State → State × Status × List Byte) : s.vendor q f = s.reply q .refusedAccess [] := by
  unfold State.vendor
  simp [h1, h2]

theorem reply_all (s : State) (q : MReq) (st : Status) (l : List Byte) : s.reply q st l = { s with out := .moon q.via st l :: s.out } := rfl

theorem define_other (s : State) (d k : Nat) (x : DistrictDef) (h : k ≠ d) :
    (s.define d x).district k = s.district k ∧ (∀ w, lookupKey (256 * k + w % 256) (s.define d x).windows.entries = lookupKey (256 * k + w % 256) s.windows.entries) := by
  unfold State.define
  split
  · exact ⟨rfl, fun _ => rfl⟩
  · extract_lets ws s1
    have e1 : s1.district k = s.district k := by
      dsimp only [s1]; exact State.modDist_district_ne h
    have e2 : ∀ w, lookupKey (256 * k + w % 256) ws = lookupKey (256 * k + w % 256) s.windows.entries := by
      intro w
      dsimp only [ws]
      rw [lookupKey_filter_key (fun w => w / 256 != d)]
      have : ((256 * k + w % 256) / 256 != d) = true := by
        have : (256 * k + w % 256) / 256 = k := by omega
        rw [this]; simpa using h
      rw [this]; rfl
    split
    · refine ⟨e1, fun w => ?_⟩
      rw [← e2 w]
      simp only [Tbl.set]
      rw [lookupKey_insertKey, if_neg (by omega)]
    · exact ⟨e1, e2⟩

theorem define_self (s : State) (d : Nat) (x : DistrictDef) :
    ((s.define d x).district d) = { s.district d with defn := defnOf x } := by
  unfold State.define
  split
  · next h =>
    unfold State.touches at h
    simp only [Bool.not_eq_true', Bool.or_eq_false_iff, decide_eq_false_iff_not, Decidable.not_not] at h
    rw [← h.1]
  · extract_lets ws s1
    have e1 : s1.district d = { s.district d with defn := defnOf x } := by
      dsimp only [s1]; exact State.modDist_district
    split <;> exact e1

theorem define_rest (s : State) (d : Nat) (x : DistrictDef) :
    (s.define d x).mem = s.mem ∧ (s.define d x).out = s.out ∧ (s.define d x).moon = s.moon ∧ (s.define d x).cores = s.cores := by
  unfold State.define
  split
  · exact ⟨rfl, rfl, rfl, rfl⟩
  · extract_lets ws s1
    split <;> exact ⟨rfl, rfl, rfl, rfl⟩

theorem define_untouched {s : State} {d : Nat} {x : DistrictDef} (h : s.touches d x = false) : s.define d x = s := by
  unfold State.define; simp [h]

theorem defineEach (l : List DistrictDef) : ∀ (k : Nat) (s : State),
    let t := s.each (l.zipIdx k) fun (x, d) t => t.define d x
    (∀ d, d < k → t.district d = s.district d ∧ ∀ w, lookupKey (256 * d + w % 256) t.windows.entries = lookupKey (256 * d + w % 256) s.windows.entries)
      ∧ (∀ i x, l[i]? = some x → t.district (k + i) = { s.district (k + i) with defn := defnOf x }
        ∧ (s.touches (k + i) x = false → ∀ w, lookupKey (256 * (k + i) + w % 256) t.windows.entries = lookupKey (256 * (k + i) + w % 256) s.windows.entries))
      ∧ t.mem = s.mem ∧ t.out = s.out ∧ t.moon = s.moon ∧ t.cores = s.cores := by
  induction l with
  | nil => intro k s; exact ⟨fun _ _ => ⟨rfl, fun _ => rfl⟩, fun i x h => by simp at h, rfl, rfl, rfl, rfl⟩
  | cons a l ih =>
    intro k s
    obtain ⟨h1, h2, h3, h4, h5, h6⟩ := ih (k + 1) (s.define k a)
    have e : (s.each ((a :: l).zipIdx k) fun (x, d) t => t.define d x) = (s.define k a).each (l.zipIdx (k + 1)) fun (x, d) t => t.define d x := rfl
    obtain ⟨d1, d2, d3, d4⟩ := define_rest s k a
    dsimp only
    rw [e]
    refine ⟨fun d hd => ?_, fun i x hx => ?_, h3.trans d1, h4.trans d2, h5.trans d3, h6.trans d4⟩
    · obtain ⟨a1, a2⟩ := define_other s k d a (by omega)
      obtain ⟨b1, b2⟩ := h1 d (by omega)
      exact ⟨b1.trans a1, fun w => (b2 w).trans (a2 w)⟩
    · cases i with
      | zero =>
        simp only [List.getElem?_cons_zero, Option.some.injEq] at hx
        subst hx
        obtain ⟨b1, b2⟩ := h1 k (by omega)
        refine ⟨b1.trans (define_self s k a), fun ht w => (b2 w).trans ?_⟩
        have ht' : s.touches k a = false := ht
        rw [define_untouched ht']
        rfl
      | succ i =>
        simp only [List.getElem?_cons_succ] at hx
        obtain ⟨b1, b2⟩ := h2 i x hx
        have ek : k + 1 + i = k + (i + 1) := by omega
        rw [ek] at b1 b2
        obtain ⟨a1, a2⟩ := define_other s k (k + (i + 1)) a (by omega)
        refine ⟨by rw [b1, a1], fun ht w => (b2 ?_ w).trans (a2 w)⟩
        unfold State.touches State.windowTag at ht ⊢
        rw [a1]
        have := a2 0
        simp only [Nat.zero_mod, Nat.add_zero] at this
        rw [this]
        exact ht

theorem defineAll_leaves (s : State) (l : List DistrictDef) :
    (∀ d x, l[d]? = some x → (s.defineAll l).district d = { s.district d with defn := defnOf x }
        ∧ (s.touches d x = false → ∀ w, lookupKey (256 * d + w % 256) (s.defineAll l).windows.entries = lookupKey (256 * d + w % 256) s.windows.entries))
      ∧ (s.defineAll l).mem = s.mem ∧ (s.defineAll l).out = s.out ∧ (s.defineAll l).moon = s.moon ∧ (s.defineAll l).cores = s.cores := by
  obtain ⟨-, h2, h3⟩ := defineEach l 0 s
  refine ⟨fun d x hx => ?_, h3⟩
  have := h2 d x hx
  rw [Nat.zero_add] at this
  exact this

theorem clearKeys (v : State) (f : ImgDist → ImgDist) (hf : ∀ g, (f g).keyed = false) :
    let u := v.each allDistricts fun d t => t.modImg d f
    u.moon = v.moon ∧ u.mem = v.mem ∧ u.out = v.out ∧ u.cores = v.cores ∧ (∀ d, d < 4 → (u.district d).img.keyed = false) := by
  have e : (v.each allDistricts fun d t => t.modImg d f) = (((v.modImg 0 f).modImg 1 f).modImg 2 f).modImg 3 f := rfl
  dsimp only
  rw [e]
  refine ⟨rfl, rfl, rfl, rfl, fun d hd => ?_⟩
  have : d = 0 ∨ d = 1 ∨ d = 2 ∨ d = 3 := by omega
  have k : ∀ (t : State) n, ((t.modImg n f).district n).img = f (t.district n).img := fun t n => by rw [State.modImg_district]
  have j : ∀ (t : State) m n, n ≠ m → (t.modImg m f).district n = t.district n := fun t m n h => State.modDist_district_ne h
  rcases this with h | h | h | h <;> subst h
  · rw [j _ _ _ (by decide), j _ _ _ (by decide), j _ _ _ (by decide), k, hf]
  · rw [j _ _ _ (by decide), j _ _ _ (by decide), k, hf]
  · rw [j _ _ _ (by decide), k, hf]
  · rw [k, hf]

theorem changeKey_leaves {s : State} {d : Nat} (f : ImgDist → ImgDist) (hf : ∀ g, (f g).shadow = g.shadow) (h1 : (s.district d).img.shadow ≠ 1) (h2 : (s.district d).img.commit = 0) :
    ∃ t, s.changeKey d f = (t, .done, []) ∧ t.mem = s.mem ∧ t.out = s.out
      ∧ (t.district d).img = (if (s.district d).img.shadow = 2 then { f (s.district d).img with shadow := 0, loaded := none } else f (s.district d).img) := by
  unfold State.changeKey
  extract_lets g
  have hg : g = (s.district d).img := rfl
  rw [if_neg (by rw [hg]; simp [h1, h2])]
  refine ⟨_, rfl, rfl, rfl, ?_⟩
  have hw : ∀ (t : State) k, t.saveKeys.district k = t.district k := fun _ _ => rfl
  rw [hw, State.modImg_district]
  dsimp only
  rw [hf]

theorem changeKey_busy {s : State} {d : Nat} (f : ImgDist → ImgDist) (h : (s.district d).img.shadow = 1 ∨ (s.district d).img.commit ≠ 0) :
    s.changeKey d f = (s, .refusedBusy, []) := by
  unfold State.changeKey
  extract_lets g
  have hg : g = (s.district d).img := rfl
  rw [if_pos (by rw [hg]; simpa using h)]

theorem spdmAt_ok {s : State} {via : Transport} {n : Nat} (h1 : s.moon.running = true) (h2 : onManagement via = true) (h3 : s.hears via = true) (h : n ≤ s.moon.spdm) (f : State → State) :
    s.spdmAt via n f = f s := by
  unfold State.spdmAt
  rw [if_neg (by simp [h1, h2, h3]), if_neg (by omega)]

theorem spdmAt_early {s : State} {via : Transport} {n : Nat} (h1 : s.moon.running = true) (h2 : onManagement via = true) (h3 : s.hears via = true) (h : s.moon.spdm < n) (f : State → State) :
    s.spdmAt via n f = s.spdmError via 0x04 := by
  unfold State.spdmAt
  rw [if_neg (by simp [h1, h2, h3]), if_pos h]

theorem filled_lt {s : State} {slot : Nat} (h : s.slotFilled slot = true) : slot ∈ (List.range 5).filter s.slotFilled := by
  refine List.mem_filter.mpr ⟨?_, h⟩
  unfold State.slotFilled at h
  simp at h
  refine List.mem_range.mpr ?_
  rcases h.2 with h | h <;> omega

end Sys2Proof.Machine
end

