-- ==== Sys2Proof/Laws/Training.lean ====
section
/-! SUPPORT. Training descriptors: what one without disagreements does beside its writes. -/

namespace Sys2Proof.Machine

theorem State.wroteLines_samePlace {n : Nat} (s : State) (a l : Nat) : SamePlace n s (s.wroteLines a l) := by
  unfold State.wroteLines
  split
  · exact SamePlace.refl n s
  · exact SamePlace.each (SamePlace.refl n s) fun _ u => State.count_samePlace ..

theorem badGroups_none (g : Nat) : badGroups ⟨[], []⟩ g = ([], none) := by
  have h : (List.range g).find? (fun g => decide (2 ≤ (([] : List Nat).filter (· == g)).length)) = none := by
    rw [List.find?_eq_none]
    simp
  unfold badGroups
  exact congrArg (fun x => (([] : List Nat), x)) h

/-- No disagreement stops a descriptor. -/
theorem State.groupErrors_none (s : State) (d n pc g : Nat) :
    ∃ t, s.groupErrors d n pc ⟨[], []⟩ g = (t, true) ∧ ∀ m, SamePlace m s t := by
  refine ⟨(s.count (ctrCore n 2) 0).count (ctrCore n 3) 0, ?_, fun m => (State.count_samePlace ..).trans (State.count_samePlace ..)⟩
  unfold State.groupErrors
  simp [badGroups_none, State.each]
theorem doneGroups_none (g : Nat) : doneGroups ⟨[], []⟩ g = g := by
  unfold doneGroups
  rw [badGroups_none]
  rfl

/-- A descriptor that has written what it writes is followed by the next instruction. -/
theorem State.advance_of_descr {n : Nat} {s u x t : State} (hu : u = (s.modCore n fun c => { c with pc := c.next }).count (ctrCore n 9) 1)
    (hx : OnlyBytes u x) (ht : SamePlace n x t) :
    ((t.advanceCore n).core n).pc = (s.core n).next ∧ ((t.advanceCore n).core n).next = (s.core n).next + 1 ∧ (t.advanceCore n).mem = x.mem ∧
    (t.advanceCore n).orb = s.orb ∧ (t.advanceCore n).boxes = s.boxes ∧ (t.advanceCore n).rings = s.rings ∧ (t.advanceCore n).queues = s.queues := by
  have hc : x.core n = u.core n := by unfold State.core; rw [hx]
  have hn : (t.core n).next = (s.core n).next := by rw [ht.next, hc, hu]; simp
  have ho : x.orb = u.orb ∧ x.boxes = u.boxes ∧ x.rings = u.rings ∧ x.queues = u.queues := by refine ⟨?_, ?_, ?_, ?_⟩ <;> rw [hx]
  subst hu
  simp [State.advanceCore, hn, ht.mem, ht.orb, ht.boxes, ht.rings, ht.queues, ho]

end Sys2Proof.Machine
end

