-- ==== Sys2Proof/WellFormed.lean ====
section
/-! DEFINITION. Which commands are well formed: operands inside the ranges that the spec gives the things they name. The meaning
of a command is total; an ill-formed one names something that the module does not have. -/

namespace Sys2Proof

/-- A frame as it arrives: whole 64-B slots, each with its KIND, the 32-B header in the first (R250). -/
def Frame.wf (f : Frame) : Bool := !f.kinds.isEmpty && f.bytes.length == 64 * f.kinds.length

/-- A line of the 768 GiB behind the module's channels (R218, R222). -/
def wfLine (line : Nat) : Bool := decide (line < 0xC000000000 / 64)

/-- What a line read brings back: a line of the module and symbols of its codeword, each once (R219). -/
def LineOutcome.wf : LineOutcome → Bool
  | .codeword reached wrong => wfLine reached && wrong.all (decide <| · < 72) && decide wrong.Nodup
  | .fabric _ => true

/-- A 1 MiB page of module memory (R221). -/
def wfPage (page : Nat) : Bool := decide (page < 0xB800000000 / 0x100000)

/-- The time report of a core names one of the 512, and causes of R49. -/
def CoreTime.wf (t : CoreTime) : Bool := decide (t.core < 512) && t.stalls.all fun x => [1, 2, 3, 5, 6].contains x.1

/-- An error of core SRAM lies in one of the 768 KiB of one of the 512 cores (R7, R64). -/
def wfEcc (es : List EccErr) : Bool := es.all fun e => decide (e.core < 512) && decide (e.off < 0xC0000)

/-- The end of a stage: sets of 8 strap samples (R419), channels of 96, a lifecycle of R396. -/
def StageEnd.wf (e : StageEnd) : Bool := e.samples.all (·.length == 8) && decide (e.lifecycle < 3) && decide (e.trained ≤ 96)

/-- A queue pair, a key and a device address of a host's request (R313, R318, R7). -/
def wfRequest (qp rkey addr : Nat) : Bool := decide (qp < 256) && decide (rkey < 2 ^ 32) && decide (addr < 2 ^ 64)

def Instr.wf : Instr → Bool
  | .tickMark run _ _ _ => run.head? == some true && run.all id
  | .orbitTick times _ => times.all CoreTime.wf
  | .lateWorkComplete ts => ts.all CoreTime.wf
  | .shFieldWrite _ addr _ => decide (addr < 0x12000000)
  | .registerWrite _ addr _ => decide (addr < 0x12000000)
  | .pass _ errs => wfEcc errs.ecc
  | .send _ ecc => wfEcc ecc
  | .collectionRoundDeliver box => decide (box < 4096)
  | .postboxDeath box => decide (box < 4096)
  | .pbxFlushBox _ box => decide (box < 4096)
  | .xferCopy _ ecc => wfEcc ecc
  | .xferSend _ ecc => wfEcc ecc
  | .trainUpdate _ errs => wfEcc errs.ecc
  | .trainPack _ errs => wfEcc errs.ecc
  | .trainUnpack _ errs => wfEcc errs.ecc
  | .stageEnqueue queue => decide (queue < 256)
  | .memLineRead line _ o => wfLine line && o.wf
  | .memReadRetry line _ o _ => wfLine line && o.wf
  | .pageRetire page => wfPage page
  | .postPackageRepair page _ => wfPage page
  | .dataFrame _ f => f.wf
  | .linkFlit _ bytes => bytes.length == 64
  | .laneLoss _ lane => decide (lane < 5)
  | .linkTrainingPhaseEnd _ _ map pol mix => decide (map < 2 ^ 15) && decide (pol < 2 ^ 5) && (match mix with | none => true | some l => decide (l < 5))
  | .card _ f => f.wf
  | .ping _ f _ => f.wf
  | .echo _ f _ => f.wf
  | .beacon _ f _ => f.wf
  | .announce _ f => f.wf
  | .credit _ f => f.wf
  | .nackDead _ f => f.wf
  | .amaxUp _ f => f.wf
  | .amaxDown _ f => f.wf
  | .barUp _ f => f.wf
  | .barGo _ f => f.wf
  | .restartBarUp _ f => f.wf
  | .restartBarGo _ f => f.wf
  | .jobHold _ f => f.wf
  | .mgmt _ f => f.wf
  | .rdmaWrite _ qp rkey addr _ _ => wfRequest qp rkey addr
  | .rdmaWriteImm _ qp rkey addr _ _ _ => wfRequest qp rkey addr
  | .rdmaRead _ qp rkey addr _ _ => wfRequest qp rkey addr
  | .pfcPause _ prio => decide (prio < 8)
  | .pfcPauseTimeout _ prio => decide (prio < 8)
  | .pfcPauseExpiry _ prio => decide (prio < 8)
  | .mirrorRecord ring => decide (ring < 4096)
  | .restoreRecord ring => decide (ring < 4096)
  | .quadTestEnd quad _ => decide (quad < 132)
  | .railGoodTimeout rail => decide (1 ≤ rail) && decide (rail ≤ 8)
  | .districtSet _ defs => defs.length == 4
  | .keyRegister _ _ key _ => key.length == 97
  | .preFecEstimateUpdate _ lane _ _ _ _ _ _ => decide (lane < 5)
  | .refclkWindowEnd _ => true
  | .lossOfTick _ => true
  | .orbitStart => true
  | .joinStart => true
  | .quadRotationSwap => true
  | .laneSwapSelected _ => true
  | .laneSwapTimeout _ => true
  | .barrierArrive _ => true
  | .barrierTimeout _ => true
  | .orbArm _ _ => true
  | .orbDisarm _ _ => true
  | .orbJoin _ _ => true
  | .orbJoinWithdraw _ _ => true
  | .orbStop _ _ => true
  | .orbResume _ _ => true
  | .arrayRampDown _ => true
  | .loop _ => true
  | .endloop _ => true
  | .endProg _ => true
  | .sendClaim _ => true
  | .messageLink _ => true
  | .read _ => true
  | .pbxFlushAll _ => true
  | .dlrTailWrite _ _ _ => true
  | .xferForward x => wfEcc x.ecc
  | .xferRelease x => wfEcc x.ecc
  | .awaitItem _ => true
  | .scrubLine _ o => o.wf
  | .frameArbitrate _ => true
  | .retryTimeout _ => true
  | .nakRepeat _ => true
  | .retrainEnd _ _ => true
  | .downTrainingAttempt _ => true
  | .cardTimeout _ => true
  | .restartTimeout _ => true
  | .copybackDone _ _ => true
  | .tlkDisable _ _ _ => true
  | .tlkEnable _ _ _ => true
  | .tlkRetrain _ _ _ => true
  | .roceSend _ qp _ _ => decide (qp < 256)
  | .cmReq _ _ => true
  | .cmRtu _ qp => decide (qp < 256)
  | .cmDreq _ qp => decide (qp < 256)
  | .cnp _ qp => decide (qp < 256)
  | .rateIncreaseTimer _ qp => decide (qp < 256)
  | .cmdTailWrite _ _ => true
  | .cplHeadWrite _ _ => true
  | .cmdRingWrite _ _ => true
  | .cplRingWrite _ _ => true
  | .nop _ i => decide (i < 2 ^ 32)
  | .copy _ i => decide (i < 2 ^ 32)
  | .tile _ i => decide (i < 2 ^ 32)
  | .tileDispatch _ _ => true
  | .tileStop _ => true
  | .tileOutDone _ i => decide (i < 2 ^ 32)
  | .msg _ i => decide (i < 2 ^ 32)
  | .windowOpen _ i => decide (i < 2 ^ 32)
  | .windowClose _ i => decide (i < 2 ^ 32)
  | .csrRead _ i => decide (i < 2 ^ 32)
  | .csrWrite _ i => decide (i < 2 ^ 32)
  | .waitOrbit _ i => decide (i < 2 ^ 32)
  | .commandStart _ => true
  | .completionPost _ => true
  | .imgLoad _ _ => true
  | .loadEnd _ => true
  | .imgCommit _ _ => true
  | .commitChecksEnd _ => true
  | .imgCancel _ _ => true
  | .snpReqWrite _ _ => true
  | .rewind _ => true
  | .rollfwd _ => true
  | .rollfwdEnd _ => true
  | .dreset _ => true
  | .districtResetDone _ => true
  | .fltTailWrite _ _ => true
  | .fltRestoreWrite _ _ => true
  | .sprServe _ _ _ => true
  | .logFlashCopy _ => true
  | .dieHot => true
  | .dieCrit => true
  | .dieCritPowerOff => true
  | .vinUv => true
  | .vinOv => true
  | .coolant => true
  | .inputBelow36v => true
  | .inputRise39v => true
  | .porstN _ => true
  | .jtagTrstN _ => true
  | .pwrResetWarm _ => true
  | .warmResetBegin => true
  | .startupStageEnd e => e.wf
  | .railRetry => true
  | .pwrTargetRun _ => true
  | .pwrTargetDrowse _ => true
  | .pwrTargetSleep _ => true
  | .powerStateReached => true
  | .laneLockTimeout _ => true
  | .glbTimeWrite _ _ => true
  | .powerLimitCheck _ => true
  | .moonWatchdogExpiry _ _ => true
  | .moonRestartDone => true
  | .svnBurn => true
  | .getStatus _ => true
  | .ownerSet _ _ => true
  | .ownerClear _ => true
  | .districtReset _ _ => true
  | .keyRevoke _ _ => true
  | .moonCsrRead _ _ _ => true
  | .moonCsrWrite _ _ _ _ => true
  | .logRead _ _ _ => true
  | .snpRead _ _ _ _ => true
  | .cardGet _ => true
  | .cardRecheck _ _ => true
  | .configSet _ _ => true
  | .debugUnlock _ _ _ _ _ => true
  | .getVersion _ => true
  | .getCapabilities _ => true
  | .negotiateAlgorithms _ _ => true
  | .getDigests _ => true
  | .getCertificate _ slot _ _ => decide (slot < 8)
  | .challenge _ slot _ => decide (slot < 8)
  | .getMeasurements _ index slot _ => decide (index < 256) && decide (slot < 8)
  | .keyExchange _ x => decide (x.slot < 8)
  | .finish _ _ _ _ => true
  | .keyUpdate _ _ => true
  | .heartbeat _ _ => true
  | .endSession _ _ => true
  | .requestUpdate _ => true
  | .passComponentTable _ => true
  | .updateComponent _ _ => true
  | .requestFirmwareData _ _ _ => true
  | .transferComplete _ => true
  | .verifyComplete _ => true
  | .activateFirmware _ => true
  | .hostLinkUp _ => true
  | .hostLinkDown _ => true
  | .islandPowerUp => true
  | .islandPowerLoss => true
  | .tickOkTimeout => true
  | .spareLaneSelect _ => true
  | .mctpControl _ _ _ => true
  | .neighbourDiscovery _ _ => true
  | .jtagTck _ _ _ => true

end Sys2Proof
end

