-- ==== Sys2Proof/Tests/Slice0.lean ====
section
/-! SUPPORT. Tests. The first part shows for each statement of the certificates states and operands that meet its hypotheses
together; the second that the checks of well-formedness refuse what they are for; the third compares single commands with
values worked out from the spec. -/

set_option maxRecDepth 20000
set_option Elab.async false

namespace Sys2Proof.Tests

open Sys2Proof.Machine

/-! ## States to test on -/

def sect (k h : Nat) (es : List Nat) : Section := ⟨k, h, es, []⟩
def progSect (bs : List (Nat × List Nat)) : Section := ⟨1, 0, [], bs.map fun b => (put 0 9 b.1, b.2)⟩

/-- Reset, with an image of the given sections active in district 0. -/
def withImage (ss : List Section) : State := State.reset.modImg 0 fun g => { g with active := some ⟨0, [], ss⟩ }

/-- A core that works on orbit 0 of a district whose image gives it a program and holds other sections. -/
def running (core : Nat) (prog : List Nat) (ss : List Section) : State :=
  (withImage (progSect [(core, prog)] :: ss)).modCore core fun c => { c with work := some ⟨0, 0, .compute, false⟩ }

def orb0 (f : Orb → Orb) : State := { State.reset with orb := f State.reset.orb }
def pwr0 (f : Power → Power) : State := { State.reset with pwr := f State.reset.pwr }
def moon0 (f : Moon → Moon) : State := { State.reset with moon := f State.reset.moon }
def spr0 (f : Sparing → Sparing) : State := { State.reset with spr := f State.reset.spr }
def m0 : Requester := .moon 0

theorem reaches0 (s : State) (b : Block) (o : Nat) : s.reaches m0 0 b o := Or.inl rfl

/-! ## Witnesses: ticks, registers, barrier and late work -/

theorem witness_MarksAndReferenceWindows :
    (let s := orb0 fun o => { o with refOk := true, arm := true, tag := 7 };
      s.orb.refOk = true ∧ 28 ≤ 28 ∧ 28 ≤ 36 ∧ s.orb.phase = none ∧ s.orb.arm = true ∧ s.orb.accepted = none ∧ (7#8).toNat = s.orb.tag)
    ∧ (let s := orb0 fun o => { o with refOk := true, phase := some 100 };
      s.orb.refOk = true ∧ 6 ≤ 10 ∧ 10 ≤ 10 ∧ s.orb.phase = some 100 ∧ inPlace 100 156350 = true)
    ∧ (let s := orb0 fun o => { o with refOk := true, phase := some 0, slipAt := some 0 };
      s.orb.refOk = true ∧ (11 : Nat) < 28 ∧ s.orb.phase = some 0 ∧ s.orb.slipAt = some (markPosition 0 156250 - 1))
    ∧ (let s := orb0 fun o => { o with accepted := some 100, arm := true };
      s.orb.accepted = some 100 ∧ s.orb.run = false ∧ s.orb.arm = true)
    ∧ (let s := orb0 fun o => { o with plan := some ⟨1000, 9, 156250⟩, join := true };
      s.orb.plan = some ⟨1000, 9, 156250⟩ ∧ s.orb.run = false ∧ s.orb.join = true) := by and_intros <;> decide +kernel

/-- The module counts at orbit `k`, and district 0 runs a step of three orbits. -/
def counting (k : Nat) (f : District → District) : State :=
  ((({ withImage [sect 2 (put 128 24 3) []] with orb := { State.reset.orb with run := true, number := k } }).modFlt 0 fun x =>
    { x with rlead := 2 }).modOrb 0 (fun o => { o with phase := .compute })).modDist 0 f
def workOf (ended : Bool) (c : Core) : Core := { c with work := some ⟨0, 0, .compute, ended⟩ }
def coreTime (core cause : Nat) : CoreTime := ⟨core, 5, if cause = 0 then [] else [(cause, 9)], [], [], [], ⟨0, 0, 0, 0⟩⟩

/-- Core 511 alone works on orbit 0, with or without its end reached; its reported time gives the cause. -/
def worksAlone (u : State) (ended : Bool) (cause : Nat) : Bool :=
  let s := u.modCore 511 (workOf ended);
  let x := coreTime 511 cause;
  (s.core 511).work == some ⟨0, 0, .compute, ended⟩ && ((s.coresOf 0).all fun m => m == 511 || (s.core m).work.isNone)
    && [x].find? (fun y => y.core == 511) == some x && (s.core 511).busy == !ended && (s.core 511).lateOrbit.isNone
    && s.overrunCause 0 x (s.explainedIn [] (some 0)) == cause

theorem witness_OrbitTicks :
    ((orb0 fun o => { o with run := true, stop := true }).orb.run = true ∧ (orb0 fun o => { o with run := true, stop := true }).orb.stop = true)
    ∧ (let s := { (State.reset.modSnp 0 fun x => { x with state := 1, orbit := 1 }) with orb := { State.reset.orb with run := true } };
      s.orb.run = true ∧ s.orb.stop = false ∧ s.defined = [0] ∧ s.active 0 = none ∧ (s.district 0).snp.state ≠ 0
        ∧ (s.district 0).snp.orbit = (s.orb.number + 1) % 2 ^ 64 ∧ (s.district 0).img.commit = 0 ∧ s.inBank 0 0xC3800 = true)
    ∧ (∀ c ∈ [1, 2, 3],
      let s := { (State.reset.modImg 0 fun x => { x with commit := c, target := 1, loaded := some ⟨0, [], []⟩ }) with
        orb := { State.reset.orb with run := true } };
      s.defined = [0] ∧ s.active 0 = none ∧ (s.district 0).img.commit = c ∧ (s.district 0).img.target = (s.orb.number + 1) % 2 ^ 64
        ∧ s.halted = false ∧ s.fenced 0 = false ∧ s.spr.swaps = [] ∧ (s.district 0).img.loaded = some ⟨0, [], []⟩ ∧ imgDelta 0 = false)
    ∧ (let s := counting 4 fun x => { x with bar := { x.bar with go := some 5, down := true } };
      s.ticksFor 0 ∧ (s.active 0).isSome ∧ (s.district 0).orb.phase ≠ .hold ∧ (∀ n ∈ s.coresOf 0, (s.core n).work = none)
        ∧ (s.district 0).bar.rolledBack = false ∧ (s.district 0).bar.go = some ((s.orb.number + 1) % 2 ^ 64) ∧ (s.district 0).bar.down = true)
    ∧ (let s := counting 4 fun x => { x with bar := { x.bar with rolledBack := true, restart := some 5 } };
      s.ticksFor 0 ∧ (s.district 0).bar.rolledBack = true ∧ (s.district 0).bar.restart = some ((s.orb.number + 1) % 2 ^ 64)
        ∧ (s.district 0).flt.copyBack = none)
    ∧ (let s := counting (2 ^ 64 - 1) id;
      s.ticksFor 0 ∧ (s.district 0).bar.rolledBack = false ∧ (s.district 0).bar.go ≠ some ((s.orb.number + 1) % 2 ^ 64)
        ∧ (s.district 0).orb.phase ≠ .barrier ∧ (s.district 0).orb.phase ≠ .waitGo)
    ∧ (let s := counting 0 id;
      s.ticksFor 0 ∧ 511 ∈ s.coresOf 0 ∧ (s.district 0).bar.rolledBack = false ∧ (s.district 0).bar.go = none
        ∧ (s.district 0).orb.phase ≠ .barrier ∧ (s.district 0).orb.phase ≠ .waitGo)
    ∧ (∀ cause ∈ [0, 1, 2, 3], worksAlone (counting 0 id) true cause = true ∧ worksAlone (counting 0 id) false cause = true
        ∧ worksAlone (counting 1 id) false cause = true)
    ∧ ((0 + 1) % 2 ^ 64 < 0 + 2 ∧ 0 + 2 ≤ (1 + 1) % 2 ^ 64 ∧ ((counting 1 id).district 0).flt.rlead ≠ 0
        ∧ ((counting 1 id).district 0).orb.rollbacks < 2) := by
  unfold State.ticksFor
  and_intros <;> decide +kernel

theorem witness_ComparatorsHalt :
    (let s := pwr0 fun p => { p with railsOn := false, islandOn := true };
      (Instr.coolant, 4) ∈ [(Instr.dieHot, 0), (.dieCrit, 1), (.vinUv, 2), (.vinOv, 3), (.coolant, 4)]
        ∧ s.pwr.islandOn = true ∧ s.powered = false)
    ∧ (let s := { pwr0 (fun p => { p with stage := 2 }) with orb := { State.reset.orb with run := true } };
      s.powered = true ∧ s.pwr.stage ≠ 1 ∧ s.orb.run = true) := by and_intros <;> decide +kernel

theorem witness_OrbControlWrites :
    (let s := orb0 fun o => { o with periodSh := 1250 };
      let v : W64 := 0x0701;
      s.reaches m0 0 .orb 0 ∧ s.orb.run = false ∧ s.orb.arm = false ∧ bit v.toNat 2 = false ∧ bit v.toNat 3 = false ∧ bit v.toNat 1 = false
        ∧ 1250 ≤ s.orb.periodSh ∧ s.orb.periodSh ≤ 2500000)
    ∧ (1250 ≤ (orb0 fun o => { o with periodSh := 2500000 }).orb.periodSh ∧ (orb0 fun o => { o with periodSh := 2500000 }).orb.periodSh ≤ 2500000)
    ∧ (let s := orb0 fun o => { o with arm := true, tag := 7 };
      let v : W64 := 0x0700;
      s.reaches m0 0 .orb 0 ∧ bit v.toNat 2 = false ∧ s.orb.run = false ∧ s.orb.arm = true ∧ s.orb.accepted = none
        ∧ bits v.toNat 8 8 = s.orb.tag ∧ bit v.toNat 3 = false)
    ∧ (let s := orb0 fun o => { o with run := true };
      let v : W64 := 0x8;
      s.reaches m0 0 .orb 0 ∧ bit v.toNat 2 = false ∧ s.orb.run = true ∧ s.orb.arm = false ∧ bit v.toNat 1 = false
        ∧ s.defined.any (fun k => (s.active k).isSome) = false)
    ∧ (∀ p, p < 24 → (State.reset.port p).state ≠ 5 ∧ (State.reset.port p).state ≠ 6)
    ∧ (let u := State.reset.modPort 23 fun x => { x with state := 6 };
      23 < 24 ∧ u.orb.join = false ∧ (u.port 23).state = 6 ∧ u.portEntry 23 = none) := by
  and_intros <;> first | exact reaches0 _ _ _ | decide +kernel

theorem witness_ResumeAndTimeWrites :
    (let s := (orb0 fun o => { o with run := true, number := 4 }).modOrb 0 fun o => { o with phase := .hold };
      let v : W64 := 6;
      s.reaches m0 0 .orb 0x38 ∧ s.held 0 = true ∧ s.orb.number + 1 < bits v.toNat 0 48 ∧ (s.district 0).flt.busy = false
        ∧ (s.district 0).flt.stale = [])
    ∧ (State.reset.reaches m0 0 .glb 0x10 ∧ State.reset.orb.run = false) := by
  and_intros <;> first | exact reaches0 _ _ _ | decide +kernel

theorem witness_ShadowAndPlainWrites :
    (State.reset.reaches m0 0 .orb 8 ∧ State.reset.orb.run = false ∧ State.reset.shBusy 0 2 = false)
    ∧ (let s := State.reset.modImg 0 fun g => { g with commit := 1 };
      s.reaches m0 0 .orb 8 ∧ s.orb.run = false ∧ s.shBusy 0 2 = true)
    ∧ (State.reset.reaches m0 0 .num (8 * 3) ∧ State.reset.shBusy 3 0 = false)
    ∧ State.reset.reaches m0 0 .core (0x10000 * 511 + 0x18)
    ∧ (0xFFFF8 < 0x100000 ∧ 0xFFFF8 % 8 = 0 ∧ State.reset.reaches m0 0 .moon 0xFFFF8) := by
  and_intros <;> first | exact reaches0 _ _ _ | decide +kernel

/-- A postbox 5 in QUEUE_MAP: reader core 3. -/
def box5 : List Section := [sect 3 0 [put 0 8 2 + put 16 12 5 + put 32 9 3]]

theorem witness_PostboxWrites :
    (let s := withImage box5;
      s.reaches m0 0 .pbx 8 ∧ 5 < 4096 ∧ s.boxOwner 5 = some (0, put 0 8 2 + put 16 12 5 + put 32 9 3) ∧ s.fenced 0 = false)
    ∧ (let s := State.reset.modPbx 0 fun p => { p with dlrHead := 2, dlrTail := 0 };
      let v : W64 := 2;
      s.reaches m0 0 .pbx (0x118 + 0x40 * 0) ∧ gap 27 (s.district 0).pbx.dlrHead (bits v.toNat 0 27) ≤ (s.district 0).pbx.records) := by
  and_intros <;> first | exact reaches0 _ _ _ | decide +kernel

theorem witness_PortControlWrites :
    (∀ st ∈ [4, 7, 9], ((State.reset.modPort 23 fun x => { x with state := st }).portEntry 23 = none
      ∧ ((State.reset.modPort 23 fun x => { x with state := st }).port 23).state = st))
    ∧ State.reset.reaches m0 0 .tlk (0x20 + 0x4000 * 23)
    ∧ bit (0#64).toNat 1 = false ∧ bit (0#64).toNat 0 = false
    ∧ State.reset.mayTrain = false ∧ (pwr0 fun p => { p with stage := 5 }).mayTrain = true := by
  and_intros <;> first | exact reaches0 _ _ _ | decide +kernel

theorem witness_CommandRingWrites :
    (let s := State.reset.modHost 0 fun h => { h with cmdEn := true, cmdLog2 := 6, cplEn := true, cplLog2 := 6, cplTail := 64 };
      let v : W64 := 64;
      s.reaches m0 0 .dst 0x30 ∧ (s.district 0).host.badTailFor (bits v.toNat 0 32) = false
        ∧ s.reaches m0 0 .dst 0x50
        ∧ ahead (bits v.toNat 0 32) (s.district 0).host.cplHead ≤ ahead (s.district 0).host.cplTail (s.district 0).host.cplHead)
    ∧ (let s := State.reset;
      let v : W64 := BitVec.ofNat 64 (0x400000 + put 48 5 16 + put 53 1 1);
      s.reaches m0 0 .dst 0x28 ∧ bit v.toNat 53 = true ∧ (s.district 0).host.cmdEn = false
        ∧ s.badRing 0 v.toNat 64 ((s.district 0).host.cplEn && decide ((s.district 0).host.cplLog2 < bits v.toNat 48 5)) = false
        ∧ s.reaches m0 0 .dst 0x40 ∧ (s.district 0).host.cplEn = false
        ∧ s.badRing 0 v.toNat 32 ((s.district 0).host.cmdEn && decide (bits v.toNat 48 5 < (s.district 0).host.cmdLog2)) = false) := by
  and_intros <;> first | exact reaches0 _ _ _ | decide +kernel

theorem witness_ImageAndSnapshotWrites :
    (let s := State.reset.modImg 0 fun g => { g with base := 0x100000, len := 134217728 };
      s.halted = false ∧ s.fenced 0 = false ∧ s.reaches m0 0 .img 0x10 ∧ bits (0#64).toNat 0 48 = 0
        ∧ s.loadable 0 (s.district 0).img.base (s.district 0).img.len = true ∧ (s.district 0).img.base % 64 = 0
        ∧ (s.district 0).img.len % 64 = 0 ∧ (s.district 0).img.len ≤ 134217728 ∧ (s.district 0).img.len ≠ 0
        ∧ (s.district 0).img.shadow ≠ 1 ∧ (s.district 0).img.commit = 0)
    ∧ (let s := (withImage []).modImg 0 fun g => { g with shadow := 2 };
      let s := { s with orb := { s.orb with run := true, number := 6 } };
      s.halted = false ∧ s.fenced 0 = false ∧ s.reaches m0 0 .img 0x10 ∧ s.orb.run = true ∧ s.orb.number < bits (7#64).toNat 0 48
        ∧ (s.district 0).img.shadow = 2 ∧ (s.district 0).img.commit = 0 ∧ (s.district 0).img.active.isSome
        ∧ s.reaches m0 0 .snp 0 ∧ (s.district 0).snp.state = 0)
    ∧ (let s := State.reset.modImg 0 fun g => { g with commit := 3 };
      s.reaches m0 0 .img 0x10 ∧ (s.district 0).img.commit ≠ 0) := by
  and_intros <;> first | exact reaches0 _ _ _ | decide +kernel

theorem witness_RecoveryWrites :
    (let s := (State.reset.modOrb 0 fun o => { o with phase := .hold }).modFlt 0 fun f => { f with rewindable := true, stale := [3] };
      s.reaches m0 0 .flt 0x28 ∧ s.held 0 = true ∧ (s.district 0).flt.rewindable = true ∧ (s.district 0).flt.busy = false
        ∧ (s.district 0).flt.stale ≠ [])
    ∧ (let s := State.reset.modFlt 0 fun f => { f with head := 256 };
      s.reaches m0 0 .flt 8 ∧ ahead (s.district 0).flt.head (bits (0#64).toNat 0 32) ≤ 256 ∧ s.reaches m0 0 .flt 0x30 ∧ s.active 0 = none) := by
  and_intros <;> first | exact reaches0 _ _ _ | decide +kernel

theorem witness_DistrictResetBegins :
    (let s := (withImage []).modFlt 3 fun f => { f with fenced := true };
      s.halted = false ∧ (s.fenced 3 = true ∨ s.active 3 = none) ∧ (s.district 3).flt.resetting = false)
    ∧ State.reset.halted = false ∧ State.reset.active 0 = none ∧ (State.reset.district 0).flt.resetting = false := by and_intros <;> decide +kernel

/-- A CKP TX ring 9 in RING_MAP. -/
def ckp9 : Nat := put 0 8 2 + put 16 12 9 + put 45 3 3

theorem witness_ServeAndPowerWrites :
    (let s := ((withImage [sect 4 0 [ckp9]]).modOrb 0 fun o => { o with phase := .hold }).modRing 9 fun r => { r with state := 1 };
      let v : W64 := BitVec.ofNat 64 (9 + put 12 2 2);
      s.reaches m0 0 .spr 0x120 ∧ s.fenced 0 = false ∧ s.held 0 = true ∧ s.ckpRing 0 (bits v.toNat 0 12) = true
        ∧ (bits v.toNat 12 2 = 1 ∨ bits v.toNat 12 2 = 2) ∧ (s.district 0).mir.serving = false)
    ∧ (let s := pwr0 fun p => { p with state := .drowse };
      s.reaches m0 0 .pwr 8 ∧ s.pwr.changing = false ∧ s.pwr.state = .drowse)
    ∧ (State.reset.reaches m0 0 .pwr 8 ∧ State.reset.pwr.changing = false ∧ State.reset.pwr.state = .run
      ∧ State.reset.defined.any State.reset.engaged = false)
    ∧ (let s := pwr0 fun p => { p with memKept := true, halted := true };
      s.reaches m0 0 .pwr 0x10 ∧ s.pwr.offCause ≠ 3 ∧ s.pwr.memKept = true ∧ s.pwr.halted = true) := by
  and_intros <;> first | exact reaches0 _ _ _ | decide +kernel

theorem witness_BarrierEvents :
    (let s := withImage [sect 2 (put 128 24 2) []];
      let s := ({ s with orb := { s.orb with run := true, number := 1, lead := 1 } }).modOrb 0 fun o => { o with index := 1 };
      s.halted = false ∧ s.fenced 0 = false ∧ s.orb.run = true ∧ s.held 0 = false ∧ s.atBarrier 0 = true ∧ (s.district 0).bar = {}
        ∧ s.job 0 = none ∧ s.slotsOf 0 = [] ∧ (s.district 0).mir.send = false ∧ 1 ≤ s.orb.lead)
    ∧ (let s := (withImage []).modBar 0 fun b => { b with arrived := some 3 };
      let s := { s with orb := { s.orb with timeout := 5, number := 8 } };
      s.halted = false ∧ s.fenced 0 = false ∧ (s.district 0).bar.arrived = some 3 ∧ (s.district 0).bar.go = none
        ∧ 3 + s.orb.timeout ≤ s.orb.number ∧ (s.active 0).isSome)
    ∧ (let s := (withImage []).modBar 0 fun b => { b with rolledBack := true, restart := some 8 };
      let s := { s with orb := { s.orb with number := 8 } };
      s.halted = false ∧ s.fenced 0 = false ∧ (s.district 0).bar.rolledBack = true ∧ (s.district 0).bar.restart = some 8
        ∧ 8 ≤ s.orb.number ∧ (s.active 0).isSome) := by and_intros <;> decide +kernel

/-- Core 7 late with the work of orbit 3, at the barrier or before it, in a step of two orbits of which the core works in the
second. -/
def lateAt (arrived : Option Nat) : State :=
  let s := (((withImage [sect 2 (put 128 24 2) [put 0 9 7 + put 32 24 1 + put 64 24 1]]).modOrb 0 fun o => { o with index := 1, phase := .barrier }).modCore 7 fun c =>
    { c with work := some ⟨3, 0, .compute, true⟩, lateOrbit := some 3 }).modBar 0 fun b => { b with arrived := arrived };
  { s with orb := { s.orb with run := true, number := 4 } }

theorem witness_LateWorkAndSparing :
    (∀ a ∈ [none, some 4], ∀ cause ∈ [0, 1, 2, 3],
      let s := lateAt a;
      s.coreDistrict 7 = some 0 ∧ 7 < 512 ∧ s.halted = false ∧ s.fenced 0 = false ∧ (s.core 7).work = some ⟨3, 0, .compute, true⟩
        ∧ (s.core 7).busy = false ∧ (s.core 7).lateOrbit = some 3
        ∧ s.overrunCause 0 (coreTime 7 cause) (fun m => (s.core m).lateIn 3) = cause ∧ (s.district 0).bar.arrived = a ∧ s.runIndex 0 = some 1
        ∧ ((s.active 0).bind (·.rowAt 7 1)).isSome ∧ (s.active 0).bind (·.rowAt 7 0) = none)
    ∧ (let s := { moon0 (fun m => { m with running := true }) with spr := { State.reset.spr with since := 1000 } };
      s.halted = false ∧ s.moon.running = true ∧ s.spr.interval ≠ 0 ∧ s.spr.interval ≤ s.spr.since
        ∧ s.spr.free = 128 :: [129, 130, 131] ∧ (s.spr.swaps.any fun w => w.quad == s.spr.next) = false
        ∧ s.moon.flash.tables.inForce.seq + 1 < 2 ^ 32)
    ∧ (let s := State.reset.modPort 2 fun x => { x with swapTx := some (.bridged 1), swapRx := some (.bridged 1) };
      (s.port 2).swapTx = some (.bridged 1) ∧ (s.port 2).swapRx = some (.bridged 1) ∧ s.portFenced 2 = false)
    ∧ (let s := (moon0 fun m => { m with running := true }).modPort 2 fun x => { x with state := 6 };
      s.halted = false ∧ s.moon.running = true ∧ (s.port 2).state = 6 ∧ (s.port 2).spareUsed = false ∧ (s.port 2).swapping = false
        ∧ s.portFenced 2 = false ∧ fLt s.moon.cfg.threshold 0x3F800000 = true ∧ fLt 0 s.moon.cfg.threshold = true ∧ 3 < 4) := by
  and_intros <;> decide +kernel

/-! ## Witnesses: the pass sequencer, postboxes, XFER, AWAIT, training and lines -/

def opWord (op : Nat) : Nat := put 0 8 op

theorem witness_SequencerControl :
    (let s := running 511 [opWord 6] [];
      s.fetchOp 511 6 = some ⟨0, opWord 6, [opWord 6], false⟩ ∧ fld (opWord 6) 1 0 24 = 0)
    ∧ (let w := opWord 6 + put 8 24 (2 ^ 24 - 1);
      (running 511 [w] []).fetchOp 511 6 = some ⟨0, w, [w], false⟩ ∧ fld w 1 0 24 ≠ 0)
    ∧ (let s := (running 0 [opWord 7] []).modCore 0 fun c => { c with loops := [⟨0, 1, 4, 0, 0, 0⟩] };
      s.fetchOp 0 7 = some ⟨0, opWord 7, [opWord 7], false⟩ ∧ (s.core 0).loops = ⟨0, 1, 4, 0, 0, 0⟩ :: [] ∧ (1 : Nat) ≤ 1)
    ∧ (let s := (running 0 [opWord 7] []).modCore 0 fun c => { c with loops := [⟨0, 2, 3, 0, 0, 0⟩] };
      s.fetchOp 0 7 = some ⟨0, opWord 7, [opWord 7], false⟩ ∧ (s.core 0).loops = ⟨0, 2, 3, 0, 0, 0⟩ :: [] ∧ (1 : Nat) < 2)
    ∧ (let s := running 0 [opWord 15] [];
      s.fetchOp 0 15 = some ⟨0, opWord 15, [opWord 15], false⟩ ∧ (s.core 0).tile = none) := by
  and_intros <;> decide +kernel

/-- A FULL pass of one row and one column, K = 1, in BF16, on chain 0. -/
def passWord (m : Nat) : Nat := opWord 1 + put 32 16 m + put 48 16 1 + put 64 16 1
def noErrs : PassErrs := ⟨[], [], []⟩
def jobOf (s : State) (w : Nat) : PassJob :=
  ⟨0, (s.core 0).next, passOf w, ((s.active 0).bind (·.chain (passOf w).chain)).getD 0, (s.core 0).loops, s.env 0, noErrs, s⟩

theorem witness_PassCompletes :
    (let s := (running 0 [passWord 1] []).modCore 0 fun c => { c with outs := [⟨0, .await 0 0 0, [], [(sramAddr 0 0, 32)]⟩] };
      s.fetchOp 0 1 = some ⟨0, passWord 1, [passWord 1], false⟩
        ∧ ∃ m ∈ s.passCores 0 (passOf (passWord 1)),
          (s.core m).mayPass (passReads ((jobOf s (passWord 1)).ctx s 0)) (passWrites ((jobOf s (passWord 1)).ctx s 0)) = false)
    ∧ (let s := running 0 [passWord 0] [];
      s.fetchOp 0 1 = some ⟨0, passWord 0, [passWord 0], false⟩ ∧ (passOf (passWord 0)).live = false
        ∧ ∀ m ∈ s.passCores 0 (passOf (passWord 0)),
          (s.core m).mayPass (passReads ((jobOf s (passWord 0)).ctx s 0)) (passWrites ((jobOf s (passWord 0)).ctx s 0)) = true)
    ∧ (let s := running 0 [passWord 1] [];
      let j := jobOf s (passWord 1);
      let r := (j.attempts (j.p.keep && (s.core 0).resident == some (j.p.tile 0) && (j.p.tile 0).whole) (s.core 0).replayMax 0
        ⟨(s.issue 0).count (ctrCore 0 0) 1, 0, {}, none⟩);
      s.fetchOp 0 1 = some ⟨0, passWord 1, [passWord 1], false⟩ ∧ noErrs.ecc = [] ∧ j.p.live = true
        ∧ (∀ m ∈ s.passCores 0 j.p, (s.core m).mayPass (passReads (j.ctx s 0)) (passWrites (j.ctx s 0)) = true) ∧ r.2.2 = none
        ∧ r.1.fault = none) := by
  and_intros <;> decide +kernel

/-- A district record with 16 cells, postboxes 5 (reader core 3) and 6 (reader core 0), and collection box 7 with OUT 5. -/
def dist0 : Nat := put 0 8 1 + put 32 18 16
def pbox (b reader : Nat) : Nat := put 0 8 2 + put 16 12 b + put 32 10 16 + put 64 9 reader
def cbox : Nat := put 0 8 3 + put 16 12 7 + put 32 10 16 + put 80 10 1 + put 128 12 5
def boxes : List Section := [sect 3 0 [dist0, pbox 5 3, pbox 6 0, cbox]]
def sendWord (items : Nat) : Nat := opWord 2 + put 16 12 5 + put 32 11 items
def item (i : Nat) : BoxItem := ⟨3, [1, 2, 3, 4], i, 1, false, 0⟩

theorem witness_SendClaimsAndLinks :
    (let s := running 0 [sendWord 0] boxes;
      s.fetchOp 0 2 = some ⟨0, sendWord 0, [sendWord 0], false⟩ ∧ (s.core 0).maySend (sendRanges 0 (sendWord 0)) = true
        ∧ (s.active 0).bind (·.boxEntry 5) = some (pbox 5 3) ∧ fld (sendWord 0) 2 0 12 = 5 ∧ fld (sendWord 0) 4 0 11 = 0)
    ∧ (let s := running 0 [sendWord 16] boxes;
      s.fetchOp 0 2 = some ⟨0, sendWord 16, [sendWord 16], false⟩ ∧ (s.core 0).maySend (sendRanges 0 (sendWord 16)) = true
        ∧ (s.active 0).bind (·.boxEntry 5) = some (pbox 5 3) ∧ fld (sendWord 16) 4 0 11 = 16 ∧ beCollection (pbox 5 3) = false
        ∧ (s.box 5).state ≠ 2 ∧ s.boxRoom 0 5 16 = true)
    ∧ (let s := (running 0 [sendWord 16] boxes).modCore 0 fun c => { c with sendWait := some (sendWord 16) };
      s.coreDistrict 0 = some 0 ∧ s.halted = false ∧ s.fenced 0 = false ∧ (s.core 0).sendWait = some (sendWord 16)
        ∧ (s.active 0).bind (·.boxEntry 5) = some (pbox 5 3) ∧ s.boxRoom 0 5 16 = true)
    ∧ (let s := (running 0 [] boxes).modCore 0 fun c => { c with unlinked := [(5, [item 0]), (5, [])] };
      s.coreDistrict 0 = some 0 ∧ s.halted = false ∧ s.fenced 0 = false ∧ (s.core 0).unlinked = (5, [item 0]) :: [(5, [])]
        ∧ (s.box 5).state ≠ 2 ∧ (s.active 0).bind (·.boxEntry 5) = some (pbox 5 3) ∧ (s.core (beReader (pbox 5 3))).outs = []) := by
  and_intros <;> decide +kernel

def readWord (items : Nat) : Nat := opWord 3 + put 16 12 6 + put 32 13 items

theorem witness_ReadsDeathsAndRounds :
    (let s := running 0 [readWord 0] boxes;
      s.fetchOp 0 3 = some ⟨0, readWord 0, [readWord 0], false⟩ ∧ fld (readWord 0) 2 0 12 = 6 ∧ (s.box 6).state ≠ 2 ∧ (s.core 0).outs = []
        ∧ (s.core 0).outsFull = false ∧ fld (readWord 0) 1 0 1 = 0 ∧ fld (readWord 0) 4 0 13 = 0)
    ∧ (let s := running 0 [readWord 1] boxes;
      s.fetchOp 0 3 = some ⟨0, readWord 1, [readWord 1], false⟩ ∧ (s.core 0).outs = [] ∧ fld (readWord 1) 4 0 13 = 1
        ∧ (s.box 6).items = [])
    ∧ (let s := (running 0 [readWord 1] boxes).modBox 6 fun x => { x with items := [item 0] };
      s.fetchOp 0 3 = some ⟨0, readWord 1, [readWord 1], false⟩ ∧ (s.core 0).outs = [] ∧ (s.active 0).bind (·.boxEntry 6) = some (pbox 6 0)
        ∧ beReader (pbox 6 0) = 0 ∧ 1 ≤ (s.box 6).items.length)
    ∧ (let s := (withImage boxes).modBox 6 fun x => { x with dying := true };
      s.boxOwner 6 = some (0, pbox 6 0) ∧ s.halted = false ∧ s.fenced 0 = false ∧ (s.box 6).dying = true
        ∧ (s.core (beReader (pbox 6 0))).outs = [])
    ∧ (let s := (withImage boxes).modBox 7 fun x => { x with results := [item 0] };
      s.boxOwner 7 = some (0, cbox) ∧ beCollection cbox = true ∧ s.halted = false ∧ s.fenced 0 = false
        ∧ (s.box 7).results = item 0 :: [] ∧ beOut cbox = 5 ∧ (s.active 0).bind (·.boxEntry 5) = some (pbox 5 3) ∧ (s.box 5).state ≠ 2
        ∧ s.boxRoom 0 5 1 = true ∧ (s.core (beReader (pbox 5 3))).outs = []) := by
  and_intros <;> decide +kernel

def xferWord (mode enq : Nat) : Nat := opWord 4 + put 8 4 mode + put 12 1 enq + put 16 12 9 + put 32 32 64 + put 64 48 0x200000 + put 128 48 0x300000
def tx9 : Nat := put 0 8 2 + put 16 12 9 + put 32 6 20
def rings : List Section := [sect 4 0 [tx9]]
def item0 : SItem := ⟨0x200000, 64, false, 0, 0, 0, 0, 0, 0, true, false, 0⟩

theorem witness_XferCompletes :
    (let s := running 0 [xferWord 0 0] [];
      s.fetchXfer 0 0 = some ⟨0, xferWord 0 0, [xferWord 0 0], false⟩ ∧ s.xferSource 0 (xferWord 0 0) = some 0x200000
        ∧ s.tileAddr 0 (fld (xferWord 0 0) 16 0 48) = 0x300000
        ∧ (s.core 0).mayStart ((0x200000, 64) :: xferSlots 0 (xferWord 0 0)) [(0x300000, 64)] = true ∧ xferEnq (xferWord 0 0) = false)
    ∧ (let s := running 0 [xferWord 0 1] [];
      s.fetchXfer 0 0 = some ⟨0, xferWord 0 1, [xferWord 0 1], false⟩ ∧ s.xferSource 0 (xferWord 0 1) = some 0x200000
        ∧ (s.core 0).mayStart ((0x200000, 64) :: xferSlots 0 (xferWord 0 1)) [(0x300000, 64)] = true ∧ xferEnq (xferWord 0 1) = true)
    ∧ (let s := running 0 [xferWord 1 0] rings;
      s.fetchXfer 0 1 = some ⟨0, xferWord 1 0, [xferWord 1 0], false⟩ ∧ s.xferSource 0 (xferWord 1 0) = some 0x200000
        ∧ (s.core 0).mayStart ((0x200000, 64) :: xferSlots 0 (xferWord 1 0)) [] = true ∧ (s.active 0).bind (·.ringEntry (xferTarget (xferWord 1 0))) = some tx9)
    ∧ (let s := (running 0 [xferWord 2 0] rings).modCore 0 fun c => { c with held := [item0] };
      s.fetchXfer 0 2 = some ⟨0, xferWord 2 0, [xferWord 2 0], false⟩ ∧ s.heldItem 0 (xferSlot (xferWord 2 0)) = some item0
        ∧ (s.core 0).mayStart [(sramAddr 0 (xferSlot (xferWord 2 0)), 32), (item0.addr, item0.len)] [] = true
        ∧ (s.active 0).bind (·.ringEntry (xferTarget (xferWord 2 0))) = some tx9)
    ∧ (let s := (running 0 [xferWord 4 0] []).modCore 0 fun c => { c with held := [item0] };
      s.fetchXfer 0 4 = some ⟨0, xferWord 4 0, [xferWord 4 0], false⟩
        ∧ (s.core 0).mayStart [(sramAddr 0 (xferSlot (xferWord 4 0)), 32)] [] = true
        ∧ s.heldItem 0 (xferSlot (xferWord 4 0)) = some item0 ∧ item0.ringed = false)
    ∧ (let s := (running 0 [xferWord 0 0] []).modCore 0 fun c => { c with outs := [⟨0, .await 0 0 0, [], [(0x300000, 32)]⟩] };
      s.fetchXfer 0 0 = some ⟨0, xferWord 0 0, [xferWord 0 0], false⟩
        ∧ (s.core 0).mayStart (xferSlots 0 (xferWord 0 0)) [(s.tileAddr 0 (fld (xferWord 0 0) 16 0 48), xferLen (xferWord 0 0))] = false) := by
  and_intros <;> decide +kernel

theorem witness_MessagesWait :
    (State.reset.district 0).flt.rollAt = none ∧ (State.reset.ring 9).state ≠ 1 ∧ (State.reset.ring 9).state ≠ 2
    ∧ ((State.reset.modRing 9 fun r => { r with state := 2 }).district 0).flt.rollAt = none
    ∧ ((State.reset.modRing 9 fun r => { r with state := 2 }).ring 9).state = 2 := by
  and_intros <;> decide +kernel

def awaitWord : Nat := opWord 5 + put 16 8 4
def queue4 : Nat := put 0 8 3 + put 16 8 4 + put 160 18 8
def queues : List Section := [sect 3 0 [dist0], sect 4 0 [queue4]]

theorem witness_AwaitsAndEnqueues :
    (let s := (running 0 [awaitWord] queues).modQueue 4 fun q => { q with items := [item0] };
      s.fetchOp 0 5 = some ⟨0, awaitWord, [awaitWord], false⟩ ∧ (s.core 0).mayStart [] [(sramAddr 0 (fld awaitWord 4 0 20), 32)] = true
        ∧ (s.queue (fld awaitWord 2 0 8)).items.find? (fun y => y.postmark == fld awaitWord 8 0 64 + (s.env 0).step) = some item0)
    ∧ (let s := running 0 [awaitWord] queues;
      s.fetchOp 0 5 = some ⟨0, awaitWord, [awaitWord], false⟩
        ∧ (s.queue (fld awaitWord 2 0 8)).items.find? (fun y => y.postmark == fld awaitWord 8 0 64 + (s.env 0).step) = none)
    ∧ (let s := (withImage queues).modQueue 4 fun q => { q with waiting := [(item0, none)] };
      s.queueOwner 4 = some (0, queue4) ∧ s.halted = false ∧ s.fenced 0 = false ∧ s.queueRoom 0 4 queue4 = true
        ∧ (s.queue 4).waiting = (item0, none) :: [] ∧ ((s.queue 4).items.any fun y => y.postmark == item0.postmark) = false
        ∧ (item0.useMb && !(s.mbInUse 0).contains (bits item0.postmark 24 16) && decide (256 ≤ (s.mbInUse 0).length)) = false
        ∧ ∀ n, (s.core n).outs = []) := by
  and_intros <;> first | exact fun _ => rfl | decide +kernel

/-- The descriptor of 128 B at SRAM offset 0 of core 0, in a district with a valid BF16 slot 0 and a WEIGHTS region. -/
def training (e : Descr) (count : Nat) : State :=
  let w := opWord 4 + put 8 4 3;
  let s := (running 0 [w] [sect 2 (put 128 24 9 + put 256 24 1 + put 288 24 2 + put 320 24 4) [], sect 6 0 [put 0 8 2 + put 24 4 1 + put 64 48 0x100000 + put 128 20 8]]).modOrb 0 fun o => { o with index := 3, phase := .update };
  let s := s.modSlot 0 fun x => { x with valid := true };
  let s := s.modNum 0 fun x => { x with dpReplicas := count };
  s.setMem (Memory.write s.mem (sramAddr 0 0) (leBytes 128 e))

def trainFetch : Fetched := ⟨0, opWord 4 + put 8 4 3, [opWord 4 + put 8 4 3], false⟩
def updateDescr : Descr := put 0 8 1 + put 512 48 0x100000 + put 576 16 1
def packDescr : Descr := put 0 8 2
def unpackDescr (n : Nat) : Descr := put 0 8 3 + put 64 48 n + put 192 48 0x100000 + put 320 48 0x200000

def descrReady (s : State) (e : Descr) : Bool :=
  s.fetchXfer 0 3 == some trainFetch && s.num (sramAddr 0 (xferSlot trainFetch.w)) 128 == e
    && (s.core 0).mayStart [(sramAddr 0 0, 128)] [] && (s.core 0).mayStart ((sramAddr 0 0, 128) :: e.srcs 0) e.dsts
    && descrCause s 0 0 (s.corePhase 0) e == none

theorem witness_TrainingCompletes :
    descrReady (training updateDescr 0) updateDescr = true ∧ updateDescr.op = 1 ∧ updateDescr.count = 0
    ∧ descrReady (training packDescr 0) packDescr = true ∧ packDescr.op = 2
    ∧ (let s := training (unpackDescr 0) 1;
      descrReady s (unpackDescr 0) = true ∧ (unpackDescr 0).op = 3 ∧ s.coreDistrict 0 = some 0 ∧ s.halted = false ∧ s.fenced 0 = false
        ∧ s.readyUnpack 0 0 = none ∧ (unpackDescr 0).count = 0)
    ∧ (let s := training (unpackDescr 256) 2;
      let u := (s.modCore 0 fun c => { c with pc := c.next }).count (ctrCore 0 9) 1;
      descrReady s (unpackDescr 256) = true ∧ (unpackDescr 256).count ≠ 0 ∧ s.readyUnpack 0 0 = none ∧ (s.district 0).flt.rollAt = none
        ∧ u.grxAll 0 0 (unpackDescr 256) = none)
    ∧ (let s := training (unpackDescr 256) 1;
      let u := (s.modCore 0 fun c => { c with pc := c.next }).count (ctrCore 0 9) 1;
      descrReady s (unpackDescr 256) = true ∧ s.readyUnpack 0 0 = none ∧ u.grxAll 0 0 (unpackDescr 256) = some [none]
        ∧ [(none : Option SItem)].filterMap id = [] ∧ grxCause u (unpackDescr 256) [none] = none) := by
  and_intros <;> decide +kernel

theorem witness_MemoryLineReads :
    State.reset.halted = false ∧ State.reset.memc.selfRefresh = false ∧ State.reset.lineDistrict (2 ^ 30) = some 0
    ∧ (2 ^ 30, 3) ∉ State.reset.memc.retries ∧ [1, 2].length ≤ 2 ∧ 3 ≤ [1, 2, 3].length ∧ [1, 2, 3].length ≤ 3
    ∧ State.reset.lineDistrict (2 ^ 30) ≠ some 3 := by
  and_intros <;> decide

def retried : State := { State.reset with memc := { State.reset.memc with retries := [(0x4000, 0)] } }
def ringRegion : List Section := [sect 6 0 [put 0 8 2 + put 24 4 5 + put 64 48 0x100000 + put 128 20 1]]

theorem witness_MemoryRetries :
    (retried.halted = false ∧ retried.memc.selfRefresh = false ∧ (0x4000, 0) ∈ retried.memc.retries ∧ retried.refilled 0 0x4000 = false
      ∧ retried.lineDistrict 0x4000 = some 0 ∧ 3 < [1, 2, 3, 4].length)
    ∧ (let s := ({ retried with dist := (withImage ringRegion).dist } : State).modFlt 0 fun f => { f with rlead := 2 };
      (0x4000, 0) ∈ s.memc.retries ∧ s.refilled 0 0x4000 = true ∧ s.fenced 0 = false ∧ s.held 0 = false
        ∧ s.active 0 = some ⟨0, [], ringRegion⟩ ∧ (s.district 0).bar.go = none ∧ (s.district 0).bar.rolledBack = false
        ∧ (s.district 0).orb.rollbacks = 0 ∧ (s.district 0).flt.rlead ≠ 0) := by
  and_intros <;> decide +kernel

theorem witness_PagesTestsAndLog :
    (let s := moon0 fun m => { m with running := true };
      s.halted = false ∧ s.moon.running = true ∧ s.memc.selfRefresh = false ∧ s.memc.scrubAt + 1 < reserveEnd / 64
        ∧ memEnd / MiB - 1 < memEnd / MiB ∧ (∀ x ∈ s.memc.waiting, x.1 ≠ memEnd / MiB - 1)
        ∧ memEnd / MiB - 1 ∉ s.memc.restoring ∧ s.memc.freePages ≠ 0
        ∧ ahead (s.district 0).flt.head (s.moon.copied.getD 0 0) = 0)
    ∧ (let s := { State.reset with memc := { State.reset.memc with scrubAt := reserveEnd / 64 - 1 } };
      s.memc.selfRefresh = false ∧ s.memc.scrubAt + 1 = reserveEnd / 64)
    ∧ (let s := { State.reset with memc := { State.reset.memc with remaps := [(5, 6)] } };
      (∀ d ∈ s.defined, s.engagedMemory d = false) ∧ (5, 6) ∈ s.memc.remaps ∧ 5 ∉ s.memc.restoring)
    ∧ (let s := spr0 fun x => { x with testing := [131] };
      131 ∈ s.spr.testing ∧ (s.spr.repairs.get {} (4 * 131 + 3 % 4)).rowSpare = false)
    ∧ (let s := State.reset.modFlt 3 fun f => { f with head := 1 };
      ahead (s.district 3).flt.head (s.moon.copied.getD 3 0) = 1 ∧ s.moon.log.length < logCapacity) := by
  and_intros <;> decide +kernel

/-! ## Witnesses: frames and ports -/

/-- A frame as its sender puts it on the line. -/
def frame (h : Nat) (pay : List Byte) : Frame :=
  let n := flitsOf pay.length;
  { kinds := 0 :: List.replicate (n - 1) 1
    bytes := leBytes 32 (h + put 224 32 (frameCrc h pay)) ++ pay ++ List.replicate (64 * n - 32 - pay.length) 0 }

def ctlHead (op len : Nat) : Nat := mkHdr 2 4 false false 0 0 len op 77 0
def ctl (op : Nat) (pay : List Byte) : Frame := frame (ctlHead op pay.length) pay

/-- Port 2 is the logical port 2 of a job with tag 77, in which the module has the given parents and children. -/
def pe2 : Nat := put 0 8 1 + put 16 5 2 + put 24 5 2
def rootJob : Nat := put 0 8 3 + put 32 32 77 + put 133 1 1 + put 141 1 1 + put 160 24 4 + put 192 24 4
def leafJob : Nat := put 0 8 3 + put 32 32 77 + put 128 5 2 + put 136 5 2
def innerJob : Nat := put 0 8 3 + put 32 32 77 + put 128 5 3 + put 136 5 3 + put 160 24 4 + put 192 24 4
def linked (j : Nat) (ss : List Section) (st : Nat) : State :=
  (withImage (sect 5 0 [pe2, j] :: ss)).modPort 2 fun x => { x with state := st }

theorem witness_FramesRefused :
    (let s := State.reset.modPort 2 fun x => { x with state := 4 };
      let f := ctl 2 [1, 2, 3, 4, 5, 6, 7, 8];
      s.halted = false ∧ 4 ≤ (s.port 2).state ∧ (s.port 2).state ≤ 8 ∧ (Instr.ping 2 f 0, 2) ∈ frameCommands 2 f 0
        ∧ frameBad { f with bytes := f.bytes.set 39 9 } = true ∧ frameBad f = false)
    ∧ (let s := State.reset.modPort 2 fun x => { x with state := 8, expected := 4095 };
      let f := ctl 2 [1, 2, 3, 4, 5, 6, 7, 8];
      let g := leNat (f.bytes.take 32);
      (s.port 2).state ≤ 8 ∧ frameBad f = false ∧ frameRow g ((f.bytes.drop 32).take (hdrLen g)) = 2 ∧ hdrFseq g ≠ (s.port 2).expected) := by
  and_intros <;> decide +kernel

def txTo2 : Nat := put 0 8 2 + put 16 12 9 + put 32 6 20 + put 40 5 2 + put 128 12 3
def announcePay (log2 : Nat) : List Byte := leBytes 8 0 ++ leBytes 2 3 ++ leBytes 1 log2
def creditPay (rp : Nat) : List Byte := leBytes 8 0 ++ leBytes 2 3 ++ leBytes 4 rp
def holdPay : List Byte := leBytes 8 0 ++ leBytes 2 0 ++ leBytes 1 1

theorem witness_RingFrames :
    (let s := linked rootJob [sect 4 0 [txTo2]] 6;
      s.deliversTo 2 0 pe2 rootJob (ctlHead 5 11) ∧ s.deliversTo 2 0 pe2 rootJob (ctlHead 6 14) ∧ s.deliversTo 2 0 pe2 rootJob (ctlHead 7 14)
        ∧ s.deliversTo 2 0 pe2 rootJob (ctlHead 12 11)
        ∧ s.txRing 0 (peLport pe2) 3 = some (9, txTo2) ∧ (s.ring 9).waiting = [] ∧ (s.ring 9).state ≠ 1
        ∧ s.takes 2 (ctl 5 (announcePay 20)) 5 (ctlHead 5 11) (announcePay 20)
        ∧ leNat (((announcePay 20).drop 10).take 1) = reLog2 txTo2 ∧ leNat (((announcePay 20).drop 8).take 2) = 3
        ∧ s.takes 2 (ctl 5 (announcePay 19)) 5 (ctlHead 5 11) (announcePay 19) ∧ leNat (((announcePay 19).drop 10).take 1) ≠ reLog2 txTo2
        ∧ s.takes 2 (ctl 7 (creditPay 0)) 7 (ctlHead 7 14) (creditPay 0) ∧ (s.ring 9).attempt = bits (leNat ((creditPay 0).take 8)) 24 16
        ∧ s.takes 2 (ctl 12 holdPay) 0xC (ctlHead 12 11) holdPay ∧ holdPay.length = 11
        ∧ bits (leNat (holdPay.take 8)) 0 24 = (s.district 0).orb.step ∧ (s.active 0).isSome)
    ∧ (let s := (linked rootJob [sect 4 0 [txTo2]] 6).modRing 9 fun r => { r with state := 1, wp := 2 };
      s.deliversTo 2 0 pe2 rootJob (ctlHead 6 14) ∧ s.takes 2 (ctl 6 (creditPay 2)) 6 (ctlHead 6 14) (creditPay 2) ∧ (creditPay 2).length = 14
        ∧ leNat (((creditPay 2).drop 10).take 4) = 2 ∧ (s.ring 9).state = 1 ∧ (s.ring 9).attempt = bits (leNat ((creditPay 2).take 8)) 24 16
        ∧ gap 32 2 (s.ring 9).rp < 2 ^ 31 ∧ gap 32 2 (s.ring 9).rp ≤ gap 32 (s.ring 9).wp (s.ring 9).rp
        ∧ (s.district 0).bar.arrived = none ∧ (s.district 0).mir.send = false) := by
  unfold State.takes State.deliversTo
  and_intros <;> decide +kernel

def slot3 : Section := sect 8 0 [put 0 12 3]
def amaxPay : List Byte := leBytes 8 0 ++ leBytes 2 0 ++ leBytes 2 1 ++ leBytes 4 0x3F800000
def barPay (restart orbit : Nat) : List Byte := leBytes 8 (put 40 1 restart) ++ leBytes 8 orbit

theorem witness_TreeFrames :
    (let s := linked rootJob [slot3] 6;
      s.deliversTo 2 0 pe2 rootJob (ctlHead 8 16) ∧ s.current 0 amaxPay ∧ s.takes 2 (ctl 8 amaxPay) 8 (ctlHead 8 16) amaxPay
        ∧ ctlLength 8 amaxPay = true ∧ (jobChildren rootJob true).contains (peLport pe2) = true
        ∧ (∀ v ∈ maximaOf amaxPay, v.1 < (s.slotsOf 0).length) ∧ (s.district 0).bar.arrived = none)
    ∧ (let s := linked leafJob [slot3] 6;
      s.deliversTo 2 0 pe2 leafJob (ctlHead 8 16) ∧ s.current 0 amaxPay ∧ s.takes 2 (ctl 8 amaxPay) 8 (ctlHead 8 16) amaxPay
        ∧ ctlLength 8 amaxPay = true ∧ (jobChildren leafJob true).contains (peLport pe2) = false)
    ∧ (let s := (linked leafJob [slot3] 6).modBar 0 fun b => { b with amaxSent := true };
      let got := (maximaOf amaxPay).foldl (fun m v => insertKey v.1 v.2 m) ((lookupKey 24 (s.district 0).bar.amaxGot).getD []);
      s.deliversTo 2 0 pe2 leafJob (ctlHead 9 16) ∧ s.takes 2 (ctl 9 amaxPay) 9 (ctlHead 9 16) amaxPay ∧ ctlLength 9 amaxPay = true
        ∧ jobParent leafJob true = some (peLport pe2) ∧ jobParent leafJob false ≠ none ∧ jobChildren leafJob true = []
        ∧ (s.district 0).bar.down = false ∧ (s.district 0).bar.amaxSent = true ∧ (s.district 0).mir.send = false ∧ (s.slotsOf 0).Nodup
        ∧ got.length = (s.slotsOf 0).length)
    ∧ (let s := linked rootJob [] 6;
      s.deliversTo 2 0 pe2 rootJob (ctlHead 10 16) ∧ s.current 0 (barPay 0 9) ∧ s.takes 2 (ctl 10 (barPay 0 9)) 0xA (ctlHead 10 16) (barPay 0 9)
        ∧ (jobChildren rootJob false).contains (peLport pe2) = true ∧ (s.district 0).bar.down = false
        ∧ s.current 0 (barPay 1 9) ∧ s.takes 2 (ctl 10 (barPay 1 9)) 0x1A (ctlHead 10 16) (barPay 1 9) ∧ (barPay 1 9).length = 16
        ∧ s.held 0 = false ∧ jobParent rootJob false = none ∧ (s.district 0).bar.restart = none ∧ (s.district 0).bar.go = none
        ∧ s.orb.run = false)
    ∧ (let s := linked innerJob [] 6;
      s.deliversTo 2 0 pe2 innerJob (ctlHead 10 16) ∧ s.takes 2 (ctl 10 (barPay 1 9)) 0x1A (ctlHead 10 16) (barPay 1 9)
        ∧ (jobChildren innerJob false).contains (peLport pe2) = true ∧ jobParent innerJob false ≠ none
        ∧ (s.district 0).bar.restartSeen = false ∧ (s.district 0).bar.deadline = none)
    ∧ (let s := { linked leafJob [] 6 with orb := { State.reset.orb with run := true, number := 8 } };
      s.deliversTo 2 0 pe2 leafJob (ctlHead 11 16) ∧ s.current 0 (barPay 0 9) ∧ s.takes 2 (ctl 11 (barPay 0 9)) 0xB (ctlHead 11 16) (barPay 0 9)
        ∧ jobParent leafJob false = some (peLport pe2) ∧ s.held 0 = false ∧ (s.active 0).isSome ∧ (s.district 0).bar.rolledBack = false
        ∧ s.orb.number < leNat ((barPay 0 9).drop 8))
    ∧ (let s := (linked leafJob [] 6).modBar 0 fun b => { b with rolledBack := true };
      s.deliversTo 2 0 pe2 leafJob (ctlHead 11 16) ∧ s.takes 2 (ctl 11 (barPay 1 9)) 0x1B (ctlHead 11 16) (barPay 1 9)
        ∧ jobParent leafJob false = some (peLport pe2) ∧ s.held 0 = false ∧ (s.active 0).isSome ∧ (s.district 0).bar.rolledBack = true
        ∧ s.orb.run = false) := by
  unfold State.takes State.deliversTo State.current
  and_intros <;> decide +kernel

def cardPay : List Byte := List.replicate 124 1 ++ leBytes 4 (crc32 (List.replicate 124 1))

theorem witness_PortFrames :
    (let s := State.reset.modPort 2 fun x => { x with state := 4 };
      s.takes 2 (ctl 1 cardPay) 1 (ctlHead 1 128) cardPay ∧ cardPay.length = 128 ∧ leNat (cardPay.drop 124) = crc32 (cardPay.take 124)
        ∧ (s.port 2).state = 4 ∧ (s.port 2).echoes ≠ 16
        ∧ s.takes 2 (ctl 2 (leBytes 8 5)) 2 (ctlHead 2 8) (leBytes 8 5) ∧ (leBytes 8 5).length = 8 ∧ s.portFenced 2 = false)
    ∧ (let s := ({ State.reset with dist := Tbl.empty } : State).modPort 2 fun x => { x with state := 4, echoes := 16 };
      s.takes 2 (ctl 1 cardPay) 1 (ctlHead 1 128) cardPay ∧ (s.port 2).echoes = 16 ∧ s.orb.join = false ∧ s.portEntry 2 = none
        ∧ s.tensorDistrict 2 = none)
    ∧ (let s := State.reset.modPort 2 fun x => { x with state := 5, echoes := 15 };
      s.takes 2 (ctl 3 (leBytes 16 5)) 3 (ctlHead 3 16) (leBytes 16 5) ∧ (leBytes 16 5).length = 16 ∧ (s.port 2).state ≠ 4
        ∧ s.takes 2 (ctl 13 [1, 2, 3]) 0xD (ctlHead 13 3) [1, 2, 3] ∧ s.wrongClass 2 (ctlHead 13 3) = false)
    ∧ (let s := { linked rootJob [] 6 with moon := { State.reset.moon with running := true } };
      s.takes 2 (ctl 13 (leBytes 2 3)) 0xD (ctlHead 13 2) (leBytes 2 3) ∧ s.wrongClass 2 (ctlHead 13 2) = false ∧ s.moon.running = true
        ∧ (s.port 2).state = 6 ∧ (s.port 2).spareUsed = false ∧ (s.port 2).swapTx = none ∧ (s.port 2).swapRx = none ∧ s.portFenced 2 = false)
    ∧ (let s := ({ linked rootJob [] 6 with moon := { State.reset.moon with running := true } } : State).modPort 2 fun x => { x with swapTx := some (.bridged 3) };
      s.takes 2 (ctl 13 (leBytes 2 0x103)) 0xD (ctlHead 13 2) (leBytes 2 0x103) ∧ s.wrongClass 2 (ctlHead 13 2) = false
        ∧ (s.port 2).swapTx = some (.bridged 3))
    ∧ (let s := ({ linked rootJob [] 6 with moon := { State.reset.moon with running := true } } : State).modPort 2 fun x => { x with swapTx := some (.proposed 0) };
      s.takes 2 (ctl 13 (leBytes 2 0x200)) 0xD (ctlHead 13 2) (leBytes 2 0x200) ∧ (s.port 2).swapTx = some (.proposed 0))
    ∧ (let s := { (State.reset.modImg 0 fun g => { g with loaded := some ⟨0, [], [sect 5 0 [pe2, rootJob]]⟩ }).modPort 2 fun x =>
          { x with state := 6, latValid := true } with orb := { State.reset.orb with join := true, joinPort := some 2 } };
      s.takes 2 (ctl 4 (leBytes 21 0)) 4 (ctlHead 4 21) (leBytes 21 0) ∧ (leBytes 21 0).length = 21
        ∧ s.cardMap 2 = some (0, pe2, some rootJob, []) ∧ (s.port 2).state = 6 ∧ peForeign pe2 = false ∧ s.orb.join = true
        ∧ s.joinsBy 2 = true ∧ s.wrongClass 2 (ctlHead 4 21) = false ∧ s.orb.plan = none ∧ (s.port 2).latValid = true) := by
  unfold State.takes
  and_intros <;> decide +kernel

def rx9 : Nat := put 0 8 1 + put 16 12 9 + put 32 6 12 + put 40 5 2 + put 48 8 4 + put 64 48 0x100000
def record : Nat := put 0 8 1 + put 32 24 2 + put 128 32 448
def dataHead (beg fin : Bool) (len off : Nat) : Nat := mkHdr 1 0 beg fin 0 0 len 9 77 off
def beginPay : List Byte := leBytes 64 record ++ List.replicate 16 7
def arriving : State :=
  ((linked rootJob [sect 3 0 [dist0], sect 4 0 [rx9, queue4]] 6).modRing 9 fun r => { r with arrival := some ⟨record, true⟩ }).modQueue 4 fun q =>
    { q with waiting := [(item0, none)] }

theorem witness_DataFrames :
    (let s := linked rootJob [sect 3 0 [dist0], sect 4 0 [rx9, queue4]] 6;
      let h := dataHead true false 80 0;
      s.deliversTo 2 0 pe2 rootJob h ∧ s.takes 2 (frame h beginPay) 0 h beginPay ∧ hdrType h = 1 ∧ hdrRing h = 9
        ∧ s.ringOwner 9 = some (0, rx9) ∧ reTx rx9 = false ∧ reLport rx9 = peLport pe2 ∧ reVc rx9 = hdrVc h ∧ (s.district 0).flt.resetting = false
        ∧ (s.ring 9).staged = []
        ∧ hdrBegin h = true ∧ hdrEnd h = false ∧ leNat (beginPay.take 64) = record ∧ rhAttempt record = (s.ring 9).attempt
        ∧ rhType record = 1 ∧ rhMsgno record = (s.ring 9).msgno ∧ rhUnits record = unitsFor (rhLen record)
        ∧ rhUnits record ≤ reUnits rx9 - (s.ring 9).wp % reUnits rx9 ∧ rhUnits record ≤ (s.ring 9).credits rx9)
    ∧ (let h := dataHead false false 16 80;
      arriving.deliversTo 2 0 pe2 rootJob h ∧ arriving.takes 2 (frame h (List.replicate 16 7)) 0 h (List.replicate 16 7)
        ∧ (arriving.district 0).flt.resetting = false ∧ (arriving.ring 9).staged = []
        ∧ hdrBegin h = false ∧ hdrEnd h = false ∧ (arriving.ring 9).arrival = some ⟨record, true⟩)
    ∧ (let h := dataHead false true 16 96;
      arriving.deliversTo 2 0 pe2 rootJob h ∧ arriving.takes 2 (frame h (List.replicate 16 7)) 0 h (List.replicate 16 7)
        ∧ hdrBegin h = false ∧ hdrEnd h = true ∧ rhType record = 1 ∧ reVc rx9 ≠ 3 ∧ arriving.queueOwner (reQueue rx9) = some (0, queue4)
        ∧ (arriving.queue (reQueue rx9)).waiting ≠ []) := by
  unfold State.takes State.deliversTo
  and_intros <;> decide +kernel

/-- A link flit with its CRC: the ACK or the NAK of a frame number. -/
def linkFlitOf (v : Nat) : List Byte := leBytes 60 v ++ leBytes 4 (crc32 (leBytes 60 v))
def ackFlit (fseq : Nat) : List Byte := linkFlitOf (put 0 5 8 + put 16 12 fseq)
def nakFlit (fseq : Nat) : List Byte := linkFlitOf (put 0 5 0x10 + put 32 12 fseq)
def waitingFrame : TxFrame := { arb := 4, cls := 4, hdr := ctlHead 2 8, payload := leBytes 8 5 }
def portAt (st : Nat) (f : Port → Port) : State := State.reset.modPort 2 fun x => f { x with state := st }

theorem witness_PortRetries :
    (let s := portAt 4 fun x => { x with replay := [(4095, waitingFrame), (0, waitingFrame)], base := 4095, next := 1, resends := 15, nakSent := true };
      s.halted = false ∧ 4 ≤ (s.port 2).state ∧ (s.port 2).state ≤ 7 ∧ (ackFlit 4095).length = 64
        ∧ leNat ((ackFlit 4095).drop 60) = crc32 ((ackFlit 4095).take 60) ∧ fld (leNat (ackFlit 4095)) 0 0 5 = 8
        ∧ (s.port 2).inFlight (fld (leNat (ackFlit 4095)) 2 0 12) = true ∧ (s.port 2).inFlight (fld (leNat (ackFlit 1)) 2 0 12) = false
        ∧ leNat (((ackFlit 4095).set 5 9).drop 60) ≠ crc32 (((ackFlit 4095).set 5 9).take 60)
        ∧ (nakFlit 4095).length = 64 ∧ leNat ((nakFlit 4095).drop 60) = crc32 ((nakFlit 4095).take 60)
        ∧ fld (leNat (nakFlit 4095)) 0 0 5 = 0x10 ∧ (s.port 2).inFlight (fld (leNat (nakFlit 4095)) 4 0 12) = true
        ∧ (s.port 2).base = fld (leNat (nakFlit 4095)) 4 0 12
        ∧ (s.port 2).replay.map (·.1) = (List.range (s.port 2).replay.length).map (fun i => (4095 + i) % 4096)
        ∧ (s.port 2).replay ≠ [] ∧ (s.port 2).resends < 16 ∧ (s.port 2).nakSent = true)
    ∧ ((portAt 7 id).port 2).replay = [] ∧ ((portAt 7 id).port 2).nakSent = false ∧ ((portAt 7 id).port 2).state ≤ 7
    ∧ (let s := portAt 4 fun x => { x with replay := [(0, waitingFrame)], resends := 16 };
      (s.port 2).replay ≠ [] ∧ 16 ≤ (s.port 2).resends) := by
  and_intros <;> decide +kernel

theorem witness_PortArbitration :
    (let s := portAt 8 id;
      s.halted = false ∧ 4 ≤ (s.port 2).state ∧ (s.port 2).state ≤ 8 ∧ (s.port 2).replayRoom = true ∧ (s.port 2).state ≠ 6
        ∧ ((s.port 2).queue.find? fun f => (s.port 2).carries f.hdr && (s.port 2).hasCredit f) = none)
    ∧ waitingFrame.who = none ∧ waitingFrame.src = none
    ∧ (let s := portAt 4 fun x => { x with queue := [waitingFrame] };
      (s.port 2).replayRoom = true ∧ (s.port 2).state ≠ 6
        ∧ ((s.port 2).queue.find? fun f => (s.port 2).carries f.hdr && (s.port 2).hasCredit f) = some waitingFrame)
    ∧ (let s := portAt 6 fun x => { x with queue := [waitingFrame] };
      (s.port 2).state = 6 ∧ s.portEntry 2 = none ∧ (s.port 2).lastCtl = false ∧ (s.port 2).queue.find? (·.arb == 4) = some waitingFrame
        ∧ (s.port 2).hasCredit waitingFrame = true ∧ s.itsTurn waitingFrame = true)
    ∧ hdrType waitingFrame.hdr = 2 ∧ hdrOpcode waitingFrame.hdr = 2 := by
  and_intros <;> decide +kernel

theorem witness_PortTraining :
    (portAt 0 id).mayTrain = false
    ∧ (∀ st ∈ [0, 1, 2, 3], let s := (pwr0 fun p => { p with stage := 5 }).modPort 2 fun x => { x with state := st };
      s.mayTrain = true ∧ (s.port 2).state = st)
    ∧ (∀ b ∈ [true, false], let s := (pwr0 fun p => { p with stage := 5 }).modPort 2 fun x => { x with state := 0, retrying := b };
      s.mayTrain = true ∧ (s.port 2).state = 0 ∧ (s.port 2).retrying = b)
    ∧ (let s := portAt 7 id; 4 ≤ (s.port 2).state ∧ (s.port 2).state ≤ 7 ∧ (s.port 2).spareUsed = false ∧ laneAt (s.port 2).map 3 = 3)
    ∧ (let s := portAt 8 fun x => { x with failedRetrains := 1 }; (s.port 2).state = 8 ∧ (s.port 2).failedRetrains < 2)
    ∧ (let s := portAt 8 fun x => { x with failedRetrains := 2 }; (s.port 2).state = 8 ∧ 2 ≤ (s.port 2).failedRetrains)
    ∧ (let s : State := { portAt 8 id with dist := Tbl.empty };
      (s.port 2).state = 8 ∧ s.orb.join = false ∧ s.portEntry 2 = none ∧ s.tensorDistrict 2 = none)
    ∧ (let s := portAt 5 id; s.powered = true ∧ s.halted = false ∧ s.pwr.state ≠ .drowse ∧ ((s.port 2).state = 5 ∨ (s.port 2).state = 7)) := by
  and_intros <;> decide +kernel

theorem witness_CardTimeouts :
    (let s := portAt 4 id;
      (s.port 2).state = 4 ∧ (s.port 2).cardSeen = false ∧ s.orb.join = false ∧ s.portEntry 2 = none ∧ s.tensorDistrict 2 = some 0
        ∧ s.active 0 = none)
    ∧ (let s : State := { portAt 4 id with dist := Tbl.empty }; (s.port 2).state = 4 ∧ s.portEntry 2 = none ∧ s.tensorDistrict 2 = none)
    ∧ (let s := (withImage []).modPort 2 fun x => { x with state := 4 };
      (s.port 2).state = 4 ∧ (s.port 2).cardSeen = false ∧ s.portEntry 2 = none ∧ s.tensorDistrict 2 = some 0 ∧ (s.active 0).isSome
        ∧ (s.port 2).cardHeld = false) := by
  and_intros <;> decide +kernel

/-! ## Witnesses: host ports, images and recovery -/

def qp0 : Qp := ⟨true, 9, ⟨1, 1⟩, ⟨400000, 1⟩, ⟨400000, 1⟩, 5, none⟩
def hosted : State :=
  let s := pwr0 fun p => { p with stage := 7 };
  { s with hosts := Tbl.empty.set 3 { State.reset.hostPort 3 with link := true, qps := Tbl.empty.set 255 qp0 }
           windows := s.windows.set 1 ⟨7, 0x100000, 0x1000, true, true⟩
           memc := { s.memc with trained := true }
           moon := { s.moon with running := true } }
def ringed : State := hosted.modHost 0 fun h => { h with cmdEn := true, cmdLog2 := 6, cplEn := true, cplLog2 := 6 }
def goodKey : Nat := 1 + put 10 22 7

theorem witness_HostRequests :
    (let s := ringed;
      s.hostUp 3 = true ∧ (s.qp 3 255).isSome ∧ s.hostDistrict 3 = some 0 ∧ (s.hostPort 3).paused = [] ∧ s.portGate (some 0) = none
        ∧ [(1 : Byte)] ≠ [] ∧ 0x100FFF < csrBase ∧ (s.arrived 3 255 1 true).keyOk 0 goodKey 0x100FFF 1 true = true
        ∧ (s.district 0).host.badTailFor (64#32).toNat = false
        ∧ (s.arrived 3 255 1 false).keyOk 0 goodKey 0x101000 1 true = false
        ∧ (s.arrived 3 255 0 false).keyOk 0 goodKey 0x100000 4096 false = true
        ∧ (s.arrived 3 255 0 false).keyOk 0 goodKey 0x100000 4097 false = false ∧ (s.hostPort 3).reads 255 < 16
        ∧ 2 ^ 31 < 2 ^ 31 + 1
        ∧ (List.replicate 64 (0 : Byte)).length = 64 ∧ (s.district 0).host.cmdEn = true
        ∧ ahead (s.district 0).host.cmdTail (s.district 0).host.cmdHead < 2 ^ (s.district 0).host.cmdLog2) := by
  and_intros <;> decide +kernel

def fullPort : State :=
  { hosted with hosts := Tbl.empty.set 3 { State.reset.hostPort 3 with link := true, qps := ⟨(List.range 256).map fun q => (q, qp0)⟩ } }

theorem witness_HostConnections :
    (let s := hosted;
      s.hostUp 3 = true ∧ s.hostDistrict 3 = some 0 ∧ s.portGate (some 0) = none
        ∧ ((List.range 256).find? fun q => (s.qp 3 q).isNone) = some 0 ∧ s.qp 3 255 = some qp0
        ∧ bit (s.hostPort 3).pfcEn 3 = true ∧ 3 ∉ (s.hostPort 3).paused ∧ 6 ≤ s.pwr.stage ∧ s.pwr.railsOn = true)
    ∧ (fullPort.hostUp 3 = true ∧ ((List.range 256).find? fun q => (fullPort.qp 3 q).isNone) = none)
    ∧ (let s := hosted.modHostPort 3 fun x => { x with paused := [3], ipv4Valid := true };
      s.hostUp 3 = true ∧ 3 ∈ (s.hostPort 3).paused ∧ 3 = (s.hostPort 3).rocePrio ∧ (s.hostPort 3).ipv4Valid = true)
    ∧ (let s := hosted.modHostPort 3 fun x => { x with paused := [3], queued := List.replicate 16 (.data 3 255 []) };
      s.hostUp 3 = true ∧ (s.qp 3 255).isSome ∧ s.hostDistrict 3 = some 0 ∧ s.portGate (some 0) = none
        ∧ (s.hostPort 3).rocePrio ∈ (s.hostPort 3).paused ∧ 0x100000 < csrBase ∧ 16 ≤ (s.hostPort 3).reads 255
        ∧ (s.arrived 3 255 0 false).keyOk 0 goodKey 0x100000 64 false = true) := by
  and_intros <;> decide +kernel

def cmd (e : Nat) (stage : Nat) : Cmd := { index := 0, entry := e, stage := stage }
/-- Command 0 in progress in district 0, whose image has no sections. -/
def commanded (e stage : Nat) : State := (withImage []).modHost 0 fun h => { h with cmds := [cmd e stage], cplEn := true, cplLog2 := 6 }
def openWord : Nat := put 0 8 5 + put 192 64 4096 + put 256 22 (2 ^ 22 - 1) + put 278 1 1
def closeWord : Nat := put 0 8 6 + put 256 8 255 + put 266 22 5

theorem witness_HostCommands :
    (let s := ringed.setMem (Memory.write [] 0 [9]);
      let s := s.modHost 0 fun h => { h with cmdTail := 1 };
      s.mayStartCmd 0 = true ∧ s.cmdEntry 0 (s.district 0).host.cmdHead = 9 ∧ 1 ≤ ceOp 9 ∧ ceOp 9 ≤ 9)
    ∧ (commanded 1 0).cmdAt 0 0 1 0 = some 1
    ∧ (let s := commanded openWord 0;
      s.cmdAt 0 0 5 0 = some openWord ∧ ceSound openWord = true ∧ ceB openWord ≠ 0 ∧ ceA openWord % 4096 = 0 ∧ ceB openWord % 4096 = 0
        ∧ bits (ceC openWord) 0 22 ≠ 0 ∧ (bit (ceC openWord) 22 || bit (ceC openWord) 23) = true
        ∧ s.hostPlace 0 (ceA openWord) (ceB openWord) = true ∧ s.freeWindows 0 = 1 :: (s.freeWindows 0).drop 1)
    ∧ (let s := { commanded closeWord 0 with windows := State.reset.windows.set 255 ⟨5, 0, 4096, true, false⟩ };
      s.cmdAt 0 0 6 0 = some closeWord ∧ ceSound closeWord = true ∧ bits (ceC closeWord) 8 2 = 0 ∧ bits (ceC closeWord) 0 8 ≠ 0
        ∧ lookupKey (256 * 0 + bits (ceC closeWord) 0 8) s.windows.entries = some ⟨5, 0, 4096, true, false⟩
        ∧ (5 : Nat) = bits (ceC closeWord) 10 22)
    ∧ ((commanded 7 0).cmdAt 0 0 7 0 = some 7 ∧ ceSound 7 = true ∧ (commanded 8 0).cmdAt 0 0 8 0 = some 8 ∧ ceSound 8 = true)
    ∧ (let s := { commanded 9 0 with orb := { State.reset.orb with run := true } };
      s.cmdAt 0 0 9 0 = some 9 ∧ ceSound 9 = true ∧ s.orb.run = true)
    ∧ (let c : Cmd := { index := 0, entry := 1, done := some (.done, 0, 3) };
      let s := ringed.modHost 0 fun h => { h with cmds := [c] };
      (s.district 0).host.cmds = c :: [] ∧ c.done = some (.done, 0, 3) ∧ s.memoryUp = true ∧ s.fenced 0 = false ∧ (s.district 0).host.cplEn = true) := by
  and_intros <;> decide +kernel

def copyCmd : Nat := put 0 8 2 + put 32 32 64 + put 128 64 0x200000 + put 192 64 0x300000
def msgCmd : Nat := put 0 8 4 + put 32 32 64 + put 128 64 0x200000 + put 192 12 9
def tileCmd : Nat := put 0 8 3 + put 32 32 1 + put 128 64 0x200000

theorem witness_CopiesMessagesAndTiles :
    (let s := commanded copyCmd 0;
      s.cmdAt 0 0 2 0 = some copyCmd ∧ ceSound copyCmd = true ∧ ceEnq copyCmd = false ∧ ceLen copyCmd ≠ 0
        ∧ s.hostPlace 0 (ceA copyCmd) (ceLen copyCmd) = true ∧ s.hostPlace 0 (ceB copyCmd) (ceLen copyCmd) = true)
    ∧ (let s := (withImage rings).modHost 0 fun h => { h with cmds := [cmd msgCmd 0] };
      s.cmdAt 0 0 4 0 = some msgCmd ∧ ceSound msgCmd = true ∧ s.cmdPlace 0 (ceA msgCmd) (ceLen msgCmd) = true
        ∧ s.ringOwner (bits (ceB msgCmd) 0 12) = some (0, tx9) ∧ reTx tx9 = true ∧ unitsFor (ceLen msgCmd) + 1 ≤ reUnits tx9)
    ∧ ((commanded tileCmd 0).cmdAt 0 0 3 0 = some tileCmd ∧ ceLen tileCmd ≠ 0
      ∧ (commanded tileCmd 0).hostPlace 0 (ceA tileCmd) (32 * ceLen tileCmd) = true)
    ∧ (let s := commanded tileCmd 1;
      s.nextTile 0 = some (cmd tileCmd 1) ∧ (s.coresOf 0).find? s.freeCore = some 0 ∧ s.halted = false ∧ s.fenced 0 = false)
    ∧ (let x : Tile := ⟨0, 0, [opWord 15], false, 0, 0, 0, [], (sramAddr 511 0, [1])⟩;
      let s := (withImage []).modCore 511 fun c => { c with tile := some x };
      (s.core 511).tile = some x ∧ x.district = 0 ∧ s.halted = false ∧ s.fenced 0 = false ∧ s.fetchXfer 511 0 = none)
    ∧ (let s := (commanded tileCmd 2).modHost 0 fun h => { h with outs := [(0, 3, 0x300000, [1], true)] };
      (s.district 0).host.outs.find? (fun x => x.1 == 0) = some (0, 3, 0x300000, [1], true) ∧ [(1 : Byte)] ≠ [] ∧ s.halted = false
        ∧ s.fenced 0 = false) := by
  and_intros <;> decide +kernel

/-- A delta of no sections: MAGIC, version 1, flag DELTA, its length, and the digest of nothing. -/
def deltaBytes : List Byte :=
  leBytes 32 (0x3154534B + put 32 8 1 + put 50 1 1 + put 64 32 256) ++ sha384 [] ++ List.replicate 176 0
def loading (bs : List Byte) : State :=
  (State.reset.setMem (Memory.write [] 0x100000 bs)).modImg 0 fun g => { g with loadBase := 0x100000, loadLen := 256, shadow := 1 }

/-- An image of no programs, with a step of two orbits. -/
def idleImage : Image :=
  ⟨0, [], [sect 2 (put 128 24 2 + put 160 22 156250 + put 224 16 5 + put 240 8 1 + put 256 24 1 + put 288 24 1 + put 320 24 1) [],
    sect 10 0 [1, 2, put 0 8 3 + put 64 24 2 + put 96 32 156250 + put 160 16 5 + put 176 8 1]]⟩
def checking (g : Image) : State := State.reset.modImg 0 fun x => { x with commit := 1, loaded := some g }

theorem witness_LoadsAndChecks :
    (let s := loading deltaBytes;
      (s.loadFinding 0 (s.bytes (s.district 0).img.loadBase (s.district 0).img.loadLen)).toBool = true ∧ (s.district 0).img.shadow = 1
        ∧ s.halted = false ∧ s.fenced 0 = false ∧ (s.district 0).img.loadErr = none)
    ∧ (let s := loading [];
      (s.loadFinding 0 (s.bytes (s.district 0).img.loadBase (s.district 0).img.loadLen)).toBool = false ∧ (s.district 0).img.shadow = 1)
    ∧ (let s := { loading [] with pwr := { State.reset.pwr with halted := true } }; s.halted = true ∧ (s.district 0).img.shadow = 1)
    ∧ (let s := (loading []).modFlt 0 fun f => { f with fenced := true };
      s.halted = false ∧ s.fenced 0 = true ∧ (s.district 0).img.shadow = 1)
    ∧ (let s := (checking idleImage).modFlt 0 fun f => { f with rleadSh := 2 };
      (s.district 0).img.commit = 1 ∧ s.resulting 0 = some idleImage ∧ worst (allFindings s 0 idleImage) = none)
    ∧ (let g : Image := ⟨0, [], []⟩;
      let s := checking g;
      (s.district 0).img.commit = 1 ∧ s.resulting 0 = some g ∧ (worst (allFindings s 0 g)).isSome)
    ∧ idleImage.sections.any (·.kind == 2) = true
    ∧ ([sect 5 0 []].any (·.kind == 5) = true ∧ 23 < 24 ∧ State.reset.portDistrict 23 = some 0) := by
  and_intros <;> decide +kernel

theorem witness_RecoveryEnds :
    (let s := State.reset.modFlt 0 fun f => { f with copyBack := some .rollback, dirty := [4] };
      s.halted = false ∧ (s.district 0).flt.copyBack = some .rollback ∧ (∃ i ∈ (s.district 0).flt.copying, i ∈ [4]))
    ∧ (let s := (withImage []).modFlt 0 fun f => { f with rollAt := some 0 };
      s.halted = false ∧ (s.district 0).flt.rollAt = some 0 ∧ s.active 0 = some ⟨0, [], []⟩ ∧ s.fenced 0 = false
        ∧ (⟨0, [], []⟩ : Image).evl ≤ 0 ∧ ∀ n ∈ s.coresOf 0, (s.core n).busy = false)
    ∧ (0 < idleImage.evl)
    ∧ (let s := ((withImage []).modFlt 0 fun f => { f with rollAt := some 0 }).modCore 9 fun c => { c with work := some ⟨0, 0, .compute, false⟩ };
      9 ∈ s.coresOf 0 ∧ (s.core 9).busy = true)
    ∧ (let s := State.reset.modFlt 3 fun f => { f with resetting := true };
      s.halted = false ∧ (s.district 3).flt.resetting = true ∧ (s.district 3).flt.copyBack = none) := by
  and_intros <;> decide +kernel

/-- A record of the mirror stream in ring 9, with its descriptor. -/
def engined (desc : Nat) (ss : List Section) : State :=
  let s := (withImage (sect 4 0 [rx9] :: ss)).modRing 9 fun r => { r with recs := [⟨0, 1, false, true⟩] };
  let s := s.modMir 0 fun m => { m with keep := true, size := 3 };
  s.setMem (Memory.write [] 0x100040 (leBytes 32 desc))
def engineMeets (desc : Nat) (ss : List Section) : Bool :=
  let s := engined desc ss;
  (s.engineRec 9).map (fun x => (x.d, x.desc)) == some (0, desc) && !s.halted && !s.fenced 0 && (s.district 0).mir.keep
def restoring (s : State) : State := s.modFlt 0 fun f => { f with restore := true }

theorem witness_EngineRecords :
    ((∀ t ∈ [1, 2, 3], engineMeets (put 0 8 t + put 32 21 64 + put 192 28 1) [] = true ∧ edSound (put 0 8 t + put 32 21 64 + put 192 28 1) = true
      ∧ edType (put 0 8 t + put 32 21 64 + put 192 28 1) = t ∧ edMoff (put 0 8 t + put 32 21 64 + put 192 28 1) + 1 < 3))
    ∧ (engineMeets 4 [] = true ∧ edSound 4 = true ∧ edType 4 = 4)
    ∧ (engineMeets (1 + put 192 28 2) [] = true ∧ (edType (1 + put 192 28 2) ≠ 4 ∧ 3 ≤ edMoff (1 + put 192 28 2) + 1))
    ∧ (engineMeets 5 [] = true ∧ 5 ≤ edType 5 ∧ edType 0 = 0 ∧ edSound (put 32 21 1) = false)
    ∧ (let e := put 0 8 5 + put 8 4 5 + put 32 21 64 + put 128 48 0x100000;
      let s := restoring (engined e ringRegion);
      (s.engineRec 9).map (fun x => (x.d, x.desc)) = some (0, e) ∧ (s.district 0).flt.restore = true ∧ edSound e = true ∧ edType e = 5
        ∧ (s.regionOf 0 (edAddr e) (edLen e)).map (·.use) = some (edUse e) ∧ edGen e = (s.district 0).orb.step)
    ∧ (let e := put 0 8 3 + put 32 21 64 + put 128 48 0x100000;
      let s := restoring (engined e [sect 6 0 [put 0 8 2 + put 24 4 4 + put 64 48 0x100000 + put 128 20 1]]);
      (s.engineRec 9).map (fun x => (x.d, x.desc)) = some (0, e) ∧ edSound e = true ∧ edType e = 3
        ∧ (s.regionOf 0 (edAddr e) (edLen e)).map (·.use) = some 4)
    ∧ (let e := put 0 8 5 + put 64 24 7;
      edSound e = true ∧ edType e = 5 ∧ edGen e ≠ ((restoring (engined e [])).district 0).orb.step
        ∧ stepAfter (edGen e) ≠ ((restoring (engined e [])).district 0).orb.step)
    ∧ (edType 2 = 2 ∧ edSound 2 = true ∧ 6 ≤ edType 6 ∧ edSound 6 = true ∧ edSound 0 = true) := by
  and_intros <;> decide +kernel

/-! ## Witnesses: resets, power and Moon -/

theorem witness_ResetsBegin :
    (State.reset.pwr.islandOn = true ∧ State.reset.pwr.heldReset = false ∧ (1000 : Nat) ≤ 1000 ∧ (399 : Nat) < 400 ∧ (400 : Nat) ≤ 400 ∧ (999 : Nat) < 1000)
    ∧ (let s := pwr0 fun p => { p with heldReset := true, offCause := 4 };
      s.pwr.islandOn = true ∧ s.pwr.heldReset = true ∧ s.pwr.offCause = 4)
    ∧ (let s := pwr0 fun p => { p with warmPending := true, critPending := true };
      s.pwr.warmPending = true ∧ s.powered = true ∧ s.pwr.critPending = true)
    ∧ (pwr0 fun p => { p with islandOn := false }).pwr.islandOn = false := by
  and_intros <;> decide +kernel

def stageEnd (samples : List (List Nat)) (trained : Nat) : StageEnd := ⟨true, samples, 2, trained, 7⟩

theorem witness_StartUpStages :
    (let s := State.reset; s.powered = true ∧ s.halted = false ∧ s.pwr.stage = 1 ∧ (stageEnd [] 0).clear = true ∧ (255 : Nat) < 256)
    ∧ ((pwr0 fun p => { p with stage := 2 }).pwr.stage = 2 ∧ (stageEnd [List.replicate 8 0x3FFF] 0).samples = List.replicate 8 0x3FFF :: [])
    ∧ (let e := stageEnd (List.replicate 17 [0, 0, 0, 0, 0, 0, 0, 0x3FFF]) 0;
      (∀ l ∈ e.samples, l.length = 8 ∧ ∃ x ∈ l, x ≠ l.headD 0) ∧ (e.samples.length = 17 ∧ (e.samples.take 16).length < 17)
        ∧ (e.samples.getLast?.bind (·.getLast?)) = some 0x3FFF)
    ∧ (let s := pwr0 fun p => { p with stage := 3 };
      s.powered = true ∧ s.halted = false ∧ s.pwr.stage = 3 ∧ s.moon.fw = 0 ∧ s.moon.lifecycle < 2 ∧ 2 ≤ (stageEnd [] 0).lifecycle ∧ s.pwr.stable = true ∧ s.pwr.bootsel = 0)
    ∧ ((pwr0 fun p => { p with stage := 3, stable := false }).pwr.stable = false ∧ (pwr0 fun p => { p with bootsel := 1 }).pwr.bootsel = 1)
    ∧ (let s := pwr0 fun p => { p with stage := 4 };
      s.pwr.stage = 4 ∧ s.pwr.stopped = false ∧ 96 ≤ (stageEnd [] 96).trained ∧ (stageEnd [] 95).trained < 96)
    ∧ ((pwr0 fun p => { p with stage := 5 }).pwr.stage = 5 ∧ (pwr0 fun p => { p with stage := 6 }).pwr.stage = 6)
    ∧ (let u := pwr0 fun p => { p with railsOn := false, fail := 1 };
      u.pwr.islandOn = true ∧ u.pwr.heldReset = false ∧ u.pwr.railsOn = false ∧ u.pwr.stage = 1 ∧ u.pwr.fail = 1) := by
  and_intros <;> decide +kernel

theorem witness_PowerStatesAndLimits :
    (∀ t ∈ [PowerState.drowse, .run, .sleep], let s := pwr0 fun p => { p with changing := true, target := t };
      s.powered = true ∧ s.pwr.changing = true ∧ s.pwr.target = t ∧ s.halted = false)
    ∧ (let s := moon0 fun m => { m with coreMhz := 351, sinceDown := 9 };
      s.powered = true ∧ (s.moon.cfg.limitW < 1151 ∨ s.moon.cfg.throttle < 0) ∧ 350 < s.moon.coreMhz ∧ 9 ≤ s.moon.sinceDown)
    ∧ (let s := moon0 fun m => { m with sinceDown := 8 };
      (s.moon.cfg.limitW < 0 ∨ s.moon.cfg.throttle < 99) ∧ 350 < s.moon.coreMhz ∧ (1149 : Nat) < 1150 ∧ s.moon.sinceDown < 9)
    ∧ (1125 + 25 ≤ State.reset.moon.cfg.limitW ∧ 95 + 3 ≤ State.reset.moon.cfg.throttle) := by
  and_intros <;> decide +kernel

theorem witness_MoonRestartsAndTap :
    (let s := moon0 fun m => { m with running := true }; s.powered = true ∧ s.moon.running = true)
    ∧ (let s := pwr0 fun p => { p with stage := 4 }; s.powered = true ∧ s.moon.fw = 0 ∧ 4 ≤ s.pwr.stage)
    ∧ (∀ st ∈ [Tap.shIr, .shDr, .capDr, .updIr, .idle], ∀ i ∈ [JtagInstr.bypass, .idcode],
      let s := { State.reset with jtag := ⟨st, i, [true, true], [], false⟩ };
      s.jtag.held = false ∧ s.powered = true ∧ s.jtag.state = st ∧ s.jtag.instr = i ∧ s.jtag.ir.all id = true ∧ s.moon.lifecycle = 1
        ∧ s.moon.unlocked = false)
    ∧ State.reset.jtag.held = true
    ∧ (MoonError.corrected ≠ .watchdog ∧ (moon0 fun m => { m with running := true }).hears .i3c = true) := by
  and_intros <;> decide +kernel

theorem witness_MinimumSvnRises :
    let s := moon0 fun m => { m with running := true, svn := 5, minSvn := 4 };
    let img : List Byte := List.replicate 8 0 ++ [4]
    let u := moon0 fun m => { m with fw := 3, minSvn := 5, update := some ⟨4, true, img⟩, flash := { m.flash with image := img } };
    s.moon.running = true ∧ fwSvn img < s.moon.svn ∧ u.moon.minSvn = max s.moon.minSvn s.moon.svn ∧ u.moon.running = false ∧ u.moon.fw = 3
      ∧ onManagement .i3c = true ∧ u.moon.update = some ⟨4, true, img⟩ ∧ u.hears .i3c = true ∧ fwSvn u.moon.flash.image < s.moon.svn := by
  and_intros <;> decide +kernel

/-- An owner's session 1. -/
def owned : State :=
  moon0 fun m => { m with running := true, sessions := [⟨1, true, true, 0, []⟩], owner := [1], cfg := { m.cfg with ipv4 := 1 } }
def q1 : MReq := ⟨.ethernet 1 49500, some 1, vendorId, false⟩

theorem witness_OwnersCommands :
    (Instr.cardGet q1 ∈ [Instr.ownerClear q1, .cardGet q1] ∧ State.reset.takesVendor q1 = false ∧ owned.takesVendor { q1 with vendor := 1 } = false)
    ∧ (owned.ownerSession { q1 with unlisted := true } = true ∧ owned.takesVendor { q1 with unlisted := true } = true)
    ∧ (let s := moon0 fun m => { m with running := true, cfg := { m.cfg with ipv4 := 1 } };
      let q : MReq := ⟨.i3c, none, vendorId, false⟩;
      s.takesVendor q1 = true ∧ s.ownerSession q1 = false ∧ s.takesVendor q = true ∧ q.unlisted = false ∧ q.via = .i3c ∧ s.moon.owner = []
        ∧ [(1 : Byte)] ≠ [] ∧ (q1.via ≠ .i3c ∨ s.moon.owner ≠ []) ∧ s.moon.flash.keys.inForce.seq + 1 < 2 ^ 32)
    ∧ (pwr0 fun p => { p with stage := 3 }).romAnswers .i3c = true
    ∧ (owned.takesVendor q1 = true ∧ q1.unlisted = false ∧ owned.ownerSession q1 = true ∧ (∀ d ∈ owned.defined, owned.active d = none)
      ∧ configOk (.limitW 299) = false ∧ configOk (.limitW 300) = true ∧ configOk (.throttleC 100) = true)
    ∧ (let s := { owned with dist := (withImage []).dist }; s.ownerSession q1 = true ∧ ∃ d ∈ s.defined, (s.active d).isSome) := by
  and_intros <;> decide +kernel

def noDef : DistrictDef := ⟨false, 0, 0, 0, 0, 0, 0⟩
def halfDef (base : Nat) : DistrictDef := ⟨true, put (64 * base / 368) 64 (2 ^ 64 - 1), 0, 1 + base / 368, base, 368, 3⟩
def halves : List DistrictDef := [halfDef 0, halfDef 368, noDef, noDef]
def basePoint : List Byte := 4#8 :: (beBytes 48 bpGx ++ beBytes 48 bpGy)

theorem witness_DistrictCommands :
    (owned.takesVendor q1 = true ∧ q1.unlisted = false ∧ owned.ownerSession q1 = true ∧ defsOk [] = false ∧ defsOk halves = true)
    ∧ (∀ d ∈ [0, 1, 2, 3], owned.districtBusy d = false)
    ∧ (let s := { owned with dist := (withImage []).dist };
      s.ownerSession q1 = true ∧ halves[0]? = some (halfDef 0) ∧ s.touches 0 (halfDef 0) = true ∧ s.districtBusy 0 = true)
    ∧ ((bpPoint basePoint).isSome ∧ (1#32) ≠ 0 ∧ (owned.district 3).img.shadow ≠ 1 ∧ (owned.district 3).img.commit = 0)
    ∧ (∀ sh ∈ [1, 2], ((owned.modImg 3 fun g => { g with shadow := sh }).district 3).img.shadow = sh)
    ∧ (let s := { owned with moon := { owned.moon with log := [(0, 11, 0), (1, 12, 0)] } };
      s.ownerSession q1 = true ∧ (0, 11, 0) ∈ s.moon.log ∧ (0 : Nat) ≤ 1 ∧ 1 ≤ 64 ∧ (s.moon.log.filter fun x => 1 ≤ x.1) ≠ [])
    ∧ (0x10000 + 8 * (0x1E000 - 512 + 512) ≤ 0x100000)
    ∧ (let s := { owned with moon := { owned.moon with nonce := some 9 } };
      s.ownerSession q1 = true ∧ s.moon.nonce = some 9 ∧ (∀ d ∈ s.defined, s.districtBusy d = false) ∧ (s.moon.nonce ≠ some 8 ∨ 1 ≠ s.moon.serial)) := by
  and_intros <;> decide +kernel

theorem witness_SpdmRequests :
    (let s := moon0 fun m => { m with running := true };
      s.moon.running = true ∧ onManagement .i3c = true ∧ s.hears .i3c = true
        ∧ (Instr.getCapabilities .i3c, 1) ∈ [(Instr.getCapabilities .i3c, 1)] ∧ s.moon.spdm < 1)
    ∧ (let s := { (moon0 fun m => { m with running := true, spdm := 3, sessions := [⟨1, false, false, 0, []⟩, ⟨2, true, false, 0, []⟩] }) with dist := (withImage []).dist };
      3 ≤ s.moon.spdm ∧ s.slotFilled 0 = true ∧ s.slotFilled 1 = true
        ∧ s.measurements.find? (fun x => x.1 == 4) = some (4, leBytes 1 1 ++ leBytes 1 0) ∧ s.moon.sessions.length < 4
        ∧ ⟨1, false, false, 0, []⟩ ∈ s.moon.sessions ∧ ⟨2, true, false, 0, []⟩ ∈ s.moon.sessions)
    ∧ 4 ≤ (moon0 fun m => { m with sessions := List.replicate 4 ⟨1, true, false, 0, []⟩ }).moon.sessions.length
    ∧ (bpPoint basePoint).isSome ∧ bpPoint [] = none := by
  and_intros <;> decide +kernel

def updating (stage : Nat) (ram : Bool) (bs : List Byte) : State :=
  moon0 fun m => { m with fw := 3, update := some ⟨stage, ram, bs⟩ }

theorem witness_FirmwareUpdates :
    ((moon0 fun m => { m with fw := 3 }).moon.fw = 3 ∧ (moon0 fun m => { m with fw := 3 }).moon.update = none ∧ onManagement .i3c = true
      ∧ (moon0 fun m => { m with fw := 3 }).hears .i3c = true)
    ∧ (∀ k ∈ [1, 2, 3, 4, 5], ((updating k true []).moon.update.map (·.stage)) = some k)
    ∧ ((Instr.transferComplete .i3c, 3) ∈ [(Instr.transferComplete .i3c, 3)] ∧ (2 : Nat) ≠ 3 ∧ 4096 + 1572864 ≤ 4096 + 1572864)
    ∧ (let bs : List Byte := List.replicate 4095 0;
      bs.length < 4096 ∧ 4096 ≤ (bs ++ [(0 : Byte)]).length ∧ (bs ++ [(0 : Byte)]).length ≤ 4096 + 1572864 ∧ 4096 ≤ (bs ++ [(0 : Byte)]).length)
    ∧ fwHeaderOk [] = false := by
  and_intros <;> decide +kernel

/-! ## Witnesses: the block as a whole -/

theorem witness_StepRunsTheFront :
    State.reset.pending = [] ∧ State.reset.pwr.islandOn = true ∧ (orb0 fun o => { o with refOk := true }).orb.refOk = true
    ∧ State.reset.orb.refOk = false ∧ (pwr0 fun p => { p with islandOn := false }).pwr.islandOn = false
    ∧ State.reset.clk.frac < 5 * 2 ^ 32 ∧ State.reset.clk.ns < 2 ^ 64 := by
  and_intros <;> decide

/-- For StepsKeepCanonicalMemory, HaltsAndOrbitsStay, MemoryAndWindowsStay and MemoryReadsBack. -/
theorem witness_StepsKeep :
    State.reset.canonical ∧ (∃ t, step State.reset = .next t)
    ∧ (let s := { pwr0 (fun p => { p with halted := true }) with pending := [.getVersion .i3c] };
      (∃ t, step s = .next t) ∧ s.pending.head? = some (.getVersion .i3c) ∧ endsHalt (.getVersion .i3c) = false ∧ s.halted = true
        ∧ countsOrbits (.getVersion .i3c) = false ∧ writesMemory (.getVersion .i3c) = false ∧ changesWindows (.getVersion .i3c) = false)
    ∧ Memory.wf [(5, 1), (9, 2)] := by
  refine ⟨⟨.nil, nofun⟩, ⟨_, rfl⟩, ⟨⟨_, rfl⟩, rfl, rfl, rfl, rfl, rfl, rfl⟩, ?_⟩
  unfold Memory.wf
  decide

theorem witness_TilesGoInRingOrder :
    let a := cmd tileCmd 2;
    let b : Cmd := { index := 1, entry := tileCmd, stage := 1 };
    let s := (withImage []).modHost 0 fun h => { h with cmds := [a, b] };
    (s.district 0).host.running = [a] ++ b :: [] ∧ ceOp b.entry = 3 ∧ b.stage ≠ 2 ∧ b.stage = 1 ∧ (∀ x ∈ [a], ceOp x.entry = 3 ∧ x.stage = 2)
      ∧ 0 ∈ s.coresOf 0 ∧ s.freeCore 0 = true ∧ s.halted = false ∧ s.fenced 0 = false ∧ (1024 : Nat) ≤ 1024 ∧ (1023 : Nat) < 1024
      ∧ ∀ n ∈ ({ s with dist := Tbl.empty } : State).coresOf 0, ({ s with dist := Tbl.empty } : State).freeCore n = false := by
  and_intros <;> decide +kernel

/-! ## Ill-formed commands: one term for each check, which the check refuses -/

def emptyFrame : Frame := ⟨[], []⟩
def shortFrame : Frame := ⟨[0], []⟩
def badEcc : List EccErr := [⟨0, 0xC0000, false⟩]
def times (core cause : Nat) : CoreTime := ⟨core, 0, [(cause, 1)], [], [], [], ⟨0, 0, 0, 0⟩⟩

theorem test_wf_module : ∀ c ∈ ([.tickMark [] [] [] 0, .tickMark [true, false] [] [] 0, .orbitTick [times 512 1] [], .orbitTick [times 0 4] [], .lateWorkComplete [times 512 1],
      .shFieldWrite m0 0x12000000 0, .registerWrite m0 0x12000000 0, .pass 0 ⟨[], [], badEcc⟩, .send 0 badEcc, .collectionRoundDeliver 4096,
      .postboxDeath 4096, .pbxFlushBox m0 4096, .xferCopy 0 badEcc, .xferSend 0 badEcc, .trainUpdate 0 ⟨[], badEcc⟩, .trainPack 0 ⟨[], badEcc⟩,
      .trainUnpack 0 ⟨[], badEcc⟩, .stageEnqueue 256, .memLineRead (0xC000000000 / 64) 0 (.fabric true), .memReadRetry (0xC000000000 / 64) 0 (.fabric true) .none,
      .memLineRead 0 0 (.codeword 0 [72]), .scrubLine 0 (.codeword 0 [3, 3]), .scrubLine 0 (.codeword (0xC000000000 / 64) []),
      .xferForward ⟨0, badEcc⟩, .xferRelease ⟨0, [⟨512, 0, true⟩]⟩,
      .pageRetire 0xB8000, .postPackageRepair 0xB8000 true, .mirrorRecord 4096, .restoreRecord 4096, .quadTestEnd 132 .pass,
      .railGoodTimeout 0, .railGoodTimeout 9, .startupStageEnd ⟨true, [], 0, 97, 0⟩,
      .startupStageEnd ⟨true, [[0]], 0, 96, 0⟩, .startupStageEnd ⟨true, [], 3, 96, 0⟩] : List Instr), c.wf = false := by decide +kernel

theorem test_wf_links : ∀ c ∈ ([.dataFrame 0 emptyFrame, .dataFrame 0 shortFrame, .card 0 emptyFrame, .ping 0 emptyFrame 0, .echo 0 emptyFrame 0,
      .beacon 0 emptyFrame 0, .announce 0 emptyFrame, .credit 0 emptyFrame, .nackDead 0 emptyFrame, .amaxUp 0 emptyFrame, .amaxDown 0 emptyFrame,
      .barUp 0 emptyFrame, .barGo 0 emptyFrame, .restartBarUp 0 emptyFrame, .restartBarGo 0 emptyFrame, .jobHold 0 emptyFrame,
      .mgmt 0 emptyFrame, .linkFlit 0 (List.replicate 63 0), .laneLoss 0 5, .linkTrainingPhaseEnd 0 true (2 ^ 15) 0 none,
      .linkTrainingPhaseEnd 0 true 0 (2 ^ 5) none, .linkTrainingPhaseEnd 0 true 0 0 (some 5), .preFecEstimateUpdate 0 5 0 0 0 0 0 0]
      : List Instr), c.wf = false := by decide +kernel

theorem test_wf_host : ∀ c ∈ ([.rdmaWrite 0 256 0 0 [] false, .rdmaWrite 0 0 (2 ^ 32) 0 [] false, .rdmaWrite 0 0 0 (2 ^ 64) [] false,
      .rdmaWriteImm 0 256 0 0 [] 0 false, .rdmaRead 0 0 (2 ^ 32) 0 0 false, .roceSend 0 256 none false, .pfcPause 0 8, .pfcPauseTimeout 0 8,
      .pfcPauseExpiry 0 8, .cmRtu 0 256, .cmDreq 0 256, .cnp 0 256, .rateIncreaseTimer 0 256, .nop 0 (2 ^ 32), .copy 0 (2 ^ 32),
      .tile 0 (2 ^ 32), .tileOutDone 0 (2 ^ 32), .msg 0 (2 ^ 32), .windowOpen 0 (2 ^ 32), .windowClose 0 (2 ^ 32), .csrRead 0 (2 ^ 32),
      .csrWrite 0 (2 ^ 32), .waitOrbit 0 (2 ^ 32), .districtSet q1 [], .keyRegister q1 0 [] 1, .getCertificate .i3c 8 0 0,
      .challenge .i3c 8 0, .getMeasurements .i3c 256 0 0, .getMeasurements .i3c 0 8 0, .keyExchange .i3c ⟨8, []⟩] : List Instr), c.wf = false := by
  decide +kernel

theorem test_wf_holds : ∀ c ∈ ([.tickMark [true] [] [] 0, .pass 511 ⟨[], [], [⟨511, 0xBFFFF, true⟩]⟩, .dataFrame 23 ⟨[0], List.replicate 64 0⟩,
      .rdmaWrite 3 255 (2 ^ 32 - 1) (2 ^ 64 - 1) [] true, .railGoodTimeout 8, .pageRetire 0xB7FFF] : List Instr), c.wf = true := by decide +kernel

/-! ## Values worked out from the spec -/

/-- A BF16 activation 1.5 and weight 0.30078125 in the SRAM of core 0, with the slots and the chain of the spec's example of one BF16
product (04, worked example). -/
def productState (wexp : Nat) : State :=
  let w := passWord 1 + put 80 16 wexp + put 96 12 1 + put 148 12 1 + put 160 20 0x1000 + put 180 12 1 + put 192 20 0x2000 + put 212 12 1
  let chain := put 0 12 1 + put 32 12 1 + put 48 12 2 + put 64 12 3
  let s := running 0 [w] [sect 7 0 [chain]]
  let s := s.setMem (Memory.write (Memory.write s.mem (sramAddr 0 0) [0xC0, 0x3F]) (sramAddr 0 0x1000) [0x9A, 0x3E])
  ((s.modSlot 1 fun x => { x with valid := true, scale := 1 }).modSlot 2 fun x => { x with valid := true, scale := -1 }).modSlot 3 fun x =>
    { x with valid := true, scale := 8 }

def stored (o : Host.Outcome State Fault Refusal) (a n : Nat) : Option (List Byte) :=
  match o with
  | .next t => some (t.bytes a n)
  | _ => none
def after {α : Type} (o : Host.Outcome State Fault Refusal) (f : State → α) : Option α :=
  match o with
  | .next t => some (f t)
  | _ => none

/-- On the window WEXP = −83 the product is exact: 231 × 2^−9, BF16 0x3EE7. -/
theorem test_pass_exact : stored (exec (.pass 0 noErrs) (productState (2 ^ 16 - 83))) (sramAddr 0 0x2000) 2 = some [0xE7, 0x3E] := by decide +kernel

/-- On the coarse window WEXP = −8 it truncates: 115 × 2^−8, BF16 0x3EE6. -/
theorem test_pass_coarse : stored (exec (.pass 0 noErrs) (productState (2 ^ 16 - 8))) (sramAddr 0 0x2000) 2 = some [0xE6, 0x3E] := by decide +kernel

/-- The scale rule and the conversion of 1.3 to FP8 E4M3 (04, worked example): s = −4, RNE 0x5A, stochastic with r = 8,000 0x5B. -/
theorem test_scale_rule :
    ({ format := 1, rule := 1, hist := 4, margin := 1 } : Slot).scaleFor [0x404CCCCD, 0x40B80000, 0x40833333, 0x40DCCCCD] = -4 := by decide +kernel
theorem test_convert :
    (fmtOf 1).encode (convert (fmtOf 1) (convTop (fmtOf 1) (-4)) (-4) .rne 0x3FA66666).1 = 0x5A
    ∧ (fmtOf 1).encode (convert (fmtOf 1) (convTop (fmtOf 1) (-4)) (-4) (.sr 8000) 0x3FA66666).1 = 0x5B := by decide +kernel

/-- The message sizes of the 64 KiB ring (08, worked example). -/
theorem test_ring_units : unitsFor 40000 = 157 ∧ unitsFor 30000 = 118 ∧ unitsFor 65280 = 256 ∧ unitsFor 65216 = 255 := by decide +kernel

/-- District 1, window 3 and tag 0x2A5 give the key 0x000A_9503 (11, example). -/
theorem test_window_key :
    let w := put 0 8 5 + put 192 64 4096 + put 256 22 0x2A5 + put 278 1 1
    let s := (State.reset.modDist 1 fun x => { x with defn := ⟨true, 1, 0, 2, 0, 1⟩ }).modHost 1 fun h => { h with cmds := [cmd w 0] }
    let s := { s with windows := (s.windows.set 257 ⟨1, 0, 4096, true, true⟩).set 258 ⟨1, 0, 4096, true, true⟩ }
    after (exec (.windowOpen 1 0) s) (fun t => (t.district 1).host.cmds.map (·.done)) = some [some (.done, 0x000A9503, 0)] := by decide +kernel

/-- The four contributions of the spec's example (07), 67,108,864, 4, −67,108,864 and 3 units of 2^−2: their sum by R213 is 7
units in any order, FP32 1.75. (The example's own total, 3, leaves out the 4; a labelled statement binds, R22.) -/
def sumBox : Nat := put 0 8 3 + put 16 12 7 + put 80 10 4 + put 96 3 1 + put 112 8 0xFE + put 128 12 5
def contributing (order : List Nat) : State :=
  let vals : List Nat := [0x4B800000, 0x3F800000, 0xCB800000, 0x3F4CCCCD]
  let s := withImage [sect 3 0 [dist0, pbox 5 3, sumBox]]
  order.foldl (fun t k => (t.setMem (Memory.write t.mem (sramAddr k 0) (leBytes 4 (vals.getD k 0)))).contribute 0 7 sumBox k
    (opWord 2 + put 16 12 7 + put 48 9 k)) s
theorem test_collection_sum :
    ((contributing [0, 1, 2, 3]).box 7).results.map (·.words.headD 0) = [0x3FE00000]
    ∧ ((contributing [3, 0, 2, 1]).box 7).results.map (·.words.headD 0) = [0x3FE00000] := by decide +kernel

/-- CRC-32 as R250 names it: the check value of the nine digits. SHA-384 of no bytes begins 38B0 60A7 (FIPS 180-4). -/
theorem test_crc32 : crc32 [0x31, 0x32, 0x33, 0x34, 0x35, 0x36, 0x37, 0x38, 0x39] = 0xCBF43926 := by decide +kernel
theorem test_sha384 : (sha384 []).take 4 = [0x38, 0xB0, 0x60, 0xA7] := by decide +kernel

/-- R331: with fewer than 1,024 cycles to the tick a checked tile waits; else it goes to the lowest core whose quad is free. -/
theorem test_tile_cut_off :
    let s := (commanded tileCmd 1).modCore 1 fun c => { c with work := some ⟨0, 0, .compute, false⟩ }
    after (exec (.tileDispatch 0 950) s) (fun t => (t.core 4).tile.isSome) = some false
    ∧ after (exec (.tileDispatch 0 1350) s) (fun t => ((t.core 0).tile.isSome, (t.core 4).tile.isSome)) = some (false, true) := by
  decide +kernel

/-- R32, R413: the die-hot comparator halts a running module and latches bit 0 of PWR_TRIP. -/
theorem test_die_hot :
    after (exec .dieHot (pwr0 fun p => { p with stage := 7 })) (fun t => (t.halted, t.pwr.trip)) = some (true, 1) := by decide +kernel

/-- R40: a tick adds one to the orbit number, which wraps at 2^64. -/
theorem test_orbit_tick :
    after (exec (.orbitTick [] []) (orb0 fun o => { o with run := true, number := 2 ^ 64 - 1 })) (fun t => t.orb.number) = some 0 := by decide +kernel

/-- R412: an idle cycle of the 156.25 MHz clock is 6.4 ns. -/
theorem test_idle_clock :
    after (step (orb0 fun o => { o with refOk := true })) (fun t => (t.clk.ns, t.clk.frac)) = some (6, 2 * 2 ^ 32) := by decide +kernel

/-- R416: a pulse of 399 ns changes nothing; one of 1 µs is a cold reset, after which GLB_RESET names PORST_N (R418). -/
theorem test_porst :
    after (exec (.porstN 399) (pwr0 fun p => { p with stage := 7 })) (fun t => t) = some (pwr0 fun p => { p with stage := 7 })
    ∧ after (exec (.porstN 1000) (pwr0 fun p => { p with stage := 7 })) (fun t => (t.pwr.stage, t.pwr.resetLast)) = some (1, 1) := by
  decide +kernel

/-- R29: the 8 tag bits of an epoch mark come most significant first, 4 cycles each, and count by their third cycle. -/
theorem test_mark_tag :
    let bits : List Bool := [true, false, true, false, false, true, false, true]
    let tag := bits.flatMap fun b => [!b, !b, b, !b]
    after (exec (.tickMark (List.replicate 28 true) (List.replicate 4 false) tag 9) (orb0 fun o => { o with refOk := true })) (fun t => t.orb.lastTag)
      = some 0xA5 := by decide +kernel

/-- HMAC-SHA-384 of "Hi There" under twenty bytes 0x0B begins AFD0 3944 (RFC 4231, case 1). -/
theorem test_hmac384 :
    (hmac384 (List.replicate 20 0x0B) [0x48, 0x69, 0x20, 0x54, 0x68, 0x65, 0x72, 0x65]).take 4 = [0xAF, 0xD0, 0x39, 0x44] := by decide +kernel

/-- A step takes the front command and leaves the rest. -/
theorem test_step_front :
    after (step { State.reset with pending := [.jtagTrstN false, .dieHot] }) (fun t => (t.pending, t.jtag.held)) = some ([.dieHot], false) := by
  decide +kernel

end Sys2Proof.Tests
end

section
/-! SUPPORT. Canonical memory as a function of addresses (model memory, R4 and R7): its entries are its readings that are not
blank, so that equal readings are equal data; and what a copy reads as. -/

namespace Sys2Proof.Machine

/-- The entries of a canonical memory are exactly its readings that are not blank. -/
theorem Memory.mem_iff {m : List Host.Cell} (h : Memory.wf m) (c : Host.Cell) :
    c ∈ m ↔ Memory.get m c.1 = c.2 ∧ c.2 ≠ Memory.blank := by
  induction m with
  | nil => simpa [Memory.get] using fun e => e.symm
  | cons d r ih =>
    obtain ⟨hs, hb⟩ := h
    obtain ⟨hd, hr⟩ := List.pairwise_cons.1 hs
    have ih := ih ⟨hr, fun x hx => hb x (List.mem_cons_of_mem _ hx)⟩
    have hdb : d.2 ≠ Memory.blank := hb d (List.mem_cons_self ..)
    rw [List.mem_cons, ih, Memory.get]
    by_cases hc : c.1 = d.1
    · rw [if_pos hc, hc, Memory.get_below hd]
      constructor
      · rintro (rfl | ⟨e, ne⟩)
        · exact ⟨rfl, hdb⟩
        · exact absurd e.symm ne
      · exact fun e => .inl (Prod.ext hc e.1.symm)
    · rw [if_neg hc, or_iff_right fun e => hc (congrArg Prod.fst e)]

theorem Memory.nodup_of_wf {m : List Host.Cell} (h : Memory.wf m) : m.Nodup :=
  h.1.imp fun hab e => Nat.ne_of_lt hab (congrArg Prod.fst e)

/-- Two canonical memories that read the same at every address are the same. -/
theorem Memory.ext_of_get {m n : List Host.Cell} (hm : Memory.wf m) (hn : Memory.wf n)
    (h : ∀ x, Memory.get m x = Memory.get n x) : m = n := by
  have same : ∀ c, c ∈ m ↔ c ∈ n := fun c => by rw [Memory.mem_iff hm, Memory.mem_iff hn, h]
  have perm := (List.perm_ext_iff_of_nodup (Memory.nodup_of_wf hm) (Memory.nodup_of_wf hn)).2 same
  exact perm.eq_of_pairwise (fun _ _ _ _ hab hba => absurd hba (Nat.lt_asymm hab)) hm.1 hn.1

/-- The cells of a memory moved from addresses `src` up to addresses `dst` up. -/
def Memory.shift (src dst : Nat) (m : List Host.Cell) : List Host.Cell := m.map fun c => (c.1 - src + dst, c.2)

theorem Memory.copy_eq (m : List Host.Cell) (src dst len : Nat) :
    Memory.copy m src dst len = Memory.place (m.filter fun c => !(dst ≤ c.1 && c.1 < dst + len))
      (Memory.shift src dst (m.filter fun c => src ≤ c.1 && c.1 < src + len)) := rfl

theorem Memory.wf_shift {m : List Host.Cell} {src : Nat} (dst : Nat) (h : Memory.wf m) (hs : ∀ c ∈ m, src ≤ c.1) :
    Memory.wf (Memory.shift src dst m) := by
  obtain ⟨sorted, listed⟩ := h
  refine ⟨List.pairwise_map.2 (sorted.imp_of_mem fun {a b} ha _ hab => ?_), fun c hc => ?_⟩
  · have := hs a ha
    simp only
    omega
  · obtain ⟨a, ha, rfl⟩ := List.mem_map.1 hc
    exact listed a ha

/-- A moved memory reads at `x` what the memory read at the address that was moved there. -/
theorem Memory.get_shift {m : List Host.Cell} {src : Nat} (dst x : Nat) (hs : ∀ c ∈ m, src ≤ c.1) :
    Memory.get (Memory.shift src dst m) x = if dst ≤ x then Memory.get m (src + (x - dst)) else Memory.blank := by
  induction m with
  | nil => simp [Memory.shift, Memory.get]
  | cons c r ih =>
    obtain ⟨hc, hr⟩ := List.forall_mem_cons.1 hs
    have ih := ih hr
    simp only [Memory.shift, List.map_cons, Memory.get] at ih ⊢
    rw [ih]
    by_cases hx : x = c.1 - src + dst
    · rw [if_pos hx, if_pos (by omega), if_pos (by omega)]
    · rw [if_neg hx]
      by_cases hd : dst ≤ x
      · rw [if_pos hd, if_pos hd, if_neg (by omega)]
      · rw [if_neg hd, if_neg hd]

/-- A copy moves its bytes as if all were read before any is written, and leaves every other byte. -/
theorem Memory.get_copy {m : List Host.Cell} (h : Memory.wf m) (src dst len x : Nat) :
    Memory.get (Memory.copy m src dst len) x
      = if dst ≤ x ∧ x < dst + len then Memory.get m (src + (x - dst)) else Memory.get m x := by
  have low : ∀ c ∈ m.filter (fun c => src ≤ c.1 && c.1 < src + len), src ≤ c.1 := fun c hc => by
    have := (List.mem_filter.1 hc).2
    simp_all
  have rest := Memory.get_filter (fun a => !(dst ≤ a && a < dst + len)) m x
  have moved := Memory.get_filter (fun a => src ≤ a && a < src + len) m (src + (x - dst))
  rw [Memory.copy_eq, Memory.get_place _ _ (Memory.wf_filter _ h) (Memory.wf_shift dst (Memory.wf_filter _ h) low),
    Memory.get_shift dst x low, rest, moved]
  by_cases hd : dst ≤ x
  · by_cases hl : x < dst + len
    · have hm : src ≤ src + (x - dst) ∧ src + (x - dst) < src + len := by omega
      simpa [hd, hl, hm] using Eq.symm
    · have hm : ¬ src + (x - dst) < src + len := by omega
      simp [hd, hl, hm]
  · simp [hd]

/-- Settles O59: writes and copies by what they read as, and equality by the entries that readings determine. -/
theorem memoryReadsBack : Obligations.MemoryReadsBack := by
  unfold Obligations.MemoryReadsBack
  intro m hm
  exact ⟨fun a bs x => Memory.get_write hm a bs x, fun src dst len x => Memory.get_copy hm src dst len x,
    fun n hn h => Memory.ext_of_get hm hn h⟩

/-- Settles O54: the memory of the reset state lists nothing. -/
theorem resetIsCanonical : Obligations.ResetIsCanonical := by
  unfold Obligations.ResetIsCanonical
  exact ⟨Memory.wf_nil, fun _ => rfl⟩

end Sys2Proof.Machine
end

section
/-! SUPPORT. What a step does with the queue, the memory, halts, the orbit count and the windows, whichever command it runs
(R14, R16, R319): one lemma over all commands, from which the statements about every step follow. -/

namespace Sys2Proof.Machine

/-- No command's meaning is a fault or a refusal. -/
theorem exec_answers_next (c : Instr) (s : State) : ∃ t, exec c s = .next t := by
  cases c <;> exact ⟨_, rfl⟩

/-- What each command keeps: but for the commands named for it, a halt, the orbit count, the memory and the windows stay. -/
theorem exec_keeps (s : State) : ∀ (c : Instr) (u : State), exec c s = .next u →
    Keeps (!endsHalt c) (!countsOrbits c) (!writesMemory c) (!changesWindows c) s u
  | .tickMark .., u, h => execTickMark_keeps (Keeps.refl s) u h
  | .refclkWindowEnd .., u, h => execRefclkWindowEnd_keeps (Keeps.refl s) u h
  | .lossOfTick .., u, h => execLossOfTick_keeps (Keeps.refl s) u h
  | .orbitStart, u, h => execOrbitStart_keeps (Keeps.refl s) u h
  | .joinStart, u, h => execJoinStart_keeps (Keeps.refl s) u h
  | .orbitTick .., u, h => execOrbitTick_keeps (Keeps.refl s) u h
  | .lateWorkComplete .., u, h => execLateWorkComplete_keeps (Keeps.refl s) u h
  | .quadRotationSwap, u, h => execQuadRotationSwap_keeps (Keeps.refl s) u h
  | .laneSwapSelected .., u, h => execLaneSwapSelected_keeps (Keeps.refl s) u h
  | .laneSwapTimeout .., u, h => execLaneSwapTimeout_keeps (Keeps.refl s) u h
  | .barrierArrive .., u, h => execBarrierArrive_keeps (Keeps.refl s) u h
  | .barrierTimeout .., u, h => execBarrierTimeout_keeps (Keeps.refl s) u h
  | .orbArm .., u, h => execOrbArm_keeps (Keeps.refl s) u h
  | .orbDisarm .., u, h => execOrbDisarm_keeps (Keeps.refl s) u h
  | .orbJoin .., u, h => execOrbJoin_keeps (Keeps.refl s) u h
  | .orbJoinWithdraw .., u, h => execOrbJoinWithdraw_keeps (Keeps.refl s) u h
  | .orbStop .., u, h => execOrbStop_keeps (Keeps.refl s) u h
  | .orbResume .., u, h => execOrbResume_keeps (Keeps.refl s) u h
  | .shFieldWrite .., u, h => execShFieldWrite_keeps (Keeps.refl s) u h
  | .registerWrite .., u, h => execRegisterWrite_keeps (Keeps.refl s) u h
  | .pass .., u, h => execPass_keeps (Keeps.refl s) u h
  | .arrayRampDown .., u, h => execArrayRampDown_keeps (Keeps.refl s) u h
  | .loop .., u, h => execLoop_keeps (Keeps.refl s) u h
  | .endloop .., u, h => execEndloop_keeps (Keeps.refl s) u h
  | .endProg .., u, h => execEndProg_keeps (Keeps.refl s) u h
  | .send .., u, h => execSend_keeps (Keeps.refl s) u h
  | .sendClaim .., u, h => execSendClaim_keeps (Keeps.refl s) u h
  | .messageLink .., u, h => execMessageLink_keeps (Keeps.refl s) u h
  | .collectionRoundDeliver .., u, h => execCollectionRoundDeliver_keeps (Keeps.refl s) u h
  | .read .., u, h => execRead_keeps (Keeps.refl s) u h
  | .postboxDeath .., u, h => execPostboxDeath_keeps (Keeps.refl s) u h
  | .pbxFlushBox .., u, h => execPbxFlushBox_keeps (Keeps.refl s) u h
  | .pbxFlushAll .., u, h => execPbxFlushAll_keeps (Keeps.refl s) u h
  | .dlrTailWrite .., u, h => execDlrTailWrite_keeps (Keeps.refl s) u h
  | .xferCopy .., u, h => execXferCopy_keeps (Keeps.refl s) u h
  | .xferSend .., u, h => execXferSend_keeps (Keeps.refl s) u h
  | .xferForward .., u, h => execXferForward_keeps (Keeps.refl s) u h
  | .xferRelease .., u, h => execXferRelease_keeps (Keeps.refl s) u h
  | .trainUpdate .., u, h => execTrainUpdate_keeps (Keeps.refl s) u h
  | .trainPack .., u, h => execTrainPack_keeps (Keeps.refl s) u h
  | .trainUnpack .., u, h => execTrainUnpack_keeps (Keeps.refl s) u h
  | .awaitItem .., u, h => execAwaitItem_keeps (Keeps.refl s) u h
  | .stageEnqueue .., u, h => execStageEnqueue_keeps (Keeps.refl s) u h
  | .memLineRead .., u, h => execMemLineRead_keeps (Keeps.refl s) u h
  | .memReadRetry .., u, h => execMemReadRetry_keeps (Keeps.refl s) u h
  | .pageRetire .., u, h => execPageRetire_keeps (Keeps.refl s) u h
  | .scrubLine .., u, h => execScrubLine_keeps (Keeps.refl s) u h
  | .postPackageRepair .., u, h => execPostPackageRepair_keeps (Keeps.refl s) u h
  | .dataFrame .., u, h => execDataFrame_keeps (Keeps.refl s) u h
  | .linkFlit .., u, h => execLinkFlit_keeps (Keeps.refl s) u h
  | .frameArbitrate .., u, h => execFrameArbitrate_keeps (Keeps.refl s) u h
  | .retryTimeout .., u, h => execRetryTimeout_keeps (Keeps.refl s) u h
  | .nakRepeat .., u, h => execNakRepeat_keeps (Keeps.refl s) u h
  | .laneLoss .., u, h => execLaneLoss_keeps (Keeps.refl s) u h
  | .retrainEnd .., u, h => execRetrainEnd_keeps (Keeps.refl s) u h
  | .downTrainingAttempt .., u, h => execDownTrainingAttempt_keeps (Keeps.refl s) u h
  | .linkTrainingPhaseEnd .., u, h => execLinkTrainingPhaseEnd_keeps (Keeps.refl s) u h
  | .cardTimeout .., u, h => execCardTimeout_keeps (Keeps.refl s) u h
  | .card .., u, h => execCard_keeps (Keeps.refl s) u h
  | .ping .., u, h => execPing_keeps (Keeps.refl s) u h
  | .echo .., u, h => execEcho_keeps (Keeps.refl s) u h
  | .beacon .., u, h => execBeacon_keeps (Keeps.refl s) u h
  | .announce .., u, h => execAnnounce_keeps (Keeps.refl s) u h
  | .credit .., u, h => execCredit_keeps (Keeps.refl s) u h
  | .nackDead .., u, h => execNackDead_keeps (Keeps.refl s) u h
  | .amaxUp .., u, h => execAmaxUp_keeps (Keeps.refl s) u h
  | .amaxDown .., u, h => execAmaxDown_keeps (Keeps.refl s) u h
  | .barUp .., u, h => execBarUp_keeps (Keeps.refl s) u h
  | .barGo .., u, h => execBarGo_keeps (Keeps.refl s) u h
  | .restartBarUp .., u, h => execRestartBarUp_keeps (Keeps.refl s) u h
  | .restartBarGo .., u, h => execRestartBarGo_keeps (Keeps.refl s) u h
  | .restartTimeout .., u, h => execRestartTimeout_keeps (Keeps.refl s) u h
  | .copybackDone .., u, h => execCopybackDone_keeps (Keeps.refl s) u h
  | .jobHold .., u, h => execJobHold_keeps (Keeps.refl s) u h
  | .mgmt .., u, h => execMgmt_keeps (Keeps.refl s) u h
  | .tlkDisable .., u, h => execTlkDisable_keeps (Keeps.refl s) u h
  | .tlkEnable .., u, h => execTlkEnable_keeps (Keeps.refl s) u h
  | .tlkRetrain .., u, h => execTlkRetrain_keeps (Keeps.refl s) u h
  | .rdmaWrite .., u, h => execRdmaWrite_keeps (Keeps.refl s) u h
  | .rdmaWriteImm .., u, h => execRdmaWriteImm_keeps (Keeps.refl s) u h
  | .rdmaRead .., u, h => execRdmaRead_keeps (Keeps.refl s) u h
  | .roceSend .., u, h => execRoceSend_keeps (Keeps.refl s) u h
  | .cmReq .., u, h => execCmReq_keeps (Keeps.refl s) u h
  | .cmRtu .., u, h => execCmRtu_keeps (Keeps.refl s) u h
  | .cmDreq .., u, h => execCmDreq_keeps (Keeps.refl s) u h
  | .cnp .., u, h => execCnp_keeps (Keeps.refl s) u h
  | .rateIncreaseTimer .., u, h => execRateIncreaseTimer_keeps (Keeps.refl s) u h
  | .pfcPause .., u, h => execPfcPause_keeps (Keeps.refl s) u h
  | .pfcPauseTimeout .., u, h => execPfcPauseTimeout_keeps (Keeps.refl s) u h
  | .cmdTailWrite .., u, h => execCmdTailWrite_keeps (Keeps.refl s) u h
  | .cplHeadWrite .., u, h => execCplHeadWrite_keeps (Keeps.refl s) u h
  | .cmdRingWrite .., u, h => execCmdRingWrite_keeps (Keeps.refl s) u h
  | .cplRingWrite .., u, h => execCplRingWrite_keeps (Keeps.refl s) u h
  | .nop .., u, h => execNop_keeps (Keeps.refl s) u h
  | .copy .., u, h => execCopy_keeps (Keeps.refl s) u h
  | .tile .., u, h => execTile_keeps (Keeps.refl s) u h
  | .tileDispatch .., u, h => execTileDispatch_keeps (Keeps.refl s) u h
  | .tileStop .., u, h => execTileStop_keeps (Keeps.refl s) u h
  | .tileOutDone .., u, h => execTileOutDone_keeps (Keeps.refl s) u h
  | .msg .., u, h => execMsg_keeps (Keeps.refl s) u h
  | .windowOpen .., u, h => execWindowOpen_keeps (Keeps.refl s) u h
  | .windowClose .., u, h => execWindowClose_keeps (Keeps.refl s) u h
  | .csrRead .., u, h => execCsrRead_keeps (Keeps.refl s) u h
  | .csrWrite .., u, h => execCsrWrite_keeps (Keeps.refl s) u h
  | .waitOrbit .., u, h => execWaitOrbit_keeps (Keeps.refl s) u h
  | .commandStart .., u, h => execCommandStart_keeps (Keeps.refl s) u h
  | .completionPost .., u, h => execCompletionPost_keeps (Keeps.refl s) u h
  | .imgLoad .., u, h => execImgLoad_keeps (Keeps.refl s) u h
  | .loadEnd .., u, h => execLoadEnd_keeps (Keeps.refl s) u h
  | .imgCommit .., u, h => execImgCommit_keeps (Keeps.refl s) u h
  | .commitChecksEnd .., u, h => execCommitChecksEnd_keeps (Keeps.refl s) u h
  | .imgCancel .., u, h => execImgCancel_keeps (Keeps.refl s) u h
  | .snpReqWrite .., u, h => execSnpReqWrite_keeps (Keeps.refl s) u h
  | .rewind .., u, h => execRewind_keeps (Keeps.refl s) u h
  | .rollfwd .., u, h => execRollfwd_keeps (Keeps.refl s) u h
  | .rollfwdEnd .., u, h => execRollfwdEnd_keeps (Keeps.refl s) u h
  | .dreset .., u, h => execDreset_keeps (Keeps.refl s) u h
  | .districtResetDone .., u, h => execDistrictResetDone_keeps (Keeps.refl s) u h
  | .fltTailWrite .., u, h => execFltTailWrite_keeps (Keeps.refl s) u h
  | .fltRestoreWrite .., u, h => execFltRestoreWrite_keeps (Keeps.refl s) u h
  | .sprServe .., u, h => execSprServe_keeps (Keeps.refl s) u h
  | .mirrorRecord .., u, h => execMirrorRecord_keeps (Keeps.refl s) u h
  | .restoreRecord .., u, h => execRestoreRecord_keeps (Keeps.refl s) u h
  | .quadTestEnd .., u, h => execQuadTestEnd_keeps (Keeps.refl s) u h
  | .logFlashCopy .., u, h => execLogFlashCopy_keeps (Keeps.refl s) u h
  | .dieHot, u, h => execDieHot_keeps (Keeps.refl s) u h
  | .dieCrit, u, h => execDieCrit_keeps (Keeps.refl s) u h
  | .dieCritPowerOff, u, h => execDieCritPowerOff_keeps (Keeps.refl s) u h
  | .vinUv, u, h => execVinUv_keeps (Keeps.refl s) u h
  | .vinOv, u, h => execVinOv_keeps (Keeps.refl s) u h
  | .coolant, u, h => execCoolant_keeps (Keeps.refl s) u h
  | .inputBelow36v, u, h => execInputBelow36v_keeps (Keeps.refl s) u h
  | .inputRise39v, u, h => execInputRise39v_keeps (Keeps.refl s) u h
  | .porstN .., u, h => execPorstN_keeps (Keeps.refl s) u h
  | .jtagTrstN .., u, h => execJtagTrstN_keeps (Keeps.refl s) u h
  | .pwrResetWarm .., u, h => execPwrResetWarm_keeps (Keeps.refl s) u h
  | .warmResetBegin, u, h => execWarmResetBegin_keeps (Keeps.refl s) u h
  | .startupStageEnd .., u, h => execStartupStageEnd_keeps (Keeps.refl s) u h
  | .railGoodTimeout .., u, h => execRailGoodTimeout_keeps (Keeps.refl s) u h
  | .railRetry, u, h => execRailRetry_keeps (Keeps.refl s) u h
  | .pwrTargetRun .., u, h => execPwrTargetRun_keeps (Keeps.refl s) u h
  | .pwrTargetDrowse .., u, h => execPwrTargetDrowse_keeps (Keeps.refl s) u h
  | .pwrTargetSleep .., u, h => execPwrTargetSleep_keeps (Keeps.refl s) u h
  | .powerStateReached, u, h => execPowerStateReached_keeps (Keeps.refl s) u h
  | .laneLockTimeout .., u, h => execLaneLockTimeout_keeps (Keeps.refl s) u h
  | .glbTimeWrite .., u, h => execGlbTimeWrite_keeps (Keeps.refl s) u h
  | .powerLimitCheck .., u, h => execPowerLimitCheck_keeps (Keeps.refl s) u h
  | .moonWatchdogExpiry .., u, h => execMoonWatchdogExpiry_keeps (Keeps.refl s) u h
  | .moonRestartDone, u, h => execMoonRestartDone_keeps (Keeps.refl s) u h
  | .svnBurn, u, h => execSvnBurn_keeps (Keeps.refl s) u h
  | .getStatus .., u, h => execGetStatus_keeps (Keeps.refl s) u h
  | .ownerSet .., u, h => execOwnerSet_keeps (Keeps.refl s) u h
  | .ownerClear .., u, h => execOwnerClear_keeps (Keeps.refl s) u h
  | .districtSet .., u, h => execDistrictSet_keeps (Keeps.refl s) u h
  | .districtReset .., u, h => execDistrictReset_keeps (Keeps.refl s) u h
  | .keyRegister .., u, h => execKeyRegister_keeps (Keeps.refl s) u h
  | .keyRevoke .., u, h => execKeyRevoke_keeps (Keeps.refl s) u h
  | .moonCsrRead .., u, h => execMoonCsrRead_keeps (Keeps.refl s) u h
  | .moonCsrWrite .., u, h => execMoonCsrWrite_keeps (Keeps.refl s) u h
  | .logRead .., u, h => execLogRead_keeps (Keeps.refl s) u h
  | .snpRead .., u, h => execSnpRead_keeps (Keeps.refl s) u h
  | .cardGet .., u, h => execCardGet_keeps (Keeps.refl s) u h
  | .cardRecheck .., u, h => execCardRecheck_keeps (Keeps.refl s) u h
  | .configSet .., u, h => execConfigSet_keeps (Keeps.refl s) u h
  | .debugUnlock .., u, h => execDebugUnlock_keeps (Keeps.refl s) u h
  | .getVersion .., u, h => execGetVersion_keeps (Keeps.refl s) u h
  | .getCapabilities .., u, h => execGetCapabilities_keeps (Keeps.refl s) u h
  | .negotiateAlgorithms .., u, h => execNegotiateAlgorithms_keeps (Keeps.refl s) u h
  | .getDigests .., u, h => execGetDigests_keeps (Keeps.refl s) u h
  | .getCertificate .., u, h => execGetCertificate_keeps (Keeps.refl s) u h
  | .challenge .., u, h => execChallenge_keeps (Keeps.refl s) u h
  | .getMeasurements .., u, h => execGetMeasurements_keeps (Keeps.refl s) u h
  | .keyExchange .., u, h => execKeyExchange_keeps (Keeps.refl s) u h
  | .finish .., u, h => execFinish_keeps (Keeps.refl s) u h
  | .keyUpdate .., u, h => execKeyUpdate_keeps (Keeps.refl s) u h
  | .heartbeat .., u, h => execHeartbeat_keeps (Keeps.refl s) u h
  | .endSession .., u, h => execEndSession_keeps (Keeps.refl s) u h
  | .requestUpdate .., u, h => execRequestUpdate_keeps (Keeps.refl s) u h
  | .passComponentTable .., u, h => execPassComponentTable_keeps (Keeps.refl s) u h
  | .updateComponent .., u, h => execUpdateComponent_keeps (Keeps.refl s) u h
  | .requestFirmwareData .., u, h => execRequestFirmwareData_keeps (Keeps.refl s) u h
  | .transferComplete .., u, h => execTransferComplete_keeps (Keeps.refl s) u h
  | .verifyComplete .., u, h => execVerifyComplete_keeps (Keeps.refl s) u h
  | .activateFirmware .., u, h => execActivateFirmware_keeps (Keeps.refl s) u h
  | .hostLinkUp .., u, h => execHostLinkUp_keeps (Keeps.refl s) u h
  | .hostLinkDown .., u, h => execHostLinkDown_keeps (Keeps.refl s) u h
  | .islandPowerUp, u, h => execIslandPowerUp_keeps (Keeps.refl s) u h
  | .islandPowerLoss, u, h => execIslandPowerLoss_keeps (Keeps.refl s) u h
  | .tickOkTimeout, u, h => execTickOkTimeout_keeps (Keeps.refl s) u h
  | .spareLaneSelect .., u, h => execSpareLaneSelect_keeps (Keeps.refl s) u h
  | .preFecEstimateUpdate .., u, h => execPreFecEstimateUpdate_keeps (Keeps.refl s) u h
  | .mctpControl .., u, h => execMctpControl_keeps (Keeps.refl s) u h
  | .pfcPauseExpiry .., u, h => execPfcPauseExpiry_keeps (Keeps.refl s) u h
  | .neighbourDiscovery .., u, h => execNeighbourDiscovery_keeps (Keeps.refl s) u h
  | .jtagTck .., u, h => execJtagTck_keeps (Keeps.refl s) u h

/-- A step is a cycle of the clock on an empty queue, or the command at its front. -/
theorem step_cases {s t : State} (h : step s = .next t) :
    (s.pending = [] ∧ t = s.idle) ∨ ∃ c rest, s.pending = c :: rest ∧ exec c { s with pending := rest } = .next t := by
  unfold step at h
  split at h
  · next empty =>
    injection h with h
    exact .inl ⟨empty, h.symm⟩
  · next c rest front => exact .inr ⟨c, rest, front, h⟩

/-- What a step keeps, apart from the command that it takes off the queue. -/
theorem step_keeps {s t : State} (h : step s = .next t) :
    (s.pending = [] ∧ Keeps true true true true s t)
      ∨ ∃ c rest, s.pending = c :: rest ∧
        Keeps (!endsHalt c) (!countsOrbits c) (!writesMemory c) (!changesWindows c) { s with pending := rest } t := by
  rcases step_cases h with ⟨empty, rfl⟩ | ⟨c, rest, front, run⟩
  · exact .inl ⟨empty, State.idle_keeps (Keeps.refl s)⟩
  · exact .inr ⟨c, rest, front, exec_keeps _ c t run⟩

/-- Settles O55: a cycle of the clock and every command keep the canonical form. -/
theorem stepsKeepCanonicalMemory : Obligations.StepsKeepCanonicalMemory := by
  unfold Obligations.StepsKeepCanonicalMemory
  intro s t canonical h
  rcases step_keeps h with ⟨-, keeps⟩ | ⟨c, rest, -, keeps⟩
  · exact keeps.mem canonical
  · exact keeps.mem canonical

/-- Settles O56: every command answers a next state, and none has a part that touches the queue. -/
theorem everyCommandCompletes : Obligations.EveryCommandCompletes := by
  unfold Obligations.EveryCommandCompletes
  intro c s
  obtain ⟨t, run⟩ := exec_answers_next c s
  exact ⟨t, run, (exec_keeps s c t run).pending⟩

/-- Settles O58: a command outside the lists keeps the memory, or the windows, as they are. -/
theorem memoryAndWindowsStay : Obligations.MemoryAndWindowsStay := by
  unfold Obligations.MemoryAndWindowsStay
  intro s t h
  rcases step_keeps h with ⟨-, keeps⟩ | ⟨c, rest, front, keeps⟩
  · exact ⟨fun _ a => congrArg (Memory.get · a) (keeps.bytes rfl), fun _ => keeps.keys rfl⟩
  · have head : s.pending.head? = some c := by rw [front, List.head?_cons]
    refine ⟨fun outside a => ?_, fun outside => ?_⟩
    · exact congrArg (Memory.get · a) (keeps.bytes (by rw [outside c head, Bool.not_false]))
    · exact keeps.keys (by rw [outside c head, Bool.not_false])

end Sys2Proof.Machine
end

section
/-! SUPPORT. COPY, MSG and TILE commands, and a tile on its core (11 R323, R324, R330 to R334): the next state of each as one
expression, and what the statement asks of it. -/

namespace Sys2Proof.Machine

/-! ## Commands that pass their checks -/

theorem cmdPlace_of_hostPlace {s : State} {d a len : Nat} (h : s.hostPlace d a len = true) : s.cmdPlace d a len = true := by
  rw [State.cmdPlace, h, Bool.or_true]

/-- A sound COPY without ENQ writes its data and is done. -/
theorem exec_copy_done {s : State} {d : Fin 4} {i e : Nat} (started : s.cmdAt d i 2 0 = some e) (sound : ceSound e = true)
    (noEnq : ceEnq e = false) (nonempty : ceLen e ≠ 0) (src : s.hostPlace d (ceA e) (ceLen e) = true)
    (dst : s.hostPlace d (ceB e) (ceLen e) = true) :
    exec (.copy d i) s = .next
      (((s.write d (ceB e) (s.cmdData d (ceA e) (ceLen e))).wroteLines (ceB e) (ceLen e)).finishCmd d i .done 0) := by
  simp [exec, execCopy, started, State.cmdCopy, firstRefusal, cmdPlace_of_hostPlace src, cmdPlace_of_hostPlace dst, sound, noEnq, nonempty]

/-- A MSG to a TX ring of its district with room for it gives its message to the ring. -/
theorem exec_msg_gives {s : State} {d : Fin 4} {i e x : Nat} (started : s.cmdAt d i 4 0 = some e) (sound : ceSound e = true)
    (place : s.cmdPlace d (ceA e) (ceLen e) = true) (ring : s.ringOwner (bits (ceB e) 0 12) = some (d.val, x)) (tx : reTx x = true)
    (room : unitsFor (ceLen e) + 1 ≤ reUnits x) :
    exec (.msg d i) s = .next ((s.cmdStage d i 2).giveMessage d (bits (ceB e) 0 12) x (.command d i) (s.stamped d (ceD e))
      (ceLen e) (bits (ceB e) 16 16) [] (ceA e) false) := by
  have fits : ¬ reUnits x < unitsFor (ceLen e) + 1 := by omega
  simp [exec, execMsg, started, State.cmdMsg, firstRefusal, place, ring, foreign, tx, sound, fits]

/-- The check of a TILE with instructions in place ends it or lets it wait for a core. -/
theorem exec_tile_checks {s : State} {d : Fin 4} {i e : Nat} (started : s.cmdAt d i 3 0 = some e) (nonempty : ceLen e ≠ 0)
    (place : s.hostPlace d (ceA e) (32 * ceLen e) = true) :
    exec (.tile d i) s = .next (if s.tileSound d e then s.cmdStage d i 1 else s.finishCmd d i .refusedInvalid 0) := by
  cases sound : s.tileSound d e <;>
    simp [exec, execTile, started, State.cmdTile, nonempty, firstRefusal, place, sound]

/-! ## What a finished command leaves -/

theorem State.finishCmd_host_cmds (s : State) (d i : Nat) (st : Status) (x : Nat) :
    ((s.finishCmd d i st x).district d).host.cmds
      = (s.district d).host.cmds.map fun c => if c.index = i && c.done.isNone then { c with done := some (st, x, s.orbitNow) } else c := by
  rw [finishCmd_cmds]

theorem State.cmdStage_core (s : State) (d i stage n : Nat) : (s.cmdStage d i stage).core n = s.core n := rfl

theorem State.store_orbitNow (s : State) (a : Nat) (bs : List Byte) : (s.store a bs).orbitNow = s.orbitNow := by
  rw [State.orbitNow, State.store_onlyBytes, State.orbitNow]

theorem State.move_core (s : State) (src dst len n : Nat) : (s.move src dst len).core n = s.core n := by
  rw [State.core, State.move_onlyBytes, State.core]

/-! ## A tile on its core -/

/-- The record of a TILE command's tile as it starts on a core. -/
def State.startedTile (s : State) (d n : Nat) (c : Cmd) : Tile :=
  { district := d, index := c.index, prog := s.tileProg c.entry, replayed := false, outAddr := ceC c.entry,
    outOff := (s.beWindow d).1 + ceOutOff c.entry, outLen := ceOutLen c.entry,
    scratch := (sramAddr n (s.beWindow d).1, s.bytes (sramAddr n (s.beWindow d).1) (s.beWindow d).2) }

/-- The state after a TILE command's tile has started on core `n`: its IN range is in the window, and the core is at its start. -/
def State.tileStarted (s : State) (d n : Nat) (c : Cmd) : State :=
  (((s.move (ceB c.entry) (sramAddr n (s.beWindow d).1) (ceInLen c.entry)).modCore n fun x =>
    { x with tile := some (s.startedTile d n c), next := 0, loops := [] }).count (ctrCore n 7) 1).cmdStage d c.index 2

theorem State.tileStarted_mem (s : State) (d n : Nat) (c : Cmd) :
    (s.tileStarted d n c).mem = Memory.copy s.mem (ceB c.entry) (sramAddr n (s.beWindow d).1) (ceInLen c.entry) := move_mem' ..

theorem State.tileStarted_core (s : State) (d n : Nat) (c : Cmd) :
    (s.tileStarted d n c).core n = { s.core n with tile := some (s.startedTile d n c), next := 0, loops := [] } := by
  rw [State.tileStarted, State.cmdStage_core, State.count_core_eq, State.modCore_core, State.move_core]

theorem State.tileStarted_core_ne (s : State) (d : Nat) {n m : Nat} (c : Cmd) (h : m ≠ n) :
    (s.tileStarted d n c).core m = s.core m := by
  rw [State.tileStarted, State.cmdStage_core, State.count_core_eq, State.modCore_core_ne h, State.move_core]

/-- The tile at the front goes to the lowest free core. -/
theorem exec_tileDispatch_starts {s : State} {d : Fin 4} {c : Cmd} {n k : Nat} (front : s.nextTile d = some c)
    (free : (s.coresOf d).find? s.freeCore = some n) (running : s.halted = false) (unfenced : s.fenced d = false) (early : 1024 ≤ k) :
    exec (.tileDispatch d k) s = .next (s.tileStarted d n c) := by
  have inTime : ¬ k < 1024 := by omega
  simp [exec, execTileDispatch, front, free, running, unfenced, inTime, State.tileStarted, State.startedTile]

/-- The state in which a district's STOP bit and log say that a tile reached its cycle limit. -/
def State.stopNoticed (s : State) (d port i : Nat) : State :=
  (s.modHost d fun h => { h with beStop := true }).notice 0x52 (some d) port i

theorem State.stopNoticed_mem (s : State) (d port i : Nat) : (s.stopNoticed d port i).mem = s.mem := State.notice_mem

theorem State.stopNoticed_orbitNow (s : State) (d port i : Nat) : (s.stopNoticed d port i).orbitNow = s.orbitNow := by
  rw [State.orbitNow, State.stopNoticed, State.notice_orb, State.modHost_orb, State.orbitNow]

theorem State.stopNoticed_host (s : State) (d port i : Nat) :
    ((s.stopNoticed d port i).district d).host = { (s.district d).host with beStop := true } := by
  rw [State.stopNoticed, State.notice_district_host, State.modHost_district]

theorem State.stopNoticed_core (s : State) (d port i n : Nat) : (s.stopNoticed d port i).core n = s.core n := State.notice_core_eq

/-- A tile at its cycle limit, with no copy in progress, is logged and abandoned. -/
theorem exec_tileStop_abandons {s : State} {n : Fin 512} {x : Tile} (tile : (s.core n).tile = some x) (running : s.halted = false)
    (unfenced : s.fenced x.district = false) (noCopy : s.fetchXfer n 0 = none) :
    ∃ port, exec (.tileStop n) s = .next ((s.stopNoticed x.district port x.index).abandonTile x.district n .refusedSize) := by
  refine ⟨((List.range 4).find? fun p => bit (s.district x.district).defn.host p).getD 0, ?_⟩
  simp [exec, execTileStop, tile, running, unfenced, State.cutCopy, noCopy, State.stopNoticed]

/-- A tile stopped at its limit leaves its core with the scratch window as it found it, and its command ends REFUSED_SIZE. -/
theorem abandonTile_stopped {s : State} {d n : Nat} {x : Tile} (tile : (s.core n).tile = some x) :
    ((s.abandonTile d n .refusedSize).core n).tile = none
      ∧ ((s.abandonTile d n .refusedSize).district d).host
        = (((s.store x.scratch.1 x.scratch.2).finishCmd d x.index .refusedSize n).district d).host
      ∧ (s.abandonTile d n .refusedSize).mem = (s.store x.scratch.1 x.scratch.2).mem := by
  simp only [State.abandonTile, tile, if_true, State.leaveTile, State.modCore_core]
  exact ⟨trivial, rfl, rfl⟩

/-- The OUT range of an ended tile is written, and its command is done. -/
theorem exec_tileOutDone_writes {s : State} {d : Fin 4} {i n dst : Nat} {bs : List Byte} {r : Bool}
    (out : (s.district d).host.outs.find? (fun x => x.1 == i) = some (i, n, dst, bs, r)) (nonempty : bs ≠ []) (running : s.halted = false)
    (unfenced : s.fenced d = false) :
    exec (.tileOutDone d i) s = .next
      (((((s.modHost d fun h => { h with outs := h.outs.filter fun x => x.1 != i }).write d dst bs).wroteLines dst bs.length).finishCmd d i
        (if r then .doneReplayed else .done) n)) := by
  simp [exec, execTileOutDone, out, nonempty, running, unfenced]

/-! ## The statement -/

/-- Settles O39: each clause reads its fields off the next state that its command answers. -/
theorem copiesMessagesAndTiles : Obligations.CopiesMessagesAndTiles := by
  unfold Obligations.CopiesMessagesAndTiles
  intro s d
  refine ⟨?copy, ?msg, ?tile, ?dispatch, ?stop, ?out⟩
  case copy =>
    intro i e started sound noEnq nonempty src dst
    refine ⟨_, exec_copy_done started sound noEnq nonempty src dst, ?_, ?_⟩
    · rw [finishCmd_mem, State.wroteLines_mem]
    · rw [State.finishCmd_host_cmds, put_host, put_orbit]
  case msg =>
    intro i e k x started sound place ring own tx room
    exact exec_msg_gives started sound place (own ▸ ring) tx room
  case tile =>
    intro i e started nonempty place
    exact exec_tile_checks started nonempty place
  case dispatch =>
    intro c n k front free running unfenced early
    have core := State.tileStarted_core s d n c
    exact ⟨_, exec_tileDispatch_starts front free running unfenced early, State.tileStarted_mem .., by rw [core], by rw [core],
      by rw [core]; rfl, fun m other => State.tileStarted_core_ne s d c other⟩
  case stop =>
    intro n x tile own running unfenced noCopy
    rw [← own] at unfenced ⊢
    obtain ⟨port, run⟩ := exec_tileStop_abandons tile running unfenced noCopy
    obtain ⟨gone, host, mem⟩ := abandonTile_stopped (d := x.district) (State.stopNoticed_core .. ▸ tile)
    refine ⟨_, run, gone, ?_, ?_, ?_⟩
    · rw [host, finishCmd_cmds, State.store_district_eq, State.stopNoticed_host]
    · rw [mem, State.store_mem, State.store_mem, State.stopNoticed_mem]
    · rw [host, State.finishCmd_host_cmds, State.store_district_eq, State.stopNoticed_host, State.store_orbitNow,
        State.stopNoticed_orbitNow]
  case out =>
    intro i n dst bs r out nonempty running unfenced
    refine ⟨_, _, exec_tileOutDone_writes out nonempty running unfenced, rfl, ?_, ?_, ?_⟩
    · rw [finishCmd_mem, State.wroteLines_mem]
    · rw [finishCmd_cmds, put_host, State.modHost_district]
    · rw [State.finishCmd_host_cmds, put_host, put_orbit, State.modHost_district]
      rfl

end Sys2Proof.Machine
end

section
/-! SUPPORT. An instruction of a core that is issued (03 R69, R102): it advances its core, waits, or meets no SRAM error; and
what may start when a later check of more ranges passes. -/

namespace Sys2Proof.Machine

/-! ## Issue, advance and wait -/

/-- A change of a core matters only at the core's present value. -/
theorem State.modCore_congr {s : State} {n : Nat} {f g : Core → Core} (h : f (s.core n) = g (s.core n)) :
    s.modCore n f = s.modCore n g := by
  rw [State.modCore, h, State.modCore]

@[simp] theorem State.issue_advanceCore (s : State) (n : Nat) : (s.issue n).advanceCore n = s.advanceCore n :=
  State.modCore_modCore

theorem State.advanceCore_modCore (s : State) (n : Nat) (g : Core → Core) :
    (s.advanceCore n).modCore n g = s.modCore n fun c => g { c with pc := c.next, next := c.next + 1 } :=
  State.modCore_modCore

@[simp] theorem State.issue_core_next (s : State) (n : Nat) : ((s.issue n).core n).next = (s.core n).next := by
  rw [State.issue, State.modCore_core]

@[simp] theorem State.issue_active (s : State) (n d : Nat) : (s.issue n).active d = s.active d := rfl

@[simp] theorem State.issue_env (s : State) (n d : Nat) : (s.issue n).env d = s.env d := rfl

/-- Without SRAM errors an instruction goes on. -/
@[simp] theorem State.sramErrors_nil (s : State) (d n : Nat) : s.sramErrors d n [] = (s, true) := rfl

/-! ## Ranges that an outstanding instruction has yet to read or write -/

theorem anyOverlap_eq_false_of_subset {as bs cs : List (Nat × Nat)} (sub : as ⊆ bs) (h : anyOverlap bs cs = false) :
    anyOverlap as cs = false := by
  rw [anyOverlap, List.any_eq_false] at h ⊢
  exact fun a mem => h a (sub mem)

/-- What may start with more sources may start with fewer. -/
theorem Core.mayStart_of_subset {c : Core} {srcs more dsts : List (Nat × Nat)} (sub : srcs ⊆ more)
    (h : c.mayStart more dsts = true) : c.mayStart srcs dsts = true := by
  simp only [Core.mayStart, Bool.and_eq_true, Bool.not_eq_true'] at h ⊢
  obtain ⟨⟨room, free⟩, unread⟩ := h
  have wider : srcs ++ dsts ⊆ more ++ dsts :=
    List.append_subset.2 ⟨List.subset_append_of_subset_left _ sub, List.subset_append_right ..⟩
  exact ⟨⟨room, anyOverlap_eq_false_of_subset wider free⟩, unread⟩

/-! ## What operations on memory leave -/

theorem OnlyBytes.core_eq {s t : State} (h : OnlyBytes s t) (m : Nat) : t.core m = s.core m := by
  rw [State.core, h, State.core]

end Sys2Proof.Machine
end

section
/-! SUPPORT. Loops, END and the ramp-down of arrays (03 R66 to R68, R89): the core that each leaves. -/

namespace Sys2Proof.Machine

section
variable {s : State} {n : Fin 512} {f : Fetched}

/-- A LOOP of no iterations goes on behind the ENDLOOP of its body. -/
theorem exec_loop_skips (fetched : s.fetchOp n 6 = some f) (zero : fld f.w 1 0 24 = 0) :
    exec (.loop n) s
      = .next (s.modCore n fun c => { c with pc := c.next, next := skipBody f.prog f.prog.length (c.next + 1) 0 }) := by
  simp only [exec, execLoop, fetched, if_pos zero]

/-- Any other LOOP opens its first iteration. -/
theorem exec_loop_enters (fetched : s.fetchOp n 6 = some f) (nonzero : fld f.w 1 0 24 ≠ 0) :
    exec (.loop n) s = .next (s.modCore n fun c => { c with pc := c.next, next := c.next + 1, loops :=
      ⟨c.next, fld f.w 1 0 24, 0, signed 24 (fld f.w 4 0 24), signed 24 (fld f.w 8 0 24), signed 24 (fld f.w 12 0 24)⟩ :: c.loops }) := by
  simp only [exec, execLoop, fetched, if_neg nonzero]

/-- ENDLOOP of the last iteration leaves the loop. -/
theorem exec_endloop_leaves {l : LoopSt} {ls : List LoopSt} (fetched : s.fetchOp n 7 = some f) (inside : (s.core n).loops = l :: ls)
    (last : l.left ≤ 1) :
    exec (.endloop n) s = .next (s.modCore n fun c => { c with pc := c.next, next := c.next + 1, loops := ls }) := by
  simp only [exec, execEndloop, fetched]
  exact congrArg _ (State.modCore_congr (by simp only [inside, if_pos last]))

/-- ENDLOOP of an earlier iteration starts the next one. -/
theorem exec_endloop_repeats {l : LoopSt} {ls : List LoopSt} (fetched : s.fetchOp n 7 = some f) (inside : (s.core n).loops = l :: ls)
    (more : 1 < l.left) :
    exec (.endloop n) s = .next (s.modCore n fun c =>
      { c with pc := c.next, next := l.start + 1, loops := { l with left := l.left - 1, iter := l.iter + 1 } :: ls }) := by
  simp only [exec, execEndloop, fetched]
  exact congrArg _ (State.modCore_congr (by simp only [inside, if_neg (Nat.not_le.2 more)]))

/-- END of a core without a tile ends its work of the orbit. -/
theorem exec_endProg_ends (fetched : s.fetchOp n 15 = some f) (noTile : (s.core n).tile = none) :
    exec (.endProg n) s = .next (s.modCore n fun c =>
      { c with pc := c.next, next := c.next + 1, work := c.work.map fun w => { w with ended := true } }) := by
  have still : ((s.advanceCore n).core n).tile = none := by rw [State.advanceCore, State.modCore_core, noTile]
  simp only [exec, execEndProg, fetched, still, State.advanceCore_modCore]

end

/-- Settles O16: each clause is the instruction's own equation. -/
theorem sequencerControl : Obligations.SequencerControl := by
  unfold Obligations.SequencerControl
  intro s n
  exact ⟨fun _ => exec_loop_skips, fun _ => exec_loop_enters, fun _ _ _ => exec_endloop_leaves, fun _ _ _ => exec_endloop_repeats,
    fun _ => exec_endProg_ends, rfl⟩

end Sys2Proof.Machine
end

section
/-! SUPPORT. A PASS that meets no SRAM error (03 R69, R70, R96): it waits, only counts, or ends with what its attempts wrote. -/

namespace Sys2Proof.Machine

/-- The job of the PASS that core `n` would issue. -/
def State.passJob (s : State) (f : Fetched) (n : Nat) (errs : PassErrs) : PassJob :=
  ⟨n, (s.core n).next, passOf f.w, ((s.active f.d).bind (·.chain (passOf f.w).chain)).getD 0, (s.core n).loops, s.env f.d, errs, s⟩

/-- Does no outstanding instruction keep a pass from its first row (R69)? -/
def State.passFree (s : State) (n : Nat) (j : PassJob) : Bool :=
  (s.passCores n j.p).all fun m => (s.core m).mayPass (passReads (j.ctx s n)) (passWrites (j.ctx s n))

/-- Does a pass find its tile in its arrays (R80)? -/
def State.passResident (s : State) (n : Nat) (p : PassI) : Bool :=
  p.keep && (s.core n).resident == some (p.tile n) && (p.tile n).whole

/-- The run of a pass before its first row. -/
def State.passRun (s : State) (n : Nat) : PassRun := ⟨(s.issue n).count (ctrCore n 0) 1, 0, {}, none⟩

/-- What goes with the rows `x` of a pass that took `k` replays: arrays used, MACs, events and failed checks counted. -/
def State.passBooked (s : State) (f : Fetched) (n : Nat) (j : PassJob) (k : Nat) (x : PassRun) : State :=
  let t := (s.useArrays n j.p).countMacs n (j.p.macs * (k + 1))
  (t.book f.d n (t.coreEvent n 0 0) (decide (j.p.kind < 2) && !f.tile && (t.district f.d).flt.rollAt.isNone) x.acct).passFailures
    f.d n j k none

section
variable {s : State} {f : Fetched} {n : Nat} {errs : PassErrs}

theorem State.passRun_core_next : ((s.passRun n).s.core n).next = (s.core n).next := by
  rw [State.passRun, State.count_core_eq, State.issue_core_next]

theorem State.passFree_eq_true {j : PassJob} : s.passFree n j = true ↔
    ∀ m ∈ s.passCores n j.p, (s.core m).mayPass (passReads (j.ctx s n)) (passWrites (j.ctx s n)) = true := List.all_eq_true

theorem State.passFree_eq_false {j : PassJob} : s.passFree n j = false ↔
    ∃ m ∈ s.passCores n j.p, (s.core m).mayPass (passReads (j.ctx s n)) (passWrites (j.ctx s n)) = false := by
  simp [State.passFree, List.all_eq_false]

theorem State.runPass_waits (waits : s.passFree n (s.passJob f n errs) = false) : s.runPass f n errs = s.issue n := by
  unfold State.runPass
  extract_lets p c core j ctx
  have blocked : ((s.passCores n p).all fun m => (s.core m).mayPass (passReads ctx) (passWrites ctx)) = false := waits
  rw [if_pos (by rw [blocked, Bool.not_false])]

/-- A pass without rows or columns only counts. -/
theorem State.runPass_counts (free : s.passFree n (s.passJob f n errs) = true) (clean : errs.ecc = [])
    (idle : (passOf f.w).live = false) : s.runPass f n errs = (s.passRun n).s.advanceCore n := by
  unfold State.runPass
  extract_lets p c core j ctx
  have start : ((s.passCores n p).all fun m => (s.core m).mayPass (passReads ctx) (passWrites ctx)) = true := free
  simp only [start, clean, State.sramErrors_nil, p, idle]
  rfl

/-- A live pass whose attempts release every row is booked, and the next instruction follows. -/
theorem State.runPass_completes {x : PassRun} {k : Nat} (free : s.passFree n (s.passJob f n errs) = true) (clean : errs.ecc = [])
    (live : (passOf f.w).live = true) (run : (s.passJob f n errs).attempts (s.passResident n (passOf f.w)) (s.core n).replayMax 0
      (s.passRun n) = (x, k, none)) (sound : x.fault = none) :
    s.runPass f n errs = (x.s.passBooked f n (s.passJob f n errs) k x).advanceCore n := by
  unfold State.runPass
  extract_lets p c core j ctx resident
  have start : ((s.passCores n p).all fun m => (s.core m).mayPass (passReads ctx) (passWrites ctx)) = true := free
  have ran : j.attempts resident core.replayMax 0 ⟨(s.issue n).count (ctrCore n 0) 1, 0, {}, none⟩ = (x, k, none) := run
  have alive : p.live = true := live
  simp only [start, clean, State.sramErrors_nil, alive, ran, sound]
  rfl

/-! ## What a completed pass leaves -/

theorem State.passBooked_samePlace (j : PassJob) (k : Nat) (x : PassRun) : SamePlace n s (s.passBooked f n j k x) := by
  unfold State.passBooked
  extract_lets t
  have used : SamePlace n s t := (s.useArrays_samePlace n j.p).trans (State.countMacs_samePlace ..)
  exact used.trans ((State.book_onlyAcct ..).samePlace.trans (State.passFailures_samePlace ..))

theorem PassJob.onlyBytes_of_attempts {j : PassJob} {resident : Bool} {left att k : Nat} {x y : PassRun} {last : Option Nat}
    (run : j.attempts resident left att x = (y, k, last)) : OnlyBytes x.s y.s := by
  simpa only [run] using j.attempts_onlyBytes resident left att x

/-- A core that is still at its instruction goes on to the next one. -/
theorem State.advanceCore_of_samePlace {u : State} (h : SamePlace n s u) :
    ((u.advanceCore n).core n).pc = (s.core n).next ∧ ((u.advanceCore n).core n).next = (s.core n).next + 1
      ∧ (u.advanceCore n).mem = s.mem ∧ (u.advanceCore n).orb = s.orb ∧ (u.advanceCore n).boxes = s.boxes
      ∧ (u.advanceCore n).rings = s.rings ∧ (u.advanceCore n).queues = s.queues := by
  rw [State.advanceCore, State.modCore_core]
  exact ⟨h.next, congrArg (· + 1) h.next, h.mem, h.orb, h.boxes, h.rings, h.queues⟩

end

/-- Settles O17: the three ends of a pass, the last by what its attempts and its bookkeeping leave alone. -/
theorem passCompletes : Obligations.PassCompletes := by
  unfold Obligations.PassCompletes
  rintro s n errs f fetched clean _ _ j rfl rfl rfl
  have answers : exec (.pass n errs) s = .next (s.runPass f n errs) := by simp only [exec, execPass, fetched]
  rw [answers]
  refine ⟨fun blocked => ?waits, fun free idle => ?counts, fun x k free live run sound => ?completes⟩
  case waits => exact congrArg _ (State.runPass_waits (State.passFree_eq_false.2 blocked))
  case counts =>
    refine ⟨_, congrArg _ (State.runPass_counts (State.passFree_eq_true.2 free) clean idle), ?_, ?_, ?_, rfl, rfl, rfl⟩
    · rw [State.advanceCore, State.modCore_core, State.passRun_core_next]
    · rw [State.advanceCore, State.modCore_core, State.passRun_core_next]
    · intro m other
      rw [State.advanceCore, State.modCore_core_ne other, State.passRun, State.count_core_eq, State.issue,
        State.modCore_core_ne other]
  case completes =>
    have bytes : OnlyBytes (s.passRun n).s x.s := PassJob.onlyBytes_of_attempts run
    obtain ⟨pc, next, mem, orb, boxes, rings, queues⟩ :=
      State.advanceCore_of_samePlace (x.s.passBooked_samePlace (f := f) (n := n) (s.passJob f n errs) k x)
    have core : (x.s.core n).next = (s.core n).next := by rw [bytes.core_eq, State.passRun_core_next]
    refine ⟨_, congrArg _ (State.runPass_completes (State.passFree_eq_true.2 free) clean live run sound), mem, pc.trans core,
      next.trans (congrArg (· + 1) core), ?_, ?_, ?_, ?_⟩
    · rw [orb, bytes]; rfl
    · rw [boxes, bytes]; rfl
    · rw [rings, bytes]; rfl
    · rw [queues, bytes]; rfl

end Sys2Proof.Machine
end

section
/-! SUPPORT. XFER in its modes COPY, SEND, FORWARD and RELEASE (08 R237, R242), where it meets no SRAM error: the next state of
each. -/

namespace Sys2Proof.Machine

/-! ## What a COPY does beside its bytes -/

theorem State.keepForTile_samePlace (s : State) (n a len : Nat) : SamePlace n s (s.keepForTile n a len) := by
  unfold State.keepForTile
  split
  · exact SamePlace.refl n s
  · exact s.modCore_samePlace n _ fun _ => ⟨rfl, rfl⟩

theorem State.keepForTile_core_ne (s : State) {n m : Nat} (a len : Nat) (other : m ≠ n) :
    (s.keepForTile n a len).core m = s.core m := by
  unfold State.keepForTile
  split
  · rfl
  · exact State.modCore_core_ne other

@[simp] theorem State.keepForTile_env (s : State) (n a len d : Nat) : (s.keepForTile n a len).env d = s.env d := by
  unfold State.keepForTile
  split <;> rfl

@[simp] theorem State.wroteLines_env (s : State) (a len d : Nat) : (s.wroteLines a len).env d = s.env d := by
  unfold State.wroteLines
  split
  · rfl
  · exact State.each_env fun _ _ => rfl

@[simp] theorem State.advanceCore_env (s : State) (n d : Nat) : (s.advanceCore n).env d = s.env d := rfl

/-- The state after a COPY of core `n` has moved its bytes. -/
def State.xferCopied (s : State) (n d src dst len : Nat) : State :=
  (((s.advanceCore n).keepForTile n dst len).copy d src dst len).wroteLines dst len

/-- A COPY inserts the step of its own instruction into the postmark. -/
theorem State.xferCopied_stamped (s : State) (n d src dst len pm : Nat) :
    (s.xferCopied n d src dst len).stamped d pm = pm + (s.env d).step := by
  rw [State.stamped, State.xferCopied, State.wroteLines_env, State.copy_env, State.keepForTile_env, State.advanceCore_env]

theorem State.xferCopied_onlyBytes (s : State) (n d src dst len : Nat) :
    OnlyBytes ((s.advanceCore n).keepForTile n dst len) (s.xferCopied n d src dst len) :=
  (State.copy_onlyBytes ..).trans (State.wroteLines_onlyBytes ..)

theorem State.xferCopied_core_ne (s : State) {n m : Nat} (d src dst len : Nat) (other : m ≠ n) :
    (s.xferCopied n d src dst len).core m = s.core m := by
  rw [(s.xferCopied_onlyBytes n d src dst len).core_eq, State.keepForTile_core_ne _ _ _ other, State.advanceCore,
    State.modCore_core_ne other]

/-- A COPY moves its core on, and leaves orbit, boxes, rings and queues. -/
theorem State.xferCopied_frame (s : State) (n d src dst len : Nat) :
    ((s.xferCopied n d src dst len).core n).pc = (s.core n).next ∧ ((s.xferCopied n d src dst len).core n).next = (s.core n).next + 1
      ∧ (s.xferCopied n d src dst len).boxes = s.boxes ∧ (s.xferCopied n d src dst len).rings = s.rings
      ∧ (s.xferCopied n d src dst len).queues = s.queues ∧ (s.xferCopied n d src dst len).orb = s.orb := by
  have place := (s.advanceCore n).keepForTile_samePlace n dst len
  have core : (s.advanceCore n).core n = { s.core n with pc := (s.core n).next, next := (s.core n).next + 1 } := by
    rw [State.advanceCore, State.modCore_core]
  have bytes := s.xferCopied_onlyBytes n d src dst len
  refine ⟨?_, ?_, ?_, ?_, ?_, ?_⟩
  · rw [bytes.core_eq, place.pc, core]
  · rw [bytes.core_eq, place.next, core]
  · rw [bytes]; exact place.boxes
  · rw [bytes]; exact place.rings
  · rw [bytes]; exact place.queues
  · rw [bytes]; exact place.orb

/-- The item of a COPY with ENQ (R237). -/
def State.enqItem (s : State) (f : Fetched) (dst : Nat) : SItem :=
  { addr := dst, len := xferLen f.w, ringed := false, ring := 0, unit := 0, lcnt := 0
    postmark := fld f.w 24 0 64 + (s.env f.d).step, src := 0, queue := xferTarget f.w % 256, useMb := true, host := false, handle := 0 }

/-! ## COPY -/

section
variable {s : State} {n : Fin 512} {f : Fetched} {src : Nat}

theorem exec_xferCopy_waits (fetched : s.fetchXfer n 0 = some f)
    (blocked : (s.core n).mayStart (xferSlots n f.w) [(s.tileAddr n (fld f.w 16 0 48), xferLen f.w)] = false) :
    exec (.xferCopy n []) s = .next (s.waitIssue n) := by
  simp [exec, execXferCopy, fetched, State.xferCopy, blocked]

/-- A COPY without ENQ that may start moves its bytes. -/
theorem exec_xferCopy_moves {dst : Nat} (fetched : s.fetchXfer n 0 = some f) (place : dst = s.tileAddr n (fld f.w 16 0 48))
    (source : s.xferSource n f.w = some src)
    (free : (s.core n).mayStart ((src, xferLen f.w) :: xferSlots n f.w) [(dst, xferLen f.w)] = true) (noEnq : xferEnq f.w = false) :
    exec (.xferCopy n []) s = .next (s.xferCopied n f.d src dst (xferLen f.w)) := by
  have slotFree := Core.mayStart_of_subset (List.subset_cons_self ..) free
  subst place
  simp [exec, execXferCopy, fetched, State.xferCopy, slotFree, source, free, noEnq, State.xferCopied]

/-- With ENQ it is then outstanding, until its item is in its stage queue. -/
theorem exec_xferCopy_enqueues {dst : Nat} (fetched : s.fetchXfer n 0 = some f) (place : dst = s.tileAddr n (fld f.w 16 0 48))
    (source : s.xferSource n f.w = some src)
    (free : (s.core n).mayStart ((src, xferLen f.w) :: xferSlots n f.w) [(dst, xferLen f.w)] = true) (enq : xferEnq f.w = true) :
    exec (.xferCopy n []) s = .next (((s.xferCopied n f.d src dst (xferLen f.w)).modCore n fun c => { c with outs := c.outs ++
      [⟨(s.core n).next, .enqueue (s.enqItem f dst), [(src, xferLen f.w)], [(dst, xferLen f.w)]⟩] }).enqueue f.d
        (xferTarget f.w % 256) (s.enqItem f dst) (some (.core n))) := by
  have slotFree := Core.mayStart_of_subset (List.subset_cons_self ..) free
  have postmark := s.xferCopied_stamped n f.d src dst (xferLen f.w) (fld f.w 24 0 64)
  subst place
  rw [State.xferCopied] at postmark ⊢
  simp [exec, execXferCopy, fetched, State.xferCopy, slotFree, source, free, enq, postmark, State.enqItem]

/-! ## SEND, FORWARD and RELEASE -/

/-- A message given to a TX ring of the image is outstanding. -/
theorem State.coreMessage_gives {d r pm len lcnt addr e : Nat} {srcs : List (Nat × Nat)}
    (ring : (s.active d).bind (·.ringEntry r) = some e) :
    (s.issue n).coreMessage d n r pm len lcnt addr srcs = (s.modCore n fun c => { c with pc := c.next, next := c.next + 1, outs :=
      c.outs ++ [⟨(s.core n).next, .send r (s.ring r).serial, srcs, []⟩] }).giveMessage d r e (.core n) pm len lcnt [] addr false := by
  simp only [State.coreMessage, State.issue_active, ring, State.issue_advanceCore, State.advanceCore_modCore, State.issue_core_next]
  rfl

theorem exec_xferSend_gives {e : Nat} (fetched : s.fetchXfer n 1 = some f) (source : s.xferSource n f.w = some src)
    (free : (s.core n).mayStart ((src, xferLen f.w) :: xferSlots n f.w) [] = true)
    (ring : (s.active f.d).bind (·.ringEntry (xferTarget f.w)) = some e) :
    exec (.xferSend n []) s = .next ((s.modCore n fun c => { c with pc := c.next, next := c.next + 1, outs := c.outs ++
      [⟨(s.core n).next, .send (xferTarget f.w) (s.ring (xferTarget f.w)).serial, (src, xferLen f.w) :: xferSlots n f.w, []⟩] }).giveMessage
        f.d (xferTarget f.w) e (.core n) (fld f.w 24 0 64 + (s.env f.d).step) (xferLen f.w) (fld f.w 16 0 16) [] src false) := by
  have slotFree := Core.mayStart_of_subset (List.subset_cons_self ..) free
  simp [exec, execXferSend, fetched, slotFree, source, free, State.stamped, State.coreMessage_gives ring]

theorem exec_xferForward_gives {x : SItem} {e : Nat} (fetched : s.fetchXfer n 2 = some f)
    (item : s.heldItem n (xferSlot f.w) = some x)
    (free : (s.core n).mayStart [(sramAddr n (xferSlot f.w), 32), (x.addr, x.len)] [] = true)
    (ring : (s.active f.d).bind (·.ringEntry (xferTarget f.w)) = some e) :
    exec (.xferForward ⟨n, []⟩) s = .next ((s.modCore n fun c => { c with pc := c.next, next := c.next + 1, outs := c.outs ++
      [⟨(s.core n).next, .send (xferTarget f.w) (s.ring (xferTarget f.w)).serial,
        [(sramAddr n (xferSlot f.w), 32), (x.addr, x.len)], []⟩] }).giveMessage
        f.d (xferTarget f.w) e (.core n) x.postmark x.len x.lcnt [] x.addr false) := by
  have slotOnly : [(sramAddr n (xferSlot f.w), 32)] ⊆ [(sramAddr n (xferSlot f.w), 32), (x.addr, x.len)] :=
    List.cons_subset_cons _ (List.nil_subset _)
  have slotFree := Core.mayStart_of_subset slotOnly free
  simp [exec, execXferForward, fetched, slotFree, item, free, State.coreMessage_gives ring]

theorem exec_xferRelease_drops {x : SItem} (fetched : s.fetchXfer n 4 = some f)
    (free : (s.core n).mayStart [(sramAddr n (xferSlot f.w), 32)] [] = true) (item : s.heldItem n (xferSlot f.w) = some x)
    (unringed : x.ringed = false) :
    exec (.xferRelease ⟨n, []⟩) s = .next (s.modCore n fun c =>
      { c with pc := c.next, next := c.next + 1, held := c.held.filter fun y => decide (y ≠ x) }) := by
  simp [exec, execXferRelease, fetched, free, item, State.advanceCore_modCore, State.releaseItem, unringed]

end

/-- Settles O20: each clause is the equation of one mode; a COPY's frame is that of its bytes. -/
theorem xferCompletes : Obligations.XferCompletes := by
  unfold Obligations.XferCompletes
  intro s n
  refine ⟨?copy, fun _ _ _ => exec_xferSend_gives, fun _ _ _ => exec_xferForward_gives, fun _ _ => exec_xferRelease_drops,
    fun _ => exec_xferCopy_waits⟩
  case copy =>
    rintro f src dst _ fetched place source free rfl
    refine ⟨fun noEnq => ?_, exec_xferCopy_enqueues fetched place source free⟩
    obtain ⟨pc, next, boxes, rings, queues, orb⟩ := s.xferCopied_frame n f.d src dst (xferLen f.w)
    exact ⟨_, exec_xferCopy_moves fetched place source free noEnq, pc, next,
      fun _ => s.xferCopied_core_ne f.d src dst (xferLen f.w), State.wroteLines_mem, boxes, rings, queues, orb⟩

end Sys2Proof.Machine
end

section
/-! SUPPORT. Training descriptors that pass their checks and meet no error (06 R178 to R188): what UPDATE, PACK and UNPACK write,
and what goes with the writes. -/

namespace Sys2Proof.Machine

/-! ## The state in which a descriptor runs, and what follows its writes -/

/-- The state in which a descriptor of core `n` reads and writes: its TRAIN is issued and counted. -/
def State.descrStart (s : State) (n : Nat) : State := (s.issue n).count (ctrCore n 9) 1

/-- What UPDATE and PACK do after their writes `x`: conversions, elements (in counter `i`), lines and groups are counted. -/
def State.descrBooked (x : State × Acct) (d n pc i elems groups : Nat) (e : Descr) : State :=
  ((((x.1.bookTraining d n pc x.2).count (ctrCore n i) elems).each e.dsts fun r t => t.wroteLines r.1 r.2).groupErrors
    d n pc ⟨[], []⟩ groups).1

/-- The same for UNPACK, which converts nothing. -/
def State.sumBooked (x : State) (d n pc elems groups : Nat) (e : Descr) (bytes : Nat) : State :=
  (((x.count (ctrCore n 12) elems).wroteLines (e.addr 3) bytes).groupErrors d n pc ⟨[], []⟩ groups).1

/-- The blocks that a PACK packs, in ascending order (R184). -/
def packRun (s : State) (env : Env) (e : Descr) (blocks : Nat) : State × Acct :=
  (List.range blocks).foldl (fun (x : State × Acct) b => ((packBlock x.1 env e b).1, x.2.add (packBlock x.1 env e b).2)) (s, {})

section
variable {s : State} {n : Nat} {f : Fetched} {e : Descr}

theorem State.descrStart_eq :
    s.descrStart n = (s.modCore n fun c => { c with pc := c.next }).count (ctrCore n 9) 1 := rfl

theorem State.descrStart_core : (s.descrStart n).core n = { s.core n with pc := (s.core n).next } := by
  rw [State.descrStart_eq, State.count_core_eq, State.modCore_core]

@[simp] theorem State.count_env (i k d : Nat) : (s.count i k).env d = s.env d := rfl

theorem State.groupErrors_completes (t : State) (d n pc groups : Nat) : (t.groupErrors d n pc ⟨[], []⟩ groups).2 = true := by
  obtain ⟨u, answer, -⟩ := t.groupErrors_none d n pc groups
  rw [answer]

theorem State.groupErrors_samePlace (t : State) (d n pc groups m : Nat) :
    SamePlace m t (t.groupErrors d n pc ⟨[], []⟩ groups).1 := by
  obtain ⟨u, answer, same⟩ := t.groupErrors_none d n pc groups
  rw [answer]
  exact same m

theorem State.descrBooked_samePlace (x : State × Acct) (d pc i elems groups : Nat) :
    SamePlace n x.1 (State.descrBooked x d n pc i elems groups e) := by
  have booked : SamePlace n x.1 (x.1.bookTraining d n pc x.2) := (State.book_onlyAcct ..).samePlace
  have lines := SamePlace.each (l := e.dsts) (booked.trans (State.count_samePlace _ (ctrCore n i) elems))
    fun r u => u.wroteLines_samePlace r.1 r.2
  exact lines.trans (State.groupErrors_samePlace ..)

theorem State.sumBooked_samePlace (x : State) (d pc elems groups bytes : Nat) :
    SamePlace n x (x.sumBooked d n pc elems groups e bytes) :=
  (x.count_samePlace ..).trans ((State.wroteLines_samePlace ..).trans (State.groupErrors_samePlace ..))

theorem packRun_onlyBytes (env : Env) (blocks : Nat) : OnlyBytes s (packRun s env e blocks).1 :=
  OnlyBytes.foldl Prod.fst (OnlyBytes.refl s) fun _ _ => packBlock_onlyBytes ..

/-! ## The three descriptors -/

/-- A descriptor that is free of hazards and passes its checks runs. -/
theorem State.startDescr_runs {op : Nat → Bool} {k : State → Fetched → Descr → State} (fetched : s.fetchXfer n 3 = some f)
    (descr : e = s.num (sramAddr n (xferSlot f.w)) 128) (readable : (s.core n).mayStart [(sramAddr n (xferSlot f.w), 128)] [] = true)
    (free : (s.core n).mayStart ((sramAddr n (xferSlot f.w), 128) :: e.srcs n) e.dsts = true)
    (passes : descrCause s f.d n (s.corePhase f.d) e = none) (runs : op e.op = true) :
    s.startDescr n ⟨[], []⟩ op k = k (s.issue n) f e := by
  simp only [State.startDescr, fetched, ← descr, readable, free, passes, runs, State.sramErrors_nil, Bool.not_true,
    Bool.false_eq_true, if_false, if_true]

/-- A descriptor of no elements only counts. -/
theorem State.runUpdate_counts (empty : e.count = 0) :
    (s.issue n).runUpdate f n ⟨[], []⟩ e = (s.descrStart n).advanceCore n := by
  simp only [State.runUpdate, if_pos empty, State.descrStart]

/-- An UPDATE whose schedule has not ended updates every element. -/
theorem State.runUpdate_updates (nonempty : e.count ≠ 0) (scheduled : (schedEntry e (s.env f.d).step).2 = false) :
    (s.issue n).runUpdate f n ⟨[], []⟩ e
      = (State.descrBooked (updateRun (s.descrStart n) (s.env f.d) n e 0 e.count) f.d n (s.core n).next 10 e.count
          (ceilDiv e.count 64) e).advanceCore n := by
  have whole : min e.count (ceilDiv e.count 64 * 64) = e.count := by
    unfold ceilDiv
    omega
  simp [State.runUpdate, if_neg nonempty, scheduled, doneGroups_none, whole, State.groupErrors_completes, State.descrBooked,
    State.descrStart]

/-- A PACK packs every block. -/
theorem State.runPack_packs :
    (s.issue n).runPack f n ⟨[], []⟩ e
      = (State.descrBooked (packRun (s.descrStart n) (s.env f.d) e (e.count / 64 / 4)) f.d n (s.core n).next 11
          (256 * (e.count / 64 / 4)) (e.count / 64) e).advanceCore n := by
  simp [State.runPack, doneGroups_none, State.groupErrors_completes, State.descrBooked, State.descrStart, packRun]

/-- An UNPACK of no elements only counts. -/
theorem State.runUnpack_counts (empty : e.count = 0) :
    (s.issue n).runUnpack f n ⟨[], []⟩ e = (s.descrStart n).advanceCore n := by
  simp [State.runUnpack, empty, State.descrStart]

/-- An UNPACK whose records have not all come is outstanding (log entry 44). -/
theorem State.runUnpack_waits (nonempty : e.count ≠ 0) (live : (s.district f.d).flt.rollAt = none)
    (absent : (s.descrStart n).grxAll f.d n e = none) :
    (s.issue n).runUnpack f n ⟨[], []⟩ e = ((s.descrStart n).advanceCore n).modCore n fun c =>
      { c with outs := c.outs ++ [⟨(s.core n).next, .unpack e, e.srcs n, e.dsts⟩] } := by
  have running : ((s.issue n).district f.d).flt.rollAt = none := live
  unfold State.descrStart at absent ⊢
  simp [State.runUnpack, nonempty, running, absent]

/-- Where no message of another replica is named, every record is the module's own. -/
theorem exists_replicate_none {is : List (Option SItem)} (own : is.filterMap id = []) : ∃ k, is = List.replicate k none :=
  ⟨is.length, List.eq_replicate_iff.2 ⟨rfl, List.filterMap_eq_nil_iff.1 own⟩⟩

/-- An UNPACK of the module's own record sums every block and consumes no message (R187). -/
theorem State.sumRecords_sums {u : State} {d pc : Nat} {is : List (Option SItem)} (own : is.filterMap id = [])
    (sound : grxCause u e is = none) :
    u.sumRecords d n pc ⟨[], []⟩ e is
      = (State.sumBooked (u.each (List.range (e.count / 64 / 4)) fun b t => unpackBlock t (u.env d) e (is.map fun _ => e.addr 1) b)
          d n pc (256 * (e.count / 64 / 4) * is.length) (e.count / 64) e (4 * 256 * (e.count / 64 / 4)), true) := by
  obtain ⟨k, rfl⟩ := exists_replicate_none own
  simp [State.sumRecords, sound, doneGroups_none, State.groupErrors_completes, State.each, State.sumBooked]

theorem State.runUnpack_sums {is : List (Option SItem)} (nonempty : e.count ≠ 0) (live : (s.district f.d).flt.rollAt = none)
    (come : (s.descrStart n).grxAll f.d n e = some is) (own : is.filterMap id = []) (sound : grxCause (s.descrStart n) e is = none) :
    (s.issue n).runUnpack f n ⟨[], []⟩ e
      = (State.sumBooked ((s.descrStart n).each (List.range (e.count / 64 / 4)) fun b t =>
            unpackBlock t (s.env f.d) e (is.map fun _ => e.addr 1) b)
          f.d n (s.core n).next (256 * (e.count / 64 / 4) * is.length) (e.count / 64) e
          (4 * 256 * (e.count / 64 / 4))).advanceCore n := by
  have running : ((s.issue n).district f.d).flt.rollAt = none := live
  have sums := State.sumRecords_sums (n := n) (d := f.d) (pc := (s.core n).next) own sound
  unfold State.descrStart at come sums ⊢
  simp [State.runUnpack, nonempty, running, come, sums]

end

/-- Settles O23: each clause is the equation of one descriptor; its frame is that of bytes and of counts. -/
theorem trainingCompletes : Obligations.TrainingCompletes := by
  unfold Obligations.TrainingCompletes
  intro s n f e fetched descr readable free passes u start
  obtain rfl : u = s.descrStart n := start
  have counted := State.advance_of_descr State.descrStart_eq (OnlyBytes.refl (s.descrStart n)) (SamePlace.refl n _)
  refine ⟨fun op ready => ?update, fun op => ?pack, fun op district on unfenced noneReady => ?unpack⟩
  case update =>
    have runs : exec (.trainUpdate n ⟨[], []⟩) s = .next ((s.issue n).runUpdate f n ⟨[], []⟩ e) :=
      congrArg _ (State.startDescr_runs fetched descr readable free passes (by rw [op]; rfl))
    rw [runs]
    by_cases empty : e.count = 0
    · rw [State.runUpdate_counts empty, if_pos empty]
      exact ⟨_, rfl, counted⟩
    · rw [State.runUpdate_updates empty (ready.resolve_left empty), if_neg empty]
      exact ⟨_, rfl, State.advance_of_descr State.descrStart_eq (updateRun_onlyBytes ..) (State.descrBooked_samePlace ..)⟩
  case pack =>
    have runs : exec (.trainPack n ⟨[], []⟩) s = .next ((s.issue n).runPack f n ⟨[], []⟩ e) :=
      congrArg _ (State.startDescr_runs fetched descr readable free passes (by rw [op]; rfl))
    rw [runs, State.runPack_packs]
    exact ⟨_, rfl, State.advance_of_descr State.descrStart_eq (packRun_onlyBytes ..) (State.descrBooked_samePlace ..)⟩
  case unpack =>
    have runs : exec (.trainUnpack n ⟨[], []⟩) s = .next ((s.issue n).runUnpack f n ⟨[], []⟩ e) := by
      simp only [exec, execTrainUnpack, district, on, unfenced, noneReady, Bool.or_self, Bool.false_eq_true, if_false]
      exact congrArg _ (State.startDescr_runs fetched descr readable free passes (by rw [op]; rfl))
    rw [runs]
    refine ⟨fun empty => ?_, fun nonempty live absent => ?_, fun is nonempty live come own sound => ?_⟩
    · rw [State.runUnpack_counts empty]
      obtain ⟨pc, next, mem, -⟩ := counted
      exact ⟨_, rfl, pc, next, mem⟩
    · rw [State.runUnpack_waits nonempty live absent]
      refine ⟨_, rfl, ?_, ?_, rfl⟩ <;> simp [State.advanceCore, State.descrStart_core]
    · rw [State.runUnpack_sums nonempty live come own sound]
      exact ⟨_, rfl, State.advance_of_descr State.descrStart_eq (OnlyBytes.each (OnlyBytes.refl _) fun _ _ => unpackBlock_onlyBytes ..)
        (State.sumBooked_samePlace ..)⟩

end Sys2Proof.Machine
end

section
/-! SUPPORT. Writes of PBX_FLUSH and DLR_TAIL (07 R210, R212): what a write that reaches its register leaves. -/

namespace Sys2Proof.Machine

/-- A write that its register takes whoever it comes from leaves what the register leaves, and its completion. -/
theorem State.regWrite_done {s t : State} {r : Requester} {d : Nat} {b : Block} {o off v : Nat} (reaches : s.reaches r d b o)
    (block : blockOf off = some (b, o)) (aligned : off % 8 = 0) (put : ∀ m, s.regPut m d b o v = (.done, t)) :
    s.regWrite r off v = t.emit (written r off) := by
  obtain ⟨m, -, wrote⟩ := State.regWrite_of_reaches (v := v) reaches block aligned
  rw [wrote, put, written]

/-! ## PBX_FLUSH -/

/-- A flush of one box: its queued items go from the next message boundary on, and so do its rounds. -/
theorem State.flushBox_box (s : State) (b : Nat) (whole : Bool) :
    (s.flushBox b whole).box b = { s.box b with
      items := if whole then [] else (s.box b).items.takeWhile fun i => i.index != 0
      high := (if whole then [] else (s.box b).items.takeWhile fun i => i.index != 0).length
      cur := [], next := [], accCur := [], accNext := [], results := [], rounds := 0 } := by
  rw [State.flushBox, State.count_box_eq, State.modBox_box]

theorem State.flushBox_box_ne (s : State) {b k : Nat} (whole : Bool) (other : k ≠ b) : (s.flushBox b whole).box k = s.box k := by
  rw [State.flushBox, State.count_box_eq, State.modBox_box_ne other]

section
variable {s : State} {m : Bool} {d : Nat}

/-- A district's flush of a box that its image declares flushes it. -/
theorem State.pbxFlush_box {box e : Nat} (small : box < 4096) (own : s.boxOwner box = some (d, e)) (unfenced : s.fenced d = false) :
    s.pbxFlush m d (bits box 0 12) = (.done, s.flushBox box false) := by
  have word : bits box 0 12 = box := Nat.mod_eq_of_lt small
  have one : bit box 16 = false := by
    rw [bit_eq_testBit]
    exact Nat.testBit_lt_two_pow (Nat.lt_of_lt_of_le small (by decide))
  simp [State.pbxFlush, word, one, own, unfenced]

/-- A flush with ALL flushes every box of the district. -/
theorem State.pbxFlush_all (unfenced : s.fenced d = false) :
    s.pbxFlush m d 0x10000 = (.done, s.each (s.boxesOf d) fun x t => t.flushBox x.1 false) := by
  have all : bit 0x10000 16 = true := by decide
  rw [State.pbxFlush, if_pos all, unfenced]
  rfl

/-! ## DLR_TAIL -/

/-- A tail that leaves no more records than the ring holds is taken. -/
theorem State.dlrTail_moves {n v : Nat} (fits : gap 27 (s.district n).pbx.dlrHead (bits v 0 27) ≤ (s.district n).pbx.records) :
    s.dlrTail n v = (.done, s.modPbx n fun p => { p with dlrTail := bits v 0 27 }) :=
  if_neg (Nat.not_lt.2 fits)

theorem State.regPut_dlrTail (n : Fin 4) (v : Nat) : s.regPut m d .pbx (0x118 + 0x40 * n.val) v = s.dlrTail n v := by
  have above : ¬ 0x118 + 0x40 * n.val = 0x008 := by omega
  have within : 0x100 ≤ 0x118 + 0x40 * n.val ∧ 0x118 + 0x40 * n.val < 0x200 := by omega
  have district : (0x118 + 0x40 * n.val - 0x100) / 0x40 = n.val := by omega
  have register : (0x118 + 0x40 * n.val - 0x100) % 0x40 = 0x18 := by omega
  simp [State.regPut, State.pbxWrite, above, within, district, register]

theorem blockOf_dlrTail (n : Fin 4) : blockOf (0x700118 + 0x40 * n.val) = some (.pbx, 0x118 + 0x40 * n.val) := by
  have block : (0x700118 + 0x40 * n.val) / 0x100000 = 7 := by omega
  have offset : (0x700118 + 0x40 * n.val) % 0x100000 = 0x118 + 0x40 * n.val := by omega
  simp [blockOf, block, offset]

end

/-- Settles O7: each register takes the write, and the box of a flush is as `flushBox` leaves it. -/
theorem postboxWrites : Obligations.PostboxWrites := by
  unfold Obligations.PostboxWrites
  intro s r d v
  refine ⟨?box, ?all, ?tail⟩
  case box =>
    rintro box d e reaches small own rfl unfenced
    have wrote : s.regWrite r 0x700008 (bits box 0 12) = _ :=
      State.regWrite_done reaches rfl rfl fun _ => State.regPut_flush.trans (State.pbxFlush_box small own unfenced)
    have flushed := s.flushBox_box box false
    exact ⟨_, congrArg Host.Outcome.next wrote, congrArg Box.items flushed, congrArg Box.results flushed, congrArg Box.cur flushed,
      congrArg Box.rounds flushed, fun _ => s.flushBox_box_ne false, rfl, rfl⟩
  case all =>
    intro reaches unfenced
    have wrote : s.regWrite r 0x700008 0x10000 = _ :=
      State.regWrite_done reaches rfl rfl fun _ => State.regPut_flush.trans (State.pbxFlush_all unfenced)
    exact congrArg _ wrote
  case tail =>
    intro n reaches fits
    have aligned : (0x700118 + 0x40 * n.val) % 8 = 0 := by omega
    exact congrArg _ (State.regWrite_done reaches (blockOf_dlrTail n) aligned fun _ =>
      (State.regPut_dlrTail n _).trans (State.dlrTail_moves fits))

end Sys2Proof.Machine
end

section
/-! SUPPORT. SEND to a postbox, at once and after a wait, and the link of its message (07 R197, R200, R203). -/

namespace Sys2Proof.Machine

/-! ## The pool's high-water mark -/

@[simp] theorem State.noteCells_core (s : State) (d n : Nat) : (s.noteCells d).core n = s.core n := rfl

@[simp] theorem State.noteCells_box (s : State) (d b : Nat) : (s.noteCells d).box b = s.box b := rfl

/-! ## Claims -/

section
variable {s : State} {d n w e : Nat}

/-- A SEND of no items has nothing left to do. -/
theorem State.sendGo_empty (noItems : fld w 4 0 11 = 0) : s.sendGo d n w = s := by
  unfold State.sendGo
  extract_lets b
  cases (s.active d).bind (·.boxEntry b) with
  | none => rfl
  | some e => exact if_pos noItems

/-- A SEND to a live postbox with room claims its cells, where an update `g` has first moved its core on. -/
theorem State.sendGo_claims {g : Core → Core} (keeps : ∀ c, (g c).unlinked = c.unlinked)
    (entry : (s.active d).bind (·.boxEntry (fld w 2 0 12)) = some e) (items : fld w 4 0 11 ≠ 0) (postbox : beCollection e = false)
    (live : (s.box (fld w 2 0 12)).state ≠ 2) (room : s.boxRoom d (fld w 2 0 12) (fld w 4 0 11) = true) :
    ((s.modCore n g).sendGo d n w).core n
        = { g (s.core n) with unlinked := (s.core n).unlinked ++ [(fld w 2 0 12, sendItems s n w)] }
      ∧ (∀ m, m ≠ n → ((s.modCore n g).sendGo d n w).core m = s.core m)
      ∧ ((s.modCore n g).sendGo d n w).boxes = s.boxes ∧ ((s.modCore n g).sendGo d n w).mem = s.mem := by
  have entered : ((s.modCore n g).active d).bind (·.boxEntry (fld w 2 0 12)) = some e := entry
  have space := (s.boxRoom_modCore n g keeps d (fld w 2 0 12) (fld w 4 0 11)).trans room
  have goes : (s.modCore n g).sendGo d n w
      = ((s.modCore n g).modCore n fun c => { c with unlinked := c.unlinked ++ [(fld w 2 0 12, sendItems s n w)] }).noteCells d := by
    simp only [State.sendGo, entered, if_neg items, postbox, State.modCore_box_eq, if_neg live, space, Bool.false_eq_true, if_false,
      if_true]
    rfl
  rw [goes]
  refine ⟨?_, fun m other => ?_, rfl, rfl⟩
  · rw [State.noteCells_core, State.modCore_core, State.modCore_core, keeps]
  · rw [State.noteCells_core, State.modCore_core_ne other, State.modCore_core_ne other]

end

section
variable {s : State} {n : Fin 512}

/-- A SEND whose source no outstanding instruction has yet to write advances its core and goes ahead. -/
theorem exec_send_goes {f : Fetched} (fetched : s.fetchOp n 2 = some f) (free : (s.core n).maySend (sendRanges n f.w) = true) :
    exec (.send n []) s = .next ((s.advanceCore n).sendGo f.d n f.w) := by
  simp [exec, execSend, fetched, free]

/-- A SEND that waited goes ahead. -/
theorem exec_sendClaim_goes {d w : Nat} (district : s.coreDistrict n = some d) (running : s.halted = false) (unfenced : s.fenced d = false)
    (waits : (s.core n).sendWait = some w) :
    exec (.sendClaim n) s = .next ((s.modCore n fun c => { c with sendWait := none }).sendGo d n w) := by
  simp [exec, execSendClaim, district, running, unfenced, waits]

/-- A core's first claimed message is linked. -/
theorem exec_messageLink_links {d b : Nat} {xs : List BoxItem} {rest : List (Nat × List BoxItem)} (district : s.coreDistrict n = some d)
    (running : s.halted = false) (unfenced : s.fenced d = false) (first : (s.core n).unlinked = (b, xs) :: rest) :
    exec (.messageLink n) s = .next ((s.modCore n fun c => { c with unlinked := rest }).linkItems d b xs) := by
  simp [exec, execMessageLink, district, running, unfenced, first]

end

/-! ## Links -/

/-- Items linked into a live postbox that no READ waits for stand behind the others; other boxes, the cores and the memory stay. -/
theorem State.linkItems_appends {s : State} {d b e : Nat} {xs : List BoxItem} (live : (s.box b).state ≠ 2)
    (entry : (s.active d).bind (·.boxEntry b) = some e) (idle : (s.core (beReader e)).outs = []) :
    ((s.linkItems d b xs).box b).items = (s.box b).items ++ xs ∧ (∀ k, k ≠ b → (s.linkItems d b xs).box k = s.box k)
      ∧ (s.linkItems d b xs).cores = s.cores ∧ (s.linkItems d b xs).mem = s.mem := by
  rw [State.linkItems_live live entry idle]
  refine ⟨?_, fun k other => ?_, rfl, rfl⟩
  · rw [State.noteCells_box, State.count_box_eq, State.count_box_eq, State.modBox_box]
  · rw [State.noteCells_box, State.count_box_eq, State.count_box_eq, State.modBox_box_ne other]

theorem State.core_of_cores {s t : State} {m : Nat} (same : t.cores = s.cores) : t.core m = s.core m := by
  rw [State.core, same, State.core]

/-- A change of a core's list of messages leaves what its instructions wait for. -/
theorem State.modCore_outs {s : State} {n : Nat} {f : Core → Core} (keeps : ∀ c, (f c).outs = c.outs) (m : Nat) :
    ((s.modCore n f).core m).outs = (s.core m).outs := by
  by_cases same : m = n
  · rw [same, State.modCore_core, keeps]
  · rw [State.modCore_core_ne same]

/-- Settles O18: the claim is made where the core stands, advanced or done waiting, and the first message is linked. -/
theorem sendClaimsAndLinks : Obligations.SendClaimsAndLinks := by
  unfold Obligations.SendClaimsAndLinks
  intro s n
  refine ⟨fun f fetched free e entry => ⟨fun noItems => ?empty, fun items postbox live room => ?claims⟩, ?waited, ?link⟩
  case empty =>
    rw [exec_send_goes fetched free, State.sendGo_empty noItems, State.advanceCore]
  case claims =>
    obtain ⟨core, others, boxes, mem⟩ := State.sendGo_claims (s := s) (n := n)
      (g := fun c => { c with pc := c.next, next := c.next + 1 }) (fun _ => rfl) entry items postbox live room
    exact ⟨_, exec_send_goes fetched free, congrArg Core.pc core, congrArg Core.next core, congrArg Core.unlinked core, others, boxes,
      mem⟩
  case waited =>
    intro d w e district running unfenced waits items entry postbox live room
    obtain ⟨core, others, boxes, mem⟩ := State.sendGo_claims (s := s) (n := n) (g := fun c => { c with sendWait := none })
      (fun _ => rfl) entry items postbox live room
    exact ⟨_, exec_sendClaim_goes district running unfenced waits, congrArg Core.sendWait core, congrArg Core.unlinked core, others,
      boxes, mem⟩
  case link =>
    intro d b xs rest e district running unfenced first live entry idle
    have still := (s.modCore_outs (n := n) (f := fun c => { c with unlinked := rest }) (fun _ => rfl) (beReader e)).trans idle
    obtain ⟨items, others, cores, mem⟩ := State.linkItems_appends (s := s.modCore n fun c => { c with unlinked := rest }) (xs := xs)
      live entry still
    have core : ∀ m, ((s.modCore n fun c => { c with unlinked := rest }).linkItems d b xs).core m
        = (s.modCore n fun c => { c with unlinked := rest }).core m := fun _ => State.core_of_cores cores
    refine ⟨_, exec_messageLink_links district running unfenced first, ?_, items, fun m other => ?_, others, mem⟩
    · rw [core, State.modCore_core]
    · rw [core, State.modCore_core_ne other]

end Sys2Proof.Machine
end

section
/-! SUPPORT. READ of a live postbox, the death of a postbox, and the delivery of a collection box's round (07 R198, R202, R207,
R214). -/

namespace Sys2Proof.Machine

/-! ## READ -/

/-- Bytes of an item slot of the READ `w` (R199). -/
def readSize (w : Nat) : Nat := if fld w 1 1 1 == 1 then 64 else 32

/-- The READ `w`, neither FINAL nor empty, as core `n` keeps it outstanding. -/
def State.readOut (s : State) (n w : Nat) : Outst :=
  ⟨(s.core n).next, .read (fld w 2 0 12) (fld w 8 0 20) (fld w 4 0 13) (fld w 1 1 1 == 1) false, [],
    [(sramAddr n (fld w 8 0 20), fld w 4 0 13 * readSize w)]⟩

/-- The state in which the READ `w` is the one outstanding instruction of core `n`, and has taken nothing yet. -/
def State.readIssued (s : State) (n w : Nat) : State :=
  s.modCore n fun c => { c with pc := c.next, next := c.next + 1, outs := [s.readOut n w] }

/-- The state in which the READ `w` has taken its items from their postbox. -/
def State.readStart (s : State) (n w : Nat) : State :=
  (s.readIssued n w).modBox (fld w 2 0 12) fun x => { x with items := x.items.drop (fld w 4 0 13) }

/-- The state in which they are also stored, each in its slot. -/
def State.readTaken (s : State) (n w : Nat) : State :=
  (s.readStart n w).each ((s.box (fld w 2 0 12)).items.take (fld w 4 0 13)).zipIdx fun x t =>
    t.store (sramAddr n (fld w 8 0 20) + x.2 * readSize w) (readSlot x.1 (fld w 1 1 1 == 1))

/-- The state after the READ `w` has completed. -/
def State.readDone (s : State) (n w : Nat) : State :=
  (s.readTaken n w).modCore n fun c => c.complete fun y => decide (y = s.readOut n w)

/-- A core with nothing outstanding may start any READ. -/
theorem Core.mayStart_of_outs_nil {c : Core} (idle : c.outs = []) (notFull : c.outsFull = false) (srcs dsts : List (Nat × Nat)) :
    c.mayStart srcs dsts = true := by
  simp [Core.mayStart, Core.outSrcs, Core.outDsts, anyOverlap, idle, notFull]

section
variable {s : State} {n : Fin 512} {f : Fetched}

section
variable (fetched : s.fetchOp n 3 = some f) (live : (s.box (fld f.w 2 0 12)).state ≠ 2) (idle : (s.core n).outs = [])
  (notFull : (s.core n).outsFull = false) (notFinal : fld f.w 1 0 1 = 0)
include fetched live idle notFull notFinal

/-- A READ of no items completes. -/
theorem exec_read_advances (noItems : fld f.w 4 0 13 = 0) : exec (.read n) s = .next (s.advanceCore n) := by
  simp [exec, execRead, fetched, live, Core.mayStart_of_outs_nil idle notFull, notFinal, noItems, State.finalRead]

/-- Any other READ becomes outstanding, and takes what its postbox holds. -/
theorem exec_read_feeds (items : fld f.w 4 0 13 ≠ 0) :
    exec (.read n) s = .next ((s.readIssued n f.w).feedReads f.d (fld f.w 2 0 12)) := by
  have issued : s.readIssued n f.w = (s.advanceCore n).modCore n fun c => { c with outs := c.outs ++ [s.readOut n f.w] } := by
    rw [State.advanceCore_modCore]
    exact State.modCore_congr (by rw [idle, List.nil_append])
  rw [issued]
  simp [exec, execRead, fetched, live, Core.mayStart_of_outs_nil idle notFull, notFinal, items, State.readOut, readSize]

end

/-- A postbox that holds enough completes the READ. -/
theorem State.feedReads_readDone {w d e : Nat} (items : fld w 4 0 13 ≠ 0)
    (entry : (s.active d).bind (·.boxEntry (fld w 2 0 12)) = some e) (reader : beReader e = n.val)
    (enough : fld w 4 0 13 ≤ (s.box (fld w 2 0 12)).items.length) :
    (s.readIssued n w).feedReads d (fld w 2 0 12) = s.readDone n w := by
  have outs : ((s.readIssued n w).core (beReader e)).outs = [s.readOut n w] := by
    rw [reader, State.readIssued, State.modCore_core]
  rw [State.feedReads_one (s := s.readIssued n w) entry outs items enough, reader]
  simp only [sramAddr, ← Nat.add_assoc]
  rfl

end

/-! ## What a completed READ leaves -/

section
variable {s : State} {n w : Nat}

/-- Stores change no box and no core. -/
theorem State.each_store_keeps {α : Type} (l : List α) (addr : α → Nat) (bytes : α → List Byte) :
    (s.each l fun x t => t.store (addr x) (bytes x)).boxes = s.boxes
      ∧ (s.each l fun x t => t.store (addr x) (bytes x)).cores = s.cores := by
  have stores := OnlyBytes.each (l := l) (f := fun x t => t.store (addr x) (bytes x)) (OnlyBytes.refl s)
    fun _ _ => State.store_onlyBytes ..
  constructor <;> rw [stores]

theorem State.box_of_boxes {s t : State} {b : Nat} (same : t.boxes = s.boxes) : t.box b = s.box b := by
  rw [State.box, same, State.box]

theorem State.readDone_core : ((s.readDone n w).core n).next = (s.core n).next + 1 ∧ ((s.readDone n w).core n).outs = [] := by
  have issued : (s.readTaken n w).core n = (s.readIssued n w).core n := State.core_of_cores (State.each_store_keeps ..).2
  rw [State.readDone, State.modCore_core, issued, State.readIssued, State.modCore_core]
  exact ⟨rfl, by simp [Core.complete]⟩

theorem State.readDone_box (k : Nat) : (s.readDone n w).box k
    = (s.modBox (fld w 2 0 12) fun x => { x with items := x.items.drop (fld w 4 0 13) }).box k :=
  State.box_of_boxes (State.each_store_keeps ..).1

/-- A READ writes nothing outside its slots. -/
theorem State.readDone_get (canonical : Memory.wf s.mem) {a : Nat}
    (outside : a < sramAddr n (fld w 8 0 20) ∨ sramAddr n (fld w 8 0 20) + fld w 4 0 13 * readSize w ≤ a) :
    Memory.get (s.readDone n w).mem a = Memory.get s.mem a := by
  have slots : ∀ x ∈ ((s.box (fld w 2 0 12)).items.take (fld w 4 0 13)).zipIdx, x.2 < fld w 4 0 13 :=
    fun _ mem => Nat.lt_of_lt_of_le (List.snd_lt_of_mem_zipIdx mem) (List.length_take_le ..)
  have start : Memory.wf (s.readStart n w).mem := canonical
  have sizes : ∀ x, (readSlot x (fld w 1 1 1 == 1)).length ≤ readSize w := fun _ => Nat.le_of_eq (readSlot_length ..)
  exact (State.storeSlots_get start slots sizes a outside).2

end

/-! ## Deaths and rounds -/

/-- A postbox with no READ outstanding dies without a fault. -/
theorem exec_postboxDeath_kills {s : State} {b d e : Nat} (own : s.boxOwner b = some (d, e)) (running : s.halted = false)
    (unfenced : s.fenced d = false) (dying : (s.box b).dying = true) (idle : (s.core (beReader e)).outs = []) :
    exec (.postboxDeath b) s = .next (s.killBox d b 2) := by
  have still : ((s.killBox d b 2).core (beReader e)).outs = [] := by
    rw [State.core_of_cores (s.killBox_frame d b 2).2, idle]
  simp [exec, execPostboxDeath, own, running, unfenced, dying, still]

/-- The state in which the first of a collection box's completed rounds is about to be linked. -/
def State.roundTaken (s : State) (b : Nat) (rest : List BoxItem) : State :=
  (s.modBox b fun y => { y with results := rest, rounds := (y.rounds + 1) % 2 ^ 16 }).count (ctrBox b 1) 1

theorem State.roundTaken_box {s : State} {b : Nat} {rest : List BoxItem} :
    (s.roundTaken b rest).box b = { s.box b with results := rest, rounds := ((s.box b).rounds + 1) % 2 ^ 16 } := by
  rw [State.roundTaken, State.count_box_eq, State.modBox_box]

theorem State.roundTaken_box_ne {s : State} {b k : Nat} {rest : List BoxItem} (other : k ≠ b) :
    (s.roundTaken b rest).box k = s.box k := by
  rw [State.roundTaken, State.count_box_eq, State.modBox_box_ne other]

/-- A completed round whose OUT has room is linked. -/
theorem exec_collectionRoundDeliver_links {s : State} {b d e : Nat} {x : BoxItem} {rest : List BoxItem}
    (own : s.boxOwner b = some (d, e)) (collects : beCollection e = true) (running : s.halted = false) (unfenced : s.fenced d = false)
    (round : (s.box b).results = x :: rest) (room : s.boxRoom d (beOut e) 1 = true) :
    exec (.collectionRoundDeliver b) s = .next ((s.roundTaken b rest).linkItems d (beOut e) [x]) := by
  simp [exec, execCollectionRoundDeliver, own, collects, running, unfenced, round, room, State.roundTaken]

/-- Settles O19: each READ by what feeds it, a death by its own frame, and a round by the link of its item. -/
theorem readsDeathsAndRounds : Obligations.ReadsDeathsAndRounds := by
  unfold Obligations.ReadsDeathsAndRounds
  intro s
  refine ⟨fun n f fetched live idle notFull notFinal => ⟨?none, ?waits, ?takes⟩, ?death, ?round⟩
  case none => exact exec_read_advances fetched live idle notFull notFinal
  case waits =>
    intro items empty
    have waits : (s.readIssued n f.w).feedReads f.d (fld f.w 2 0 12) = s.readIssued n f.w := State.feedReads_empty empty
    exact (exec_read_feeds fetched live idle notFull notFinal items).trans (congrArg _ waits)
  case takes =>
    intro e items entry reader enough
    obtain ⟨next, outs⟩ := State.readDone_core (s := s) (n := n) (w := f.w)
    refine ⟨_, (exec_read_feeds fetched live idle notFull notFinal items).trans
      (congrArg _ (State.feedReads_readDone items entry reader enough)), next, outs, ?_, fun k other => ?_,
      fun canonical a => State.readDone_get canonical⟩
    · rw [State.readDone_box, State.modBox_box]
    · rw [State.readDone_box, State.modBox_box_ne other]
  case death =>
    intro b d e own running unfenced dying idle
    obtain ⟨boxes, cores⟩ := s.killBox_frame d b 2
    have box : ∀ k, (s.killBox d b 2).box k = (s.modBox b fun x => { x with items := [], state := 2, dying := false }).box k :=
      fun _ => State.box_of_boxes boxes
    have dead := (box b).trans State.modBox_box
    exact ⟨_, exec_postboxDeath_kills own running unfenced dying idle, congrArg Box.state dead, congrArg Box.items dead,
      congrArg Box.dying dead, fun k other => (box k).trans (State.modBox_box_ne other), cores⟩
  case round =>
    intro b d e x rest e2 own collects running unfenced round apart entry live room idle
    have target := State.roundTaken_box_ne (s := s) (rest := rest) apart
    obtain ⟨items, others, cores, mem⟩ := State.linkItems_appends (s := s.roundTaken b rest) (xs := [x]) (target ▸ live) entry idle
    have delivered := (others b (Ne.symm apart)).trans State.roundTaken_box
    exact ⟨_, exec_collectionRoundDeliver_links own collects running unfenced round room, congrArg Box.results delivered,
      congrArg Box.rounds delivered, items.trans (congrArg (fun y => y.items ++ [x]) target), cores, mem⟩

end Sys2Proof.Machine
end

section
/-! SUPPORT. Reads of a line of module memory (08 R219, R220; 12 R337, R340): what the check of its codeword finds, and what each
finding leaves. -/

namespace Sys2Proof.Machine

/-! ## The check of a codeword -/

section
variable {s : State} {line reached k : Nat} {ws : List Nat}

/-- What a check finds depends on the tags and on the districts' definitions alone. -/
theorem State.checkLine_congr {t : State} {d : Option Nat} (dist : t.dist = s.dist) (tags : t.tags = s.tags) :
    t.checkLine d line reached ws = s.checkLine d line reached ws := by
  have same : t.lineDistrict reached = s.lineDistrict reached := by
    unfold State.lineDistrict State.gibOwner State.defined State.district
    rw [dist, tags]
  simp only [State.checkLine, same]

/-- The scrubber, which reads for no district, finds a whole codeword good. -/
theorem State.checkLine_none : s.checkLine none line line [] = .good := by
  simp [State.checkLine]

theorem State.checkLine_good (own : s.lineDistrict line = some k) : s.checkLine (some k) line line [] = .good := by
  simp [State.checkLine, own]

/-- Up to three wrong symbols are corrected. -/
theorem State.checkLine_corrected {w : Nat} (own : s.lineDistrict line = some k) (few : ws.length ≤ 2) :
    s.checkLine (some k) line line (w :: ws) = .corrected (w / 36) := by
  have correctable : ¬ 3 < (w :: ws).length := Nat.not_lt.2 (Nat.succ_le_succ few)
  refine (if_neg correctable).trans ?_
  simp [own]

theorem State.checkLine_many {d : Option Nat} (many : 3 < ws.length) :
    s.checkLine d line reached ws = .bad false (ws.headD 0 / 36) :=
  if_pos many

/-- A line written for another district has a wrong tag. -/
theorem State.checkLine_alien (few : ws.length ≤ 3) (alien : s.lineDistrict reached ≠ some k) :
    s.checkLine (some k) line reached ws = .bad true (Config.tagSub % 2) := by
  simp [State.checkLine, Nat.not_lt.2 few, alien]

theorem State.checkLine_bad (lost : 3 < ws.length ∨ s.lineDistrict reached ≠ some k) :
    ∃ tag sub, s.checkLine (some k) line reached ws = .bad tag sub := by
  by_cases many : 3 < ws.length
  · exact ⟨_, _, State.checkLine_many many⟩
  · exact ⟨_, _, State.checkLine_alien (Nat.not_lt.1 many) (lost.resolve_left many)⟩

end

/-! ## What a finding leaves -/

theorem ctrChannel_inj {c i j : Nat} : ctrChannel c i = ctrChannel c j ↔ i = j := by
  unfold ctrChannel
  omega

/-- A corrected line counts as written back and as corrected, and not as read again. -/
theorem State.corrected_counters (s : State) (d line sub : Nat) :
    (s.corrected d line sub).counter (ctrChannel (lineChannel line) 0) = s.counter (ctrChannel (lineChannel line) 0)
      ∧ (s.corrected d line sub).counter (ctrChannel (lineChannel line) 1)
        = (s.counter (ctrChannel (lineChannel line) 1) + 1) % 2 ^ 64
      ∧ (s.corrected d line sub).counter (ctrChannel (lineChannel line) 2)
        = (s.counter (ctrChannel (lineChannel line) 2) + 1) % 2 ^ 64 := by
  have counts : ∀ j, (s.corrected d line sub).counter j
      = ((s.count (ctrChannel (lineChannel line) 1) 1).count (ctrChannel (lineChannel line) 2) 1).counter j :=
    fun _ => State.counter_notice
  simp only [counts, State.counter_count, ctrChannel_inj]
  exact ⟨rfl, rfl, rfl⟩

theorem State.corrected_mem (s : State) (d line sub : Nat) : (s.corrected d line sub).mem = s.mem := State.notice_mem

theorem State.corrected_memc (s : State) (d line sub : Nat) : (s.corrected d line sub).memc = s.memc := State.notice_memc

theorem State.corrected_district (s : State) (d line sub : Nat) : ((s.corrected d line sub).district d).mem
    = { (s.district d).mem with ce := true, channel := lineChannel line, sub := sub % 2, line := line } := by
  rw [State.corrected, State.notice_district_mem, State.eccEvent, State.modMemd_district]
  rfl

theorem State.reissue_counter (s : State) (d line sub : Nat) (tag : Bool) :
    (s.reissue d line sub tag).counter (ctrChannel (lineChannel line) 3)
      = (s.counter (ctrChannel (lineChannel line) 3) + 1) % 2 ^ 64 :=
  (State.counter_count ..).trans (if_pos rfl)

theorem State.reissue_mem (s : State) (d line sub : Nat) (tag : Bool) : (s.reissue d line sub tag).mem = s.mem := rfl

theorem State.reissue_district (s : State) (d line sub : Nat) (tag : Bool) : ((s.reissue d line sub tag).district d).mem
    = { (s.district d).mem with retry := true, tag := tag, channel := lineChannel line, sub := sub % 2, line := line } := by
  show (((s.count (ctrChannel (lineChannel line) 3) 1).eccEvent d line sub fun m =>
    { m with retry := true, tag := tag }).district d).mem = _
  rw [State.eccEvent, State.modMemd_district]
  rfl

theorem mem_addOnce {α : Type} [DecidableEq α] (l : List α) (x : α) : x ∈ addOnce l x := by
  unfold addOnce
  split
  · next present => simpa using present
  · simp

theorem State.reissue_retries (s : State) (d line sub : Nat) (tag : Bool) : (line, d) ∈ (s.reissue d line sub tag).memc.retries :=
  mem_addOnce ..

/-! ## The first read -/

/-- The state in which the read of a line has been counted. -/
def State.lineCounted (s : State) (line : Nat) : State := s.count (ctrChannel (lineChannel line) 0) 1

theorem State.counter_lineCounted (s : State) (line j : Nat) : (s.lineCounted line).counter j
    = if j = ctrChannel (lineChannel line) 0 then (s.counter (ctrChannel (lineChannel line) 0) + 1) % 2 ^ 64 else s.counter j :=
  State.counter_count ..

theorem State.counter_lineCounted_ne (s : State) (line : Nat) {i : Nat} (other : i ≠ 0) :
    (s.lineCounted line).counter (ctrChannel (lineChannel line) i) = s.counter (ctrChannel (lineChannel line) i) := by
  rw [State.counter_lineCounted, if_neg (mt ctrChannel_inj.1 other)]

theorem State.memoryUp_of {s : State} (running : s.halted = false) (awake : s.memc.selfRefresh = false) : s.memoryUp = true := by
  rw [State.memoryUp, running, awake]
  rfl

theorem exec_memLineRead_codeword {s : State} {d : Fin 4} {line reached : Nat} {ws : List Nat} {x : LineCheck}
    (running : s.halted = false) (awake : s.memc.selfRefresh = false) (found : s.checkLine (some d.val) line reached ws = x) :
    exec (.memLineRead line d (.codeword reached ws)) s = .next ((s.lineCounted line).lineFound d line x) := by
  subst found
  simp only [exec, execMemLineRead, State.memoryUp_of running awake]
  rfl

theorem exec_memLineRead_fabric {s : State} {d : Fin 4} {line : Nat} {tied : Bool} (running : s.halted = false)
    (awake : s.memc.selfRefresh = false) :
    exec (.memLineRead line d (.fabric tied)) s = .next ((s.lineCounted line).fabricError d tied) := by
  simp only [exec, execMemLineRead, State.memoryUp_of running awake]
  rfl

theorem OnlyWork.halted {s t : State} (h : OnlyWork s t) : t.halted = s.halted := by rw [State.halted, h, State.halted]

theorem OnlyWork.mem {s t : State} (h : OnlyWork s t) : t.mem = s.mem := by rw [h]

theorem State.halt_halted (s : State) (code : Nat) (d : Option Nat) (unit info : Nat) : (s.halt code d unit info).halted = true := by
  rw [State.halted, State.halt_pwr]
  split
  · assumption
  · rfl

/-- Settles O24: each finding of the check leaves what its operation leaves; a fabric error fences or halts. -/
theorem memoryLineReads : Obligations.MemoryLineReads := by
  unfold Obligations.MemoryLineReads
  intro s d line running awake c channel
  obtain rfl : c = lineChannel line := channel
  refine ⟨?whole, ?corrected, ?many, ?alien, ?fences, ?halts⟩
  case whole =>
    rintro x own rfl
    refine ⟨_, exec_memLineRead_codeword running awake (State.checkLine_good own), ?_, fun k other => ?_, rfl, rfl, rfl⟩
    · exact (State.counter_lineCounted ..).trans (if_pos rfl)
    · exact (State.counter_lineCounted ..).trans (if_neg other)
  case corrected =>
    intro w ws own few
    obtain ⟨reads, lines, symbols⟩ := (s.lineCounted line).corrected_counters d line (w / 36)
    rw [State.counter_lineCounted, if_pos rfl] at reads
    rw [State.counter_lineCounted_ne s line (by decide)] at lines symbols
    exact ⟨_, exec_memLineRead_codeword running awake (State.checkLine_corrected own few), reads, lines, symbols,
      State.corrected_district .., State.corrected_memc .., State.corrected_mem ..⟩
  case many =>
    intro reached w ws many _
    have wrong : 3 < (w :: ws).length := Nat.succ_lt_succ many
    refine ⟨_, exec_memLineRead_codeword running awake (State.checkLine_many wrong), ?_, State.reissue_district ..,
      State.reissue_retries .., State.reissue_mem ..⟩
    rw [State.lineFound, State.reissue_counter, State.counter_lineCounted_ne s line (by decide)]
  case alien =>
    intro reached ws few alien _
    have ecc := (s.lineCounted line).reissue_district d line (Config.tagSub % 2) true
    refine ⟨_, exec_memLineRead_codeword running awake (State.checkLine_alien few alien), ?_, congrArg MemDist.retry ecc,
      congrArg MemDist.tag ecc, congrArg MemDist.channel ecc, congrArg MemDist.line ecc, State.reissue_retries .., State.reissue_mem ..⟩
    rw [State.lineFound, State.reissue_counter, State.counter_lineCounted_ne s line (by decide)]
  case fences =>
    have work := (s.lineCounted line).fence_onlyWork d 0x65 0 0
    exact ⟨_, exec_memLineRead_fabric running awake, State.fence_fenced _ _ _ _ _ running, work.halted.trans running, work.mem⟩
  case halts =>
    exact ⟨_, exec_memLineRead_fabric running awake, State.halt_halted .., State.halt_mem ..⟩

/-! ## The second read -/

/-- The state in which the re-issued read of a line has been taken off the list and counted. -/
def State.retryTaken (s : State) (d line : Nat) : State :=
  State.lineCounted { s with memc := { s.memc with retries := s.memc.retries.erase (line, d) } } line

theorem exec_memReadRetry_codeword {s : State} {d : Fin 4} {line reached : Nat} {ws : List Nat} {who : Reader} {x : LineCheck}
    (running : s.halted = false) (awake : s.memc.selfRefresh = false) (issued : (line, d.val) ∈ s.memc.retries)
    (found : s.checkLine (some d.val) line reached ws = x) :
    exec (.memReadRetry line d (.codeword reached ws) who) s = .next ((s.retryTaken d line).lineAgain d line who x) := by
  obtain rfl : (s.retryTaken d line).checkLine (some d.val) line reached ws = x := (State.checkLine_congr rfl rfl).trans found
  simp [exec, execMemReadRetry, State.memoryUp_of running awake, issued, State.retryTaken, State.lineCounted]

/-- The state in which a line's second failure has been counted and shown in MEM_ECC. -/
def State.lineMarked (s : State) (d line sub : Nat) (tag : Bool) : State :=
  (s.count (ctrChannel (lineChannel line) 4) 1).eccEvent d line sub fun m => { m with ue := true, tag := tag }

theorem State.lineMarked_district (s : State) (d line sub : Nat) (tag : Bool) : (s.lineMarked d line sub tag).district d
    = { s.district d with mem := ((s.lineMarked d line sub tag).district d).mem } := by
  rw [State.lineMarked, State.eccEvent, State.modMemd_district]
  rfl

section
variable {s : State} {d line sub : Nat} {tag : Bool} {who : Reader}

/-- A line that a rollback refills rolls the district back. -/
theorem State.lineLost_rollsBack (refilled : s.refilled d line = true) :
    s.lineLost d line sub tag who
      = ((s.lineMarked d line sub tag).failReader who .refusedBusy).rollback d 0x31 (lineChannel line) line :=
  if_pos ((State.refilled_of_district (s.lineMarked_district ..)).trans refilled)

/-- Any other line fences it. -/
theorem State.lineLost_fences (lost : s.refilled d line = false) :
    ∃ g, s.lineLost d line sub tag who
      = (((s.lineMarked d line sub tag).failReader who .fenced).modMemd d g).fence d 0x32 (lineChannel line) line :=
  ⟨_, if_neg (by rw [Bool.not_eq_true]; exact (State.refilled_of_district (s.lineMarked_district ..)).trans lost)⟩

theorem State.failReader_mem (s : State) (who : Reader) (st : Status) : (s.failReader who st).mem = s.mem :=
  keepBytes (State.failReader_keeps (Keeps.refl s))

theorem State.lineLost_fenced (running : s.halted = false) (lost : s.refilled d line = false) :
    (s.lineLost d line sub tag who).fenced d = true
      ∧ (s.lineLost d line sub tag who).counter (ctrChannel (lineChannel line) 4)
        = (s.counter (ctrChannel (lineChannel line) 4) + 1) % 2 ^ 64
      ∧ (s.lineLost d line sub tag who).mem = s.mem := by
  obtain ⟨g, fences⟩ := State.lineLost_fences (sub := sub) (tag := tag) (who := who) lost
  have up : ((s.lineMarked d line sub tag).failReader who .fenced).halted = false := by
    rw [State.halted, State.failReader_pwr]
    exact running
  rw [fences]
  refine ⟨State.fence_fenced _ _ _ _ _ up, ?_, ?_⟩
  · rw [State.counter, State.fence_cnt, State.modMemd_cnt, State.failReader_cnt]
    exact (State.counter_count ..).trans (if_pos rfl)
  · rw [(State.fence_onlyWork ..).mem, State.modMemd_mem, State.failReader_mem]
    rfl

/-- A line that a rollback refills begins the first rollback of a district that runs a step under a lead (R353). -/
theorem State.lineLost_rolledBack (running : s.halted = false) (refilled : s.refilled d line = true) (unfenced : s.fenced d = false)
    (notHeld : s.held d = false) (active : (s.active d).isSome) (noGo : (s.district d).bar.go = none)
    (fresh : (s.district d).bar.rolledBack = false) (first : (s.district d).orb.rollbacks = 0)
    (lead : (s.district d).flt.rlead ≠ 0) :
    ((s.lineLost d line sub tag .none).district d).orb.rollbacks = 1
      ∧ ((s.lineLost d line sub tag .none).district d).bar.rolledBack = true
      ∧ (s.lineLost d line sub tag .none).fenced d = false
      ∧ (s.lineLost d line sub tag .none).mem = s.mem := by
  have same := s.lineMarked_district d line sub tag
  obtain ⟨orb, rolled, open'⟩ := State.rollback_begins (s.lineMarked d line sub tag) d 0x31 (lineChannel line) line
    (by rw [State.fenced, same]; exact unfenced) running (by rw [State.held, same]; exact notHeld)
    (by rw [State.active, same]; exact active) (by rw [same]; exact noGo) (by rw [same]; exact fresh)
    (by rw [same]; exact Nat.lt_of_le_of_lt (Nat.le_of_eq first) (by decide)) (by rw [same]; exact lead)
  rw [State.lineLost_rollsBack refilled]
  refine ⟨(congrArg OrbDist.rollbacks orb).trans ?_, rolled, open', (keepBytes (State.rollback_keeps (Keeps.refl _))).trans rfl⟩
  rw [same]
  exact congrArg (· + 1) first

end

/-- Settles O25: the second read by what its check finds; a line that stays lost is refilled by a rollback or fences. -/
theorem memoryRetries : Obligations.MemoryRetries := by
  unfold Obligations.MemoryRetries
  intro s d line who running awake issued c channel
  obtain rfl : c = lineChannel line := channel
  refine ⟨fun own => ?good, fun w ws own few => ?corrected, fun reached ws bad lost => ?fences,
    fun reached ws img bad refilled unfenced notHeld active noGo fresh first lead noReader => ?rollsBack⟩
  case good =>
    refine ⟨_, exec_memReadRetry_codeword running awake issued (State.checkLine_good own), State.notice_memc, ?_, State.notice_mem⟩
    rw [State.lineAgain, State.counter_notice]
    exact (State.counter_lineCounted ..).trans (if_pos rfl)
  case corrected =>
    exact ⟨_, exec_memReadRetry_codeword running awake issued (State.checkLine_corrected own few), State.corrected_memc ..,
      State.corrected_district .., State.corrected_mem ..⟩
  case fences =>
    obtain ⟨tag, sub, found⟩ := State.checkLine_bad (line := line) bad
    obtain ⟨fenced, counted, mem⟩ :=
      State.lineLost_fenced (s := s.retryTaken d line) (sub := sub) (tag := tag) (who := who) running lost
    refine ⟨_, exec_memReadRetry_codeword running awake issued found, fenced, counted.trans ?_, mem⟩
    rw [State.retryTaken, State.counter_lineCounted_ne _ line (by decide)]
    rfl
  case rollsBack =>
    subst noReader
    obtain ⟨tag, sub, found⟩ := State.checkLine_bad (line := line) bad
    exact ⟨_, exec_memReadRetry_codeword running awake issued found,
      State.lineLost_rolledBack (s := s.retryTaken d line) running refilled unfenced notHeld (Option.isSome_of_eq_some active) noGo fresh
        first lead⟩

end Sys2Proof.Machine
end

section
/-! SUPPORT. Scrubbing, retired and repaired pages, quads in test, and the copy of the log to flash (08 R221, R222; 12 R367, R369;
14 R382, R385): the next state of each. -/

namespace Sys2Proof.Machine

/-! ## Scrubbing -/

theorem State.counter_of_cnt {s t : State} {j : Nat} (same : t.cnt = s.cnt) : t.counter j = s.counter j := by
  rw [State.counter, same, State.counter]

/-- Counters that a fold sets all hold the value. -/
theorem State.counter_each_setCount (l : List Nat) (key : Nat → Nat) (s : State) (v j : Nat) :
    (s.each l fun k t => t.setCount (key k) v).counter j = if j ∈ l.map key then v else s.counter j := by
  induction l generalizing s with
  | nil => simp [State.each]
  | cons a l ih =>
    refine (ih (s.setCount (key a) v)).trans ?_
    rw [State.counter_setCount, List.map_cons]
    by_cases later : j ∈ l.map key <;> simp [later]

/-- The state in which the scrubber's line has been read and counted. -/
def State.scrubbed (s : State) : State :=
  ((s.count (ctrChannel (lineChannel s.memc.scrubAt) 5) 1).count (ctrChannel (lineChannel s.memc.scrubAt) 6) 1).lineCounted s.memc.scrubAt

/-- The scrubber's read of a whole line only counts. -/
theorem State.scrubbed_eq (s : State) (d : Nat) :
    ((s.count (ctrChannel (lineChannel s.memc.scrubAt) 5) 1).count (ctrChannel (lineChannel s.memc.scrubAt) 6) 1).lineRead d
      s.memc.scrubAt true (.codeword s.memc.scrubAt []) = s.scrubbed := by
  simp only [State.lineRead, if_true, State.checkLine_none, State.lineFound, State.scrubbed, State.lineCounted]

/-- The state in which the pass that ends with this line has cleared the channels' counts of it. -/
def State.passEnded (s : State) : State :=
  s.scrubbed.each (List.range 96) fun k t => t.setCount (ctrChannel k 6) 0

theorem State.passEnded_eq (s : State) :
    s.passEnded = s.scrubbed.each (List.range 96) fun k t => t.setCount (ctrChannel k 6) 0 := rfl

theorem State.passEnded_counter (s : State) {c : Nat} (channel : c < 96) : s.passEnded.counter (ctrChannel c 6) = 0 :=
  (State.counter_each_setCount (List.range 96) (fun k => ctrChannel k 6) s.scrubbed 0 (ctrChannel c 6)).trans
    (if_pos (List.mem_map_of_mem (List.mem_range.2 channel)))

@[simp] theorem State.scrubbed_memc (s : State) : s.scrubbed.memc = s.memc := by
  simp only [State.scrubbed, State.lineCounted, State.count_memc]

@[simp] theorem State.scrubbed_mem (s : State) : s.scrubbed.mem = s.mem := by
  simp only [State.scrubbed, State.lineCounted, State.count_mem]

@[simp] theorem State.passEnded_memc (s : State) : s.passEnded.memc = s.memc := by
  rw [State.passEnded, State.each_field State.memc (f := fun k t => t.setCount (ctrChannel k 6) 0) fun _ _ => State.setCount_memc,
    State.scrubbed_memc]

@[simp] theorem State.passEnded_mem (s : State) : s.passEnded.mem = s.mem := by
  rw [State.passEnded, State.each_field State.mem (f := fun k t => t.setCount (ctrChannel k 6) 0) fun _ _ => State.setCount_mem,
    State.scrubbed_mem]

section
variable {s : State} {d : Fin 4}
variable (running : s.halted = false) (awake : s.memc.selfRefresh = false)
include running awake

theorem exec_scrubLine_goesOn (more : s.memc.scrubAt + 1 < allLines) :
    exec (.scrubLine d (.codeword s.memc.scrubAt [])) s
      = .next { s.scrubbed with memc := { s.memc with scrubAt := s.memc.scrubAt + 1 } } := by
  simp only [exec, execScrubLine, State.memoryUp_of running awake, Bool.not_true, Bool.false_eq_true, if_false, State.scrubbed_eq,
    if_pos more, State.scrubbed_memc]

theorem exec_scrubLine_ends (last : ¬ s.memc.scrubAt + 1 < allLines) :
    exec (.scrubLine d (.codeword s.memc.scrubAt [])) s
      = .next { s.passEnded with memc := { s.memc with scrubAt := 0, passes := (s.memc.passes + 1) % 2 ^ 32 } } := by
  simp only [exec, execScrubLine, State.memoryUp_of running awake, Bool.not_true, Bool.false_eq_true, if_false, State.scrubbed_eq,
    if_neg last, ← State.passEnded_eq, State.passEnded_memc]

end

/-! ## Tables written to flash -/

theorem OnlyWork.memc {s t : State} (h : OnlyWork s t) : t.memc = s.memc := by rw [h]

/-- Once the tables are written, every swap they hold is marked. -/
theorem State.saveTables_spr {s : State} (moon : s.moon.running = true) :
    s.saveTables.spr = { s.spr with swaps := s.spr.swaps.map fun w => { w with written := true } } := by
  unfold State.saveTables
  rw [if_neg (by simp [moon])]
  dsimp only
  split <;> rfl

theorem State.saveNoticed_memc (s : State) (code : Nat) (d : Option Nat) (unit info : Nat) :
    (s.saveTables.notice code d unit info).memc = s.memc :=
  State.notice_memc.trans s.saveTables_onlyWork.memc

theorem State.saveNoticed_mem (s : State) (code : Nat) (d : Option Nat) (unit info : Nat) :
    (s.saveTables.notice code d unit info).mem = s.mem :=
  State.notice_mem.trans s.saveTables_onlyWork.mem

theorem State.saveNoticed_spr {s : State} (moon : s.moon.running = true) (code : Nat) (d : Option Nat) (unit info : Nat) :
    (s.saveTables.notice code d unit info).spr = { s.spr with swaps := s.spr.swaps.map fun w => { w with written := true } } :=
  State.notice_spr.trans (State.saveTables_spr moon)

section
variable {s : State} (running : s.halted = false) (moon : s.moon.running = true)
include running moon

/-! ## Pages -/

theorem exec_pageRetire_waits {page : Nat} (host : page < memEnd / MiB) (idle : ∀ x ∈ s.memc.waiting, x.1 ≠ page)
    (kept : page ∉ s.memc.restoring) (free : s.memc.freePages ≠ 0) :
    exec (.pageRetire page) s = .next ((State.saveTables { s with memc := { s.memc with
      waiting := s.memc.waiting ++ [(page, s.memc.spare)], freePages := s.memc.freePages - 1,
      retired := s.memc.retired + 1 } }).notice 0x33 none (channelOf (page * MiB)) page) := by
  have stays : (s.memc.waiting.any fun x => x.1 == page) = false := by simpa using idle
  simp [exec, execPageRetire, running, moon, Nat.not_le.2 host, stays, kept, free]

theorem exec_postPackageRepair_waits {page : Nat} (quiet : ∀ d ∈ s.defined, s.engagedMemory d = false)
    (remapped : ∃ q, (page, q) ∈ s.memc.remaps) (kept : page ∉ s.memc.restoring) :
    exec (.postPackageRepair page true) s = .next ((State.saveTables { s with
      memc := { s.memc with restoring := s.memc.restoring ++ [page] }
      spr := { s.spr with ppr := (s.spr.ppr + 1) % 2 ^ 16 } }).notice 0x35 none (channelOf (page * MiB)) page) := by
  have idle : s.defined.any s.engagedMemory = false := by simpa using quiet
  have stands : (s.memc.remaps.any fun x => x.1 == page) = true := by
    obtain ⟨q, mem⟩ := remapped
    exact List.any_eq_true.2 ⟨_, mem, beq_self_eq_true page⟩
  simp [exec, execPostPackageRepair, running, moon, idle, stands, kept]

/-! ## Quads in test -/

section
variable {quad : Nat} (testing : quad ∈ s.spr.testing)
include testing

theorem exec_quadTestEnd_passes :
    exec (.quadTestEnd quad .pass) s = .next ((State.saveTables { s with spr := { s.spr with
      testing := s.spr.testing.erase quad, free := s.spr.free ++ [quad] } }).notice 0x61 none 0 (put 0 8 quad)) := by
  simp [exec, execQuadTestEnd, running, moon, testing, Repair.after]

theorem exec_quadTestEnd_fails :
    exec (.quadTestEnd quad .failed) s = .next ((State.saveTables { s with spr := { s.spr with
      testing := s.spr.testing.erase quad, retired := s.spr.retired ++ [quad] } }).notice 0x61 none 0 (put 0 8 quad)) := by
  simp [exec, execQuadTestEnd, running, moon, testing, Repair.after]

/-- An array's first bad row takes its spare row, and the quad is free. -/
theorem exec_quadTestEnd_row {a i : Nat} (spare : (s.spr.repairs.get {} (4 * quad + a % 4)).rowSpare = false) :
    exec (.quadTestEnd quad (.row a i)) s = .next ((State.saveTables { s with spr := { s.spr with
      testing := s.spr.testing.erase quad, free := s.spr.free ++ [quad]
      repairs := s.spr.repairs.set (4 * quad + a % 4)
        { s.spr.repairs.get {} (4 * quad + a % 4) with rowSpare := true, row := i % 32, field := true } } }).notice
          0x61 none 0 (put 0 8 quad)) := by
  simp [exec, execQuadTestEnd, running, moon, testing, Repair.after, spare]

end

end

/-! ## The persistent log -/

/-- A log with room loses nothing to a new entry. -/
theorem Moon.append_of_room {m : Moon} (room : m.log.length < logCapacity) (e : Nat) :
    m.append e = { m with log := m.log ++ [(m.nextSeq, e, m.boot)], nextSeq := m.nextSeq + 1 } := by
  unfold Moon.append
  rw [if_neg (Nat.not_le.2 room)]

section
variable {s : State} {d : Fin 4} (moon : s.moon.running = true)
include moon

theorem exec_logFlashCopy_none (copied : ahead (s.district d).flt.head (s.moon.copied.getD d 0) = 0) :
    exec (.logFlashCopy d) s = .next { s with moon := { s.moon with copied := s.moon.copied.set d (s.district d).flt.head } } := by
  simp only [exec, execLogFlashCopy, copied]
  rw [if_neg (by simp [moon])]
  rfl

theorem exec_logFlashCopy_one (new : ahead (s.district d).flt.head (s.moon.copied.getD d 0) = 1)
    (room : s.moon.log.length < logCapacity) :
    exec (.logFlashCopy d) s = .next { s with moon := { s.moon with
      log := s.moon.log ++ [(s.moon.nextSeq, (s.district d).flt.entries.get 0 ((2 ^ 32 - 1 + (s.district d).flt.head) % 256),
        s.moon.boot)]
      nextSeq := s.moon.nextSeq + 1, copied := s.moon.copied.set d (s.district d).flt.head } } := by
  have whole := Moon.append_of_room room ((s.district d).flt.entries.get 0 ((2 ^ 32 - 1 + (s.district d).flt.head) % 256))
  simp only [exec, execLogFlashCopy, new]
  rw [if_neg (by simp [moon])]
  exact congrArg (fun m : Moon => Host.Outcome.next { s with moon := { m with copied := m.copied.set d (s.district d).flt.head } }) whole

end

/-- Settles O26: each clause reads its fields off the next state that its command answers. -/
theorem pagesTestsAndLog : Obligations.PagesTestsAndLog := by
  unfold Obligations.PagesTestsAndLog
  intro s running moon
  refine ⟨fun d awake more => ?goesOn, fun d awake last => ?ends, fun page host idle kept free => ?retires,
    fun page quiet remapped kept => ?repaired, fun quad testing => ⟨?passes, ?fails, fun a i spare => ?row⟩,
    fun d copied => ?none, fun d new room => ?one⟩
  case goesOn => exact ⟨_, exec_scrubLine_goesOn running awake more, rfl, s.scrubbed_mem⟩
  case ends =>
    refine ⟨_, exec_scrubLine_ends running awake (Nat.not_lt.2 (Nat.le_of_eq last.symm)), rfl, fun c channel => ?_, ?_⟩
    · refine (State.counter_of_cnt (s := s.passEnded) ?_).trans (s.passEnded_counter channel)
      rfl
    · simp only [State.passEnded_mem]
  case retires =>
    exact ⟨_, exec_pageRetire_waits running moon host idle kept free, State.saveNoticed_memc .., State.saveNoticed_mem ..⟩
  case repaired =>
    refine ⟨_, exec_postPackageRepair_waits running moon quiet remapped kept, State.saveNoticed_memc .., ?_, State.saveNoticed_mem ..⟩
    rw [State.saveNoticed_spr]
    exact moon
  case passes =>
    refine ⟨_, exec_quadTestEnd_passes running moon testing, State.saveNoticed_spr ?_ ..⟩
    exact moon
  case fails =>
    refine ⟨_, exec_quadTestEnd_fails running moon testing, State.saveNoticed_spr ?_ ..⟩
    exact moon
  case row =>
    refine ⟨_, exec_quadTestEnd_row running moon testing spare, ?_⟩
    rw [State.saveNoticed_spr, Tbl.get_set_self]
    · exact ⟨rfl, rfl, rfl⟩
    · exact moon
  case none => exact ⟨_, exec_logFlashCopy_none moon copied, rfl, rfl, rfl⟩
  case one => exact ⟨_, exec_logFlashCopy_one moon new room, rfl, rfl, rfl, rfl⟩

end Sys2Proof.Machine
end

section
/-! SUPPORT. Messages at a TX ring that takes none, AWAITs, and items that enter their stage queue (08 R229, R238, R244; 09 R278). -/

namespace Sys2Proof.Machine

/-! ## Messages at a ring that is not open -/

/-- The sender of a ring that is not open does nothing. -/
theorem State.pump_of_not_open {s : State} {d r e : Nat} (closed : (s.ring r).state ≠ 1) : s.pump d r e = s := by
  have stops : s.pumpOne d r e = (s, false) := by
    unfold State.pumpOne
    extract_lets x b
    split
    · rfl
    · rw [if_pos (by simp [x, closed])]
  unfold State.pump
  cases 2 * (s.ring r).waiting.length with
  | zero => rfl
  | succ k => rw [State.pumpGo, stops]; rfl

section
variable {s : State} {d r e : Nat} {who : Sender} {pm len lcnt addr : Nat} {head : List Byte} {old : Bool}

theorem State.giveMessage_waits (live : (s.district d).flt.rollAt = none) (closed : (s.ring r).state ≠ 1)
    (undead : (s.ring r).state ≠ 2) :
    s.giveMessage d r e who pm len lcnt head addr old = s.modRing r fun x =>
      { x with waiting := x.waiting ++ [⟨x.serial, who, pm, len, lcnt, head, addr, old⟩], serial := x.serial + 1 } := by
  unfold State.giveMessage
  extract_lets k m
  rw [if_neg (by simp [live]), if_neg undead, State.pump_of_not_open (by rw [State.modRing_ring]; exact closed)]
  rfl

/-- A dead ring counts the message, and its sender goes on. -/
theorem State.giveMessage_dropped (live : (s.district d).flt.rollAt = none) (dead : (s.ring r).state = 2) :
    s.giveMessage d r e who pm len lcnt head addr old
      = (s.count (ctrRing r 5) 1).complete who (OutKind.isSend r (s.ring r).serial) := by
  unfold State.giveMessage
  extract_lets k m
  rw [if_neg (by simp [live]), if_pos dead]
  rfl

end

/-- Settles O21: the two ways of a message at a ring that is not open. -/
theorem messagesWait : Obligations.MessagesWait := by
  unfold Obligations.MessagesWait
  intro s d r e n pm len lcnt addr head old live
  exact ⟨State.giveMessage_waits live, State.giveMessage_dropped live⟩

/-! ## AWAIT -/

/-- The state in which core `n` has taken item `x` of queue `q` into its slot, under the next handle (log entry 60). -/
def State.itemTaken (s : State) (n q slot : Nat) (x : SItem) : State :=
  ((((s.modQueue q fun z => { z with items := z.items.erase x }).nextHandle).store (sramAddr n slot)
      (itemSlot { x with handle := s.memc.handle })).count (ctrQueue q 1) 1).modCore n fun c =>
    { c with held := c.held ++ [{ x with handle := s.memc.handle }] }

section
variable {s : State} {n q slot pm : Nat} {x : SItem}

theorem State.takeItem_of_some (found : (s.queue q).items.find? (fun y => y.postmark == pm) = some x) :
    s.takeItem n q slot pm = some (s.itemTaken n q slot x) := by
  unfold State.takeItem
  rw [found]
  rfl

theorem State.takeItem_of_none (absent : (s.queue q).items.find? (fun y => y.postmark == pm) = none) :
    s.takeItem n q slot pm = none := by
  unfold State.takeItem
  rw [absent]

theorem State.itemTaken_core :
    (s.itemTaken n q slot x).core n = { s.core n with held := (s.core n).held ++ [{ x with handle := s.memc.handle }] } := by
  rw [State.itemTaken, State.modCore_core, State.count_core_eq, State.store_core_eq, State.nextHandle_core_eq, State.modQueue_core_eq]

theorem State.itemTaken_core_ne {m : Nat} (other : m ≠ n) : (s.itemTaken n q slot x).core m = s.core m := by
  rw [State.itemTaken, State.modCore_core_ne other, State.count_core_eq, State.store_core_eq, State.nextHandle_core_eq,
    State.modQueue_core_eq]

theorem State.itemTaken_queue (k : Nat) :
    (s.itemTaken n q slot x).queue k = (s.modQueue q fun z => { z with items := z.items.erase x }).queue k := by
  rw [State.itemTaken, State.modCore_queue_eq, State.count_queue_eq, State.store_queue_eq, State.nextHandle_queue_eq]

theorem State.itemTaken_mem : (s.itemTaken n q slot x).mem
    = Memory.write s.mem (sramAddr n slot) (itemSlot { x with handle := s.memc.handle }) := by
  rw [State.itemTaken, State.modCore_mem, State.count_mem, State.store_mem, State.nextHandle_mem, State.modQueue_mem]

end

section
variable {s : State} {n : Fin 512} {f : Fetched} (fetched : s.fetchOp n 5 = some f)
variable (free : (s.core n).mayStart [] [(sramAddr n (fld f.w 4 0 20), 32)] = true)
include fetched free

theorem exec_awaitItem_takes {x : SItem}
    (found : (s.queue (fld f.w 2 0 8)).items.find? (fun y => y.postmark == fld f.w 8 0 64 + (s.env f.d).step) = some x) :
    exec (.awaitItem n) s = .next ((s.advanceCore n).itemTaken n (fld f.w 2 0 8) (fld f.w 4 0 20) x) := by
  have takes : (s.advanceCore n).takeItem n (fld f.w 2 0 8) (fld f.w 4 0 20) (s.stamped f.d (fld f.w 8 0 64)) = some _ :=
    State.takeItem_of_some found
  simp [exec, execAwaitItem, fetched, free, takes]

/-- An AWAIT whose item has not come is outstanding. -/
theorem exec_awaitItem_waits
    (absent : (s.queue (fld f.w 2 0 8)).items.find? (fun y => y.postmark == fld f.w 8 0 64 + (s.env f.d).step) = none) :
    exec (.awaitItem n) s = .next (s.modCore n fun c => { c with pc := c.next, next := c.next + 1, outs := c.outs ++
      [⟨(s.core n).next, .await (fld f.w 2 0 8) (fld f.w 4 0 20) (fld f.w 8 0 64 + (s.env f.d).step), [],
        [(sramAddr n (fld f.w 4 0 20), 32)]⟩] }) := by
  have waits : (s.advanceCore n).takeItem n (fld f.w 2 0 8) (fld f.w 4 0 20) (s.stamped f.d (fld f.w 8 0 64)) = none :=
    State.takeItem_of_none absent
  simp only [exec, execAwaitItem, fetched, free, waits, State.advanceCore_modCore]
  rfl

end

/-! ## Entering a queue -/

/-- What every round of a fold leaves, the fold leaves. -/
theorem State.each_eq_self {α : Type} {s : State} {f : α → State → State} (l : List α) (same : ∀ x, f x s = s) :
    s.each l f = s := by
  induction l with
  | nil => rfl
  | cons a l ih => exact (congrArg (fun t => State.each t l f) (same a)).trans ih

/-- Where nothing is outstanding, no AWAIT is fed. -/
theorem State.feedAwaits_idle {s : State} (d q : Nat) (idle : ∀ n, (s.core n).outs = []) : s.feedAwaits d q = s := by
  unfold State.feedAwaits
  refine State.each_eq_self _ fun n => ?_
  rw [idle]
  rfl

/-- The micro-batches in use are those of the items enqueued or held; what waits does not count. -/
theorem State.mbInUse_modQueue {s : State} {q d : Nat} {f : SQueue → SQueue} (keeps : ∀ z, (f z).items = z.items) :
    (s.modQueue q f).mbInUse d = s.mbInUse d := by
  have items : ∀ k, ((s.modQueue q f).queue k).items = (s.queue k).items := fun k => by
    by_cases same : k = q
    · rw [same, State.modQueue_queue, keeps]
    · rw [State.modQueue_queue_ne same]
  unfold State.mbInUse
  simp only [items]
  rfl

/-- A new item of a micro-batch with a place in the table enters its queue, and no AWAIT waits for it. -/
theorem State.enter_appends {s : State} {d q : Nat} {x : SItem}
    (new : ((s.queue q).items.any fun y => y.postmark == x.postmark) = false)
    (place : (x.useMb && !(s.mbInUse d).contains (bits x.postmark 24 16) && decide (256 ≤ (s.mbInUse d).length)) = false)
    (idle : ∀ n, (s.core n).outs = []) :
    ∃ g, s.enter d q x = ((((s.modQueue q fun z => { z with items := z.items ++ [x], high := max z.high (z.items.length + 1) }).count
      (ctrQueue q 0) 1).noteCells d).modMemd d g) := by
  unfold State.enter
  extract_lets mbs t u v k
  rw [if_neg (by simp [new]), if_neg (by rw [place]; exact Bool.false_ne_true), State.feedAwaits_idle _ _ (fun n => ?_)]
  · exact ⟨_, rfl⟩
  · exact idle n

/-- The item at the front of those that wait, which nobody waits for, enters its queue. -/
theorem exec_stageEnqueue_enters {s : State} {q d e : Nat} {x : SItem} {rest : List (SItem × Option Sender)}
    (own : s.queueOwner q = some (d, e)) (running : s.halted = false) (unfenced : s.fenced d = false) (room : s.queueRoom d q e = true)
    (front : (s.queue q).waiting = (x, none) :: rest) :
    exec (.stageEnqueue q) s = .next ((s.modQueue q fun z => { z with waiting := rest }).enter d q x) := by
  simp [exec, execStageEnqueue, own, running, unfenced, room, front]

/-- An item waits behind those that wait (R238). -/
theorem State.enqueue_waits {s : State} {d q : Nat} {x : SItem} {who : Option Sender} {o : Nat × Nat} (owner : s.queueOwner q = some o)
    (waiting : (s.queue q).waiting ≠ []) :
    s.enqueue d q x who = s.modQueue q fun z => { z with waiting := z.waiting ++ [(x, who)] } := by
  simp [State.enqueue, owner, waiting]

/-- Settles O22: an AWAIT by what it takes or waits for, and the enqueue by what enters. -/
theorem awaitsAndEnqueues : Obligations.AwaitsAndEnqueues := by
  unfold Obligations.AwaitsAndEnqueues
  intro s
  refine ⟨fun n f fetched free => ⟨fun x found => ?takes, exec_awaitItem_waits fetched free⟩,
    fun q d e x rest own running unfenced room front new place idle => ?enters⟩
  case takes =>
    have core := (s.advanceCore n).itemTaken_core (n := n) (q := fld f.w 2 0 8) (slot := fld f.w 4 0 20) (x := x)
    rw [State.advanceCore, State.modCore_core] at core
    refine ⟨_, exec_awaitItem_takes fetched free found, congrArg Core.pc core, congrArg Core.next core, congrArg Core.held core, ?_,
      State.itemTaken_mem, fun m other => ?_, fun q other => ?_⟩
    · rw [State.itemTaken_queue, State.modQueue_queue]
      rfl
    · rw [State.itemTaken_core_ne other, State.advanceCore, State.modCore_core_ne other]
    · rw [State.itemTaken_queue, State.modQueue_queue_ne other]
      rfl
  case enters =>
    have table : (s.modQueue q fun z => { z with waiting := rest }).mbInUse d = s.mbInUse d := State.mbInUse_modQueue fun _ => rfl
    obtain ⟨g, enters⟩ := State.enter_appends (s := s.modQueue q fun z => { z with waiting := rest }) (d := d) (q := q) (x := x)
      (by rw [State.modQueue_queue]; exact new) (by rw [table]; exact place) idle
    have queue : ∀ k, ((s.modQueue q fun z => { z with waiting := rest }).enter d q x).queue k = (s.modQueue q fun z =>
        { z with items := z.items ++ [x], waiting := rest, high := max z.high (z.items.length + 1) }).queue k := fun k => by
      rw [enters, State.modMemd_queue_eq, State.noteCells, State.modPbx_queue_eq, State.count_queue_eq, State.modQueue_modQueue]
    refine ⟨_, exec_stageEnqueue_enters own running unfenced room front, ?_, ?_, fun k other => ?_, ?_, ?_⟩
    · rw [queue, State.modQueue_queue]
    · rw [queue, State.modQueue_queue]
    · rw [queue, State.modQueue_queue_ne other]
    · rw [enters]; rfl
    · rw [enters]; rfl

end Sys2Proof.Machine
end

section
/-! SUPPORT. Frames for the rings of a district that come in their order (08 R229, R234 to R237; 09 R273, R278, R279): what ANNOUNCE,
CREDIT, NACK_DEAD, JOB_HOLD and DATA make of the state. -/

namespace Sys2Proof.Machine

theorem State.unfenced_of_deliversTo {s : State} {p d e j h : Nat} (delivers : s.deliversTo p d e j h) : s.fenced d = false := by
  obtain ⟨-, -, -, -, -, unfenced, -⟩ := delivers
  exact unfenced

theorem State.running_of_takes {s : State} {p row h : Nat} {f : Frame} {pay : List Byte} (takes : s.takes p f row h pay) :
    s.halted = false := by
  obtain ⟨running, -⟩ := takes
  exact running

/-! ## CTL frames -/

section
variable {s : State} {d l p h : Nat} {pay : List Byte}

theorem State.onCtl_announce (op : hdrOpcode h = 5) (len : pay.length = 11) : s.onCtl d l p h pay = s.onAnnounce d l pay := by
  simp [State.onCtl, ctlLength, op, len]

theorem State.onCtl_credit (op : hdrOpcode h = 6) (len : pay.length = 14) :
    s.onCtl d l p h pay = s.onCredit d l (bits (leNat (pay.take 8)) 24 16) pay := by
  simp [State.onCtl, ctlLength, op, len]

theorem State.onCtl_nackDead (op : hdrOpcode h = 7) (len : pay.length = 14) :
    s.onCtl d l p h pay = s.onNackDead d l (bits (leNat (pay.take 8)) 24 16) pay := by
  simp [State.onCtl, ctlLength, op, len]

theorem State.onCtl_jobHold (op : hdrOpcode h = 0xC) (len : pay.length = 11) :
    ∃ origin cause, s.onCtl d l p h pay = s.onJobHold d l p (bits (leNat (pay.take 8)) 0 24) origin cause := by
  simp only [State.onCtl, ctlLength, op, len]
  exact ⟨_, _, rfl⟩

end

/-- A ring that a change leaves without waiting messages sends nothing. -/
theorem State.pump_modRing {s : State} {d r e : Nat} {g : Ring → Ring} (empty : (g (s.ring r)).waiting = []) :
    (s.modRing r g).pump d r e = s.modRing r g :=
  pump_idle ((congrArg Ring.waiting State.modRing_ring).trans empty)

theorem State.mirrorCredit_noStream {s : State} {d r : Nat} (noStream : (s.district d).mir.send = false) : s.mirrorCredit d r = s :=
  if_pos (by simp [noStream])

theorem State.advanceBar_none {s : State} {d : Nat} (noBarrier : (s.district d).bar.arrived = none) : s.advanceBar d = s := by
  unfold State.advanceBar
  extract_lets b kids
  rw [show b.arrived = none from noBarrier]

section
variable {s : State} {d l r re : Nat} {pay : List Byte} (ring : s.txRing d l (leNat ((pay.drop 8).take 2)) = some (r, re))
include ring

/-- An ANNOUNCE of the ring's size opens it under the district's attempt (log entry 27). -/
theorem State.onAnnounce_opens (size : leNat ((pay.drop 10).take 1) = reLog2 re) (closed : (s.ring r).state ≠ 1)
    (empty : (s.ring r).waiting = []) :
    s.onAnnounce d l pay = s.modRing r fun x =>
      { x with state := 1, wp := 0, rp := 0, msgno := 0, attempt := (s.district d).orb.attempt, waited := false } := by
  simp only [State.onAnnounce, ring]
  rw [if_neg (by simp [size]), if_neg closed]
  refine State.pump_modRing ?_
  exact empty

theorem State.onAnnounce_faults (size : leNat ((pay.drop 10).take 1) ≠ reLog2 re) :
    s.onAnnounce d l pay = (s.modRing r fun x => { x with state := 3 }).memFault d 0x24 2 r 0 := by
  simp [State.onAnnounce, ring, size]

/-- A CREDIT moves rp; nothing else waits for it. -/
theorem State.onCredit_moves {attempt : Nat} (isOpen : (s.ring r).state = 1) (current : (s.ring r).attempt = attempt)
    (newer : gap 32 (leNat ((pay.drop 10).take 4)) (s.ring r).rp < 2 ^ 31)
    (sent : gap 32 (leNat ((pay.drop 10).take 4)) (s.ring r).rp ≤ gap 32 (s.ring r).wp (s.ring r).rp)
    (empty : (s.ring r).waiting = []) (noStream : (s.district d).mir.send = false) (noBarrier : (s.district d).bar.arrived = none) :
    s.onCredit d l attempt pay = s.modRing r fun x => { x with rp := leNat ((pay.drop 10).take 4) } := by
  simp only [State.onCredit, ring]
  rw [if_neg (by simpa [isOpen, current, sent] using newer), State.pump_modRing, State.mirrorCredit_noStream, State.advanceBar_none]
  · exact noBarrier
  · exact noStream
  · exact empty

theorem State.onNackDead_kills {attempt : Nat} (current : (s.ring r).attempt = attempt) :
    s.onNackDead d l attempt pay = (s.count (ctrRing r 6) 1).killRing d r := by
  simp [State.onNackDead, ring, current]

end

/-- A fault of memory's queues fences the district. -/
theorem State.memFault_fenced {s : State} (running : s.halted = false) (d code cause index core : Nat) :
    (s.memFault d code cause index core).fenced d = true :=
  State.fence_fenced _ _ _ _ _ running

/-- A JOB_HOLD of the step leaves the district on HOLD. -/
theorem State.onJobHold_held {s : State} {d l p step origin cause : Nat} (now : step = (s.district d).orb.step)
    (unfenced : s.fenced d = false) (running : s.halted = false) (active : (s.active d).isSome) :
    (s.onJobHold d l p step origin cause).held d = true := by
  have some : (s.active d).isNone = false := by rw [Option.isNone_eq_false_iff]; exact active
  unfold State.onJobHold
  extract_lets att t
  by_cases held : s.held d = true
  · rw [if_pos (by simp [held]), held]
  · rw [if_neg (by simp [now, held, unfenced, some]), State.held, State.district, spreadHold_dist]
    exact holdFor_held _ _ _ _ _ unfenced running active

/-! CTL frames of a district in their order reach their meaning with nothing but the lines changed. -/

section
variable {s : State} {p d e j h : Nat} {f : Frame} {pay : List Byte} (delivers : s.deliversTo p d e j h)
include delivers

theorem State.receive_announce (takes : s.takes p f 5 h pay) (len : pay.length = 11) :
    ∃ u, OnlyLines s u ∧ (u.port p).expected = ((s.port p).expected + 1) % 4096
      ∧ s.receive p f 5 = u.onAnnounce d (peLport e) pay := by
  obtain ⟨u, o, expected, received⟩ := State.receive_ctl takes delivers (by decide)
  exact ⟨u, o, expected, received.trans (State.onCtl_announce (ctl_op takes (by decide) (by decide)) len)⟩

theorem State.receive_credit (takes : s.takes p f 6 h pay) (len : pay.length = 14) :
    ∃ u, OnlyLines s u ∧ (u.port p).expected = ((s.port p).expected + 1) % 4096
      ∧ s.receive p f 6 = u.onCredit d (peLport e) (bits (leNat (pay.take 8)) 24 16) pay := by
  obtain ⟨u, o, expected, received⟩ := State.receive_ctl takes delivers (by decide)
  exact ⟨u, o, expected, received.trans (State.onCtl_credit (ctl_op takes (by decide) (by decide)) len)⟩

theorem State.receive_nackDead (takes : s.takes p f 7 h pay) (len : pay.length = 14) :
    ∃ u, OnlyLines s u ∧ s.receive p f 7 = u.onNackDead d (peLport e) (bits (leNat (pay.take 8)) 24 16) pay := by
  obtain ⟨u, o, -, received⟩ := State.receive_ctl takes delivers (by decide)
  exact ⟨u, o, received.trans (State.onCtl_nackDead (ctl_op takes (by decide) (by decide)) len)⟩

theorem State.receive_jobHold (takes : s.takes p f 12 h pay) (len : pay.length = 11) :
    ∃ u origin cause, OnlyLines s u
      ∧ s.receive p f 12 = u.onJobHold d (peLport e) p (bits (leNat (pay.take 8)) 0 24) origin cause := by
  obtain ⟨u, o, -, received⟩ := State.receive_ctl takes delivers (by decide)
  obtain ⟨origin, cause, acts⟩ := State.onCtl_jobHold (s := u) (d := d) (l := peLport e) (p := p)
    (ctl_op takes (by decide) (by decide)) len
  exact ⟨u, origin, cause, o, received.trans acts⟩

end

theorem OnlyLines.halted {s u : State} (o : OnlyLines s u) : u.halted = s.halted := by rw [State.halted, o.pwr, State.halted]

theorem OnlyLines.dist {s u : State} (o : OnlyLines s u) : u.dist = s.dist := by rw [o.same]

theorem OnlyLines.rings {s u : State} (o : OnlyLines s u) : u.rings = s.rings := by rw [o.same]

/-- Settles O28: each CTL frame reaches its meaning with nothing but the lines changed, and acts on its ring or district. -/
theorem ringFrames : Obligations.RingFrames := by
  unfold Obligations.RingFrames
  intro s p f d e j h pay delivers
  have unfenced := State.unfenced_of_deliversTo delivers
  refine ⟨fun r re ring empty => ⟨fun takes len size closed => ?opens, fun takes len size => ?faults,
    fun rp takes len newRp isOpen current newer sent noBarrier noStream => ?moves, fun takes len current => ?kills⟩,
    fun takes len now active => ?holds⟩
  case opens =>
    obtain ⟨u, o, expected, received⟩ := State.receive_announce delivers takes len
    rw [← txRing_same o] at ring
    have opens := State.onAnnounce_opens ring size (o.ring r ▸ closed) (o.ring r ▸ empty)
    refine ⟨_, congrArg Host.Outcome.next (received.trans opens), ?_, fun k other => ?_, expected, o.mem, o.dist⟩
    · rw [State.modRing_ring, o.ring, o.district]
    · rw [State.modRing_ring_ne other, o.ring]
  case faults =>
    obtain ⟨u, o, -, received⟩ := State.receive_announce delivers takes len
    rw [← txRing_same o] at ring
    have faults := State.onAnnounce_faults ring size
    refine ⟨_, congrArg Host.Outcome.next (received.trans faults),
      State.memFault_fenced ?_ ..⟩
    exact o.halted.trans (State.running_of_takes takes)
  case moves =>
    subst newRp
    obtain ⟨u, o, expected, received⟩ := State.receive_credit delivers takes len
    rw [← txRing_same o] at ring
    rw [← o.ring r] at isOpen current newer sent empty
    rw [← o.district d] at noStream noBarrier
    have moves := State.onCredit_moves ring isOpen current newer sent empty noStream noBarrier
    refine ⟨_, congrArg Host.Outcome.next (received.trans moves), ?_, fun k other => ?_, expected, o.mem, o.dist⟩
    · rw [State.modRing_ring, o.ring]
    · rw [State.modRing_ring_ne other, o.ring]
  case kills =>
    obtain ⟨u, o, received⟩ := State.receive_nackDead delivers takes len
    rw [← txRing_same o] at ring
    rw [← o.ring r] at current
    have kills := State.onNackDead_kills ring current
    have dead : ((u.count (ctrRing r 6) 1).killRing d r).ring r = { u.ring r with state := 2, waiting := [] } := by
      rw [killRing_ring, if_pos rfl]; rfl
    refine ⟨_, congrArg Host.Outcome.next (received.trans kills), congrArg Ring.state dead, congrArg Ring.waiting dead,
      fun k other => ?_, ?_⟩
    · rw [killRing_ring, if_neg other]
      exact o.ring k
    · exact (keepBytes (State.killRing_keeps (Keeps.refl _))).trans o.mem
  case holds =>
    obtain ⟨u, origin, cause, o, received⟩ := State.receive_jobHold delivers takes len
    refine ⟨_, congrArg Host.Outcome.next received, ?_, ?_⟩
    · exact State.onJobHold_held (now.trans (by rw [o.district])) ((o.fenced d).trans unfenced)
        (o.halted.trans (State.running_of_takes takes)) ((active_same o d).symm ▸ active)
    · exact (keepBytes (State.onJobHold_keeps (Keeps.refl u))).trans o.mem

/-! ## DATA frames -/

theorem OnlyLines.ringOwner {s u : State} (o : OnlyLines s u) (r : Nat) : u.ringOwner r = s.ringOwner r := by rw [o.same]; rfl
theorem OnlyLines.queueOwner {s u : State} (o : OnlyLines s u) (q : Nat) : u.queueOwner q = s.queueOwner q := by rw [o.same]; rfl
theorem OnlyLines.queue {s u : State} (o : OnlyLines s u) (q : Nat) : u.queue q = s.queue q := by rw [o.same]; rfl
theorem OnlyLines.orbitNow {s u : State} (o : OnlyLines s u) : u.orbitNow = s.orbitNow := by rw [o.same]; rfl

/-- The RX ring `r`, with entry `re`, is the district's own, takes frames of this logical port and class, and stages none (R234). -/
structure State.ReceivesOn (s : State) (d l vc r re : Nat) : Prop where
  own : s.ringOwner r = some (d, re)
  rx : reTx re = false
  port : reLport re = l
  cls : reVc re = vc
  alive : s.queuesDead d = false
  unstaged : (s.ring r).staged = []

theorem State.ReceivesOn.onlyLines {s u : State} {d l vc r re : Nat} (h : s.ReceivesOn d l vc r re) (o : OnlyLines s u) :
    u.ReceivesOn d l vc r re :=
  ⟨(o.ringOwner r).trans h.own, h.rx, h.port, h.cls, by rw [State.queuesDead, o.halted, o.fenced, o.district]; exact h.alive,
    (congrArg Ring.staged (o.ring r)).trans h.unstaged⟩

/-- Address of the record that arrives at an RX ring (R231). -/
def Ring.recordAt (x : Ring) (re : Nat) : Nat := reBase re + x.wp % reUnits re * 256

section
variable {s : State} {d l r re : Nat} {f : RxFrame}

/-- A BEGIN frame whose header fits its ring starts a record. -/
theorem State.beginRecord_starts {g : Nat} (attempt : rhAttempt g = (s.ring r).attempt) (message : rhType g = 1)
    (number : rhMsgno g = (s.ring r).msgno) (units : rhUnits g = unitsFor (rhLen g))
    (whole : rhUnits g ≤ reUnits re - (s.ring r).wp % reUnits re) (free : rhUnits g ≤ (s.ring r).credits re) :
    s.beginRecord d r re g = s.modRing r fun x => { x with arrival := some ⟨g, true⟩ } := by
  simp [State.beginRecord, attempt, message, number, ← units, Nat.not_lt.2 whole, Nat.not_lt.2 free]

variable (own : s.ReceivesOn d l (hdrVc f.hdr) r re) (target : hdrRing f.hdr = r)
include own target

/-- A BEGIN frame that is not the END writes what follows the record's header. -/
theorem State.deliverData_begin {g : Nat} (begins : hdrBegin f.hdr = true) (more : hdrEnd f.hdr = false)
    (header : g = leNat (f.payload.take 64)) (attempt : rhAttempt g = (s.ring r).attempt) (message : rhType g = 1)
    (number : rhMsgno g = (s.ring r).msgno) (units : rhUnits g = unitsFor (rhLen g))
    (whole : rhUnits g ≤ reUnits re - (s.ring r).wp % reUnits re) (free : rhUnits g ≤ (s.ring r).credits re) :
    s.deliverData d l f = ((s.freeFlits f.port f.cls f.flits).modRing r fun x => { x with arrival := some ⟨g, true⟩ }).store
      ((s.ring r).recordAt re + 64) (f.payload.drop 64) := by
  subst header
  obtain ⟨own, rx, port, cls, alive, unstaged⟩ := own
  have starts : (s.freeFlits f.port f.cls f.flits).beginRecord d r re (leNat (f.payload.take 64)) = _ :=
    State.beginRecord_starts attempt message number units whole free
  have direct : s.stages d r f = false := by simp [State.stages, unstaged, attempt]
  simp [State.deliverData, target, own, alive, rx, port, cls, direct, begins, more, starts]
  rfl

/-- A later frame of a record that is kept is written at its offset; the END frame also ends the record. -/
theorem State.deliverData_later {g : Nat} (later : hdrBegin f.hdr = false) (arrival : (s.ring r).arrival = some ⟨g, true⟩) :
    s.deliverData d l f
      = (let t := (s.freeFlits f.port f.cls f.flits).store ((s.ring r).recordAt re + hdrOff f.hdr) f.payload
         if hdrEnd f.hdr then t.endRecord d r re g else t) := by
  obtain ⟨own, rx, port, cls, alive, unstaged⟩ := own
  have direct : s.stages d r f = false := by simp [State.stages, unstaged, later]
  have kept : ((s.freeFlits f.port f.cls f.flits).ring r).arrival = some ⟨g, true⟩ := arrival
  simp [State.deliverData, target, own, alive, rx, port, cls, direct, later, kept]
  rfl

end

/-- The item of a record that has come (R237). -/
def Ring.itemOf (x : Ring) (r re g : Nat) : SItem :=
  { addr := x.recordAt re + 64, len := rhLen g, ringed := true, ring := r, unit := x.wp, lcnt := rhLcnt g, postmark := rhPostmark g
    src := rhSrc g, queue := reQueue re, useMb := decide (reVc re < 2), host := false, handle := 0 }

/-- An RX ring behind the record of a message (R235). -/
def Ring.recorded (x : Ring) (g : Nat) : Ring :=
  { x with recs := x.recs ++ [⟨x.wp, rhUnits g, false, false⟩], wp := (x.wp + rhUnits g) % 2 ^ 32, msgno := (x.msgno + 1) % 2 ^ 32
           arrival := none }

/-- The state in which a message's record has its header in memory and is counted at its ring. -/
def State.recorded (s : State) (r re g : Nat) : State :=
  (((s.store ((s.ring r).recordAt re) (leBytes 64 (setFld g 32 0 64 s.orbitNow))).count (ctrRing r 1) (rhUnits g)).modRing r fun x =>
    { x with recs := x.recs ++ [⟨(s.ring r).wp, rhUnits g, false, false⟩], wp := (x.wp + rhUnits g) % 2 ^ 32
             msgno := (x.msgno + 1) % 2 ^ 32, arrival := none }).count (ctrRing r 0) 1

section
variable {s : State} {d r re g : Nat}

theorem State.recorded_ring : (s.recorded r re g).ring r = (s.ring r).recorded g := by
  rw [State.recorded, State.count_ring_eq, State.modRing_ring, State.count_ring_eq, State.store_ring_eq]
  rfl

theorem State.recorded_mem : (s.recorded r re g).mem
    = Memory.write s.mem ((s.ring r).recordAt re) (leBytes 64 (setFld g 32 0 64 s.orbitNow)) := by
  rw [State.recorded, State.count_mem, State.modRing_mem, State.count_mem, State.store_mem]

theorem State.recorded_queue (q : Nat) : (s.recorded r re g).queue q = s.queue q := by
  rw [State.recorded, State.count_queue_eq, State.modRing_queue_eq, State.count_queue_eq, State.store_queue_eq]

theorem State.store_queueOwner (s : State) (a : Nat) (bs : List Byte) (q : Nat) : (s.store a bs).queueOwner q = s.queueOwner q := by
  unfold State.store
  rw [State.touched_eq]
  rfl

theorem State.recorded_queueOwner (q : Nat) : (s.recorded r re g).queueOwner q = s.queueOwner q :=
  State.store_queueOwner ..

/-- The END of a message that is none of the mirror engine's brings its item to the ring's queue. -/
theorem State.endRecord_enqueues (message : rhType g = 1) (ordinary : reVc re ≠ 3) :
    s.endRecord d r re g = (s.recorded r re g).enqueue d (reQueue re) ((s.ring r).itemOf r re g) none := by
  have own : (reVc re == 3 && bits (rhPostmark g) 42 22 == 4194303) = false := by simp [ordinary]
  unfold State.endRecord
  extract_lets x n a t u engine v w item
  rw [if_neg (by rw [message]; decide), if_neg (by rw [show engine = false from own]; decide)]
  simp only [w, v, own, engine]
  rfl

/-- A message that is none of the mirror engine's, and whose item waits behind others: its header is written, the ring's pointers move. -/
theorem State.endRecord_waits {o : Nat × Nat} (message : rhType g = 1) (ordinary : reVc re ≠ 3)
    (owner : s.queueOwner (reQueue re) = some o) (waiting : (s.queue (reQueue re)).waiting ≠ []) :
    (s.endRecord d r re g).mem = Memory.write s.mem ((s.ring r).recordAt re) (leBytes 64 (setFld g 32 0 64 s.orbitNow))
      ∧ (s.endRecord d r re g).ring r = (s.ring r).recorded g
      ∧ ((s.endRecord d r re g).queue (reQueue re)).waiting
        = (s.queue (reQueue re)).waiting ++ [((s.ring r).itemOf r re g, none)] := by
  rw [State.endRecord_enqueues message ordinary, State.enqueue_waits ((State.recorded_queueOwner _).trans owner)
    (by rwa [State.recorded_queue])]
  refine ⟨?_, ?_, ?_⟩
  · rw [State.modQueue_mem, State.recorded_mem]
  · rw [State.modQueue_ring_eq, State.recorded_ring]
  · rw [State.modQueue_queue, State.recorded_queue]

end

/-! ## A DATA frame from its port -/

theorem State.freeFlits_expected (s : State) (p cls n : Nat) : ((s.freeFlits p cls n).port p).expected = (s.port p).expected := by
  rw [State.freeFlits, State.modPort_port]

theorem OnlyBytes.port {s t : State} (h : OnlyBytes s t) (p : Nat) : t.port p = s.port p := by rw [State.port, h, State.port]

/-- A DATA frame for the district in its order is delivered to its ring (R252, R262). -/
theorem State.receive_data {s : State} {p d e j h : Nat} {f : Frame} {pay : List Byte} (takes : s.takes p f 0 h pay)
    (delivers : s.deliversTo p d e j h) (data : hdrType h = 1) :
    ∃ u, OnlyLines s u ∧ (u.port p).expected = ((s.port p).expected + 1) % 4096
      ∧ s.receive p f 0 = u.deliverData d (peLport e) ⟨p, hdrVc h, flitsOf pay.length, h, pay⟩ := by
  obtain ⟨u, o, expected, routed⟩ := State.receive_routed takes delivers
  obtain ⟨-, job, tag, tclass, dest, unfenced, -⟩ := delivers
  refine ⟨u, o, expected, routed.trans ?_⟩
  simp [State.route, o.job, job, tag, tclass, o.coord, dest, o.fenced, unfenced, data]

/-- Settles O31: the frame reaches its ring with nothing but the lines changed, and is written there. -/
theorem dataFrames_delivered : Obligations.DataFrames := by
  unfold Obligations.DataFrames
  rintro s p f d e j h re pay delivers takes data r rfl owner rx port cls alive unstaged pos rfl
  obtain ⟨u, o, expected, received⟩ := State.receive_data takes delivers data
  have working : s.queuesDead d = false := by
    rw [State.queuesDead, State.running_of_takes takes, State.unfenced_of_deliversTo delivers, alive]
    rfl
  have own : s.ReceivesOn d (peLport e) (hdrVc h) (hdrRing h) re := ⟨owner, rx, port, cls, working, unstaged⟩
  have freed := o.trans (State.freeFlits_onlyLines u p (hdrVc h) (flitsOf pay.length))
  have next := (u.freeFlits_expected p (hdrVc h) (flitsOf pay.length)).trans expected
  have ring := o.ring (hdrRing h)
  refine ⟨fun g begins more header attempt message number units whole free => ?begin,
    fun g later more arrival => ?middle, fun g q later last arrival message ordinary queue waiting => ?last⟩
  case begin =>
    rw [← ring] at attempt number whole free
    have delivered := State.deliverData_begin (own.onlyLines o) (f := ⟨p, hdrVc h, flitsOf pay.length, h, pay⟩) rfl begins more header
      attempt message number units whole free
    refine ⟨_, congrArg Host.Outcome.next (received.trans delivered), ?_, ?_, fun k other => ?_, ?_⟩
    · rw [State.store_mem, State.modRing_mem, freed.mem, ring]
      rfl
    · rw [State.store_ring_eq, State.modRing_ring, freed.ring]
    · rw [State.store_ring_eq, State.modRing_ring_ne other, freed.ring]
    · rw [(State.store_onlyBytes ..).port]
      exact next
  case middle =>
    rw [← ring] at arrival
    have delivered := State.deliverData_later (own.onlyLines o) (f := ⟨p, hdrVc h, flitsOf pay.length, h, pay⟩) rfl later arrival
    refine ⟨_, congrArg Host.Outcome.next (received.trans (delivered.trans (if_neg (by simp [more])))), ?_, ?_⟩
    · rw [State.store_mem, freed.mem, ring]
      rfl
    · rw [State.store_onlyBytes]
      exact freed.rings
  case last =>
    rw [← ring] at arrival
    have delivered := State.deliverData_later (own.onlyLines o) (f := ⟨p, hdrVc h, flitsOf pay.length, h, pay⟩) rfl later arrival
    rw [if_pos (show hdrEnd h = true from last)] at delivered
    generalize body : (u.freeFlits p (hdrVc h) (flitsOf pay.length)).store ((u.ring (hdrRing h)).recordAt re + hdrOff h) pay = t
      at delivered
    have same : t.ring (hdrRing h) = s.ring (hdrRing h) := by rw [← body, State.store_ring_eq, freed.ring]
    have queues : t.queue (reQueue re) = s.queue (reQueue re) := by rw [← body, State.store_queue_eq, freed.queue]
    have owned : t.queueOwner (reQueue re) = some q := by rw [← body, State.store_queueOwner, freed.queueOwner, queue]
    have written : t.mem = Memory.write s.mem ((s.ring (hdrRing h)).recordAt re + hdrOff h) pay := by
      rw [← body, State.store_mem, freed.mem, ring]
    have now : t.orbitNow = s.orbitNow := by rw [← body, State.store_orbitNow, freed.orbitNow]
    obtain ⟨mem, recorded, waits⟩ := State.endRecord_waits (d := d) message ordinary owned (queues ▸ waiting)
    rw [written, same, now] at mem
    rw [same] at recorded waits
    rw [queues] at waits
    exact ⟨_, congrArg Host.Outcome.next (received.trans delivered), mem, congrArg Ring.wp recorded, congrArg Ring.msgno recorded,
      congrArg Ring.arrival recorded, congrArg Ring.recs recorded, waits⟩

end Sys2Proof.Machine
end

section
/-! SUPPORT. Writes of TLK_CTRL (09 R282): what each leaves of an unbound port. -/

namespace Sys2Proof.Machine

/-! ## A port that goes dark or retrains -/

section
variable {s : State} {p : Nat} (unbound : s.portEntry p = none)
include unbound

/-- No other port takes the frames of an unbound one. -/
theorem State.moveFrames_unbound : s.moveFrames p = s.modPort p fun x => { x with replay := [], queue := [] } := by
  unfold State.moveFrames
  extract_lets x frames t
  have still : t.portEntry p = none := unbound
  rw [still]

/-- Nobody is lost behind an unbound port. -/
theorem State.portLost_unbound (cause : Nat) : s.portLost p cause = s := by
  rw [State.portLost, unbound]

/-- A disabled port goes dark without a NOTICE. -/
theorem State.goDark_unbound (dcause : Nat) : s.goDark p 9 dcause = s.modPort p fun x =>
    { x with state := 9, dcause := dcause, qcause := 0, failedRetrains := 0, latValid := false, retrying := false
             replay := [], queue := [] } := by
  unfold State.goDark
  extract_lets t u
  have plain : u = t := rfl
  have still : t.portEntry p = none := unbound
  rw [plain, State.moveFrames_unbound still, State.portLost_unbound (by exact still), State.modPort_modPort]
  congr 1
  funext x
  simp

end

/-- A retrain sends the card again; the sequences of the link and the replay buffer stay (R255). -/
theorem State.enterRetrain_ownPort (s : State) (p info : Nat) : ∃ card queue, (s.enterRetrain p info).port p
    = { s.port p with
        state := 8, retrainEv := true, resends := 0, qcause := 0, cardSeen := false, cardLocal := card, queue := queue } := by
  unfold State.enterRetrain
  extract_lets t u
  obtain ⟨queue, sent⟩ := sendCard_port u p
  have same : u.port p = t.port p := State.notice_port_eq
  rw [same, State.modPort_port] at sent
  exact ⟨u.cardOf p, queue, sent⟩

/-! ## TLK_CTRL -/

theorem blockOf_tlkCtrl (port : Fin 24) : blockOf (0x600020 + 0x4000 * port.val) = some (.tlk, 0x20 + 0x4000 * port.val) := by
  have block : (0x600020 + 0x4000 * port.val) / 0x100000 = 6 := by omega
  have offset : (0x600020 + 0x4000 * port.val) % 0x100000 = 0x20 + 0x4000 * port.val := by omega
  simp [blockOf, block, offset]

section
variable {s : State} {p d v : Nat}

theorem State.regPut_tlkCtrl {m : Bool} (port : Fin 24) : s.regPut m d .tlk (0x20 + 0x4000 * port.val) v = s.tlkCtrl port.val v := by
  have within : 0x20 + 0x4000 * port.val < 24 * 0x4000 := by omega
  have number : (0x20 + 0x4000 * port.val) / 0x4000 = port.val := by omega
  have register : (0x20 + 0x4000 * port.val) % 0x4000 = 0x20 := by omega
  rw [State.regPut, if_pos within, number, register]
  rfl

variable (unbound : s.portEntry p = none)
include unbound

theorem State.portInUse_unbound : s.portInUse p = false := by rw [State.portInUse, unbound]

theorem State.tlkCtrl_disables (disable : bit v 0 = true) : s.tlkCtrl p v = (.done,
    if (s.port p).state = 9 then s.modPort p fun y => { y with disable := true }
    else (s.modPort p fun y => { y with disable := true }).goDark p 9 4) := by
  simp [State.tlkCtrl, State.portInUse_unbound unbound, disable]

theorem State.tlkCtrl_enables (enable : bit v 0 = false) (disabled : (s.port p).state = 9) : s.tlkCtrl p v = (.done,
    if s.mayTrain then (s.modPort p fun y => { y with disable := false }).startTraining p
    else (s.modPort p fun y => { y with disable := false }).modPort p fun y => { y with state := 0, dcause := 0 }) := by
  have allowed : (s.modPort p fun y => { y with disable := false }).mayTrain = s.mayTrain := rfl
  simp [State.tlkCtrl, State.portInUse_unbound unbound, enable, disabled, allowed]

theorem State.tlkCtrl_retrains (enable : bit v 0 = false) (retrain : bit v 1 = true) (trained : 4 ≤ (s.port p).state)
    (up : (s.port p).state ≤ 7) :
    s.tlkCtrl p v = (.done, (s.modPort p fun y => { y with disable := false }).enterRetrain p 0) := by
  have inService : (s.port p).state ≠ 9 := by omega
  simp [State.tlkCtrl, State.portInUse_unbound unbound, enable, retrain, trained, up, inService]

end

/-- A write of TLK_CTRL to an unbound port leaves what the register leaves, and its completion. -/
theorem State.regWrite_tlkCtrl {s t : State} {r : Requester} {d v : Nat} {port : Fin 24}
    (reaches : s.reaches r d .tlk (0x20 + 0x4000 * port.val)) (put : s.tlkCtrl port.val v = (.done, t)) :
    s.regWrite r (0x600020 + 0x4000 * port.val) v = t.emit (written r (0x600020 + 0x4000 * port.val)) :=
  State.regWrite_done reaches (blockOf_tlkCtrl port) (by omega) fun _ => (State.regPut_tlkCtrl port).trans put

/-- Settles O8: each word is the command's with its bit forced, and the port is as the register leaves it. -/
theorem portControlWrites : Obligations.PortControlWrites := by
  unfold Obligations.PortControlWrites
  intro s r d port v reaches unbound
  refine ⟨?disable, fun disabled noRetrain => ?enable, fun trained up noDisable => ?retrain⟩
  case disable =>
    have wrote := State.regWrite_tlkCtrl reaches
      (State.tlkCtrl_disables unbound ((bit_forceBit v.toNat 0 0 true).trans (if_pos rfl)))
    refine ⟨_, congrArg Host.Outcome.next wrote, ?_⟩
    simp only [State.emit_port_eq, State.emit_mem]
    by_cases already : (s.port port.val).state = 9
    · simp [already]
    · rw [if_neg already, State.goDark_unbound (by exact unbound)]
      simp
  case enable =>
    have wrote := State.regWrite_tlkCtrl reaches
      (State.tlkCtrl_enables unbound ((bit_forceBit v.toNat 0 0 false).trans (if_pos rfl)) disabled)
    refine ⟨_, congrArg Host.Outcome.next wrote, ?_⟩
    cases allowed : s.mayTrain <;> simp [State.startTraining]
  case retrain =>
    have wrote := State.regWrite_tlkCtrl reaches (State.tlkCtrl_retrains unbound (v := forceBit v.toNat 1 true)
      (by rw [bit_forceBit]; simpa using noDisable) ((bit_forceBit v.toNat 1 1 true).trans (if_pos rfl)) trained up)
    obtain ⟨card, queue, retrains⟩ := (s.modPort port.val fun y => { y with disable := false }).enterRetrain_ownPort port.val 0
    rw [State.modPort_port] at retrains
    refine ⟨_, congrArg Host.Outcome.next wrote, ?_⟩
    simp only [State.emit_port_eq, retrains, and_self]

end Sys2Proof.Machine
end

section
/-! SUPPORT. Frames that a port refuses (09 R252, R254): what their discard leaves. -/

namespace Sys2Proof.Machine

/-- What a port leaves of the state when it refuses a frame (R254): the expected FSEQ and all that is not the line's stay, a NAK
stands, and none leaves where one stands already. -/
structure Refused (s t : State) (p : Nat) : Prop where
  nak : (t.port p).nakSent = true
  expected : (t.port p).expected = (s.port p).expected
  out : t.out = if (s.port p).nakSent then s.out else .flit p (linkSlot (t.linkFlit p true)) :: s.out
  lines : OnlyLines s t

theorem State.refuseFrame_refused (s : State) (p : Nat) : Refused s (s.refuseFrame p) p := by
  obtain ⟨out, nak, expected, lines, -⟩ := s.refuseFrame_cases p
  exact ⟨nak, expected, out, lines⟩

theorem State.refuseFrame_cnt (s : State) (p : Nat) : (s.refuseFrame p).cnt = s.cnt := by
  obtain ⟨-, -, -, -, same⟩ := s.refuseFrame_cases p
  exact same

theorem State.count_onlyLines (s : State) (k n : Nat) : OnlyLines s (s.count k n) := ⟨rfl, fun _ => rfl⟩

/-- A refusal after a count is one of the state before it, but for the counter. -/
theorem Refused.of_count {s t : State} {p k n : Nat} (h : Refused (s.count k n) t p) : Refused s t p :=
  ⟨h.nak, h.expected, h.out, (s.count_onlyLines k n).trans h.lines⟩

/-- Settles O27: every frame command ends at the refusal, of a bad frame behind its count. -/
theorem framesRefused : Obligations.FramesRefused := by
  unfold Obligations.FramesRefused
  intro s p f n running trained carries c row command g pay header payload
  refine ⟨fun bad => ?bad, fun good ofRow outOfOrder => ?outOfOrder⟩
  case bad =>
    have refused := (State.refuseFrame_refused (s.count (ctrPort p 15) 1) p).of_count
    have counted : ((s.count (ctrPort p 15) 1).refuseFrame p).counter (ctrPort p 15) = (s.counter (ctrPort p 15) + 1) % 2 ^ 64 := by
      rw [State.counter_of_cnt (State.refuseFrame_cnt _ _), State.counter_count, if_pos rfl]
    exact ⟨_, exec_frame_refused command (State.accept_bad running trained carries bad), counted, refused.nak, refused.expected,
      refused.out, refused.lines.mem, refused.lines.rings, refused.lines.dist⟩
  case outOfOrder =>
    have refused := s.refuseFrame_refused p
    exact ⟨_, exec_frame_refused command (State.accept_out running trained carries good header payload ofRow outOfOrder),
      refused.nak, refused.expected, refused.out, s.refuseFrame_cnt p, refused.lines.mem, refused.lines.rings, refused.lines.dist⟩

end Sys2Proof.Machine
end

section
/-! SUPPORT. Frames of the barrier tree and of the maxima tree that come in their order (02 R54; 09 R275; 12 R349 to R351): what
each makes of the district's barrier. -/

namespace Sys2Proof.Machine

theorem State.district_of_dist {s t : State} (same : t.dist = s.dist) (d : Nat) : t.district d = s.district d := by
  rw [State.district, same, State.district]

/-! ## Frames of the current attempt -/

section
variable {s : State} {d l p h : Nat} {pay : List Byte} (current : s.current d pay)
include current

theorem State.onCtl_amaxUp (op : hdrOpcode h = 8) (len : ctlLength 8 pay = true) : s.onCtl d l p h pay = s.onAmaxUp d l p pay := by
  obtain ⟨step, attempt⟩ := current
  simp [State.onCtl, op, len, step, attempt]

theorem State.onCtl_amaxDown (op : hdrOpcode h = 9) (len : ctlLength 9 pay = true) : s.onCtl d l p h pay = s.onAmaxDown d l p pay := by
  obtain ⟨step, attempt⟩ := current
  simp [State.onCtl, op, len, step, attempt]

theorem State.onCtl_barUp (op : hdrOpcode h = 0xA) (len : pay.length = 16) :
    s.onCtl d l p h pay = s.onBarUp d l p (leNat (pay.drop 8)) (isRestart pay) := by
  obtain ⟨step, attempt⟩ := current
  simp [State.onCtl, ctlLength, op, len, step, attempt]

theorem State.onCtl_barGo (op : hdrOpcode h = 0xB) (len : pay.length = 16) :
    s.onCtl d l p h pay = s.onBarGo d l p (leNat (pay.drop 8)) (isRestart pay) := by
  obtain ⟨step, attempt⟩ := current
  simp [State.onCtl, ctlLength, op, len, step, attempt]

end

/-! ## Maxima (R275) -/

/-- The maxima held of a neighbour, by its key in the table, with those of a frame among them. -/
def Barrier.gathered (b : Barrier) (key : Nat) (pay : List Byte) : List (Nat × Nat) :=
  (maximaOf pay).foldl (fun m v => insertKey v.1 v.2 m) ((lookupKey key b.amaxGot).getD [])

section
variable {s : State} {d l p j : Nat} {pay : List Byte} (job : s.job d = some j)
include job

/-- The maxima of a child are gathered; before the module arrives they go no further. -/
theorem State.onAmaxUp_gathers (child : (jobChildren j true).contains l = true)
    (within : ∀ v ∈ maximaOf pay, v.1 < (s.slotsOf d).length) (noBarrier : (s.district d).bar.arrived = none) :
    s.onAmaxUp d l p pay = s.modBar d fun b => { b with amaxGot := insertKey l (b.gathered l pay) b.amaxGot } := by
  have taken : ((maximaOf pay).any fun v => decide ((s.slotsOf d).length ≤ v.1)) = false := by simpa using within
  simp only [State.onAmaxUp, job, child, taken, Bool.not_true, Bool.or_self, Bool.false_eq_true, if_false]
  exact advanceAmax_none (by rw [State.modBar_district]; exact noBarrier)

theorem State.onAmaxUp_elsewhere (elsewhere : (jobChildren j true).contains l = false) : s.onAmaxUp d l p pay = s.badTree p d := by
  simp only [State.onAmaxUp, job, elsewhere, Bool.not_false, Bool.true_or, if_true]

/-- The parent's maxima, when they are whole, are held for the go tick. -/
theorem State.onAmaxDown_holds {got : List (Nat × Nat)} (parent : jobParent j true = some l)
    (within : ∀ v ∈ maximaOf pay, v.1 < (s.slotsOf d).length) (waiting : (s.district d).bar.down = false)
    (sent : (s.district d).bar.amaxSent = true)
    (gathered : got = (s.district d).bar.gathered 24 pay)
    (whole : got.length = (s.slotsOf d).length) :
    s.onAmaxDown d l p pay = (s.modBar d fun b => { b with amaxGot := insertKey 24 got b.amaxGot }).holdDown d (got.map (·.2)) := by
  have taken : ((maximaOf pay).any fun v => decide ((s.slotsOf d).length ≤ v.1)) = false := by simpa using within
  rw [Barrier.gathered] at gathered
  simp only [State.onAmaxDown, job, parent, taken, waiting, sent, bne_self_eq_false, Bool.not_true, Bool.or_self, Bool.false_eq_true,
    if_false, ← gathered, whole, if_true]

end

/-- A frame of a tree from elsewhere changes counters and logs alone. -/
theorem State.badTree_bar (s : State) (p d : Nat) : ((s.badTree p d).district d).bar = (s.district d).bar := by
  rw [State.badTree, State.notice_logOnly]
  rfl

theorem State.badTree_slots (s : State) (p d : Nat) : (s.badTree p d).slots = s.slots := State.notice_slots

/-! ## Go and restart orbits (R54, R350, R351) -/

section
variable {s : State} {d orbit : Nat} (future : s.orb.run = false ∨ s.orb.number < orbit)
include future

theorem State.orbitNotReached : (s.orb.run && decide (orbit ≤ s.orb.number)) = false := by
  rcases future with idle | ahead
  · simp [idle]
  · simp [Nat.not_le.2 ahead]

/-- A go orbit whose tick is to come is kept. -/
theorem State.takeGo_waits :
    s.takeGo d orbit = (s.modBar d fun b => { b with go := some orbit }).modOrb d fun o => { o with phase := .waitGo } :=
  if_neg (Bool.eq_false_iff.1 (State.orbitNotReached future))

end

/-- District `d` waits for its restart orbit and has rolled back, without another rollback where it had already. -/
structure State.RestartsAt (s t : State) (d orbit : Nat) : Prop where
  restart : (t.district d).bar.restart = some orbit
  rolledBack : (t.district d).bar.rolledBack = true
  kept : (s.district d).bar.rolledBack = true → (t.district d).bar = { (s.district d).bar with restart := some orbit }

/-- A restart orbit whose tick is to come is kept, behind a rollback where there was none. -/
theorem State.takeRestart_restarts {s : State} {d orbit : Nat} (future : s.orb.run = false ∨ s.orb.number < orbit) :
    s.RestartsAt (s.takeRestart d orbit) d orbit := by
  unfold State.takeRestart
  extract_lets t
  obtain ⟨orb, back⟩ : t.orb = s.orb ∧ (t.district d).bar.rolledBack = true := by
    dsimp only [t]
    split
    next already => exact ⟨rfl, already⟩
    next =>
      refine ⟨(State.abort_standing _ d).orbit.trans State.event_orb, ?_⟩
      rw [State.abort_bar]
  rw [if_neg (Bool.eq_false_iff.1 (State.orbitNotReached (orb ▸ future)))]
  refine ⟨?_, ?_, fun already => ?_⟩
  · rw [State.modBar_district]
  · rw [State.modBar_district]
    exact back
  · rw [State.modBar_district, show t = s from if_pos already]

theorem State.RestartsAt.of_dist {s u t : State} {d orbit : Nat} (h : u.RestartsAt t d orbit) (same : u.dist = s.dist) :
    s.RestartsAt t d orbit := by
  have bar : (u.district d).bar = (s.district d).bar := congrArg District.bar (State.district_of_dist same d)
  exact ⟨h.restart, h.rolledBack, fun already => bar ▸ h.kept (bar ▸ already)⟩

/-! ## Proposals and decisions of the barrier tree -/

section
variable {s : State} {d l p j orbit : Nat} (job : s.job d = some j)
include job

/-- A child's proposal is kept; before the maxima are down it goes no further. -/
theorem State.onBarUp_proposes (child : (jobChildren j false).contains l = true) (waiting : (s.district d).bar.down = false) :
    s.onBarUp d l p orbit false = s.modBar d fun b => { b with props := insertKey l orbit b.props } := by
  simp only [State.onBarUp, job, child, Bool.not_true, Bool.false_eq_true, if_false]
  exact advanceBar_down (by rw [State.modBar_district]; exact waiting)

section
variable (free : s.held d = false) (unfenced : s.fenced d = false)
include free unfenced

/-- The root takes the first proposal of a restart and sends it down. -/
theorem State.onBarUp_rootRestarts (child : (jobChildren j false).contains l = true) (root : jobParent j false = none)
    (first : (s.district d).bar.restart = none) (noGo : (s.district d).bar.go = none) :
    s.onBarUp d l p orbit true = (s.sendDown d 0xB (s.common d true ++ leBytes 8 orbit) false).takeRestart d orbit := by
  have isRoot : s.isRoot d false = true := by simp [State.isRoot, job, root]
  simp only [State.onBarUp, job, child, Bool.not_true, Bool.false_eq_true, if_false, free, unfenced, Bool.or_self, isRoot, if_true,
    State.rootRestart, first, noGo, Option.isSome_none]

/-- A module inside the tree passes the first proposal of a restart up and waits for its orbit. -/
theorem State.onBarUp_passesRestart (child : (jobChildren j false).contains l = true) (inner : jobParent j false ≠ none)
    (first : (s.district d).bar.restartSeen = false) (noDeadline : (s.district d).bar.deadline = none) :
    ((s.onBarUp d l p orbit true).district d).bar = { (s.district d).bar with restartSeen := true, deadline := some orbit } := by
  have notRoot : s.isRoot d false = false := by simpa [State.isRoot, job] using Option.isSome_iff_ne_none.2 inner
  simp only [State.onBarUp, job, child, Bool.not_true, Bool.false_eq_true, if_false, free, unfenced, Bool.or_self, notRoot, first,
    if_true]
  rw [State.district_of_dist (State.sendUp_dist ..), State.modBar_district, noDeadline]

variable (active : (s.active d).isSome)
include active

/-- The parent's decision goes down the tree, and is taken. -/
theorem State.onBarGo_goes (parent : jobParent j false = some l) (first : (s.district d).bar.rolledBack = false) :
    s.onBarGo d l p orbit false = (s.sendDown d 0xB (s.common d false ++ leBytes 8 orbit) false).takeGo d orbit := by
  have image : (s.active d).isNone = false := Option.isNone_eq_false_iff.2 active
  simp only [State.onBarGo, job, parent, bne_self_eq_false, Bool.false_eq_true, if_false, free, unfenced, image, Bool.or_self, first]

theorem State.onBarGo_restarts (parent : jobParent j false = some l) :
    s.onBarGo d l p orbit true = (s.sendDown d 0xB (s.common d true ++ leBytes 8 orbit) false).takeRestart d orbit := by
  have image : (s.active d).isNone = false := Option.isNone_eq_false_iff.2 active
  simp only [State.onBarGo, job, parent, bne_self_eq_false, Bool.false_eq_true, if_false, free, unfenced, image, Bool.or_self, if_true]

end

end

/-- What is sent down the tree before a restart orbit is taken changes nothing of the district. -/
theorem State.sendDown_restarts {s : State} {d op orbit : Nat} {body : List Byte} {amax : Bool}
    (future : s.orb.run = false ∨ s.orb.number < orbit) :
    s.RestartsAt ((s.sendDown d op body amax).takeRestart d orbit) d orbit := by
  have orb : (s.sendDown d op body amax).orb = s.orb := (State.sendDown_standing ..).orbit
  exact (State.takeRestart_restarts (orb ▸ future)).of_dist (State.sendDown_dist ..)

/-! ## Frames that reach the district -/

theorem OnlyLines.current {s u : State} (o : OnlyLines s u) {d : Nat} {pay : List Byte} (current : s.current d pay) : u.current d pay := by
  rw [State.current, o.district]
  exact current

theorem OnlyLines.slots {s u : State} (o : OnlyLines s u) : u.slots = s.slots := by rw [o.same]

theorem State.job_of_deliversTo {s : State} {p d e j h : Nat} (delivers : s.deliversTo p d e j h) : s.job d = some j := by
  obtain ⟨-, job, -⟩ := delivers
  exact job

/-- The opcode of a frame of the barrier tree, and its RESTART bit, are those of its row. -/
theorem tree_opcode {s : State} {p h row op : Nat} {f : Frame} {pay : List Byte} {restart : Bool} (takes : s.takes p f row h pay)
    (tree : op = 0xA ∨ op = 0xB) (is : row = if restart then 16 + op else op) :
    row ≠ 0 ∧ hdrOpcode h = op ∧ isRestart pay = restart := by
  have ctl : row ≠ 0 := by
    rw [is]
    split <;> omega
  obtain ⟨plain, again⟩ := restart_row takes ctl
  cases restart with
  | false =>
    obtain ⟨opcode, bit⟩ := plain (is ▸ tree)
    exact ⟨ctl, opcode.trans is, bit⟩
  | true =>
    obtain ⟨opcode, bit⟩ := again (by rw [is]; exact tree.imp (congrArg (16 + ·)) (congrArg (16 + ·)))
    exact ⟨ctl, Nat.add_left_cancel (opcode.trans is), bit⟩

section
variable {s : State} {p d e j h row : Nat} {f : Frame} {pay : List Byte} (delivers : s.deliversTo p d e j h)
  (current : s.current d pay) (takes : s.takes p f row h pay)
include delivers takes

/-- No CTL frame writes memory. -/
theorem State.receive_ctl_mem (ctl : row ≠ 0) : (s.receive p f row).mem = s.mem := by
  obtain ⟨u, o, -, received⟩ := State.receive_ctl takes delivers ctl
  rw [received, keepBytes (State.onCtl_keeps (Keeps.refl u)), o.mem]

include current

theorem State.receive_amaxUp (is : row = 8) (len : ctlLength 8 pay = true) :
    ∃ u, OnlyLines s u ∧ s.receive p f row = u.onAmaxUp d (peLport e) p pay := by
  subst is
  obtain ⟨u, o, -, received⟩ := State.receive_ctl takes delivers (by decide)
  exact ⟨u, o, received.trans (State.onCtl_amaxUp (o.current current) (ctl_op takes (by decide) (by decide)) len)⟩

theorem State.receive_amaxDown (is : row = 9) (len : ctlLength 9 pay = true) :
    ∃ u, OnlyLines s u ∧ s.receive p f row = u.onAmaxDown d (peLport e) p pay := by
  subst is
  obtain ⟨u, o, -, received⟩ := State.receive_ctl takes delivers (by decide)
  exact ⟨u, o, received.trans (State.onCtl_amaxDown (o.current current) (ctl_op takes (by decide) (by decide)) len)⟩

/-- BAR_UP and RESTART BAR_UP, which differ by their RESTART bit (R349). -/
theorem State.receive_barUp {restart : Bool} (is : row = if restart then 0x1A else 0xA) (len : pay.length = 16) :
    ∃ u, OnlyLines s u ∧ s.receive p f row = u.onBarUp d (peLport e) p (leNat (pay.drop 8)) restart := by
  obtain ⟨ctl, op, bit⟩ := tree_opcode takes (.inl rfl) is
  obtain ⟨u, o, -, received⟩ := State.receive_ctl takes delivers ctl
  exact ⟨u, o, received.trans (bit ▸ State.onCtl_barUp (o.current current) op len)⟩

/-- BAR_GO and RESTART BAR_GO. -/
theorem State.receive_barGo {restart : Bool} (is : row = if restart then 0x1B else 0xB) (len : pay.length = 16) :
    ∃ u, OnlyLines s u ∧ s.receive p f row = u.onBarGo d (peLport e) p (leNat (pay.drop 8)) restart := by
  obtain ⟨ctl, op, bit⟩ := tree_opcode takes (.inr rfl) is
  obtain ⟨u, o, -, received⟩ := State.receive_ctl takes delivers ctl
  exact ⟨u, o, received.trans (bit ▸ State.onCtl_barGo (o.current current) op len)⟩

end

/-- Settles O29: each frame of a tree reaches its meaning with nothing but the lines changed, and acts on its district's barrier. -/
theorem treeFrames : Obligations.TreeFrames := by
  unfold Obligations.TreeFrames
  intro s p f d e j h pay delivers current
  have job := State.job_of_deliversTo delivers
  have unfenced := State.unfenced_of_deliversTo delivers
  refine ⟨fun takes len child within noBarrier => ?gathers, fun takes len elsewhere => ?elsewhere,
    fun got takes len parent inner leaf within waiting sent noStream distinct gathered whole => ?holds,
    fun takes len child waiting => ?proposes, fun takes len parent free active first future => ?goes,
    fun takes len child free => ⟨fun root first noGo future => ?rootRestarts, fun inner first noDeadline => ?passesRestart⟩,
    fun takes len parent free active future => ?restarts⟩
  case gathers =>
    obtain ⟨u, o, received⟩ := State.receive_amaxUp delivers current takes rfl len
    have acts := received.trans (State.onAmaxUp_gathers (by rw [o.job, job]) child (slotsOf_same o d ▸ within) (o.district d ▸ noBarrier))
    refine ⟨_, rfl, ?_, State.receive_ctl_mem delivers takes (by decide), ?_⟩
    · rw [acts, State.modBar_district, o.district]
      rfl
    · rw [acts]
      exact o.slots
  case elsewhere =>
    obtain ⟨u, o, received⟩ := State.receive_amaxUp delivers current takes rfl len
    have acts := received.trans (State.onAmaxUp_elsewhere (by rw [o.job, job]) elsewhere)
    refine ⟨_, rfl, ?_, State.receive_ctl_mem delivers takes (by decide), ?_⟩
    · rw [acts, State.badTree_bar, o.district]
    · rw [acts, State.badTree_slots, o.slots]
  case holds =>
    obtain ⟨u, o, received⟩ := State.receive_amaxDown delivers current takes rfl len
    have slots := slotsOf_same o d
    have district := o.district d
    have acts := received.trans (State.onAmaxDown_holds (by rw [o.job, job]) parent (slots ▸ within) (district ▸ waiting)
      (district ▸ sent) (district ▸ gathered) (slots ▸ whole))
    obtain ⟨down, -, combined⟩ := holdDown_leaf (s := s)
      (w := u.modBar d fun b => { b with amaxGot := insertKey 24 got b.amaxGot }) (by rw [modBar_slotsOf, slots])
      (by rw [modBar_job, o.job, job]) (by rw [State.modBar_district, district]; exact noStream) o.mem leaf inner distinct whole
    refine ⟨_, rfl, ?_, State.receive_ctl_mem delivers takes (by decide), ?_⟩
    · rw [acts, down]
    · rw [acts]
      exact combined
  case proposes =>
    obtain ⟨u, o, received⟩ := State.receive_barUp (restart := false) delivers current takes rfl len
    have acts := received.trans (State.onBarUp_proposes (by rw [o.job, job]) child (o.district d ▸ waiting))
    refine ⟨_, rfl, ?_, State.receive_ctl_mem delivers takes (by decide)⟩
    rw [acts, State.modBar_district, o.district]
  case goes =>
    obtain ⟨u, o, received⟩ := State.receive_barGo (restart := false) delivers current takes rfl len
    have goes := State.onBarGo_goes (s := u) (p := p) (orbit := leNat (pay.drop 8)) (by rw [o.job, job]) (held_same o d ▸ free)
      (o.fenced d ▸ unfenced) (active_same o d ▸ active) parent (o.district d ▸ first)
    have orb : (u.sendDown d 0xB (u.common d false ++ leBytes 8 (leNat (pay.drop 8))) false).orb = s.orb :=
      (State.sendDown_standing ..).orbit.trans o.orb
    have acts := received.trans (goes.trans (State.takeGo_waits (orb ▸ future)))
    refine ⟨_, rfl, ?_, ?_, State.receive_ctl_mem delivers takes (by decide)⟩
    · rw [acts, State.modOrb_district, State.modBar_district, State.district_of_dist (State.sendDown_dist ..), o.district]
    · rw [acts, State.modOrb_district]
  case rootRestarts =>
    obtain ⟨u, o, received⟩ := State.receive_barUp (restart := true) delivers current takes rfl len
    have acts := received.trans (State.onBarUp_rootRestarts (by rw [o.job, job]) (held_same o d ▸ free) (o.fenced d ▸ unfenced) child root
      (o.district d ▸ first) (o.district d ▸ noGo))
    have restarts : s.RestartsAt (s.receive p f 0x1A) d (leNat (pay.drop 8)) := by
      rw [acts]
      exact (State.sendDown_restarts (o.orb ▸ future)).of_dist o.dist
    exact ⟨_, rfl, restarts.restart, restarts.rolledBack, restarts.kept, State.receive_ctl_mem delivers takes (by decide)⟩
  case passesRestart =>
    obtain ⟨u, o, received⟩ := State.receive_barUp (restart := true) delivers current takes rfl len
    refine ⟨_, rfl, ?_, State.receive_ctl_mem delivers takes (by decide)⟩
    rw [received, State.onBarUp_passesRestart (by rw [o.job, job]) (held_same o d ▸ free) (o.fenced d ▸ unfenced) child inner
      (o.district d ▸ first) (o.district d ▸ noDeadline), o.district]
  case restarts =>
    obtain ⟨u, o, received⟩ := State.receive_barGo (restart := true) delivers current takes rfl len
    have acts := received.trans (State.onBarGo_restarts (by rw [o.job, job]) (held_same o d ▸ free) (o.fenced d ▸ unfenced)
      (active_same o d ▸ active) parent)
    have restarts : s.RestartsAt (s.receive p f 0x1B) d (leNat (pay.drop 8)) := by
      rw [acts]
      exact (State.sendDown_restarts (o.orb ▸ future)).of_dist o.dist
    exact ⟨_, rfl, restarts.restart, restarts.rolledBack, restarts.kept, State.receive_ctl_mem delivers takes (by decide)⟩

end Sys2Proof.Machine
end

section
/-! SUPPORT. Link flits and rounds of resending (09 R253 to R255): what an ACK, a NAK or a timeout makes of a trained port. -/

namespace Sys2Proof.Machine

/-! ## A round of resending (R254) -/

theorem gap_self {n : Nat} (small : n < 2 ^ 12) : gap 12 n n = 0 := by
  simp only [gap]
  omega

/-- Frames that stand from FSEQ `n` on without a gap keep their numbers. -/
theorem Port.renumber_replay {x : Port} {n : Nat} (small : n < 2 ^ 12) (base : x.base = n)
    (consecutive : x.replay.map (·.1) = (List.range x.replay.length).map fun i => (n + i) % 4096) :
    (x.renumber n).replay = x.replay := by
  have none : ∀ f : Nat × TxFrame, decide (gap 12 f.1 x.base < gap 12 n x.base) = false := by
    simp only [base, gap_self small, Nat.not_lt_zero, decide_false, implies_true]
  have numbered : (x.replay.zipIdx.map fun f => ((n + f.2) % 4096, f.1.2)) = x.replay := by
    refine List.ext_getElem (by simp) fun i _ inside => ?_
    have number : x.replay[i].1 = (n + i) % 4096 := by
      have entry := congrArg (·[i]?) consecutive
      simpa [List.getElem?_map, List.getElem?_eq_getElem inside, List.getElem?_range inside] using entry
    simp [Prod.ext_iff, number]
  have before : (x.replay.filter fun f => decide (gap 12 f.1 x.base < gap 12 n x.base)) = [] :=
    List.filter_eq_nil_iff.2 fun f _ => Bool.eq_false_iff.1 (none f)
  have late : (x.replay.filter fun f => !decide (gap 12 f.1 x.base < gap 12 n x.base)) = x.replay :=
    List.filter_eq_self.2 fun f _ => congrArg (!·) (none f)
  simp only [Port.renumber, before, late, List.nil_append]
  exact numbered

/-- A round of resending `n` frames of port `p` is counted and noted. -/
def State.roundBegun (s : State) (p n : Nat) : State :=
  ((s.modPort p fun x => { x with resends := x.resends + 1, retryEv := true }).count (ctrPort p 4) n).portNotice p 0x40 0

/-- The state after a round that resends the frames `fs` of port `p`. -/
def State.resent (s : State) (p : Nat) (fs : List (Nat × TxFrame)) : State :=
  (s.roundBegun p fs.length).each fs fun (n, f) t => let (h, b) := f.image n; t.emit (.frame p (frameSlots h b))

section
variable (s : State) (p : Nat) (fs : List (Nat × TxFrame))

theorem State.resent_eq : s.resent p fs = { s.roundBegun p fs.length with
    out := (fs.map fun f => .frame p (frameSlots (f.2.image f.1).1 (f.2.image f.1).2)).reverse ++ s.out } := by
  have out : (s.roundBegun p fs.length).out = s.out := State.notice_out
  rw [State.resent, emit_all, out]

theorem State.resent_port : (s.resent p fs).port p = { s.port p with resends := (s.port p).resends + 1, retryEv := true } := by
  rw [State.resent_eq, State.mk_port, State.roundBegun, State.portNotice, State.notice_port_eq, State.count_port_eq,
    State.modPort_port]

theorem State.resent_port_ne {k : Nat} (other : k ≠ p) : (s.resent p fs).port k = s.port k := by
  rw [State.resent_eq, State.mk_port, State.roundBegun, State.portNotice, State.notice_port_eq, State.count_port_eq,
    State.modPort_port_ne other]

theorem State.resent_counter (j : Nat) : (s.resent p fs).counter j
    = if j = ctrPort p 4 then (s.counter (ctrPort p 4) + fs.length) % 2 ^ 64 else s.counter j := by
  have same : (s.resent p fs).counter j = (s.roundBegun p fs.length).counter j := by rw [State.resent_eq]; rfl
  exact same.trans (State.counter_notice.trans (State.counter_count ..))

theorem State.resent_out : (s.resent p fs).out
    = (fs.map fun f => .frame p (frameSlots (f.2.image f.1).1 (f.2.image f.1).2)).reverse ++ s.out := by
  rw [State.resent_eq]

theorem State.resent_mem : (s.resent p fs).mem = s.mem := by
  rw [State.resent_eq]
  exact State.notice_mem

end

section
variable {s : State} {p : Nat}

theorem State.resend_none (empty : (s.port p).replay = []) : s.resend p none = s := by
  simp [State.resend, empty]

/-- A timeout resends all that is unacknowledged. -/
theorem State.resend_all (waiting : (s.port p).replay ≠ []) (rounds : (s.port p).resends < 16) :
    s.resend p none = s.resent p (s.port p).replay := by
  simp only [State.resend]
  rw [if_neg (by simpa using waiting), if_neg (Nat.not_le.2 rounds)]
  rfl

/-- Behind 16 rounds without an ACK the port retrains. -/
theorem State.resend_retrains (waiting : (s.port p).replay ≠ []) (rounds : 16 ≤ (s.port p).resends) :
    s.resend p none = s.enterRetrain p 0 := by
  simp only [State.resend]
  rw [if_neg (by simpa using waiting), if_pos rounds]

/-- A NAK of the oldest frame resends all that is unacknowledged. -/
theorem State.resend_from {n : Nat} (small : n < 2 ^ 12) (waiting : (s.port p).replay ≠ []) (rounds : (s.port p).resends < 16)
    (base : (s.port p).base = n)
    (consecutive : (s.port p).replay.map (·.1) = (List.range (s.port p).replay.length).map fun i => (n + i) % 4096) :
    s.resend p (some n) = (s.modPort p (·.renumber n)).resent p (s.port p).replay := by
  have kept : ((s.modPort p (·.renumber n)).port p).replay = (s.port p).replay := by
    rw [State.modPort_port, Port.renumber_replay small base consecutive]
  have same : ((s.modPort p (·.renumber n)).port p).resends = (s.port p).resends := by rw [State.modPort_port]; rfl
  have whole : ((s.port p).replay.dropWhile fun f => f.1 != n) = (s.port p).replay := by
    cases frames : (s.port p).replay with
    | nil => exact absurd frames waiting
    | cons f rest =>
      have first : f.1 = n := by
        have head := congrArg (·[0]?) consecutive
        exact (show f.1 = n % 4096 by simpa [frames] using head).trans (Nat.mod_eq_of_lt small)
      simp [first]
  simp only [State.resend, kept, same, whole]
  rw [if_neg (by simpa using waiting), if_neg (Nat.not_le.2 rounds)]
  rfl

end

/-! ## Link flits (R253) -/

/-- A port that has taken a link flit without flags: the peer's freed flits are those of the flit. -/
def Port.credited (x : Port) (v : Nat) : Port :=
  { x with peerFence := false, peerHalt := false, peerQuar := false, peerFreed := (List.range 6).map fun i => fld v (8 + 2 * i) 0 16 }

/-- A credited port behind the acknowledgement of the flit. -/
def Port.acknowledged (x : Port) (v : Nat) : Port :=
  { x.credited v with
    acked := fld v 2 0 12, base := (fld v 2 0 12 + 1) % 4096
    replay := x.replay.filter fun f => decide (gap 12 (fld v 2 0 12) x.base < gap 12 f.1 x.base), resends := 0 }

/-- The flags of a flit with NAKV alone. -/
theorem flags16 (v : Nat) (h : fld v 0 0 5 = 0x10) :
    fld v 0 0 1 = 0 ∧ fld v 0 1 1 = 0 ∧ fld v 0 2 1 = 0 ∧ fld v 0 3 1 = 0 ∧ fld v 0 4 1 = 1 := by
  unfold fld bits at *
  simp only [Nat.shiftRight_eq_div_pow] at *
  omega

section
variable {s : State} {p v : Nat}

theorem State.takeFlit_acks (flags : fld v 0 0 5 = 8) (sent : (s.port p).inFlight (fld v 2 0 12) = true) :
    s.takeFlit p v = s.modPort p (·.acknowledged v) := by
  obtain ⟨noFence, noHalt, noQuar, ack, noNak⟩ := flags8 v flags
  simp [State.takeFlit, noFence, noHalt, noQuar, ack, noNak, sent, Port.acknowledged, Port.credited]

theorem State.takeFlit_credits (flags : fld v 0 0 5 = 8) (notSent : (s.port p).inFlight (fld v 2 0 12) = false) :
    s.takeFlit p v = s.modPort p (·.credited v) := by
  obtain ⟨noFence, noHalt, noQuar, ack, noNak⟩ := flags8 v flags
  simp [State.takeFlit, noFence, noHalt, noQuar, noNak, notSent, Port.credited]

theorem State.takeFlit_naks (flags : fld v 0 0 5 = 0x10) (sent : (s.port p).inFlight (fld v 4 0 12) = true) :
    s.takeFlit p v = ((s.modPort p (·.credited v)).count (ctrPort p 5) 1).resend p (some (fld v 4 0 12)) := by
  obtain ⟨noFence, noHalt, noQuar, noAck, nak⟩ := flags16 v flags
  have still : ((s.port p).credited v).inFlight (fld v 4 0 12) = true := sent
  have credit : (s.modPort p fun x => { x with
      peerFence := false, peerHalt := false, peerQuar := false, peerFreed := (List.range 6).map fun i => fld v (8 + 2 * i) 0 16 })
        = s.modPort p (·.credited v) := rfl
  simp only [State.takeFlit, noFence, noHalt, noQuar, noAck, nak]
  simp [credit, still]

end

section
variable {s : State} {p : Fin 24}

/-- A good link flit is taken by a trained port. -/
theorem exec_linkFlit_taken {bytes : List Byte} (running : s.halted = false) (trained : 4 ≤ (s.port p).state) (up : (s.port p).state ≤ 7)
    (length : bytes.length = 64) (crc : leNat (bytes.drop 60) = crc32 (bytes.take 60)) :
    exec (.linkFlit p bytes) s = .next (s.takeFlit p (leNat bytes)) := by
  have low : ¬ (s.port p).state < 4 := Nat.not_lt.2 trained
  have high : ¬ 7 < (s.port p).state := Nat.not_lt.2 up
  simp only [exec, execLinkFlit]
  rw [if_neg (by simp [running, low, high, length, crc])]

theorem exec_retryTimeout_resends (running : s.halted = false) (trained : 4 ≤ (s.port p).state) (up : (s.port p).state ≤ 7) :
    exec (.retryTimeout p) s = .next (s.resend p none) := by
  have low : ¬ (s.port p).state < 4 := Nat.not_lt.2 trained
  have high : ¬ 7 < (s.port p).state := Nat.not_lt.2 up
  simp only [exec, execRetryTimeout]
  rw [if_neg (by simp [running, low, high])]

end

/-- Settles O32: each flit and each timeout by the round of resending that it makes, if any. -/
theorem portRetries : Obligations.PortRetries := by
  unfold Obligations.PortRetries
  intro s p running trained up
  have resends := exec_retryTimeout_resends (p := p) running trained up
  refine ⟨fun bytes v length crc is flags => ⟨fun sent => ?acks, fun notSent => ?credits⟩,
    fun bytes v length crc is flags sent rounds waiting base consecutive => ?naks, fun bytes length crc => ?bad, fun empty => ?idle,
    fun waiting rounds => ?times, fun waiting rounds => ?retrains, fun nak => ?repeats, fun noNak => ?silent⟩
  case acks =>
    subst is
    exact (exec_linkFlit_taken running trained up length crc).trans (congrArg _ (State.takeFlit_acks flags sent))
  case credits =>
    subst is
    exact (exec_linkFlit_taken running trained up length crc).trans (congrArg _ (State.takeFlit_credits flags notSent))
  case naks =>
    subst is
    have small : fld (leNat bytes) 4 0 12 < 2 ^ 12 := bits_lt ..
    have taken := exec_linkFlit_taken (p := p) running trained up length crc
    rw [State.takeFlit_naks flags sent] at taken
    generalize credited : ((s.modPort p (·.credited (leNat bytes))).count (ctrPort p 5) 1) = u at taken
    have port : u.port p = (s.port p).credited (leNat bytes) := by rw [← credited, State.count_port_eq, State.modPort_port]
    have others : ∀ k, k ≠ p.val → u.port k = s.port k := fun k other => by
      rw [← credited, State.count_port_eq, State.modPort_port_ne other]
    rw [State.resend_from small (port ▸ waiting) (port ▸ rounds) (port ▸ base) (port ▸ consecutive)] at taken
    refine ⟨_, taken, ?_, ?_, ?_, ?_, ?_, fun k other => ?_, ?_⟩
    · rw [State.resent_port, State.modPort_port]
      exact (Port.renumber_replay small (port ▸ base) (port ▸ consecutive)).trans (by rw [port]; rfl)
    · rw [State.resent_port, State.modPort_port, port]
      rfl
    · have distinct : ctrPort p 5 ≠ ctrPort p 4 := by simp [ctrPort]
      rw [State.resent_counter, if_neg distinct]
      show u.counter _ = _
      rw [← credited, State.counter_count, if_pos rfl]
      rfl
    · have distinct : ctrPort p 4 ≠ ctrPort p 5 := by simp [ctrPort]
      rw [State.resent_counter, if_pos rfl, port]
      show (u.counter _ + _) % _ = _
      rw [← credited, State.counter_count, if_neg distinct]
      rfl
    · rw [State.resent_out, port, ← credited]
      rfl
    · rw [State.resent_port_ne _ _ _ other, State.modPort_port_ne other, others k other]
    · rw [State.resent_mem, ← credited]
      rfl
  case bad =>
    simp [exec, execLinkFlit, length, crc]
  case idle =>
    rw [resends, State.resend_none empty]
  case times =>
    rw [State.resend_all waiting rounds] at resends
    exact ⟨_, resends, State.resent_port .., (State.resent_counter ..).trans (if_pos rfl), State.resent_out ..,
      fun _ other => State.resent_port_ne _ _ _ other, State.resent_mem ..⟩
  case retrains =>
    rw [State.resend_retrains waiting rounds] at resends
    obtain ⟨state, rounds, replay, -⟩ := enterRetrain_port s p 0
    exact ⟨_, resends, state, rounds, replay, keepBytes (State.enterRetrain_keeps (Keeps.refl s))⟩
  case repeats =>
    have low : ¬ (s.port p).state < 4 := by omega
    have high : ¬ 7 < (s.port p).state := by omega
    simp [exec, execNakRepeat, running, low, high, nak, State.sendFlit]
  case silent =>
    simp [exec, execNakRepeat, noNak]

end Sys2Proof.Machine
end

section
/-! SUPPORT. Arbitration at a frame boundary (09 R254, R257, R258, R272): which frame a port sends, and as what. -/

namespace Sys2Proof.Machine

section
variable {s : State} {p : Nat} (running : s.halted = false) (room : (s.port p).replayRoom = true)
include running room

/-- A trained port that is not ACTIVE sends the first frame that its state carries and the peer has room for. -/
theorem State.arbitrate_carried {f : TxFrame} (inactive : (s.port p).state ≠ 6)
    (first : ((s.port p).queue.find? fun f => (s.port p).carries f.hdr && (s.port p).hasCredit f) = some f) :
    s.arbitrate p = s.transmit p f := by
  simp [State.arbitrate, running, room, inactive, first]

theorem State.arbitrate_idle (inactive : (s.port p).state ≠ 6)
    (none : ((s.port p).queue.find? fun f => (s.port p).carries f.hdr && (s.port p).hasCredit f) = none) :
    s.arbitrate p = s.sendFlit p false := by
  simp [State.arbitrate, running, room, inactive, none]

/-- An ACTIVE port sends a CTL frame before all others, when it has not just sent one. -/
theorem State.arbitrate_control {f : TxFrame} (active : (s.port p).state = 6) (unbound : s.portEntry p = none)
    (alternates : (s.port p).lastCtl = false) (first : (s.port p).queue.find? (·.arb == 4) = some f)
    (credit : (s.port p).hasCredit f = true) (turn : s.itsTurn f = true) :
    s.arbitrate p = s.transmit p f := by
  simp [State.arbitrate, running, room, active, unbound, alternates, first, credit, turn, Option.filter_some]

end

/-- A PING leaves with the count of the moment (R272). -/
theorem State.asSent_ping (s : State) {f : TxFrame} (ctl : hdrType f.hdr = 2) (ping : hdrOpcode f.hdr = 2) :
    (s.asSent f).payload = leBytes 8 s.clk.ref := by
  unfold State.asSent
  extract_lets g
  have payload : g.payload = leBytes 8 s.clk.ref := by simp [g, ctl, ping]
  split <;> exact payload

theorem State.asSent_who (s : State) (f : TxFrame) : (s.asSent f).who = f.who := by
  unfold State.asSent
  extract_lets g
  have who : g.who = f.who := by
    dsimp only [g]
    split <;> rfl
  split <;> exact who

/-- Settles O33: the port sends the frame that its state's rule gives, and a frame sent is as `transmit` leaves it. -/
theorem portArbitration : Obligations.PortArbitration := by
  unfold Obligations.PortArbitration
  intro s p running trained up room
  have arbitrates : exec (.frameArbitrate p) s = .next (s.arbitrate p) := congrArg Host.Outcome.next (if_pos (by simp [trained, up]))
  refine ⟨fun inactive none => ?flit, fun f unawaited direct which => ?frame⟩
  case flit =>
    rw [arbitrates, State.arbitrate_idle running room inactive none]
    rfl
  case frame =>
    have sends : s.arbitrate p = s.transmit p f := by
      rcases which with ⟨inactive, first⟩ | ⟨active, unbound, alternates, first, credit, turn⟩
      · exact State.arbitrate_carried running room inactive first
      · exact State.arbitrate_control running room active unbound alternates first credit turn
    have whole : { s.asSent f with who := none } = s.asSent f := by
      rw [← unawaited, ← s.asSent_who f]
    obtain ⟨queue, replay, next, out, others, mem, rings, cores⟩ := transmit_plain s p f unawaited direct
    rw [whole] at replay
    exact ⟨_, arbitrates.trans (congrArg _ sends), queue, replay, next, out, fun ctl ping => s.asSent_ping ctl ping, others, mem, rings,
      cores⟩

end Sys2Proof.Machine
end

section
/-! SUPPORT. Training of a port, lost lanes and retrains (09 R248, R255, R266; 15 R406, R409, R420): what each leaves of the port. -/

namespace Sys2Proof.Machine

/-! ## What the loss of a neighbour leaves of the ports (R255, R260, R279) -/

/-- Every port is as it was but for the frames that it holds, the room that frames have freed, and a JOB_HOLD that it owes. -/
structure OnlyFrames (s t : State) : Prop where
  port : ∀ k, t.port k = { s.port k with
    queue := (t.port k).queue, replay := (t.port k).replay, freed := (t.port k).freed, holdOwed := (t.port k).holdOwed }

theorem OnlyFrames.refl (s : State) : OnlyFrames s s := ⟨fun _ => rfl⟩

theorem OnlyFrames.trans {s t u : State} (a : OnlyFrames s t) (b : OnlyFrames t u) : OnlyFrames s u :=
  ⟨fun k => by rw [b.port k, a.port k]⟩

theorem OnlyFrames.of_ports {s t : State} (same : t.ports = s.ports) : OnlyFrames s t :=
  ⟨fun k => by rw [State.port, same, State.port]⟩

theorem OnlyFrames.each {α : Type} {s t : State} {l : List α} {f : α → State → State} (h : OnlyFrames s t)
    (step : ∀ x u, OnlyFrames u (f x u)) : OnlyFrames s (t.each l f) := by
  induction l generalizing t with
  | nil => exact h
  | cons a l ih => exact ih (h.trans (step a t))

theorem State.modPort_onlyFrames (s : State) (p : Nat) {f : Port → Port}
    (frames : ∀ x, f x = { x with queue := (f x).queue, replay := (f x).replay, freed := (f x).freed, holdOwed := (f x).holdOwed }) :
    OnlyFrames s (s.modPort p f) := by
  refine ⟨fun k => ?_⟩
  by_cases is : k = p
  · subst is
    rw [State.modPort_port]
    exact frames _
  · rw [State.modPort_port_ne is]

theorem State.takeBack_onlyFrames (s : State) (gone : TxFrame → Bool) : OnlyFrames s (s.takeBack gone) := by
  refine ⟨fun k => ?_⟩
  have taken : (s.takeBack gone).port k = { s.port k with queue := (s.port k).queue.filter fun f => !(f.turn.isSome && gone f) } :=
    Tbl.get_map _ _ _ _ rfl
  rw [taken]

/-- An abort takes frames back; what else it does touches no port. -/
theorem State.abort_onlyFrames (s : State) (d : Nat) : OnlyFrames s (s.abort d) := by
  unfold State.abort
  extract_lets s1 s2 s3 gone cut s4 s5 s6 s7 s8
  have stopped : OnlyFrames s s3 := OnlyFrames.each (OnlyFrames.each (OnlyFrames.each (OnlyFrames.refl s)
    fun _ _ => OnlyFrames.of_ports rfl) fun _ _ => OnlyFrames.of_ports rfl) fun _ _ => OnlyFrames.of_ports rfl
  clear_value s3 gone cut
  have took : OnlyFrames s3 s4 := OnlyFrames.each (s3.takeBack_onlyFrames gone) fun f u => by
    split
    · exact OnlyFrames.of_ports (frameLeft_ports ..)
    · exact OnlyFrames.refl u
  clear_value s4
  exact (stopped.trans took).trans (OnlyFrames.of_ports (t := s8.countDist d 40 1) rfl)

theorem State.rollbackHold_onlyFrames (s : State) (d code unit info : Nat) : OnlyFrames s (s.rollbackHold d code unit info) := by
  unfold State.rollbackHold
  extract_lets t b u
  have event : OnlyFrames s t := OnlyFrames.of_ports State.event_ports
  split
  · exact event
  · have aborted : OnlyFrames t u := by
      dsimp only [u]
      split
      · exact OnlyFrames.of_ports rfl
      · exact State.abort_onlyFrames ..
    clear_value u
    unfold State.enterHold
    split
    · exact event.trans aborted
    · exact (event.trans aborted).trans (OnlyFrames.of_ports rfl)

theorem State.holdFor_onlyFrames (s : State) (d code unit info : Nat) : OnlyFrames s (s.holdFor d code unit info) := by
  unfold State.holdFor
  extract_lets b
  split <;> exact State.rollbackHold_onlyFrames ..

theorem State.killRing_onlyFrames (s : State) (d r : Nat) : OnlyFrames s (s.killRing d r) := by
  unfold State.killRing
  extract_lets x mine cut s1 s2 s3 s4 s5
  have took : OnlyFrames s s3 := (s.takeBack_onlyFrames mine).trans (OnlyFrames.of_ports rfl)
  have told : OnlyFrames s s5 := OnlyFrames.each (OnlyFrames.each took fun _ _ => OnlyFrames.of_ports (complete_ports ..))
    fun _ _ => OnlyFrames.of_ports (frameLeft_ports ..)
  clear_value s5
  split
  · exact told
  · split
    · exact told.trans (OnlyFrames.of_ports rfl)
    · exact told.trans (OnlyFrames.of_ports State.notice_ports)

theorem State.sendCtl_ports (s : State) (d l op : Nat) (body : List Byte) : (s.sendCtl d l op body).ports = s.ports := by
  unfold State.sendCtl
  split <;> rfl

theorem State.spreadHold_onlyFrames (s : State) (d : Nat) (except : Option Nat) (step attempt origin cause : Nat) :
    OnlyFrames s (s.spreadHold d except step attempt origin cause) := by
  unfold State.spreadHold
  refine OnlyFrames.each (OnlyFrames.refl s) fun l u => ?_
  split
  · exact OnlyFrames.of_ports (State.sendCtl_ports ..)
  · exact OnlyFrames.each (OnlyFrames.refl u) fun p v => v.modPort_onlyFrames p fun _ => rfl

theorem State.portLost_onlyFrames (s : State) (p cause : Nat) : OnlyFrames s (s.portLost p cause) := by
  unfold State.portLost
  split
  · exact OnlyFrames.refl s
  · split
    · exact OnlyFrames.refl s
    · split
      · exact OnlyFrames.refl s
      · unfold State.loseNeighbour
        extract_lets t u
        have dead : OnlyFrames s t := OnlyFrames.each (OnlyFrames.refl s) fun _ _ => State.killRing_onlyFrames ..
        clear_value t
        split
        · exact dead
        · exact (dead.trans (State.holdFor_onlyFrames ..)).trans (State.spreadHold_onlyFrames ..)

theorem State.moveFrames_onlyFrames (s : State) (p : Nat) : OnlyFrames s (s.moveFrames p) := by
  unfold State.moveFrames
  extract_lets x frames t
  have emptied : OnlyFrames s t := s.modPort_onlyFrames p fun _ => rfl
  clear_value t
  split
  · exact emptied
  · extract_lets up active
    refine OnlyFrames.each emptied fun f u => ?_
    split
    · exact u.modPort_onlyFrames _ fun _ => rfl
    · split
      · exact u.modPort_onlyFrames _ fun _ => rfl
      · exact OnlyFrames.refl u

/-- A port that goes DOWN keeps only that it is to train again; a third failed retrain makes it so (R255). -/
theorem State.goDark_down (s : State) (p dcause : Nat) : ((s.goDark p 0 dcause).port p).state = 0
    ∧ ((s.goDark p 0 dcause).port p).dcause = dcause ∧ ((s.goDark p 0 dcause).port p).downEv = true
    ∧ ((s.goDark p 0 dcause).port p).retrying = ((s.port p).retrying || dcause == 3) := by
  unfold State.goDark
  extract_lets t u
  have same : u.port p = t.port p := State.notice_port_eq
  have left : OnlyFrames u ((u.moveFrames p).portLost p 3) := (u.moveFrames_onlyFrames p).trans (State.portLost_onlyFrames ..)
  rw [left.port p, same, State.modPort_port]
  simp

/-! ## Lost lanes (R248) -/

theorem Port.spareFor_used {x : Port} {lane i : Nat} (data : i < 4) (works : laneAt x.map i = lane) : (x.spareFor lane).spareUsed = true := by
  unfold Port.spareFor
  split
  next none => exact absurd (beq_iff_eq.2 works) (List.find?_eq_none.1 none i (List.mem_range.2 data))
  next => rfl

theorem State.saveTables_ports (s : State) : s.saveTables.ports = s.ports := by
  unfold State.saveTables
  split
  · rfl
  · extract_lets tables t
    split <;> rfl

theorem State.saveTables_cnt (s : State) : s.saveTables.cnt = s.cnt := by
  unfold State.saveTables
  split
  · rfl
  · extract_lets tables t
    split <;> rfl

/-- The spare takes over from a lane of data, counted, and the tables are saved. -/
def State.laneReplaced (s : State) (p lane : Nat) : State := ((s.modPort p (·.spareFor lane)).count (ctrPort p 19) 1).saveTables

theorem State.laneReplaced_port (s : State) (p lane : Nat) : (s.laneReplaced p lane).port p = (s.port p).spareFor lane := by
  rw [State.laneReplaced, State.port, State.saveTables_ports]
  exact State.count_port_eq.trans State.modPort_port

theorem State.laneReplaced_counter (s : State) (p lane j : Nat) : (s.laneReplaced p lane).counter j
    = if j = ctrPort p 19 then (s.counter (ctrPort p 19) + 1) % 2 ^ 64 else s.counter j :=
  (State.counter_of_cnt (State.saveTables_cnt _)).trans (State.counter_count ..)

theorem State.laneReplaced_mem (s : State) (p lane : Nat) : (s.laneReplaced p lane).mem = s.mem :=
  keepBytes (State.saveTables_keeps (State.count_keeps (State.modPort_keeps (Keeps.refl s))))

theorem State.enterRetrain_counter (s : State) (p info j : Nat) : (s.enterRetrain p info).counter j
    = if j = ctrPort p 6 then (s.counter (ctrPort p 6) + 1) % 2 ^ 64 else s.counter j := by
  rw [State.counter, enterRetrain_cnt, Tbl.get_set]
  rfl

theorem State.enterRetrain_mem (s : State) (p info : Nat) : (s.enterRetrain p info).mem = s.mem :=
  keepBytes (State.enterRetrain_keeps (Keeps.refl s))

theorem State.goDark_mem (s : State) (p st dcause : Nat) : (s.goDark p st dcause).mem = s.mem :=
  keepBytes (State.goDark_keeps (Keeps.refl s))

/-! ## The commands -/

section
variable {s : State} {p : Fin 24}

/-- A phase that fails ends DOWN. -/
theorem exec_linkTrainingPhaseEnd_fails {map pol : Nat} (allowed : s.mayTrain = true)
    (trains : (s.port p).state = 1 ∨ (s.port p).state = 2 ∨ (s.port p).state = 3) :
    exec (.linkTrainingPhaseEnd p false map pol none) s = .next (s.goDark p 0 1) := by
  rcases trains with detect | align | check
  · simp [exec, execLinkTrainingPhaseEnd, allowed, detect]
  · simp [exec, execLinkTrainingPhaseEnd, allowed, align]
  · simp [exec, execLinkTrainingPhaseEnd, allowed, check]

theorem exec_linkTrainingPhaseEnd_cards {map pol : Nat} (allowed : s.mayTrain = true) (check : (s.port p).state = 3) :
    exec (.linkTrainingPhaseEnd p true map pol none) s = .next (s.startCards p) := by
  simp [exec, execLinkTrainingPhaseEnd, allowed, check]

theorem exec_laneLoss_replaced {lane i : Nat} (trained : 4 ≤ (s.port p).state) (up : (s.port p).state ≤ 7)
    (free : (s.port p).spareUsed = false) (data : i < 4) (works : laneAt (s.port p).map i = lane) :
    exec (.laneLoss p lane) s = .next ((s.laneReplaced p lane).enterRetrain p (portInfo 0 lane)) := by
  have serves : ((List.range 4).any fun i => laneAt (s.port p).map i == lane) = true :=
    List.any_eq_true.2 ⟨i, List.mem_range.2 data, beq_iff_eq.2 works⟩
  have low : ¬ (s.port p).state < 4 := Nat.not_lt.2 trained
  have high : ¬ 7 < (s.port p).state := Nat.not_lt.2 up
  simp only [exec, execLaneLoss, serves, free]
  rw [if_neg (by simp [low, high])]
  rfl

theorem exec_retrainEnd_again (retrains : (s.port p).state = 8) (few : (s.port p).failedRetrains < 2) :
    exec (.retrainEnd p false) s
      = .next ((s.modPort p fun x => { x with failedRetrains := x.failedRetrains + 1 }).enterRetrain p 0) := by
  have notYet : ¬ 2 ≤ (s.port p).failedRetrains := Nat.not_le.2 few
  simp only [exec, execRetrainEnd, retrains, notYet, ne_eq, not_true_eq_false, Bool.false_eq_true, if_false]

theorem exec_retrainEnd_down (retrains : (s.port p).state = 8) (third : 2 ≤ (s.port p).failedRetrains) :
    exec (.retrainEnd p false) s = .next (s.goDark p 0 3) := by
  simp [exec, execRetrainEnd, retrains, third]

theorem exec_laneLockTimeout_retrains (powered : s.powered = true) (running : s.halted = false) (awake : s.pwr.state ≠ .drowse)
    (dark : (s.port p).state = 5 ∨ (s.port p).state = 7) : exec (.laneLockTimeout p) s = .next (s.enterRetrain p 0) := by
  have stands : ((s.port p).state == 5 || (s.port p).state == 7) = true := by simpa using dark
  simp only [exec, execLaneLockTimeout, stands]
  rw [if_neg (by simp [powered, running, awake])]

end

/-- A port that enters CARD has no echo and no card yet. -/
theorem State.startCards_port (s : State) (p : Nat) : ((s.startCards p).port p).state = 4 ∧ ((s.startCards p).port p).echoes = 0
    ∧ ((s.startCards p).port p).cardSeen = false := by
  unfold State.startCards
  extract_lets t
  obtain ⟨queue, sent⟩ := sendCard_port t p
  obtain ⟨state, echoes, seen⟩ := sendPings_port (t.sendCard p) p
  rw [sent, State.modPort_port] at state seen
  exact ⟨state, echoes, seen⟩

/-- Settles O34: each command by the one change that it makes of its port. -/
theorem portTraining : Obligations.PortTraining := by
  unfold Obligations.PortTraining
  intro s p map pol
  refine ⟨fun forbidden => ⟨?_, fun ok mix => ?_⟩, fun allowed down retrying => ?attempt, fun allowed down fresh => ?begins,
    fun allowed detect => ?detects, fun allowed align => ?aligns, fun allowed check => ?cards, fun allowed align lane => ?mixed,
    fun allowed trains => ?fails, fun lane i trained up free data works => ?lane, fun retrains few => ?again,
    fun retrains third => ?down, fun retrains noJoin unbound outside => ?held, fun powered running awake dark => ?locks⟩
  · simp [exec, execDownTrainingAttempt, forbidden]
  · simp [exec, execLinkTrainingPhaseEnd, forbidden]
  case attempt =>
    refine ⟨s.startTraining p, ?_, ?_⟩
    · simp [exec, execDownTrainingAttempt, allowed, down, retrying]
    · unfold State.startTraining
      rw [State.modPort_port]
      exact ⟨rfl, rfl, rfl, rfl, rfl, fun _ other => State.modPort_port_ne other, rfl⟩
  case begins =>
    refine ⟨s.startTraining p, ?_, ?_⟩
    · simp [exec, execLinkTrainingPhaseEnd, allowed, down, fresh]
    · rw [State.startTraining, State.modPort_port]
  case detects =>
    simp [exec, execLinkTrainingPhaseEnd, allowed, detect]
  case aligns =>
    simp [exec, execLinkTrainingPhaseEnd, allowed, align]
  case cards =>
    obtain ⟨state, echoes, seen⟩ := s.startCards_port p
    exact ⟨_, exec_linkTrainingPhaseEnd_cards allowed check, state, echoes, seen, keepBytes (State.startCards_keeps (Keeps.refl s))⟩
  case mixed =>
    refine ⟨(s.modPort p fun x => { x with dcause := 2 }).portNotice p 0x43 (portInfo 2 lane), ?_, ?_, State.notice_mem⟩
    · simp [exec, execLinkTrainingPhaseEnd, allowed, align]
    · rw [State.portNotice, State.notice_port_eq, State.modPort_port]
  case fails =>
    obtain ⟨state, dcause, downEv, retrying⟩ := s.goDark_down p 1
    exact ⟨_, exec_linkTrainingPhaseEnd_fails allowed trains, state, retrying.trans (Bool.or_false _), dcause, downEv, s.goDark_mem ..⟩
  case lane =>
    obtain ⟨state, -, -, map', used, -⟩ := enterRetrain_port (s.laneReplaced p lane) p (portInfo 0 lane)
    rw [State.laneReplaced_port] at map' used
    refine ⟨_, exec_laneLoss_replaced trained up free data works, state, map', used.trans (Port.spareFor_used data works), ?_, ?_⟩
    · rw [State.enterRetrain_counter, if_neg (by simp [ctrPort]), State.laneReplaced_counter, if_pos rfl]
    · rw [State.enterRetrain_mem, State.laneReplaced_mem]
  case again =>
    obtain ⟨state, -, -, -, -, failed, -⟩ := enterRetrain_port (s.modPort p fun x => { x with failedRetrains := x.failedRetrains + 1 }) p 0
    rw [State.modPort_port] at failed
    exact ⟨_, exec_retrainEnd_again retrains few, state, failed, State.enterRetrain_mem ..⟩
  case down =>
    obtain ⟨state, dcause, -, retrying⟩ := s.goDark_down p 3
    exact ⟨_, exec_retrainEnd_down retrains third, state, dcause, retrying.trans (Bool.or_true _), s.goDark_mem ..⟩
  case held =>
    have settles := settle_none (s := s.modPort p fun x => { x with failedRetrains := 0 }) (p := p) noJoin unbound outside
    rw [State.modPort_modPort] at settles
    simp [exec, execRetrainEnd, retrains, settles]
  case locks =>
    obtain ⟨state, -, -, -, -, -, noted⟩ := enterRetrain_port s p 0
    exact ⟨_, exec_laneLockTimeout_retrains powered running awake dark, state, noted, s.enterRetrain_mem ..⟩

end Sys2Proof.Machine
end

section
/-! SUPPORT. The end of a card exchange on a port that no image names (09 R266, R268). -/

namespace Sys2Proof.Machine

section
variable {s : State} {p d : Nat} (noJoin : s.orb.join = false) (unbound : s.portEntry p = none)
  (district : s.tensorDistrict p = some d)
include noJoin unbound district

theorem State.settle_held (noImage : s.active d = none) : s.settle p = s.modPort p fun x => { x with state := 5, qcause := 0 } := by
  simp [State.settle, cardMap_none noJoin unbound, district, noImage]

theorem State.settle_cardless (image : (s.active d).isSome) (noCard : (s.port p).cardHeld = false) :
    s.settle p = s.quarantine p 1 := by
  simp [State.settle, cardMap_none noJoin unbound, district, image, noCard]

end

/-- Settles O35: the exchange is settled without a card, by the district of the port and its image. -/
theorem cardTimeouts : Obligations.CardTimeouts := by
  unfold Obligations.CardTimeouts
  intro s p exchange unseen noJoin unbound
  have settles : exec (.cardTimeout p) s = .next (s.settle p) := congrArg Host.Outcome.next (if_pos (by simp [exchange, unseen]))
  refine ⟨fun outside => ?outside, fun d district noImage => ?noImage, fun d district image noCard => ?noCard⟩
  case outside => rw [settles, settle_none noJoin unbound outside]
  case noImage => rw [settles, State.settle_held noJoin unbound district noImage]
  case noCard =>
    rw [State.settle_cardless noJoin unbound district image noCard] at settles
    obtain ⟨state, qcause, counted, others⟩ := quarantine_plain s p 1 (by omega) unbound
    exact ⟨_, settles, state, qcause, counted, others, keepBytes (State.quarantine_keeps (Keeps.refl s))⟩

end Sys2Proof.Machine
end

section
/-! SUPPORT. Writes of shadowed, W1C and read-only registers (10 R305, 00 R9, R11): the word that the register takes, and the
refusal while its section waits. -/

namespace Sys2Proof.Machine

/-- A write that its register refuses whoever it comes from leaves the state, but for its completion. -/
theorem State.regWrite_refused {s : State} {st : Status} {r : Requester} {d : Nat} {b : Block} {o off v : Nat}
    (reaches : s.reaches r d b o) (block : blockOf off = some (b, o)) (aligned : off % 8 = 0)
    (put : ∀ m, s.regPut m d b o v = (st, s)) : s.regWrite r off v = s.emit (.access r (csrBase + off) st 0) := by
  obtain ⟨m, -, wrote⟩ := State.regWrite_of_reaches (v := v) reaches block aligned
  rw [wrote, put]

section
variable {s : State} {m : Bool} {d v : Nat}

/-! ## What each register does with its word -/

theorem State.shWrite_taken {sect : Nat} {f : State → State} (free : s.shBusy d sect = false) : s.shWrite d sect f = (.done, f s) :=
  if_neg (by simp [free])

theorem State.shWrite_busy {sect : Nat} {f : State → State} (busy : s.shBusy d sect = true) :
    s.shWrite d sect f = (.refusedBusy, s) :=
  if_pos busy

/-- ORB_PERIOD while the module does not count. -/
theorem State.regPut_period (idle : s.orb.run = false) : s.regPut m d .orb 0x008 v
    = s.shWrite d 2 fun s => { s with orb := { s.orb with periodSh := bits v 0 22 } } :=
  if_neg (by simp [idle])

theorem State.regPut_seed (n : Fin 4) : s.regPut m d .num (8 * n.val) v
    = s.shWrite n.val 0 fun s => s.modNum n.val fun x => { x with seedSh := v } := by
  have low : 8 * n.val < 0x020 := by omega
  have district : 8 * n.val / 8 = n.val := by omega
  simp only [State.regPut, State.numWrite, if_pos low, district]

theorem State.regPut_coreCheck (n : Nat) : s.regPut m d .core (0x10000 * n + 0x18) v
    = (.done, s.modCore n fun c => { c with
        checkFail := c.checkFail && !bit v 0, checkExhausted := c.checkExhausted && !bit v 1 }) := by
  have core : (0x10000 * n + 0x18) / 0x10000 = n := by omega
  have register : (0x10000 * n + 0x18) % 0x10000 = 0x18 := by omega
  rw [State.regPut, core, register]
  rfl

/-! ## Where the registers lie -/

theorem blockOf_seed (n : Fin 4) : blockOf (0xB00000 + 8 * n.val) = some (.num, 8 * n.val) := by
  have block : (0xB00000 + 8 * n.val) / 0x100000 = 11 := by omega
  have offset : (0xB00000 + 8 * n.val) % 0x100000 = 8 * n.val := by omega
  simp [blockOf, block, offset]

theorem isShadowed_seed (n : Fin 4) : isShadowed (0xB00000 + 8 * n.val) = true := by
  have low : 8 * n.val < 0x020 := by omega
  simp [isShadowed, blockOf_seed, low]

theorem blockOf_moon {o : Nat} (within : o < 0x100000) : blockOf (0xD00000 + o) = some (.moon, o) := by
  have block : (0xD00000 + o) / 0x100000 = 13 := by omega
  have offset : (0xD00000 + o) % 0x100000 = o := by omega
  simp [blockOf, block, offset]

/-- The cores' registers lie above the numbered blocks. -/
theorem blockOf_core {o : Nat} (within : o < 0x2000000) : blockOf (0x10000000 + o) = some (.core, o) := by
  have core : (decide (0x10000000 ≤ 0x10000000 + o) && decide (0x10000000 + o < 0x12000000)) = true := by
    simp only [Bool.and_eq_true, decide_eq_true_eq]
    omega
  unfold blockOf
  extract_lets
  split
  case h_15 => rw [if_pos core, Nat.add_sub_cancel_left]
  all_goals omega

end

theorem exec_shFieldWrite {s : State} {r : Requester} {off : Nat} {v : W64} (shadowed : isShadowed off = true) :
    exec (.shFieldWrite r off v) s = .next (s.regWrite r off v.toNat) :=
  congrArg Host.Outcome.next (if_pos shadowed)

/-- Settles O6: each register takes its word, or refuses it, as the equation of its block says. -/
theorem shadowAndPlainWrites : Obligations.ShadowAndPlainWrites := by
  unfold Obligations.ShadowAndPlainWrites
  intro s r d v
  refine ⟨?taken, ?busy, ?seed, ?check, ?readOnly⟩
  case taken =>
    intro reaches idle free
    rw [exec_shFieldWrite rfl, State.regWrite_done reaches rfl rfl fun _ =>
      (State.regPut_period idle).trans (State.shWrite_taken free)]
    rfl
  case busy =>
    intro reaches idle busy
    rw [exec_shFieldWrite rfl, State.regWrite_refused reaches rfl rfl fun _ =>
      (State.regPut_period idle).trans (State.shWrite_busy busy)]
    rfl
  case seed =>
    intro n reaches free
    rw [exec_shFieldWrite (isShadowed_seed n), State.regWrite_done reaches (blockOf_seed n) (by omega) fun _ =>
      (State.regPut_seed n).trans (State.shWrite_taken free)]
  case check =>
    intro n reaches
    have block : blockOf (0x10000018 + 0x10000 * n.val) = some (.core, 0x10000 * n.val + 0x18) := by
      rw [show 0x10000018 + 0x10000 * n.val = 0x10000000 + (0x10000 * n.val + 0x18) by omega]
      exact blockOf_core (by omega)
    exact congrArg _ (State.regWrite_done reaches block (by omega) fun _ => State.regPut_coreCheck n.val)
  case readOnly =>
    intro o within aligned reaches
    exact congrArg _ (State.regWrite_done reaches (blockOf_moon within) (by omega) fun _ => rfl)

end Sys2Proof.Machine
end

section
/-! SUPPORT. Writes of IMG_COMMIT and SNP_REQ (10 R291, R295, R301, 13 R378): what a word that none of the checks refuses leaves. -/

namespace Sys2Proof.Machine

section
variable {s : State} {d orbit : Nat} (running : s.halted = false) (unfenced : s.fenced d = false)
include running unfenced

/-- A load takes the range that stands in IMG_BASE and IMG_LEN, and clears what the last one found. -/
theorem State.imgLoad_begins (loadable : s.loadable d (s.district d).img.base (s.district d).img.len = true)
    (base : (s.district d).img.base % 64 = 0) (len : (s.district d).img.len % 64 = 0) (fits : (s.district d).img.len ≤ 134217728)
    (nonempty : (s.district d).img.len ≠ 0) (idle : (s.district d).img.shadow ≠ 1) (uncommitted : (s.district d).img.commit = 0) :
    s.imgLoad d 0 = (.done, s.modImg d fun g => { g with
      shadow := 1, loaded := none, loadBase := g.base, loadLen := g.len, loadErr := none
      errSection := 0, errCheck := 0, errEntry := 0, errOffset := 0 }) := by
  simp [State.imgLoad, running, unfenced, loadable, base, len, Nat.not_lt.2 fits, nonempty, idle, uncommitted]

/-- Over an active image any loaded image may be committed, a delta as well (R295). -/
theorem State.imgCommit_pending (counting : s.orb.run = true) (later : s.orb.number < orbit) (ready : (s.district d).img.shadow = 2)
    (uncommitted : (s.district d).img.commit = 0) (image : (s.district d).img.active.isSome) :
    s.imgCommit d orbit = (.done, s.modImg d fun g => { g with commit := 1, target := orbit }) := by
  have notFirst : (s.district d).img.active.isNone = false := by simpa using image
  simp [State.imgCommit, running, unfenced, ready, notFirst, Nat.not_le.2 later, counting, uncommitted]

end

section
variable {s : State} {d v : Nat}

/-! ## IMG_COMMIT words whose OP is the command's -/

theorem State.regPut_withOp_load {m : Bool} : s.regPut m d .img 0x010 (withOp v 1) = s.imgLoad d (bits v 0 48) := by
  rw [State.regPut_load (bits_withOp_op v 1 (by decide)), bits_withOp_orbit]

theorem State.regPut_withOp_commit {m : Bool} : s.regPut m d .img 0x010 (withOp v 2) = s.imgCommit d (bits v 0 48) := by
  rw [State.regPut_commit (bits_withOp_op v 2 (by decide)), bits_withOp_orbit]

/-! ## What is taken back or asked for -/

theorem State.imgCancel_withdraws (pending : (s.district d).img.commit ≠ 0) :
    s.imgCancel d = (.done, s.modImg d fun g => { g with commit := 0, target := 0 }) :=
  if_neg pending

theorem State.snpReq_waits (unfenced : s.fenced d = false) (counting : s.orb.run = true) (later : s.orb.number < bits v 0 48)
    (idle : (s.district d).snp.state = 0) :
    s.snpReq d v = (.done, s.modSnp d fun x => { x with orbit := bits v 0 48, state := 1 }) := by
  have named : bits v 0 48 ≠ 0 := by omega
  simp [State.snpReq, unfenced, named, Nat.not_le.2 later, counting, idle]

end

/-- Settles O10: each word reaches its register with its OP, and none of the register's checks refuses it. -/
theorem imageAndSnapshotWrites : Obligations.ImageAndSnapshotWrites := by
  unfold Obligations.ImageAndSnapshotWrites
  intro s r d v running unfenced
  refine ⟨?load, ?commit, ?cancel, ?snapshot⟩
  case load =>
    intro reaches noOrbit loadable base len fits nonempty idle uncommitted
    have wrote := State.regWrite_done (off := 0x200010) reaches rfl rfl fun _ => State.regPut_withOp_load.trans
      (noOrbit ▸ State.imgLoad_begins running unfenced loadable base len fits nonempty idle uncommitted)
    refine ⟨_, congrArg Host.Outcome.next wrote, ?_⟩
    simp
  case commit =>
    intro reaches counting later ready uncommitted image
    exact congrArg _ (State.regWrite_done (off := 0x200010) reaches rfl rfl fun _ => State.regPut_withOp_commit.trans
      (State.imgCommit_pending running unfenced counting later ready uncommitted image))
  case cancel =>
    intro reaches pending
    exact congrArg _ (State.regWrite_done (off := 0x200010) reaches rfl rfl fun _ =>
      (State.regPut_cancel (bits_withOp_op v.toNat 3 (by decide))).trans (State.imgCancel_withdraws pending))
  case snapshot =>
    intro reaches counting later idle
    exact congrArg _ (State.regWrite_done (off := 0x800000) reaches rfl rfl fun _ =>
      State.regPut_snpReq.trans (State.snpReq_waits unfenced counting later idle))

end Sys2Proof.Machine
end

section
/-! SUPPORT. The ends of a load and of the checks of a commit (10 R292, R296, R305). -/

namespace Sys2Proof.Machine

/-! ## The shadows that a loaded image sets -/

/-- A change made of each port of a list, which a second time changes nothing, is made of the ports listed. -/
theorem State.each_modPort_port {f : Port → Port} (idem : ∀ x, f (f x) = f x) (l : List Nat) (s : State) (p : Nat) :
    (s.each l fun q t => t.modPort q f).port p = if p ∈ l then f (s.port p) else s.port p := by
  induction l generalizing s with
  | nil => rfl
  | cons q l ih =>
    refine (ih (s.modPort q f)).trans ?_
    by_cases same : p = q
    · simp [same, idem]
    · simp [State.modPort_port_ne same, same]

/-- A port without the words that were written to its TLK registers. -/
def Port.unwritten (x : Port) : Port := { x with policySh := none, transitSh := none, serialSh := none }

section
variable {s : State} {d : Nat} {img : Image}

theorem State.loadShadows_orb : (s.loadShadows d img).orb = if img.sections.any (·.kind == 2) then
    { s.orb with periodSh := img.period, timeoutSh := img.timeout, leadSh := img.lead } else s.orb := by
  unfold State.loadShadows
  extract_lets has o t
  have barrier : t.orb = if has 2 then
      { s.orb with periodSh := img.period, timeoutSh := img.timeout, leadSh := img.lead } else s.orb := apply_ite State.orb ..
  split
  · exact (State.each_field State.orb (fun _ _ => State.modPort_orb) ..).trans barrier
  · exact barrier

/-- LINK_MAP takes the place of what was written to its district's ports. -/
theorem State.loadShadows_port {p : Nat} (links : img.sections.any (·.kind == 5) = true) (port : p < 24)
    (district : s.portDistrict p = some d) :
    (s.loadShadows d img).port p = (s.port p).unwritten := by
  unfold State.loadShadows
  extract_lets has o t
  have same : t.ports = s.ports ∧ ∀ q, t.portDistrict q = s.portDistrict q := by
    unfold t
    split <;> exact ⟨rfl, fun _ => rfl⟩
  obtain ⟨ports, districts⟩ := same
  have own : t.port p = s.port p := congrArg (fun x => x.get {} p) ports
  have listed : p ∈ (List.range 24).filter fun q => t.portDistrict q == some d := by simp [port, districts, district]
  rw [if_pos links]
  exact (State.each_modPort_port (f := Port.unwritten) (fun _ => rfl) ..).trans ((if_pos listed).trans (congrArg _ own))

end

/-! ## The end of a load -/

/-- A district's load as a finding, a fence or a halt ends it. -/
def State.failLoad (s : State) (d : Nat) (st : Status) (check sect : Nat) : State :=
  s.modImg d fun g => { g with
    shadow := 0, loaded := none, loadResult := st.code, loadedEv := true
    errSection := sect, errCheck := check, errEntry := 0, errOffset := 0, loadErr := none }

section
variable {s : State} {d : Nat}

theorem State.endLoad_stopped (stopped : s.halted = true ∨ s.fenced d = true) :
    s.endLoad d = s.failLoad d (if s.halted then .halted else .fenced) 0 0 := by
  cases halted : s.halted
  · have fenced : s.fenced d = true := by simpa [halted] using stopped
    simp [State.endLoad, State.failLoad, halted, fenced]
  · simp [State.endLoad, State.failLoad, halted]

variable (running : s.halted = false) (unfenced : s.fenced d = false) (read : (s.district d).img.loadErr = none)
include running unfenced read

theorem State.endLoad_ready {img : Image}
    (found : s.loadFinding d (s.bytes (s.district d).img.loadBase (s.district d).img.loadLen) = .ok img) :
    s.endLoad d = (s.modImg d fun g =>
      { g with shadow := 2, loaded := some img, loadResult := Status.done.code, loadedEv := true }).loadShadows d img := by
  simp [State.endLoad, running, unfenced, read, found]

theorem State.endLoad_finding {st : Status} {check sect : Nat}
    (found : s.loadFinding d (s.bytes (s.district d).img.loadBase (s.district d).img.loadLen) = .error (st, check, sect)) :
    s.endLoad d = s.failLoad d st check sect := by
  simp [State.endLoad, State.failLoad, running, unfenced, read, found]

end

/-- The command's JOIN is the one that stands, since the end of a load keeps it. -/
theorem exec_loadEnd {s u : State} {d : Fin 4} (loading : (s.district d).img.shadow = 1) (ends : s.endLoad d = u)
    (join : u.orb.join = s.orb.join) : exec (.loadEnd d) s = .next (if s.orb.join then u.joinPorts else u) := by
  have ended : execLoadEnd d s = .next (if u.orb.join then u.joinPorts else u) := by
    rw [execLoadEnd, if_neg (by simp [loading]), ends]
  exact ended.trans (by rw [join])

/-- Settles O40: the three ends of a load, the shadows that it sets, and the two ends of the checks. -/
theorem loadsAndChecks : Obligations.LoadsAndChecks := by
  unfold Obligations.LoadsAndChecks
  rintro s d _ rfl
  refine ⟨fun img => loadFinding_ok, fun loading => ⟨fun running unfenced read => ⟨?ready, ?finding⟩, ?stopped⟩,
    ?orbit, ?links, ?checks⟩
  case ready =>
    rintro img _ found rfl
    refine exec_loadEnd loading (State.endLoad_ready running unfenced read found) ?_
    rw [State.loadShadows_orb]
    split <;> rfl
  case finding =>
    rintro st check sect _ found rfl
    exact exec_loadEnd loading (State.endLoad_finding running unfenced read found) rfl
  case stopped =>
    rintro stopped _ rfl
    rw [exec_loadEnd loading (State.endLoad_stopped stopped) rfl, State.failLoad, apply_ite Status.code]
  case orbit => exact fun u img orbit => State.loadShadows_orb.trans (if_pos orbit)
  case links =>
    intro u img p links port district
    rw [State.loadShadows_port links port district]
    exact ⟨rfl, rfl, rfl⟩
  case checks =>
    intro g checking result
    have ends : exec (.commitChecksEnd d) s = .next (s.endChecks d) := congrArg Host.Outcome.next (if_pos checking)
    rw [ends]
    refine ⟨fun clean => ?_, fun f first => ⟨worst_mem _ f first, ?_⟩⟩
    · simp [State.endChecks, result, clean]
    · simp [State.endChecks, result, first]

end Sys2Proof.Machine
end

section
/-! SUPPORT. Writes of the command and completion ring registers (11 R322, R336): what a word that the register takes leaves. -/

namespace Sys2Proof.Machine

section
variable {s : State} {d v : Nat}

theorem State.cmdTail_moves (good : (s.district d).host.badTailFor (bits v 0 32) = false) :
    s.cmdTail d v = (.done, s.modHost d fun h => { h with cmdTail := bits v 0 32 }) :=
  if_neg (by simp [good])

theorem State.cplHead_moves (posted : ahead (bits v 0 32) (s.district d).host.cplHead
      ≤ ahead (s.district d).host.cplTail (s.district d).host.cplHead) :
    s.cplHead d v = (.done, s.modHost d fun h => { h with cplHead := bits v 0 32 }) :=
  if_neg (Nat.not_lt.2 posted)

variable (enable : bit v 53 = true)
include enable

theorem State.cmdRing_enables (off : (s.district d).host.cmdEn = false)
    (sound : s.badRing d v 64 ((s.district d).host.cplEn && decide ((s.district d).host.cplLog2 < bits v 48 5)) = false) :
    s.cmdRing d v = (.done, s.modHost d fun h =>
      { h with cmdBase := bits v 0 48, cmdLog2 := bits v 48 5, cmdEn := true, cmdHead := 0, cmdTail := 0 }) := by
  simp [State.cmdRing, sound, off, enable]

theorem State.cplRing_enables (off : (s.district d).host.cplEn = false)
    (sound : s.badRing d v 32 ((s.district d).host.cmdEn && decide (bits v 48 5 < (s.district d).host.cmdLog2)) = false) :
    s.cplRing d v = (.done, s.modHost d fun h =>
      { h with cplBase := bits v 0 48, cplLog2 := bits v 48 5, cplEn := true, cplHead := 0, cplTail := 0 }) := by
  simp [State.cplRing, sound, off, enable]

end

/-- Settles O9: each write reaches its register, and none of the register's checks refuses the word. -/
theorem commandRingWrites : Obligations.CommandRingWrites := by
  unfold Obligations.CommandRingWrites
  intro s r d v
  refine ⟨?tail, ?head, ?commands, ?completions⟩
  case tail =>
    intro reaches good
    exact congrArg _ (State.regWrite_done (off := 0x300030) reaches rfl rfl fun _ =>
      State.regPut_cmdTail.trans (State.cmdTail_moves good))
  case head =>
    intro reaches posted
    exact congrArg _ (State.regWrite_done (off := 0x300050) reaches rfl rfl fun _ =>
      State.regPut_cplHead.trans (State.cplHead_moves posted))
  case commands =>
    intro reaches enable off sound
    exact congrArg _ (State.regWrite_done (off := 0x300028) reaches rfl rfl fun _ =>
      State.regPut_cmdRing.trans (State.cmdRing_enables enable off sound))
  case completions =>
    intro reaches enable off sound
    exact congrArg _ (State.regWrite_done (off := 0x300040) reaches rfl rfl fun _ =>
      State.regPut_cplRing.trans (State.cplRing_enables enable off sound))

end Sys2Proof.Machine
end

section
/-! SUPPORT. Requests of a QP at an open port (11 R316 to R319, R322): the answer of each, and what it does beside. -/

namespace Sys2Proof.Machine

/-! ## What an arrival and a write leave of the state -/

section
variable {s u : State}

theorem OnlyHosts.mem (o : OnlyHosts s u) : u.mem = s.mem := by rw [o.same]
theorem OnlyHosts.dist (o : OnlyHosts s u) : u.dist = s.dist := by rw [o.same]
theorem OnlyHosts.district (o : OnlyHosts s u) (d : Nat) : u.district d = s.district d := by
  rw [State.district, o.dist, State.district]
theorem OnlyHosts.paused (o : OnlyHosts s u) (p : Nat) : (u.hostPort p).paused = (s.hostPort p).paused := by rw [o.port]
theorem OnlyHosts.reads (o : OnlyHosts s u) (p qp : Nat) : (u.hostPort p).reads qp = (s.hostPort p).reads qp := by
  rw [o.port]
  rfl

theorem OnlyBytes.hostPort (b : OnlyBytes s u) (p : Nat) : u.hostPort p = s.hostPort p := by
  rw [State.hostPort, b, State.hostPort]

end

theorem State.put_onlyBytes (u : State) (d a n : Nat) (bs : List Byte) : OnlyBytes u ((u.write d a bs).wroteLines a n) :=
  (State.write_onlyBytes ..).trans (State.wroteLines_onlyBytes ..)

/-! ## Lengths above 2^31 (R316) -/

theorem rdmaPut_long {u : State} {d rkey addr : Nat} {data : List Byte} (long : 2 ^ 31 < data.length) :
    u.rdmaPut d rkey addr data = (u, if u.keyOk d rkey addr data.length true then .refusedInvalid else .refusedAccess) := by
  have nonempty : ¬ data.isEmpty = true := fun empty => by simp [List.isEmpty_iff.1 empty] at long
  rw [State.rdmaPut, if_neg nonempty]
  by_cases reached : u.keyOk d rkey addr data.length true = true
  · rw [if_neg (by simp [reached]), if_pos long, if_pos reached]
  · rw [if_pos (by simpa using reached), if_neg reached]

theorem rdmaGet_long {u : State} {d rkey addr len : Nat} (long : 2 ^ 31 < len) :
    u.rdmaGet d rkey addr len = (if u.keyOk d rkey addr len false then .refusedInvalid else .refusedAccess, []) := by
  have nonempty : ¬ len = 0 := by omega
  rw [State.rdmaGet, if_neg nonempty]
  by_cases reached : u.keyOk d rkey addr len false = true
  · rw [if_neg (by simp [reached]), if_pos long, if_pos reached]
  · rw [if_pos (by simpa using reached), if_neg reached]

theorem answerOf_done (p qp : Nat) : answerOf p qp .done none = .ack p qp := rfl

theorem answerOf_long (p qp : Nat) (reached : Bool) (bs : Option (List Byte)) :
    answerOf p qp (if reached then .refusedInvalid else .refusedAccess) bs = .nak p qp (if reached then .invalid else .access) := by
  cases reached <;> rfl

/-! ## The answer of a READ -/

/-- The answer of a READ at an open port: a NAK where 16 READs of its QP are outstanding (R313), unless its key does not reach. -/
def State.readAnswer (u : State) (p qp d rkey addr len : Nat) : Answer :=
  if (u.rdmaGet d rkey addr len).1 ≠ .refusedAccess && 16 ≤ (u.hostPort p).reads qp then .nak p qp .invalid
  else answerOf p qp (u.rdmaGet d rkey addr len).1 (some (u.rdmaGet d rkey addr len).2)

section
variable {u : State} {p qp d rkey addr len : Nat}

theorem State.readAnswer_long (long : 2 ^ 31 < len) :
    u.readAnswer p qp d rkey addr len = .nak p qp (if u.keyOk d rkey addr len false then .invalid else .access) := by
  rw [State.readAnswer, rdmaGet_long long]
  cases u.keyOk d rkey addr len false <;> simp [answerOf]

variable (nonempty : 0 < len) (short : len ≤ 2 ^ 31)
include nonempty short

theorem State.readAnswer_refused (refused : u.keyOk d rkey addr len false = false) :
    u.readAnswer p qp d rkey addr len = .nak p qp .access := by
  rw [State.readAnswer, rdmaGet_no nonempty short refused]
  rfl

variable (below : addr < csrBase) (reached : u.keyOk d rkey addr len false = true)
include below reached

theorem State.readAnswer_data (few : (u.hostPort p).reads qp < 16) :
    u.readAnswer p qp d rkey addr len = .data p qp (if isSram addr then u.bytes addr len else u.oldBytes d addr len) := by
  rw [State.readAnswer, rdmaGet_ok nonempty short below reached, if_neg (by simp [few])]
  rfl

theorem State.readAnswer_full (full : 16 ≤ (u.hostPort p).reads qp) : u.readAnswer p qp d rkey addr len = .nak p qp .invalid := by
  rw [State.readAnswer, rdmaGet_ok nonempty short below reached, if_pos (by simp [full])]

end

/-! ## A SEND of one entry (R322) -/

theorem State.appendEntries_one {u : State} {d : Nat} {data : List Byte} (one : data.length = 64)
    (enabled : (u.district d).host.cmdEn = true)
    (room : ahead (u.district d).host.cmdTail (u.district d).host.cmdHead < 2 ^ (u.district d).host.cmdLog2) :
    u.appendEntries d data = ((u.store ((u.district d).host.cmdBase
        + (u.district d).host.cmdTail % 2 ^ (u.district d).host.cmdLog2 * 64) data).modHost d fun h =>
      { h with cmdTail := (h.cmdTail + 1) % 2 ^ 32 }, .done) := by
  have entry : chunks 64 1 data = [data] := by simp [chunks, List.take_of_length_le (Nat.le_of_eq one)]
  have fits : ¬ 2 ^ (u.district d).host.cmdLog2 < ahead (u.district d).host.cmdTail (u.district d).host.cmdHead + 1 := by omega
  simp [State.appendEntries, one, enabled, fits, entry, State.each]

/-! ## Requests at an open port -/

section
variable {s : State} {p : Fin 4} {qp d : Nat} {ce : Bool} (up : s.hostUp p = true) (known : (s.qp p qp).isSome)
  (own : s.hostDistrict p = some d) (opened : s.portGate (some d) = none)
include up known own opened

theorem exec_rdmaWrite_open {rkey addr : Nat} {data : List Byte} {t : State} {st : Status}
    (put : (s.arrived p qp data.length ce).rdmaPut d rkey addr data = (t, st)) :
    exec (.rdmaWrite p qp rkey addr data ce) s = .next (t.giveAnswer p (answerOf p qp st none)) := by
  simp only [exec, execRdmaWrite, request_open up known own opened, put]

theorem exec_rdmaWriteImm_open {rkey addr : Nat} {data : List Byte} {imm : W32} {t : State} {st : Status}
    (put : (s.arrived p qp data.length ce).rdmaPut d rkey addr data = (t, st)) :
    exec (.rdmaWriteImm p qp rkey addr data imm ce) s
      = .next ((if st = .done then t.immediateTail d p imm.toNat else t).giveAnswer p (answerOf p qp st none)) := by
  simp only [exec, execRdmaWriteImm, request_open up known own opened, put]

theorem exec_rdmaRead_open {rkey addr len : Nat} :
    exec (.rdmaRead p qp rkey addr len ce) s
      = .next ((s.arrived p qp 0 ce).giveAnswer p ((s.arrived p qp 0 ce).readAnswer p qp d rkey addr len)) := by
  simp only [exec, execRdmaRead, request_open up known own opened, State.readAnswer]
  split <;> rfl

theorem exec_roceSend_open {data : List Byte} {t : State} {st : Status}
    (appended : (s.arrived p qp data.length ce).appendEntries d data = (t, st)) :
    exec (.roceSend p qp (some data) ce) s = .next (t.giveAnswer p (answerOf p qp st none)) := by
  simp only [exec, execRoceSend, request_open up known own opened, Option.getD_some, appended]

theorem exec_roceSend_unsupported :
    exec (.roceSend p qp none ce) s = .next ((s.arrived p qp 0 ce).giveAnswer p (.nak p qp .invalid)) := by
  simp only [exec, execRoceSend, request_open up known own opened, Option.getD_none, List.length_nil]
  rfl

end

/-- An immediate tail that is good is the new tail (R322). -/
theorem State.immediateTail_moves {s : State} {d v : Nat} (good : (s.district d).host.badTailFor v = false) (p : Nat) :
    s.immediateTail d p v = s.modHost d fun h => { h with cmdTail := v } := if_neg (by simp [good])

section
variable {s : State} {p : Fin 4} {qp d : Nat} {ce : Bool} {rkey addr : Nat} {data : List Byte} (up : s.hostUp p = true)
  (known : (s.qp p qp).isSome) (own : s.hostDistrict p = some d) (unpaused : (s.hostPort p).paused = [])
  (opened : s.portGate (some d) = none)

include unpaused in
/-- After a WRITE's data is stored, no priority of the port is paused still. -/
theorem State.put_unpaused :
    ((((s.arrived p qp data.length ce).write d addr data).wroteLines addr data.length).hostPort p).paused = [] := by
  rw [(State.put_onlyBytes ..).hostPort p, (arrived_onlyHosts ..).paused, unpaused]

include unpaused in
/-- A request that changes nothing is answered, and only its arrival is seen. -/
theorem giveAnswer_arrived (n : Nat) (a : Answer) :
    ((s.arrived p qp n ce).giveAnswer p a).out = .answer a :: (s.arrived p qp n ce).out
      ∧ ((s.arrived p qp n ce).giveAnswer p a).mem = s.mem ∧ ((s.arrived p qp n ce).giveAnswer p a).dist = s.dist := by
  have arrival := arrived_onlyHosts s p qp n ce
  obtain ⟨out, mem, dist, -⟩ := giveAnswer_out (a := a) ((arrival.paused p).trans unpaused)
  exact ⟨out, mem.trans arrival.mem, dist.trans arrival.dist⟩

include up known own unpaused opened

section
variable (put : (s.arrived p qp data.length ce).rdmaPut d rkey addr data
  = (((s.arrived p qp data.length ce).write d addr data).wroteLines addr data.length, .done))
include put

/-- A WRITE that may: its data is stored and it is acknowledged. -/
theorem exec_rdmaWrite_stores : ∃ t, exec (.rdmaWrite p qp rkey addr data ce) s = .next t
    ∧ t.mem = ((s.arrived p qp data.length ce).write d addr data).mem
    ∧ t.out = .answer (.ack p qp) :: (s.arrived p qp data.length ce).out
    ∧ t.rings = s.rings ∧ t.cores = s.cores ∧ t.windows = s.windows := by
  have arrival := arrived_onlyHosts s p qp data.length ce
  have bytes := State.put_onlyBytes (s.arrived p qp data.length ce) d addr data.length data
  obtain ⟨out, mem, -, rings, cores, windows⟩ := giveAnswer_out (a := .ack p qp) (State.put_unpaused unpaused)
  refine ⟨_, exec_rdmaWrite_open up known own opened put, mem.trans State.wroteLines_mem, out.trans ?_, rings.trans ?_, cores.trans ?_,
    windows.trans ?_⟩
  · rw [bytes]
  · rw [bytes, arrival.same]
  · rw [bytes, arrival.same]
  · rw [bytes, arrival.same]

/-- So is the data of a WRITE with an immediate, which is then the new tail. -/
theorem exec_rdmaWriteImm_stores {imm : W32} (good : (s.district d).host.badTailFor imm.toNat = false) :
    ∃ t, exec (.rdmaWriteImm p qp rkey addr data imm ce) s = .next t
      ∧ t.mem = ((s.arrived p qp data.length ce).write d addr data).mem ∧ (t.district d).host.cmdTail = imm.toNat
      ∧ t.out = .answer (.ack p qp) :: (s.arrived p qp data.length ce).out := by
  have arrival := arrived_onlyHosts s p qp data.length ce
  have bytes := State.put_onlyBytes (s.arrived p qp data.length ce) d addr data.length data
  have run := exec_rdmaWriteImm_open (imm := imm) up known own opened put
  rw [if_pos rfl, State.immediateTail_moves (by rw [put_host, arrival.district, good]), answerOf_done] at run
  obtain ⟨out, mem, dist, -⟩ := giveAnswer_out (a := .ack p qp)
    (s := (((s.arrived p qp data.length ce).write d addr data).wroteLines addr data.length).modHost d fun h =>
      { h with cmdTail := imm.toNat }) (State.put_unpaused unpaused)
  refine ⟨_, run, mem.trans State.wroteLines_mem, ?_, out.trans ?_⟩
  · rw [State.district_of_dist dist d, State.modHost_district]
  · rw [State.modHost_out, bytes]

end

/-- A SEND of one entry that fits is stored at the ring's tail and acknowledged. -/
theorem exec_roceSend_appends (one : data.length = 64) (enabled : (s.district d).host.cmdEn = true)
    (room : ahead (s.district d).host.cmdTail (s.district d).host.cmdHead < 2 ^ (s.district d).host.cmdLog2) :
    ∃ t, exec (.roceSend p qp (some data) ce) s = .next t
      ∧ t.mem = Memory.write s.mem ((s.district d).host.cmdBase
        + (s.district d).host.cmdTail % 2 ^ (s.district d).host.cmdLog2 * 64) data
      ∧ (t.district d).host = { (s.district d).host with cmdTail := ((s.district d).host.cmdTail + 1) % 2 ^ 32 }
      ∧ t.out = .answer (.ack p qp) :: (s.arrived p qp 64 ce).out := by
  have arrival := arrived_onlyHosts s p qp 64 ce
  have appended := State.appendEntries_one (u := s.arrived p qp 64 ce) (d := d) one (by rwa [arrival.district])
    (by rwa [arrival.district])
  rw [arrival.district d] at appended
  generalize place : (s.district d).host.cmdBase + (s.district d).host.cmdTail % 2 ^ (s.district d).host.cmdLog2 * 64 = a at appended
  have stored := State.store_onlyBytes (s.arrived p qp 64 ce) a data
  have idle : (((s.arrived p qp 64 ce).store a data).hostPort p).paused = [] := by rw [stored.hostPort, arrival.paused, unpaused]
  obtain ⟨out, mem, dist, -⟩ := giveAnswer_out (a := .ack p qp)
    (s := ((s.arrived p qp 64 ce).store a data).modHost d fun h => { h with cmdTail := (h.cmdTail + 1) % 2 ^ 32 }) idle
  have run := exec_roceSend_open up known own opened
    ((congrArg (fun n => (s.arrived p qp n ce).appendEntries d data) one).trans appended)
  rw [answerOf_done] at run
  refine ⟨_, run, mem.trans ?_, ?_, out.trans ?_⟩
  · rw [State.modHost_mem, State.store_mem, arrival.mem]
  · rw [State.district_of_dist dist d, State.modHost_district, State.store_district_eq, arrival.district]
  · rw [State.modHost_out, stored]

end

/-- Settles O36: each request is answered as its effect on the state that the arrival left says. -/
theorem hostRequests : Obligations.HostRequests := by
  unfold Obligations.HostRequests
  intro s p qp d ce up known own unpaused opened
  have answered := giveAnswer_arrived (s := s) (p := p) (qp := qp) (ce := ce) unpaused
  refine ⟨?write, ?longWrite, ?longRead, ?read, ?send, ?unsupported⟩
  case write =>
    rintro rkey addr data nonempty short below u rfl
    refine ⟨fun reached => ?_, fun refused => ⟨?_, fun imm => ?_⟩⟩
    · have put := rdmaPut_ok nonempty short below reached
      exact ⟨exec_rdmaWrite_stores up known own unpaused opened put,
        fun imm good => exec_rdmaWriteImm_stores up known own unpaused opened put good⟩
    · obtain ⟨out, mem, -⟩ := answered data.length (.nak p qp .access)
      exact ⟨_, exec_rdmaWrite_open up known own opened (rdmaPut_no nonempty short refused), mem, out⟩
    · obtain ⟨out, mem, dist⟩ := answered data.length (.nak p qp .access)
      have run := exec_rdmaWriteImm_open (imm := imm) up known own opened (rdmaPut_no nonempty short refused)
      rw [if_neg (by decide)] at run
      exact ⟨_, run, mem, dist, out⟩
  case longWrite =>
    rintro rkey addr data long u rfl
    obtain ⟨out, mem, -⟩ := answered data.length
      (.nak p qp (if (s.arrived p qp data.length ce).keyOk d rkey addr data.length true then .invalid else .access))
    have run := exec_rdmaWrite_open up known own opened
      (rdmaPut_long (u := s.arrived p qp data.length ce) (rkey := rkey) (addr := addr) long)
    rw [answerOf_long] at run
    exact ⟨_, run, mem, out⟩
  case longRead =>
    rintro rkey addr len long u rfl
    have run := exec_rdmaRead_open (ce := ce) (rkey := rkey) (addr := addr) (len := len) up known own opened
    rw [State.readAnswer_long long] at run
    obtain ⟨out, mem, -⟩ := answered 0 (.nak p qp (if (s.arrived p qp 0 ce).keyOk d rkey addr len false then .invalid else .access))
    exact ⟨_, run, mem, out⟩
  case read =>
    rintro rkey addr len nonempty short below few u rfl
    have run := exec_rdmaRead_open (ce := ce) (rkey := rkey) (addr := addr) (len := len) up known own opened
    refine ⟨fun reached => ?_, fun refused => ?_⟩
    · rw [State.readAnswer_data nonempty short below reached (by rwa [(arrived_onlyHosts ..).reads])] at run
      obtain ⟨out, mem, -⟩ := answered 0 _
      exact ⟨_, run, out, mem⟩
    · rw [State.readAnswer_refused nonempty short refused] at run
      obtain ⟨out, mem, -⟩ := answered 0 (.nak p qp .access)
      exact ⟨_, run, out, mem⟩
  case send =>
    intro data one enabled room
    exact exec_roceSend_appends up known own unpaused opened one enabled room
  case unsupported =>
    obtain ⟨out, mem, dist⟩ := answered 0 (.nak p qp .invalid)
    exact ⟨_, exec_roceSend_unsupported up known own opened, mem, dist, out⟩

end Sys2Proof.Machine
end

section
/-! SUPPORT. Connections, congestion, flow control, outstanding READs and neighbours of a host port (11 R313 to R315, R446). -/

namespace Sys2Proof.Machine

/-- A port in service has its link up. -/
theorem State.link_of_hostUp {s : State} {p : Nat} (up : s.hostUp p = true) : (s.hostPort p).link = true :=
  (Bool.and_eq_true_iff.1 up).1

/-! ## Connections (R313) -/

/-- A QP as a request for a connection makes it. -/
def Qp.opened (remote : Nat) : Qp :=
  { connected := false, remote := remote, alpha := ⟨1, 1⟩, rc := ⟨lineRate, 1⟩, rt := ⟨lineRate, 1⟩, quiet := 0, cnpAt := none }

section
variable {s : State} {p : Fin 4} (up : s.hostUp p = true)
include up

theorem exec_cmReq_accepts {remote q d : Nat} (own : s.hostDistrict p = some d) (opened : s.portGate (some d) = none)
    (free : ((List.range 256).find? fun q => (s.qp p q).isNone) = some q) :
    exec (.cmReq p remote) s
      = .next ((s.modHostPort p fun x => { x with qps := x.qps.set q (Qp.opened remote) }).emit (.answer (.rep p q remote))) := by
  simp only [exec, execCmReq, up, own, opened, free]
  rfl

theorem exec_cmReq_rejects {remote : Nat} (full : ((List.range 256).find? fun q => (s.qp p q).isNone) = none) :
    exec (.cmReq p remote) s = .next ((s.count (ctrHost p 14) 1).emit (.answer (.rej p remote))) := by
  simp [exec, execCmReq, up, full]

theorem exec_cmRtu_connects (qp : Nat) : exec (.cmRtu p qp) s = .next (s.modQp p qp Qp.connect) := congrArg _ (if_pos up)

theorem exec_cmDreq_drops {qp : Nat} {x : Qp} (known : s.qp p qp = some x) :
    exec (.cmDreq p qp) s = .next ((s.modHostPort p fun x =>
      HostPort.takeAddress { x with qps := ⟨x.qps.entries.filter fun e => e.1 != qp⟩ }).emit (.answer (.drep p qp))) := by
  simp [exec, execCmDreq, up, known]

/-! ## Congestion (R315) -/

theorem exec_cnp_slows (qp : Nat) : exec (.cnp p qp) s = .next ((s.count (ctrHost p 9) 1).modQp p qp Qp.onCnp) :=
  congrArg _ (if_pos (State.link_of_hostUp up))

/-! ## Flow control (R313, R315) -/

theorem exec_pfcPause_pauses {prio : Nat} (priority : prio < 8) (enabled : bit (s.hostPort p).pfcEn prio = true) :
    exec (.pfcPause p prio) s = .next ((s.count (ctrHost p 11) 1).modHostPort p fun x =>
      { x with paused := addOnce x.paused prio, pausedAt := if x.paused.isEmpty then s.clk.up else x.pausedAt }) := by
  have inRange : ¬ 8 ≤ prio := by omega
  simp [exec, execPfcPause, State.link_of_hostUp up, inRange, enabled]

end

/-! ## Links (R317) -/

theorem exec_hostLinkUp_up {s : State} {p : Fin 4} (started : 6 ≤ s.pwr.stage) (rails : s.pwr.railsOn = true) :
    exec (.hostLinkUp p) s = .next (s.modHostPort p fun x => { x with link := true }) := by
  have late : ¬ s.pwr.stage < 6 := Nat.not_lt.2 started
  simp [exec, execHostLinkUp, late, rails]

/-! ## The end of a pause (R313, R315) -/

/-- A pause of a priority ends, and the time of a pause of the port that ends with it is counted. -/
def State.resumed (s : State) (p prio : Nat) : State :=
  let left := (s.hostPort p).paused.erase prio
  let t := s.modHostPort p fun x => { x with paused := left }
  if left.isEmpty then t.count (ctrHost p 12) ((s.clk.up - (s.hostPort p).pausedAt) / microsecond) else t

section
variable {s : State} {p : Nat} {prio : Nat}

theorem State.resumed_hostPort :
    (s.resumed p prio).hostPort p = { s.hostPort p with paused := (s.hostPort p).paused.erase prio } := by
  unfold State.resumed
  dsimp only
  split
  · rw [count_hostPort, modHostPort_self]
  · rw [modHostPort_self]

theorem State.resumed_out : (s.resumed p prio).out = s.out := by
  unfold State.resumed
  dsimp only
  split <;> rfl

theorem State.resumed_mem : (s.resumed p prio).mem = s.mem := by
  unfold State.resumed
  dsimp only
  split <;> rfl

end

section
variable {s : State} {p : Fin 4} {prio : Nat} (paused : prio ∈ (s.hostPort p).paused)
include paused

/-- The end of the requests' own pause lets the answers go that waited. -/
theorem exec_pfcPauseExpiry_resumes : exec (.pfcPauseExpiry p prio) s = .next (if prio = (s.hostPort p).rocePrio
    then ((s.resumed p prio).modHostPort p fun x => { x with queued := [] }).each (s.hostPort p).queued fun a t => t.emit (.answer a)
    else s.resumed p prio) := by
  simp [exec, execPfcPauseExpiry, paused, State.resumed]

theorem exec_pfcPauseTimeout_discards (own : prio = (s.hostPort p).rocePrio) :
    exec (.pfcPauseTimeout p prio) s = .next (((s.modHostPort p fun x => { x with queued := [] }).count (ctrHost p 13)
      (s.hostPort p).queued.length).notice 0x50 (s.hostDistrict p) p prio) := by
  have discarded : (s.modHostPort p fun x => if prio = x.rocePrio then { x with queued := [] } else x)
      = s.modHostPort p fun x => { x with queued := [] } := by
    simp only [State.modHostPort, if_pos own]
  simp only [exec, execPfcPauseTimeout, List.contains_eq_mem, paused, decide_true, Bool.not_true, Bool.false_eq_true, if_false, if_pos own,
    discarded]
  rfl

end

/-- An answer of a port whose requests' priority is paused waits. -/
theorem giveAnswer_waits {s : State} {p : Nat} {a : Answer} (paused : (s.hostPort p).rocePrio ∈ (s.hostPort p).paused) :
    ((s.giveAnswer p a).hostPort p).queued = (s.hostPort p).queued ++ [a] ∧ (s.giveAnswer p a).mem = s.mem := by
  unfold State.giveAnswer
  extract_lets x counted len t
  have same : t.hostPort p = s.hostPort p ∧ t.mem = s.mem := by
    unfold t counted
    split <;> exact ⟨rfl, rfl⟩
  rw [if_pos (by simpa using paused), modHostPort_self, same.1]
  exact ⟨rfl, same.2⟩

/-- Settles O37: each command by the change that it makes of its port. -/
theorem hostConnections : Obligations.HostConnections := by
  unfold Obligations.HostConnections
  intro s p up
  refine ⟨?request, fun remote => exec_cmReq_rejects up, fun qp x known => ⟨?ready, ?drop, ?congested, ?quiet⟩, ?pause,
    fun prio paused => ⟨?expiry, ?timeout⟩, ?outstanding, ?down, ?linkUp, ?neighbour⟩
  case request =>
    intro remote q d own opened free
    refine ⟨_, exec_cmReq_accepts up own opened free, rfl, rfl, Qp.opened remote, ?_, rfl, rfl, rfl⟩
    rw [State.qp, emit_hostPort, modHostPort_self]
    exact lookup_insert ..
  case ready =>
    obtain ⟨now, mem⟩ := modQp_qp known Qp.connect
    exact ⟨_, exec_cmRtu_connects up qp, mem, now⟩
  case drop =>
    refine ⟨_, exec_cmDreq_drops up known, ?_, rfl, rfl⟩
    rw [State.qp, emit_hostPort, modHostPort_self, takeAddress_qps]
    exact lookupKey_filter ..
  case congested =>
    obtain ⟨now, mem⟩ := modQp_qp (s := s.count (ctrHost p 9) 1) known Qp.onCnp
    exact ⟨_, exec_cnp_slows up qp, mem, now⟩
  case quiet =>
    obtain ⟨now, mem⟩ := modQp_qp known Qp.onQuiet
    exact ⟨_, x.onQuiet, rfl, now, rfl, rfl, rfl, rfl, mem⟩
  case pause =>
    intro prio priority enabled running
    refine ⟨_, exec_pfcPause_pauses up priority enabled, ?_, ?_, rfl⟩
    · rw [modHostPort_self]
      exact if_neg running
    · exact (State.counter_count ..).trans (if_pos rfl)
  case expiry =>
    refine ⟨_, exec_pfcPauseExpiry_resumes paused, ?_⟩
    by_cases own : prio = (s.hostPort p).rocePrio
    · rw [if_pos own, State.hostPort, answers_hosts, ← State.hostPort, modHostPort_self, State.resumed_hostPort, answers_out,
        answers_mem]
      exact ⟨rfl, fun _ => ⟨rfl, congrArg _ State.resumed_out⟩, State.resumed_mem⟩
    · rw [if_neg own, State.resumed_hostPort]
      exact ⟨rfl, fun same => absurd same own, State.resumed_mem⟩
  case timeout =>
    intro own
    refine ⟨_, exec_pfcPauseTimeout_discards paused own, ?_, State.notice_out, ?_, State.notice_mem⟩
    · rw [State.notice_hostPort_eq, count_hostPort, modHostPort_self]
    · rw [State.counter_notice, State.counter_count, if_pos rfl]
      rfl
  case outstanding =>
    intro qp d rkey addr len ce known own opened paused nonempty short below full reached
    have arrival := arrived_onlyHosts s p qp 0 ce
    have run := exec_rdmaRead_open (ce := ce) (rkey := rkey) (addr := addr) (len := len) up known own opened
    rw [State.readAnswer_full nonempty short below reached (arrival.reads p qp ▸ full)] at run
    obtain ⟨queued, mem⟩ := giveAnswer_waits (s := s.arrived p qp 0 ce) (a := .nak p qp .invalid) (by rw [arrival.port]; exact paused)
    refine ⟨_, run, queued.trans ?_, mem.trans arrival.mem⟩
    rw [arrival.port]
  case down => exact ⟨_, rfl, modHostPort_self .., fun k other => modHostPort_ne _ _ other⟩
  case linkUp =>
    intro u started rails
    exact ⟨_, exec_hostLinkUp_up started rails, modHostPort_self ..⟩
  case neighbour =>
    intro valid
    simp [exec, execNeighbourDiscovery, State.link_of_hostUp up, valid]

end Sys2Proof.Machine
end

section
/-! SUPPORT. Host commands (11 R320, R323 to R326): the next state of each that meets no refusal, and the post of a completion. -/

namespace Sys2Proof.Machine

/-- A command at the head that may start enters the list of those in progress. -/
theorem exec_commandStart_starts {s : State} {d : Fin 4} {e : Nat} (may : s.mayStartCmd d = true)
    (entry : e = s.cmdEntry d (s.district d).host.cmdHead) (least : 1 ≤ ceOp e) (most : ceOp e ≤ 9) :
    exec (.commandStart d) s = .next (s.modHost d fun h =>
      { h with cmdHead := ahead (h.cmdHead + 1) 0, cmds := h.cmds ++ [{ index := (s.district d).host.cmdHead, entry := e }] }) := by
  simp [exec, execCommandStart, may, ← entry, least, most]

section
variable {s : State} {d : Fin 4} {i e : Nat}

theorem exec_nop_finishes (started : s.cmdAt d i 1 0 = some e) :
    exec (.nop d i) s = .next (s.finishCmd d i (if ceSound e then .done else .refusedInvalid) 0) := by
  simp only [exec, execNop, started]

/-! ## Windows (R318, R324) -/

/-- The state after a window of a district opens as a WINDOW_OPEN says. -/
def State.windowOpened (s : State) (d w e : Nat) : State :=
  { s with windows := s.windows.set (256 * d + w) ⟨bits (ceC e) 0 22, ceA e, ceB e, bit (ceC e) 22, bit (ceC e) 23⟩ }

theorem exec_windowOpen_opens {w : Nat} {ws : List Nat} (started : s.cmdAt d i 5 0 = some e) (sound : ceSound e = true)
    (nonempty : ceB e ≠ 0) (base : ceA e % 4096 = 0) (size : ceB e % 4096 = 0) (tag : bits (ceC e) 0 22 ≠ 0)
    (rights : (bit (ceC e) 22 || bit (ceC e) 23) = true) (place : s.hostPlace d (ceA e) (ceB e) = true) (free : s.freeWindows d = w :: ws) :
    exec (.windowOpen d i) s = .next ((s.windowOpened d w e).finishCmd d i .done
      (put 0 8 w + put 8 2 d + put 10 22 (bits (ceC e) 0 22))) := by
  simp [exec, execWindowOpen, started, State.windowOpen, firstRefusal, cmdPlace_of_hostPlace place, sound, nonempty, base, size, tag,
    rights, free, State.windowOpened]

/-- The state after a window closes, which it does as soon as its command executes (log entry 73). -/
def State.windowClosed (s : State) (key : Nat) : State := { s with windows := ⟨s.windows.entries.filter fun w => w.1 != key⟩ }

theorem exec_windowClose_closes {x : Window} (started : s.cmdAt d i 6 0 = some e) (sound : ceSound e = true)
    (own : bits (ceC e) 8 2 = d) (control : bits (ceC e) 0 8 ≠ 0)
    (opened : lookupKey (256 * d + bits (ceC e) 0 8) s.windows.entries = some x) (tag : x.tag = bits (ceC e) 10 22) :
    exec (.windowClose d i) s = .next ((s.windowClosed (256 * d + bits (ceC e) 0 8)).finishCmd d i .done 0) := by
  simp [exec, execWindowClose, started, State.windowClose, firstRefusal, sound, own, control, opened, tag, State.windowClosed]

/-! ## Registers and orbits (R324) -/

theorem exec_csrRead_finishes {st : Status} {v : Nat} (started : s.cmdAt d i 7 0 = some e) (sound : ceSound e = true)
    (read : s.csrRead false d (ceA e) = (st, v)) : exec (.csrRead d i) s = .next (s.finishCmd d i st v) := by
  simp [exec, execCsrRead, started, sound, read]

theorem exec_csrWrite_finishes {st : Status} {u : State} (started : s.cmdAt d i 8 0 = some e) (sound : ceSound e = true)
    (wrote : s.csrWrite false d (ceA e) (ceC e) = (st, u)) : exec (.csrWrite d i) s = .next (u.finishCmd d i st 0) := by
  simp [exec, execCsrWrite, started, sound, wrote]

/-- WAIT_ORBIT finishes where orbits do not run or its orbit has come, and waits otherwise. -/
theorem exec_waitOrbit_waits (started : s.cmdAt d i 9 0 = some e) (sound : ceSound e = true) :
    exec (.waitOrbit d i) s = .next (if s.orb.run = false then s.finishCmd d i .refusedBusy 0
      else if ceA e ≤ s.orb.number then s.finishCmd d i .done s.orb.number else s.cmdStage d i 1) := by
  cases running : s.orb.run <;> simp [exec, execWaitOrbit, started, sound, firstRefusal, running]

end

/-! ## Completions (R326) -/

/-- The state in which the oldest command's completion entry stands in the ring. -/
def State.completionWritten (s : State) (d : Nat) (c : Cmd) (st : Status) (detail orbit : Nat) : State :=
  let h := (s.district d).host
  let a := h.cplBase + h.cplTail % 2 ^ h.cplLog2 * 32
  (s.store a (completionEntry c h.cplLog2 st detail orbit)).wroteLines a 32

theorem exec_completionPost_posts {s : State} {d : Fin 4} {c : Cmd} {rest : List Cmd} {st : Status} {detail orbit : Nat}
    (oldest : (s.district d).host.cmds = c :: rest) (finished : c.done = some (st, detail, orbit)) (memory : s.memoryUp = true)
    (unfenced : s.fenced d = false) (enabled : (s.district d).host.cplEn = true) :
    exec (.completionPost d) s = .next (((s.completionWritten d c st detail orbit).modHost d fun h =>
      { h with cmds := rest, cplTail := ahead (h.cplTail + 1) 0 }).countDist d 49 1) := by
  simp [exec, execCompletionPost, oldest, finished, memory, unfenced, enabled, State.completionWritten]

/-- Settles O38: each command by its own next state. -/
theorem hostCommands : Obligations.HostCommands := by
  unfold Obligations.HostCommands
  intro s d
  refine ⟨?start, fun i e => exec_nop_finishes, ?windowOpen, ?windowClose, fun i e st v => exec_csrRead_finishes,
    fun i e st u => exec_csrWrite_finishes, fun i e => exec_waitOrbit_waits, ?completion⟩
  case start =>
    intro e may entry least most
    refine ⟨_, exec_commandStart_starts may entry least most, ?_, rfl, rfl⟩
    rw [State.modHost_district]
  case windowOpen =>
    intro i e w ws started sound nonempty base size tag rights place free
    exact exec_windowOpen_opens started sound nonempty base size tag rights place free
  case windowClose =>
    intro i e x started sound own control opened tag
    exact ⟨_, exec_windowClose_closes started sound own control opened tag, lookupKey_filter ..,
      fun k other => lookupKey_filter_ne other _, rfl⟩
  case completion =>
    intro c rest st detail orbit oldest finished memory unfenced enabled
    refine ⟨_, exec_completionPost_posts oldest finished memory unfenced enabled, ?_, ?_⟩
    · rw [State.countDist_district_eq, State.modHost_district, State.completionWritten, wroteLines_host, State.store_district_eq]
    · rw [State.countDist_mem, State.modHost_mem, State.completionWritten, State.wroteLines_mem, State.store_mem]

end Sys2Proof.Machine
end

section
/-! SUPPORT. Vendor commands of an owner's session (11 R308, R309; 12 R341; 13 R380; 14 R385, R397, R401, R404): what each answers and
leaves. -/

namespace Sys2Proof.Machine

section
variable {s : State} {q : MReq} (takes : s.takesVendor q = true) (listed : q.unlisted = false) (owner : s.ownerSession q = true)
include takes listed owner

/-- A listed vendor command of an owner's session answers what its effect does. -/
theorem State.vendor_answers {f : State → State × Status × List Byte} {t : State} {st : Status} {data : List Byte}
    (does : f s = (t, st, data)) : s.vendor q f = t.reply q st data := by
  rw [vendor_ok takes owner listed, does]

/-! ## Definitions (R308, R309) -/

theorem exec_districtSet_unsound {defs : List DistrictDef} (unsound : defsOk defs = false) :
    exec (.districtSet q defs) s = .next (s.reply q .refusedInvalid []) :=
  congrArg _ (State.vendor_answers takes listed owner (if_pos (by simp [unsound])))

theorem exec_districtSet_busy {defs : List DistrictDef} {d : Nat} {x : DistrictDef} (sound : defsOk defs = true)
    (defined : defs[d]? = some x) (touched : s.touches d x = true) (busy : s.districtBusy d = true) :
    exec (.districtSet q defs) s = .next (s.reply q .refusedBusy []) := by
  have held : (defs.zipIdx.any fun (x, d) => s.touches d x && s.districtBusy d) = true :=
    List.any_eq_true.2 ⟨(x, d), List.mem_zipIdx_iff_getElem?.2 defined, by simp [touched, busy]⟩
  exact congrArg _ (State.vendor_answers takes listed owner ((if_neg (by simp [sound])).trans (if_pos held)))

theorem exec_districtSet_defines {defs : List DistrictDef} (sound : defsOk defs = true)
    (idle : ∀ d x, defs[d]? = some x → s.touches d x = false ∨ s.districtBusy d = false) :
    exec (.districtSet q defs) s = .next ((s.defineAll defs).reply q .done []) := by
  have free : ¬ (defs.zipIdx.any fun (x, d) => s.touches d x && s.districtBusy d) = true := by
    rw [List.any_eq_true]
    rintro ⟨⟨x, d⟩, mem, held⟩
    rcases idle d x (List.mem_zipIdx_iff_getElem?.1 mem) with no | no <;> simp [no] at held
  exact congrArg _ (State.vendor_answers takes listed owner ((if_neg (by simp [sound])).trans (if_neg free)))

/-! ## Keys (R401) -/

omit takes listed owner in
/-- A key changes while no load and no commit holds its district, and a loaded image is dropped. -/
theorem State.changeKey_changes {d : Nat} (f : ImgDist → ImgDist) (keeps : ∀ g, (f g).shadow = g.shadow)
    (unloading : (s.district d).img.shadow ≠ 1) (uncommitted : (s.district d).img.commit = 0) :
    ∃ t, s.changeKey d f = (t, .done, []) ∧ t.mem = s.mem ∧ t.out = s.out
      ∧ (t.district d).img.keyed = (f (s.district d).img).keyed ∧ (t.district d).img.key = (f (s.district d).img).key
      ∧ (t.district d).img.keyId = (f (s.district d).img).keyId
      ∧ ((s.district d).img.shadow = 2 → (t.district d).img.shadow = 0 ∧ (t.district d).img.loaded = none) := by
  obtain ⟨t, changes, mem, out, img⟩ := changeKey_leaves f keeps unloading uncommitted
  refine ⟨t, changes, mem, out, ?_⟩
  rw [img]
  split
  · exact ⟨rfl, rfl, rfl, fun _ => ⟨rfl, rfl⟩⟩
  · next other => exact ⟨rfl, rfl, rfl, fun loaded => absurd loaded other⟩

theorem exec_keyRegister_changes {d : Fin 4} {key : List Byte} {keyid : W32} {t : State} {st : Status} {data : List Byte}
    (point : (bpPoint key).isSome) (named : keyid ≠ 0)
    (does : s.changeKey d (fun g => { g with keyed := true, keyId := keyid.toNat, key := key }) = (t, st, data)) :
    exec (.keyRegister q d key keyid) s = .next (t.reply q st data) :=
  congrArg _ (State.vendor_answers takes listed owner ((if_neg (by simpa [Option.isSome_iff_ne_none.1 point] using named)).trans does))

theorem exec_keyRevoke_changes {d : Fin 4} {t : State} {st : Status} {data : List Byte}
    (does : s.changeKey d (fun g => { g with keyed := false, keyId := 0, key := [] }) = (t, st, data)) :
    exec (.keyRevoke q d) s = .next (t.reply q st data) :=
  congrArg _ (State.vendor_answers takes listed owner does)

/-! ## Log, counters and cards (R380, R385, R404) -/

theorem exec_logRead_many {seq n : Nat} (many : 64 < n) : exec (.logRead q seq n) s = .next (s.reply q .refusedSize []) :=
  congrArg _ (State.vendor_answers takes listed owner (if_pos many))

theorem exec_logRead_reads {seq n : Nat} {x : Nat × Nat × Nat} (kept : x ∈ s.moon.log) (reached : x.1 ≤ seq) (asked : 1 ≤ n)
    (few : n ≤ 64) (found : (s.moon.log.filter fun x => seq ≤ x.1) ≠ []) :
    exec (.logRead q seq n) s
      = .next (s.reply q .done (((s.moon.log.filter fun x => seq ≤ x.1).take n).flatMap logRecord)) := by
  have records : (List.take n (s.moon.log.filter fun x => seq ≤ x.1)).isEmpty = false := by
    rw [List.isEmpty_eq_false_iff, Ne, List.take_eq_nil_iff, not_or]
    exact ⟨Nat.ne_of_gt asked, found⟩
  have begun : (s.moon.log.all fun x => decide (seq < x.1)) = false :=
    List.all_eq_false.2 ⟨x, kept, by simpa using reached⟩
  exact congrArg _ (State.vendor_answers takes listed owner
    ((if_neg (Nat.not_lt.2 few)).trans (if_neg (by simp only [records, begun]; decide))))

theorem exec_snpRead_reads {d : Fin 4} {i n : Nat} (asked : 1 ≤ n) (few : n ≤ 512) (within : 0x10000 + 8 * (i + n) ≤ 0x100000) :
    exec (.snpRead q d (0x10000 + 8 * i) n) s
      = .next (s.reply q .done ((List.range n).flatMap fun j => leBytes 8 (s.snpRead d (0x10000 + 8 * i + 8 * j)))) := by
  have sound : ¬ ((0x10000 + 8 * i) % 8 ≠ 0 || (0x10000 + 8 * i < 0x10000 || 0x100000 < 0x10000 + 8 * i + 8 * n)) = true := by
    simp only [Bool.or_eq_true, decide_eq_true_eq]
    omega
  have nonempty : ¬ n = 0 := by omega
  exact congrArg _ (State.vendor_answers takes listed owner
    ((if_neg (by simpa [or_assoc] using sound)).trans ((if_neg (Nat.not_lt.2 few)).trans (if_neg nonempty))))

theorem exec_cardRecheck_sends {p : Fin 24} : exec (.cardRecheck q p) s
    = .next (if (s.port p).state = 7 then (s.sendCard p).reply q .done [] else s.reply q .refusedInvalid []) := by
  split
  · next active => exact congrArg _ (State.vendor_answers takes listed owner (if_neg fun other => other active))
  · next other => exact congrArg _ (State.vendor_answers takes listed owner (if_pos other))

/-! ## Debug (R397) -/

omit takes listed owner in
/-- A token that Moon does not take is answered with the nonce for the next one (log entry 92). -/
def State.unlockRefused (s : State) (q : MReq) : State :=
  { s with
    free := s.free + 1
    moon := { s.moon with nonce := some (Config.freeValue s.free) }
    out := .moon q.via .refusedAccess (leBytes 48 (Config.freeValue s.free)) :: s.out }

theorem exec_debugUnlock_refuses {serial nonce sigR sigS : Nat} (unsound : (s.moon.nonce == some nonce && serial == s.moon.serial
      && ecdsaVerify Config.debugKey (Config.debugDigest serial nonce) sigR sigS) = false) :
    exec (.debugUnlock q serial nonce sigR sigS) s = .next (s.unlockRefused q) :=
  congrArg _ (State.vendor_answers takes listed owner (data := leBytes 48 (Config.freeValue s.free)) (st := .refusedAccess)
    (t := { s with free := s.free + 1, moon := { s.moon with nonce := some (Config.freeValue s.free) } }) (if_pos (congrArg not unsound)))

theorem exec_debugUnlock_unlocks {nonce sigR sigS : Nat} (issued : s.moon.nonce = some nonce)
    (idle : ∀ d ∈ s.defined, s.districtBusy d = false)
    (signed : ecdsaVerify Config.debugKey (Config.debugDigest s.moon.serial nonce) sigR sigS = true) :
    exec (.debugUnlock q s.moon.serial nonce sigR sigS) s
      = .next ((s.modMoon fun m => { m with unlocked := true }).restartMoon.reply q .done []) := by
  have free : ¬ s.defined.any s.districtBusy = true := by simpa using idle
  exact congrArg _ (State.vendor_answers takes listed owner ((if_neg (by simp [issued, signed])).trans (if_neg free)))

end

/-- Settles O49: each command answers what its effect does, and a key, a definition or an unlock leaves what its own lemma says. -/
theorem districtCommands : Obligations.DistrictCommands := by
  unfold Obligations.DistrictCommands
  intro s q takes listed owner
  refine ⟨fun defs => exec_districtSet_unsound takes listed owner, ?define, fun defs d x => exec_districtSet_busy takes listed owner,
    fun d => congrArg _ (State.vendor_answers takes listed owner rfl), fun d key keyid point named => ⟨?keys, ?busy⟩,
    fun d a => congrArg _ (State.vendor_answers takes listed owner rfl),
    fun d a v => congrArg _ (State.vendor_answers takes listed owner rfl),
    fun seq n => exec_logRead_many takes listed owner, fun seq n x => exec_logRead_reads takes listed owner,
    fun d i n => exec_snpRead_reads takes listed owner, congrArg _ (State.vendor_answers takes listed owner rfl),
    fun p => exec_cardRecheck_sends takes listed owner, ?unlock, ?refused⟩
  case define =>
    intro defs sound idle
    obtain ⟨defined, mem, out, -⟩ := defineAll_leaves s defs
    refine ⟨_, exec_districtSet_defines takes listed owner sound idle, fun d x given => ?_, congrArg _ out, mem⟩
    obtain ⟨district, windows⟩ := defined d x given
    exact ⟨congrArg District.defn district, windows⟩
  case keys =>
    intro unloading uncommitted
    obtain ⟨t, registers, mem, out, keyed, keeps, named', drops⟩ := State.changeKey_changes
      (fun g => { g with keyed := true, keyId := keyid.toNat, key := key }) (fun _ => rfl) unloading uncommitted
    obtain ⟨u, revokes, mem', out', unkeyed, -, -, drops'⟩ := State.changeKey_changes
      (fun g => { g with keyed := false, keyId := 0, key := [] }) (fun _ => rfl) unloading uncommitted
    refine ⟨_, _, exec_keyRegister_changes takes listed owner point named registers, keyed, keeps, named',
      exec_keyRevoke_changes takes listed owner revokes, unkeyed, fun loaded => ?_, congrArg _ out, congrArg _ out', mem, mem'⟩
    obtain ⟨shadow, dropped⟩ := drops loaded
    obtain ⟨shadow', dropped'⟩ := drops' loaded
    exact ⟨shadow, dropped, shadow', dropped'⟩
  case busy =>
    intro held
    exact ⟨exec_keyRegister_changes takes listed owner point named (changeKey_busy _ held),
      exec_keyRevoke_changes takes listed owner (changeKey_busy _ held)⟩
  case unlock =>
    intro nonce sigR sigS issued idle
    cases signed : ecdsaVerify Config.debugKey (Config.debugDigest s.moon.serial nonce) sigR sigS
    case false =>
      exact ⟨_, exec_debugUnlock_refuses takes listed owner (by simp [signed]), rfl, rfl, nofun, fun _ => ⟨_, rfl⟩⟩
    case true =>
      obtain ⟨moon, -, mem, -, cores, -⟩ := restartMoon_leaves (s.modMoon fun m => { m with unlocked := true })
      refine ⟨_, exec_debugUnlock_unlocks takes listed owner issued idle signed, mem, cores, fun _ => ?_, nofun⟩
      exact ⟨congrArg Moon.unlocked moon, congrArg Moon.running moon, congrArg Moon.nonce moon⟩
  case refused =>
    intro serial nonce sigR sigS other
    have unsound : (s.moon.nonce == some nonce && serial == s.moon.serial
        && ecdsaVerify Config.debugKey (Config.debugDigest serial nonce) sigR sigS) = false := by
      rcases other with no | no <;> simp [no]
    exact ⟨_, _, exec_debugUnlock_refuses takes listed owner unsound, rfl⟩

end Sys2Proof.Machine
end

section
/-! SUPPORT. Dispatch of tiles (11 R331): which TILE command is at the front, and which core is the lowest free one. -/

namespace Sys2Proof.Machine

/-- The first TILE command that runs on no core is at the front, once it has been checked. -/
theorem State.nextTile_of_running {s : State} {d : Nat} {c : Cmd} {before after : List Cmd}
    (ring : (s.district d).host.running = before ++ c :: after) (tile : ceOp c.entry = 3) (notIssued : c.stage ≠ 2)
    (issued : ∀ b ∈ before, ceOp b.entry = 3 → b.stage = 2) :
    s.nextTile d = if c.stage = 1 then some c else none := by
  have first : (s.district d).host.running.find? (fun c => ceOp c.entry == 3 && c.stage != 2) = some c := by
    rw [List.find?_eq_some_iff_append]
    refine ⟨by simp [tile, notIssued], before, after, ring, fun b mem => ?_⟩
    by_cases tile : ceOp b.entry = 3
    · simp [issued b mem tile]
    · simp [tile]
  rw [State.nextTile, first]
  by_cases checked : c.stage = 1 <;> simp [Option.filter, checked]

theorem State.coresOf_rising (s : State) (d : Nat) : (s.coresOf d).Pairwise (· < ·) := List.pairwise_lt_range.filter _

/-- In a rising list, a member that passes the test while no smaller one does is the first that passes. -/
theorem find?_of_lowest {l : List Nat} {f : Nat → Bool} {n : Nat} (rising : l.Pairwise (· < ·)) (mem : n ∈ l) (passes : f n = true)
    (lowest : ∀ m ∈ l, m < n → f m = false) : l.find? f = some n := by
  obtain ⟨before, after, rfl⟩ := List.append_of_mem mem
  obtain ⟨-, -, smaller⟩ := List.pairwise_append.1 rising
  rw [List.find?_eq_some_iff_append]
  exact ⟨passes, before, after, rfl, fun m earlier => by simp [lowest m (by simp [earlier]) (smaller m earlier n (by simp))]⟩

/-! ## Where no tile is issued -/

section
variable {s : State} {d : Fin 4} {k : Nat}

theorem exec_tileDispatch_late (late : k < 1024) : exec (.tileDispatch d k) s = .next s := by
  simp only [exec, execTileDispatch]
  split
  · rw [if_pos (by simp [late])]
  · rfl

theorem exec_tileDispatch_noTile (waits : s.nextTile d = none) : exec (.tileDispatch d k) s = .next s := by
  simp [exec, execTileDispatch, waits]

theorem exec_tileDispatch_noCore (busy : ∀ n ∈ s.coresOf d, s.freeCore n = false) : exec (.tileDispatch d k) s = .next s := by
  have noCore : (s.coresOf d).find? s.freeCore = none := List.find?_eq_none.2 fun n mem => by simp [busy n mem]
  simp [exec, execTileDispatch, noCore]

end

/-- Settles O60: a dispatch issues the tile at the front to the lowest free core, or changes nothing. -/
theorem tilesGoInRingOrder : Obligations.TilesGoInRingOrder := by
  unfold Obligations.TilesGoInRingOrder
  intro s d k
  refine ⟨exec_tileDispatch_late, exec_tileDispatch_noCore, fun before c after ring tile notIssued issued => ?_⟩
  have front := State.nextTile_of_running ring tile notIssued issued
  refine ⟨fun unchecked => exec_tileDispatch_noTile (front.trans (if_neg unchecked)), ?_⟩
  intro checked n mem free lowest running unfenced early
  have core := find?_of_lowest (s.coresOf_rising d) mem free lowest
  refine ⟨_, exec_tileDispatch_starts (front.trans (if_pos checked)) core running unfenced early, ?_, fun m other =>
    State.tileStarted_core_ne s d c other⟩
  rw [State.tileStarted_core]
  rfl

end Sys2Proof.Machine
end

section
/-! SUPPORT. Halts and the orbit count over one step (12 R339, 15 R417, 02 R58): what `step_keeps` says of them. -/

namespace Sys2Proof.Machine

/-- Settles O57: a command outside the lists keeps a halt, or the orbit number and RUN, as they are. -/
theorem haltsAndOrbitsStay : Obligations.HaltsAndOrbitsStay := by
  unfold Obligations.HaltsAndOrbitsStay
  intro s t h
  rcases step_keeps h with ⟨-, keeps⟩ | ⟨c, rest, front, keeps⟩
  · exact ⟨fun _ => keeps.halted rfl, fun _ => keeps.orbit rfl⟩
  · have head : s.pending.head? = some c := by rw [front, List.head?_cons]
    refine ⟨fun outside => ?_, fun outside => ?_⟩
    · exact keeps.halted (by rw [outside c head, Bool.not_false])
    · exact keeps.orbit (by rw [outside c head, Bool.not_false])

end Sys2Proof.Machine
end

section
/-! SUPPORT. Writes of FLT_CMD, FLT_TAIL and FLT_RESTORE (12 R341, R354, R361, R364, R371): what each leaves where nothing refuses
it. -/

namespace Sys2Proof.Machine

section
variable {s : State} {d v : Nat}

/-! ## REWIND and ROLLFWD in HOLD -/

/-- REWIND takes step, generation and scales one step back, and copies back what that generation changed. -/
theorem State.rewind_begins (held : s.held d = true) (rewindable : (s.district d).flt.rewindable = true)
    (idle : (s.district d).flt.busy = false) :
    s.rewind d = (.done, ((s.oldScales d).modOrb d fun o => { o with step := stepBefore o.step }).modFlt d fun f => { f with
      rewindable := false, gen := stepBefore (s.district d).orb.step
      copyBack := if f.prevDirty.isEmpty then none else some .rewind }) := by
  simp only [State.rewind, held, rewindable, idle, State.modOrb_district]
  rfl

theorem State.rollfwd_asked (held : s.held d = true) (idle : (s.district d).flt.busy = false) (stale : (s.district d).flt.stale ≠ []) :
    s.rollfwd d = (.done, s.modFlt d fun f => { f with rollAsked := true }) :=
  if_neg (by simp [held, idle, stale])

/-! ## DRESET -/

theorem State.dropCores_dist (s : State) (d : Nat) (tiles : Bool) : (s.dropCores d tiles).dist = s.dist :=
  State.each_field State.dist (fun _ _ => State.modCore_dist) _ s

theorem State.swapSlots_dist (s : State) (d : Nat) : (s.swapSlots d).dist = s.dist := rfl

theorem State.killQueues_flt (s : State) (d k : Nat) : ((s.killQueues d).district k).flt = (s.district k).flt := by
  refine State.each_field (fun t => (t.district k).flt) (fun q t => ?_) _ s
  refine (State.each_field (fun u => (u.district k).flt) (fun w u => ?_) _ _).trans rfl
  split
  · exact release_dist ..
  · rfl

theorem State.saveTables_dist (s : State) : s.saveTables.dist = s.dist := by
  unfold State.saveTables
  split
  · rfl
  · extract_lets tables t
    split <;> rfl

theorem State.dropSwaps_dist (s : State) (d : Nat) : (s.dropSwaps d).dist = s.dist := by
  unfold State.dropSwaps
  split
  · rfl
  · rw [State.saveTables_dist]

/-- A stopped district keeps its list of DIRTY pages: they are what the copy-back returns. -/
theorem State.stopDistrict_dirty (s : State) (d : Nat) : ((s.stopDistrict d).district d).flt.dirty = (s.district d).flt.dirty := by
  unfold State.stopDistrict
  extract_lets s1 s2 s3 s4 s5 s6 s7 s8 s9 s10
  have slots : s2.dist = s1.dist := by
    unfold s2
    split
    · exact State.swapSlots_dist s1 d
    · exact Eq.refl s1.dist
  have groups : s3.dist = s2.dist := State.each_field State.dist (fun _ _ => State.modCore_dist) _ s2
  have boxes : s4.dist = s3.dist := State.each_field State.dist (fun _ _ => State.modBox_dist) _ s3
  have queues : (s5.district d).flt = (s4.district d).flt := State.killQueues_flt s4 d d
  have rings : s6.dist = s5.dist := State.each_field State.dist (fun _ _ => State.modRing_dist) _ s5
  have before : s4.dist = s.dist := boxes.trans (groups.trans (slots.trans (State.dropCores_dist s d true)))
  have after : s7.dist = s5.dist := (State.dropSwaps_dist s6 d).trans rings
  simp only [State.modFlt_district, s10, s9, s8, State.modMir_district, State.modBar_district, State.modHost_district,
    State.district_of_dist after, queues, State.district_of_dist before]

/-- A reset of a fenced district, or of one without an image, stops its work and starts the copy-back of its DIRTY pages. -/
theorem State.districtReset_begins (running : s.halted = false) (idle : s.fenced d = true ∨ s.active d = none)
    (notYet : (s.district d).flt.resetting = false) :
    s.districtReset d = (.done, ((s.stopDistrict d).loseCmds d).modFlt d fun f => { f with
      resetting := true, copyBack := if f.dirty.isEmpty then none else some .reset }) := by
  have allowed : (!s.fenced d && !s.held d && (s.active d).isSome) = false := by
    rcases idle with fenced | noImage
    · simp [fenced]
    · simp [noImage]
  simp [State.districtReset, running, allowed, notYet]

/-! ## FLT_TAIL and FLT_RESTORE -/

theorem State.fltTail_moves (within : ahead (s.district d).flt.head (bits v 0 32) ≤ 256) :
    s.fltTail d v = (.done, s.modFlt d fun f => { f with tail := bits v 0 32 }) :=
  if_neg (Nat.not_lt.2 within)

theorem State.fltRestore_armed (noImage : s.active d = none) :
    s.fltRestore d v = (.done, s.modFlt d fun f => { f with restArm := bit v 0, restStep := bits v 8 24 }) :=
  if_neg (by simp [noImage])

end

/-- A copy-back that is started where a list of pages is not empty. -/
theorem copyBack_none_iff (pages : List Nat) (c : CopyBack) : (if pages.isEmpty then none else some c) = none ↔ pages = [] := by
  cases pages <;> simp

/-- Settles O11: each word reaches its register, and none of the register's checks refuses it. -/
theorem recoveryWrites : Obligations.RecoveryWrites := by
  unfold Obligations.RecoveryWrites
  intro s r d v
  refine ⟨?rewind, ?rollForward, ?tail, ?restore⟩
  case rewind =>
    intro reaches held rewindable idle
    have done := State.regWrite_done (off := 0x900028) (v := 1) reaches rfl rfl fun _ =>
      State.regPut_fltCmd.trans (State.rewind_begins held rewindable idle)
    refine ⟨_, congrArg Host.Outcome.next done, ?_⟩
    simp only [State.emit_district_eq, State.modFlt_district, State.modOrb_district]
    exact ⟨rfl, trivial, rfl, copyBack_none_iff .., rfl⟩
  case rollForward =>
    intro reaches held idle stale
    exact congrArg _ (State.regWrite_done (off := 0x900028) (v := 2) reaches rfl rfl fun _ =>
      State.regPut_fltCmd.trans (State.rollfwd_asked held idle stale))
  case tail =>
    intro reaches within
    exact congrArg _ (State.regWrite_done (off := 0x900008) reaches rfl rfl fun _ =>
      State.regPut_fltTail.trans (State.fltTail_moves within))
  case restore =>
    intro reaches noImage
    exact congrArg _ (State.regWrite_done (off := 0x900030) reaches rfl rfl fun _ =>
      State.regPut_fltRestore.trans (State.fltRestore_armed noImage))

/-- A DRESET of Moon does what the register does for Moon, and its completion says so. -/
theorem exec_dreset_moon {s t : State} {d : Fin 4} (put : s.districtReset d = (.done, t)) :
    exec (.dreset (.moon d)) s = .next (t.emit (written (.moon d) 0x900028)) := by
  obtain ⟨m, rights, wrote⟩ := State.regWrite_of_reaches (off := 0x900028) (v := 3) (.inl rfl : s.reaches (.moon d) d .flt 0x28) rfl rfl
  cases rights
  have command : s.regPut true d .flt 0x28 3 = (.done, t) := State.regPut_fltCmd.trans put
  rw [command] at wrote
  exact congrArg Host.Outcome.next wrote

/-- Settles O12: the reset is not refused, and a stopped district keeps its DIRTY pages, the memory and the power. -/
theorem districtResetBegins : Obligations.DistrictResetBegins := by
  unfold Obligations.DistrictResetBegins
  intro s d running idle notYet
  refine ⟨_, exec_dreset_moon (State.districtReset_begins running idle notYet), ?_⟩
  have dirty : (((s.stopDistrict d).loseCmds d).district d).flt.dirty = (s.district d).flt.dirty := by
    rw [State.loseCmds, State.modHost_district, State.stopDistrict_dirty]
  simp only [State.emit_district_eq, State.modFlt_district]
  refine ⟨trivial, ?copyBack, ?commands, ?memory, ?power, ?out⟩
  case copyBack =>
    rw [dirty]
    exact copyBack_none_iff ..
  case commands => rw [State.loseCmds, State.modHost_district]
  case memory => rw [State.emit_mem, State.modFlt_mem, State.loseCmds_onlyWork, State.stopDistrict_onlyWork]
  case power => rw [State.emit_pwr, State.modFlt_pwr, State.loseCmds_onlyWork, State.stopDistrict_onlyWork]
  case out => rw [State.emit_out, State.modFlt_out, State.loseCmds_onlyWork, State.stopDistrict_onlyWork]

end Sys2Proof.Machine
end

section
/-! SUPPORT. Writes of SPR_SERVE, PWR_CTRL and PWR_RESET (12 R362, 15 R408, R411, R418): what each asks for where nothing refuses
it. -/

namespace Sys2Proof.Machine

/-! ## SPR_SERVE -/

theorem blockOf_serve (n : Fin 4) : blockOf (0xA00120 + 0x40 * n.val) = some (.spr, 0x120 + 0x40 * n.val) := by
  have block : (0xA00120 + 0x40 * n.val) / 0x100000 = 10 := by omega
  have offset : (0xA00120 + 0x40 * n.val) % 0x100000 = 0x120 + 0x40 * n.val := by omega
  simp [blockOf, block, offset]

section
variable {s : State} {d v : Nat}

theorem State.regPut_serve {m : Bool} (n : Fin 4) : s.regPut m d .spr (0x120 + 0x40 * n.val) v = s.serve n v := by
  have within : (decide (0x100 ≤ 0x120 + 0x40 * n.val) && decide (0x120 + 0x40 * n.val < 0x200)) = true := by
    simp only [Bool.and_eq_true, decide_eq_true_eq]
    omega
  have district : (0x120 + 0x40 * n.val - 0x100) / 0x40 = n.val := by omega
  have register : (0x120 + 0x40 * n.val - 0x100) % 0x40 = 0x20 := by omega
  show s.sprWrite (0x120 + 0x40 * n.val) v = _
  rw [State.sprWrite, if_pos within, district, register]
  rfl

theorem State.serve_begins (unfenced : s.fenced d = false) (held : s.held d = true) (ring : s.ckpRing d (bits v 0 12) = true)
    (what : bits v 12 2 = 1 ∨ bits v 12 2 = 2) (idle : (s.district d).mir.serving = false) :
    s.serve d v = (.done, s.startServe d (bits v 0 12) (bits v 12 2)) := by
  have known : bits v 12 2 ≠ 0 ∧ bits v 12 2 ≠ 3 := by omega
  simp [State.serve, unfenced, held, ring, known, idle]

/-! ## PWR_CTRL and PWR_RESET -/

/-- From DROWSE, RUN and SLEEP are reached whatever the districts do. -/
theorem State.pwrTarget_fromDrowse (idle : s.pwr.changing = false) (drowse : s.pwr.state = .drowse) (target : bits v 0 2 = 0 ∨ bits v 0 2 = 3) :
    s.pwrTarget v = (.done, { s with pwr := { s.pwr with changing := true, target := if bits v 0 2 = 3 then .sleep else .run } }) := by
  rcases target with run | sleep
  · simp [State.pwrTarget, drowse, idle, run]
  · simp [State.pwrTarget, drowse, idle, sleep]

/-- DROWSE is reached from RUN while no district is engaged. -/
theorem State.pwrTarget_drowse (idle : s.pwr.changing = false) (run : s.pwr.state = .run) (free : s.defined.any s.engaged = false)
    (target : bits v 0 2 = 2) :
    s.pwrTarget v = (.done, { s with pwr := { s.pwr with changing := true, target := .drowse } }) := by
  simp [State.pwrTarget, run, idle, free, target]

theorem State.warmReset_asked (set : bit v 0 = true) (supply : s.pwr.offCause ≠ 3) (kept : s.pwr.memKept = true)
    (halted : s.pwr.halted = true) : s.warmReset v = (.done, { s with pwr := { s.pwr with warmPending := true } }) := by
  simp [State.warmReset, set, supply, kept, halted]

end

/-- Settles O13: each word reaches its register, and none of the register's checks refuses it. -/
theorem serveAndPowerWrites : Obligations.ServeAndPowerWrites := by
  unfold Obligations.ServeAndPowerWrites
  intro s r d v
  refine ⟨?serve, ?run, ?drowse, ?sleep, ?warm⟩
  case serve =>
    intro n reaches unfenced held ring what idle
    exact congrArg _ (State.regWrite_done reaches (blockOf_serve n) (by omega) fun _ =>
      (State.regPut_serve n).trans (State.serve_begins unfenced held ring what idle))
  case run =>
    intro reaches idle drowse
    exact congrArg _ (State.regWrite_done (off := 0xC00008) (v := 0) reaches rfl rfl fun _ =>
      State.regPut_pwrTarget.trans (State.pwrTarget_fromDrowse idle drowse (.inl rfl)))
  case drowse =>
    intro reaches idle run free
    exact congrArg _ (State.regWrite_done (off := 0xC00008) (v := 2) reaches rfl rfl fun _ =>
      State.regPut_pwrTarget.trans (State.pwrTarget_drowse idle run free rfl))
  case sleep =>
    intro reaches idle drowse
    exact congrArg _ (State.regWrite_done (off := 0xC00008) (v := 3) reaches rfl rfl fun _ =>
      State.regPut_pwrTarget.trans (State.pwrTarget_fromDrowse idle drowse (.inr rfl)))
  case warm =>
    intro reaches supply kept halted
    exact congrArg _ (State.regWrite_done (off := 0xC00010) (v := 1) reaches rfl rfl fun _ =>
      State.regPut_warmReset.trans (State.warmReset_asked rfl supply kept halted))

end Sys2Proof.Machine
end

section
/-! SUPPORT. The ends of a copy-back, of a roll-forward and of a district reset (12 R341, R346, R354, R364, 07 R450): the next state
of each as one expression, and what the statement asks of it. -/

namespace Sys2Proof.Machine

/-! ## Copy-back -/

/-- Pages of a district's journal returned from their slots, in order. -/
def State.returnPages (s : State) (d : Nat) (pages : List Nat) : State :=
  s.each pages fun i t =>
    ((t.move (t.slotAddr d i) (t.pageAddr d i) MiB).countLines 7 (s.slotAddr d i) MiB).countLines 7 (s.pageAddr d i) MiB

/-- Returned pages move bytes and count lines: districts, cores, rings, a halt and the windows stay. -/
theorem State.returnPages_leaves (s : State) (d : Nat) (pages : List Nat) :
    (s.returnPages d pages).mem = pages.foldl (fun m i => Memory.copy m (s.slotAddr d i) (s.pageAddr d i) MiB) s.mem
      ∧ (s.returnPages d pages).dist = s.dist ∧ (s.returnPages d pages).cores = s.cores ∧ (s.returnPages d pages).rings = s.rings
      ∧ (s.returnPages d pages).pwr.halted = s.pwr.halted ∧ (s.returnPages d pages).windows = s.windows :=
  eachMove pages Prod.mk s rfl

theorem State.modFlt_congr {s : State} {d : Nat} {f g : FltDist → FltDist} (same : f (s.district d).flt = g (s.district d).flt) :
    s.modFlt d f = s.modFlt d g := by
  simp only [State.modFlt, State.modDist, same]

section
variable {s : State} {d : Fin 4}

/-- A copy-back whose pages can all be read returns them and leaves no DIRTY page of its generation. -/
theorem exec_copybackDone_returns {c : CopyBack} (running : s.halted = false) (copies : (s.district d).flt.copyBack = some c) :
    exec (.copybackDone d []) s = .next ((s.returnPages d (s.district d).flt.copying).modFlt d fun f =>
      if c = .rewind then { f with copyBack := none, prevDirty := [] } else { f with copyBack := none, dirty := [] }) := by
  have every : ((s.district d).flt.copying.filter fun i => !([] : List Nat).contains i) = (s.district d).flt.copying := by simp
  have noneLost : (s.district d).flt.copying.any ([] : List Nat).contains = false := by simp
  simp only [exec, execCopybackDone]
  rw [if_neg (by simp [running, copies]), every, noneLost, if_neg Bool.false_ne_true]
  refine congrArg Host.Outcome.next (State.modFlt_congr ?_)
  have flt : ((s.returnPages d (s.district d).flt.copying).district d).flt = (s.district d).flt := by
    obtain ⟨-, dist, -⟩ := State.returnPages_leaves s d (s.district d).flt.copying
    rw [State.district_of_dist dist]
  rw [State.returnPages] at flt
  rw [flt, copies]
  cases c <;> rfl

/-- A copy-back of which one page cannot be read ends in a fence. -/
theorem exec_copybackDone_fences {bad : List Nat} (running : s.halted = false)
    (copies : (s.district d).flt.copyBack.isSome) (lost : ∃ i ∈ (s.district d).flt.copying, i ∈ bad) :
    ∃ (u : State) (a : Nat), u.halted = false ∧ exec (.copybackDone d bad) s = .next (u.fence d 0x32 (channelOf a) (a / 64)) := by
  have someLost : (s.district d).flt.copying.any bad.contains = true := by simpa using lost
  obtain ⟨-, -, -, -, halted, -⟩ := State.returnPages_leaves s d ((s.district d).flt.copying.filter fun i => !bad.contains i)
  simp only [exec, execCopybackDone]
  rw [if_neg (by simp [running, Option.isSome_iff_ne_none.1 copies]), if_pos someLost]
  refine ⟨_, _, ?_, rfl⟩
  exact halted.trans running

/-! ## Roll-forward -/

/-- A roll-forward whose last index has run on every core gives the slots their scales back and leaves nothing STALE. -/
theorem exec_rollfwdEnd_ends {i : Nat} {g : Image} (running : s.halted = false) (rolls : (s.district d).flt.rollAt = some i)
    (image : s.active d = some g) (unfenced : s.fenced d = false) (last : g.evl ≤ i) (idle : ∀ n ∈ s.coresOf d, (s.core n).busy = false) :
    exec (.rollfwdEnd d) s = .next (((s.swapSlots d).dropMaxima d).modFlt d fun f =>
      { f with rollAt := none, stale := [], restore := false }) := by
  have noneBusy : ((s.coresOf d).any fun n => (s.core n).busy) = false := by simpa using idle
  simp [exec, execRollfwdEnd, running, unfenced, rolls, image, last, noneBusy]

theorem exec_rollfwdEnd_early {i : Nat} {g : Image} (rolls : (s.district d).flt.rollAt = some i) (image : s.active d = some g)
    (early : i < g.evl) : exec (.rollfwdEnd d) s = .next s := by
  simp [exec, execRollfwdEnd, rolls, image, early]

theorem exec_rollfwdEnd_busy {n : Nat} (mem : n ∈ s.coresOf d) (busy : (s.core n).busy = true) : exec (.rollfwdEnd d) s = .next s := by
  have someBusy : ((s.coresOf d).any fun n => (s.core n).busy) = true := List.any_eq_true.2 ⟨n, mem, busy⟩
  simp only [exec, execRollfwdEnd, someBusy, Bool.or_true, if_true]

/-! ## District reset -/

theorem State.sendPings_dist (s : State) (p : Nat) : (s.sendPings p).dist = s.dist :=
  State.each_field State.dist (fun _ t => by rw [portCtl_only]) _ (s.modPort p fun x => { x with echoes := 0 })

theorem State.startCards_dist (s : State) (p : Nat) : (s.startCards p).dist = s.dist := by
  rw [State.startCards, State.sendPings_dist, sendCard_onlyPorts, State.modPort_dist]

/-- Cards sent after a fence are frames at ports. -/
theorem State.cardsAfterFence_dist (s : State) (d : Nat) : (s.cardsAfterFence d).dist = s.dist := by
  refine State.each_field State.dist (fun p t => ?_) _ s
  extract_lets st
  split
  · exact State.startCards_dist t p
  · split
    · rw [sendCard_onlyPorts]
    · rfl

theorem State.cardsAfterFence_windows (s : State) (d : Nat) : (s.cardsAfterFence d).windows = s.windows :=
  (State.cardsAfterFence_keeps (p := false) (q := false) (w := false) (y := true) (Keeps.refl s)).keys rfl

/-- The state in which a district's image is dropped and its fence and reset have ended. -/
def State.resetEnded (s : State) (d : Nat) : State :=
  (s.dropImage d).modFlt d fun f => { f with fenced := false, resetting := false, restore := false, receiving := [], stale := [] }

/-- A reset whose copy-back is over ends; what it sends and logs besides changes no other register of a district, and no window. -/
theorem exec_districtResetDone_ends (running : s.halted = false) (resetting : (s.district d).flt.resetting = true)
    (noCopy : (s.district d).flt.copyBack = none) :
    ∃ u : State, exec (.districtResetDone d) s = .next (u.notice 0x67 (some d) 0 0) ∧ u.dist = (s.resetEnded d).dist
      ∧ u.windows = (s.resetEnded d).windows := by
  simp only [exec, execDistrictResetDone]
  rw [if_neg (by simp [running, resetting, noCopy])]
  refine ⟨_, rfl, ?_, ?_⟩
  · split
    · exact State.cardsAfterFence_dist ..
    · rfl
  · split
    · exact State.cardsAfterFence_windows ..
    · rfl

end

/-- Settles O41: each end by its own next state; the windows after a reset are those that the dropped image leaves. -/
theorem recoveryEnds : Obligations.RecoveryEnds := by
  unfold Obligations.RecoveryEnds
  intro s d running
  refine ⟨fun c copies => ⟨?returned, fun bad lost => ?lost⟩, fun i g rolls image unfenced =>
    ⟨fun last idle => ?rolled, exec_rollfwdEnd_early rolls image, fun n mem busy => exec_rollfwdEnd_busy mem busy⟩,
    fun resetting noCopy => ?reset⟩
  case returned =>
    obtain ⟨mem, dist, cores, rings, -, -⟩ := State.returnPages_leaves s d (s.district d).flt.copying
    refine ⟨_, exec_copybackDone_returns running copies, mem, ?_, cores, rings⟩
    rw [State.modFlt_district, State.district_of_dist dist]
  case lost =>
    obtain ⟨u, a, runs, fences⟩ := exec_copybackDone_fences running (Option.isSome_of_eq_some copies) lost
    exact ⟨_, fences, fence_fenced u d _ _ _ runs, (exec_keeps s _ _ fences).keys rfl⟩
  case rolled =>
    refine ⟨_, exec_rollfwdEnd_ends running rolls image unfenced last idle, ?_, rfl⟩
    rw [State.modFlt_district]
    rfl
  case reset =>
    obtain ⟨u, ends, dist, windows⟩ := exec_districtResetDone_ends running resetting noCopy
    obtain ⟨noImage, noCommit, phase, cmdEn, cplEn, cmds, keys⟩ := dropImage_leaves s d
    have district : u.district d = (s.resetEnded d).district d := State.district_of_dist dist d
    rw [State.resetEnded, State.modFlt_district] at district
    have left : (u.notice 0x67 (some d) 0 0).windows
        = ⟨s.windows.entries.filter fun w => w.1 / 256 != d || w.1 % 256 == 0⟩ := by
      rw [State.notice_windows, windows, State.resetEnded, State.modFlt_windows, keys]
    refine ⟨_, ends, ?_, ?_, ?_, ?_, ?_, ?_, ?_, ?_, fun w other => ?_, fun w own notFirst => ?_⟩
    · rw [State.notice_fenced, State.fenced, district]
    · rw [State.notice_flt_resetting, district]
    · rw [State.notice_district_img, district, noImage]
    · rw [State.notice_district_img, district, noCommit]
    · rw [State.notice_district_orb, district, phase]
    · rw [State.notice_district_host, district, cmdEn]
    · rw [State.notice_district_host, district, cplEn]
    · rw [State.notice_district_host, district, cmds]
    · rw [left, lookupKey_filter_key fun k => k / 256 != d || k % 256 == 0, if_pos (by simp [other])]
    · rw [left, lookupKey_filter_key fun k => k / 256 != d || k % 256 == 0, if_neg (by simp [own, notFirst])]

end Sys2Proof.Machine
end

section
/-! SUPPORT. Records of the mirror engine (12 R358, R359, R363): which of them an engine places, which end a stream, and which are
faults. -/

namespace Sys2Proof.Machine

/-- A record fault fences the district, and writes nothing. -/
theorem State.recordFault_fences {s : State} (running : s.halted = false) (d r : Nat) :
    (s.recordFault d r).fenced d = true ∧ (s.recordFault d r).mem = s.mem :=
  ⟨fence_fenced s d _ _ _ running, fence_mem ..⟩

/-! ## Mirror records -/

/-- May the engine place a mirror record with descriptor `n`, or take it for the end of its stream (R359; log entry 71)? -/
def MirDist.accepts (m : MirDist) (n : Nat) : Bool :=
  m.keep && edSound n && [1, 2, 3, 4].contains (edType n) && (edType n == 4 || decide (edMoff n + 1 < m.size))

theorem MirDist.accepts_page {m : MirDist} {n : Nat} (keep : m.keep = true) (sound : edSound n = true)
    (type : edType n = 1 ∨ edType n = 2 ∨ edType n = 3) (within : edMoff n + 1 < m.size) : m.accepts n = true := by
  rcases type with type | type | type <;> simp [MirDist.accepts, keep, sound, type, within]

theorem MirDist.accepts_end {m : MirDist} {n : Nat} (keep : m.keep = true) (sound : edSound n = true) (type : edType n = 4) :
    m.accepts n = true := by
  simp [MirDist.accepts, keep, sound, type]

theorem MirDist.accepts_none {m : MirDist} {n : Nat} (bad : m.keep = false ∨ edSound n = false
    ∨ (edType n ≠ 4 ∧ m.size ≤ edMoff n + 1) ∨ edType n = 0 ∨ 5 ≤ edType n) : m.accepts n = false := by
  rcases bad with keep | unsound | ⟨page, outside⟩ | type | type
  · simp [MirDist.accepts, keep]
  · simp [MirDist.accepts, unsound]
  · simp [MirDist.accepts, page, Nat.not_lt.2 outside]
  · simp [MirDist.accepts, type]
  · have unknown : [1, 2, 3, 4].contains (edType n) = false := by
      simp only [List.contains_eq_mem, List.mem_cons, List.not_mem_nil, or_false, decide_eq_false_iff_not]
      omega
    simp only [MirDist.accepts, unknown, Bool.and_false, Bool.false_and]

/-- The model's check of a mirror record. -/
theorem MirDist.not_accepts (m : MirDist) (n : Nat) :
    (!m.keep || !edSound n || !([1, 2, 3, 4].contains (edType n)) || (edType n != 4 && decide (m.size ≤ edMoff n + 1))) = !m.accepts n := by
  have outside : decide (m.size ≤ edMoff n + 1) = !decide (edMoff n + 1 < m.size) := by simp only [← decide_not, Nat.not_lt]
  rw [MirDist.accepts, outside]
  simp only [Bool.not_and, Bool.not_or, bne]

/-- A mirror record of slots, of a page or of weights is in its place, with the directory entry of the page. -/
def State.mirrored (s : State) (x : EngineRec) : State :=
  let m := (s.district x.d).mir
  let t := s.move x.data ((m.base + edMoff x.desc) * MiB) (edLen x.desc)
  let t := if edType x.desc = 1 then
      t.modMir x.d fun m => { m with heldSlots := insertKey (edMoff x.desc) (edLen x.desc, edCount x.desc) m.heldSlots }
    else t
  t.store ((m.base + m.size - 1) * MiB + 8 * edMoff x.desc) (leBytes 8 (dirEntry x.desc))

theorem State.mirrored_mem (s : State) (x : EngineRec) : (s.mirrored x).mem
    = Memory.write (Memory.copy s.mem x.data (((s.district x.d).mir.base + edMoff x.desc) * MiB) (edLen x.desc))
      (((s.district x.d).mir.base + (s.district x.d).mir.size - 1) * MiB + 8 * edMoff x.desc) (leBytes 8 (dirEntry x.desc)) := by
  rw [State.mirrored, State.store_mem, apply_ite State.mem, State.modMir_mem, ite_self, move_mem']

section
variable {s : State} {r : Nat} {x : EngineRec} (record : s.engineRec r = some x) (running : s.halted = false)
  (unfenced : s.fenced x.d = false)
include record running unfenced

/-- While no restore is on, a record that the engine accepts is released, its data in place; any other is a fault. -/
theorem exec_mirrorRecord (mirror : (s.district x.d).flt.restore = false) : exec (.mirrorRecord r) s = .next (
    if (s.district x.d).mir.accepts x.desc then (if edType x.desc = 4 then s else s.mirrored x).release x.d r x.unit
    else s.recordFault x.d r) := by
  simp only [exec, execMirrorRecord, record]
  rw [if_neg (by simp [running, unfenced, mirror]), MirDist.not_accepts]
  cases (s.district x.d).mir.accepts x.desc <;> rfl

/-! ## Restore records -/

section
variable (restore : (s.district x.d).flt.restore = true)
include restore

theorem exec_restoreRecord_unsound (unsound : edSound x.desc = false) :
    exec (.restoreRecord r) s = .next (s.recordFault x.d r) := by
  simp [exec, execRestoreRecord, record, running, unfenced, restore, unsound]

variable (sound : edSound x.desc = true)
include sound

theorem exec_restoreRecord_refused (refused : s.restoreOne x.d x.desc x.data = none) :
    exec (.restoreRecord r) s = .next (s.recordFault x.d r) := by
  simp [exec, execRestoreRecord, record, running, unfenced, restore, sound, refused]

/-- A record that is placed is released, and its ring receives a stream until the stream's end has come. -/
theorem exec_restoreRecord_placed {t : State} (placed : s.restoreOne x.d x.desc x.data = some t) :
    exec (.restoreRecord r) s = .next ((t.modFlt x.d fun f => { f with
      receiving := if edType x.desc = 4 then f.receiving.erase r else addOnce f.receiving r }).release x.d r x.unit) := by
  simp [exec, execRestoreRecord, record, running, unfenced, restore, sound, placed]

end

end

section
variable {s : State} {d n data : Nat}

/-- A page of the held step goes where it says, and is STALE no more. -/
theorem State.restoreOne_page {g : Region} (type : edType n = 5) (region : s.regionOf d (edAddr n) (edLen n) = some g)
    (use : g.use = edUse n) (step : edGen n = (s.district d).orb.step) :
    s.restoreOne d n data = some ((s.move data (edAddr n) (edLen n)).modFlt d fun f => { f with
      stale := f.stale.erase (edAddr n / MiB) }) := by
  simp [State.restoreOne, type, region, use, step]

theorem State.restoreOne_weights {g : Region} (type : edType n = 3) (region : s.regionOf d (edAddr n) (edLen n) = some g)
    (use : g.use = 4) : s.restoreOne d n data = some (s.move data (edAddr n) (edLen n)) := by
  simp [State.restoreOne, type, region, use]

theorem State.restoreOne_end (type : edType n = 4) : s.restoreOne d n data = some s := by
  simp [State.restoreOne, type]

/-- A page of neither the held step nor the one before has no place. -/
theorem State.restoreOne_otherStep (type : edType n = 5) (notThis : edGen n ≠ (s.district d).orb.step)
    (notBefore : stepAfter (edGen n) ≠ (s.district d).orb.step) : s.restoreOne d n data = none := by
  simp [State.restoreOne, type, notThis, notBefore]

theorem State.restoreOne_unknown (type : edType n = 0 ∨ edType n = 2 ∨ 6 ≤ edType n) : s.restoreOne d n data = none := by
  unfold State.restoreOne
  extract_lets held same region
  split
  case h_5 => rfl
  all_goals omega

end

/-- Settles O42: a record by whether the engine accepts it, and where it says that its data goes. -/
theorem engineRecords : Obligations.EngineRecords := by
  unfold Obligations.EngineRecords
  rintro s r x _ _ record running unfenced rfl rfl
  have fault {c : Instr} (faults : exec c s = .next (s.recordFault x.d r)) :
      ∃ t, exec c s = .next t ∧ t.fenced x.d = true ∧ t.mem = s.mem := ⟨_, faults, State.recordFault_fences running x.d r⟩
  refine ⟨fun mirror => ?mirror, fun restore sound => ?restore, fun restore unsound =>
    fault (exec_restoreRecord_unsound record running unfenced restore unsound)⟩
  case mirror =>
    have placed := exec_mirrorRecord record running unfenced mirror
    refine ⟨fun keep sound type within => ?page, fun keep sound type => ?finish, fun bad => ?bad⟩
    case page =>
      have data : edType x.desc ≠ 4 := by omega
      rw [if_pos (MirDist.accepts_page keep sound type within), if_neg data] at placed
      exact ⟨_, placed, (release_mem ..).trans (State.mirrored_mem s x), (exec_keeps s _ _ placed).keys rfl⟩
    case finish =>
      rw [if_pos (MirDist.accepts_end keep sound type), if_pos type] at placed
      exact ⟨_, placed, release_mem ..⟩
    case bad =>
      rw [MirDist.accepts_none bad] at placed
      exact fault placed
  case restore =>
    have placed {t : State} := exec_restoreRecord_placed (t := t) record running unfenced restore sound
    have refused := exec_restoreRecord_refused record running unfenced restore sound
    refine ⟨fun g type region use step => ?page, fun g type region use => ?weights, fun type => ?finish,
      fun type notThis notBefore => fault (refused (State.restoreOne_otherStep type notThis notBefore)),
      fun type => fault (refused (State.restoreOne_unknown type))⟩
    case page =>
      refine ⟨_, placed (State.restoreOne_page type region use step), ?_, ?_⟩
      · rw [release_mem, State.modFlt_mem, State.modFlt_mem, move_mem']
      · rw [release_dist, State.modFlt_district, State.modFlt_district, move_district]
    case weights =>
      refine ⟨_, placed (State.restoreOne_weights type region use), ?_⟩
      rw [release_mem, State.modFlt_mem, move_mem']
    case finish =>
      refine ⟨_, placed (State.restoreOne_end type), ?_, release_mem ..⟩
      rw [release_dist, State.modFlt_district, if_pos type]

end Sys2Proof.Machine
end

section
/-! SUPPORT. Moon's restarts and the test access port (14 R381, R382, R396; 15 R416, 16 R435): what an edge of JTAG_TCK captures,
shifts and puts in force. -/

namespace Sys2Proof.Machine

/-! ## Restarts -/

section
variable {s : State} {why : MoonError} (powered : s.powered = true)
include powered

theorem exec_moonWatchdogExpiry_restarts (running : s.moon.running = true) (lost : why ≠ .corrected) (second : Bool) :
    exec (.moonWatchdogExpiry why second) s
      = .next (if second then s.halt 0x64 none 0 0 else s.notice 0x64 none 0 0).restartMoon := by
  have on : ¬ (!s.powered) = true := by simp [powered]
  have ran : ¬ (decide (why = .watchdog) && !s.moon.running) = true := by simp [running]
  exact congrArg _ ((if_neg on).trans ((if_neg lost).trans (if_neg ran)))

theorem exec_moonWatchdogExpiry_corrected (second : Bool) :
    exec (.moonWatchdogExpiry .corrected second) s = .next (s.notice 0x68 none 0 0) :=
  congrArg Host.Outcome.next ((if_neg (by simp [powered])).trans (if_pos rfl))

theorem exec_moonRestartDone_boots (stopped : s.moon.fw = 0) (started : 4 ≤ s.pwr.stage) :
    exec .moonRestartDone s = .next s.bootRom :=
  congrArg Host.Outcome.next (if_pos (by simp [powered, stopped, started]))

end

/-! ## The test access port -/

/-- A rising edge moves the port, and its reset puts IDCODE in force. -/
theorem Jtag.rise_state (j : Jtag) (serial : Nat) (tms tdi : Bool) : (j.rise serial tms tdi).state = j.state.next tms
    ∧ (j.rise serial tms tdi).instr = if j.state.next tms = .reset then .idcode else j.instr := by
  obtain ⟨state, instr, ir, dr, held⟩ := j
  cases state <;> exact ⟨rfl, rfl⟩

theorem Jtag.rise_shIr {j : Jtag} (state : j.state = .shIr) (serial : Nat) (tms tdi : Bool) :
    (j.rise serial tms tdi).ir = j.ir.drop 1 ++ [tdi] ∧ (j.rise serial tms tdi).dr = j.dr := by
  simp [Jtag.rise, state]

theorem Jtag.rise_shDr {j : Jtag} (state : j.state = .shDr) (serial : Nat) (tms tdi : Bool) :
    (j.rise serial tms tdi).dr = j.dr.drop 1 ++ [tdi] ∧ (j.rise serial tms tdi).ir = j.ir := by
  simp [Jtag.rise, state]

theorem Jtag.rise_capDr {j : Jtag} (state : j.state = .capDr) (serial : Nat) (tms tdi : Bool) :
    (j.rise serial tms tdi).dr = captureDr j.instr serial := by
  simp [Jtag.rise, state]

theorem captureDr_idcode (serial : Nat) :
    (captureDr .idcode serial).length = 32 ∧ (captureDr .idcode serial).headD false = true := by
  simp [captureDr, upFrom]

/-- A code of all ones is BYPASS (IEEE 1149.1). -/
theorem Moon.jtagInstr_ones {m : Moon} {code : List Bool} (ones : code.all id = true) : m.jtagInstr code = .bypass := by
  simp [Moon.jtagInstr, ones]

/-- While debug is locked in PRODUCTION, no instruction but the three of R396 comes into force. -/
theorem Moon.jtagInstr_locked {m : Moon} (production : m.lifecycle = 1) (locked : m.unlocked = false) (code : List Bool) :
    m.jtagInstr code = .bypass ∨ m.jtagInstr code = .idcode ∨ m.jtagInstr code = .boundary := by
  unfold Moon.jtagInstr
  extract_lets i
  split
  · next allowed =>
    cases selected : i <;> simp [selected, Moon.allows, production, locked] at allowed ⊢
  · exact .inl rfl

section
variable {s : State}

theorem exec_jtagTck_held (held : s.jtag.held = true) (up tms tdi : Bool) : exec (.jtagTck up tms tdi) s = .next s :=
  congrArg Host.Outcome.next (if_pos (by simp [held]))

variable (released : s.jtag.held = false) (powered : s.powered = true) (tms tdi : Bool)
include released powered

theorem exec_jtagTck_rises : exec (.jtagTck true tms tdi) s
    = .next { s with free := s.free + 1, jtag := s.jtag.rise s.free tms tdi } :=
  congrArg Host.Outcome.next (if_neg (by simp [released, powered]))

theorem exec_jtagTck_falls : exec (.jtagTck false tms tdi) s = .next (match s.jtag.state with
    | .shIr => s.emit (.tdo (s.jtag.ir.headD false))
    | .shDr => s.emit (.tdo (s.jtag.dr.headD false))
    | .updIr => { s with jtag := { s.jtag with instr := s.moon.jtagInstr s.jtag.ir } }
    | _ => s) :=
  congrArg Host.Outcome.next ((if_neg (by simp [released, powered])).trans (by rfl))

end

theorem exec_mctpControl_answers {s : State} {via : Transport} (running : s.moon.running = true) (heard : s.hears via = true)
    (code : Nat) (data : List Byte) : exec (.mctpControl via code data) s = .next { s with
      free := s.free + 1
      out := .mctp via code (leBytes (min 64 data.length + 1) (Config.freeValue s.free)) :: s.out } :=
  congrArg Host.Outcome.next (if_pos (by simp [running, heard]))

/-- Settles O46: a restart and a boot leave what their operations do; each edge of JTAG_TCK by its direction and the port's state. -/
theorem moonRestartsAndTap : Obligations.MoonRestartsAndTap := by
  unfold Obligations.MoonRestartsAndTap
  intro s
  refine ⟨fun powered running => ⟨fun why lost => ?restart, fun why lost => ?halt⟩,
    fun powered second => exec_moonWatchdogExpiry_corrected powered second, fun powered stopped started => ?boot,
    fun released powered => ⟨fun tms tdi => ?rise, fun tms tdi state => ?shIr, fun tms tdi state => ?shDr,
      fun tms tdi state => ?updIr, fun tms tdi notShDr notShIr notUpdIr => ?other⟩,
    fiveOnes, fun held => exec_jtagTck_held held, fun running via code data heard => ?mctp⟩
  case restart =>
    obtain ⟨moon, flash, mem, orb, cores, rings, hosts, halted, -⟩ := restartMoon_leaves (s.notice 0x64 none 0 0)
    simp only [State.notice_moon, State.notice_mem, State.notice_orb, State.notice_cores, State.notice_rings, State.notice_hosts,
      State.notice_halted] at moon flash mem orb cores rings hosts halted
    refine ⟨_, exec_moonWatchdogExpiry_restarts powered running lost false, congrArg Moon.running moon, congrArg Moon.fw moon,
      congrArg Moon.sessions moon, congrArg Moon.update moon, congrArg Moon.restarts moon, mem, orb, cores, rings, hosts, halted, flash⟩
  case halt =>
    obtain ⟨moon, -, mem, -, -, -, -, halted, -⟩ := restartMoon_leaves (s.halt 0x64 none 0 0)
    exact ⟨_, exec_moonWatchdogExpiry_restarts powered running lost true, halted.trans (State.halt_halted ..),
      congrArg Moon.running moon, mem.trans (State.halt_mem ..)⟩
  case boot => exact ⟨_, exec_moonRestartDone_boots powered stopped started, bootRom_leaves s⟩
  case rise =>
    obtain ⟨state, instr⟩ := s.jtag.rise_state s.free tms tdi
    refine ⟨_, exec_jtagTck_rises released powered tms tdi, rfl, state, instr, fun now => Jtag.rise_shIr now ..,
      fun now => Jtag.rise_shDr now .., fun now bypass => ?_, fun now idcode => ?_⟩
    · exact (Jtag.rise_capDr now ..).trans (by rw [bypass]; rfl)
    · simp only [Jtag.rise_capDr now, idcode]
      exact captureDr_idcode s.free
  case shIr => rw [exec_jtagTck_falls released powered, state]
  case shDr => rw [exec_jtagTck_falls released powered, state]
  case updIr =>
    refine ⟨s.moon.jtagInstr s.jtag.ir, ?_, Moon.jtagInstr_ones, fun production locked => Moon.jtagInstr_locked production locked _⟩
    rw [exec_jtagTck_falls released powered, state]
  case other =>
    rw [exec_jtagTck_falls released powered]
    split
    · next now => exact absurd now notShIr
    · next now => exact absurd now notShDr
    · next now => exact absurd now notUpdIr
    · rfl
  case mctp => exact ⟨_, _, exec_mctpControl_answers running heard code data, rfl⟩

end Sys2Proof.Machine
end

section
/-! SUPPORT. PLDM for firmware update and the fused minimum SVN (14 R387, R389 to R391): the turn of a command, the image that is
checked, and what its activation leaves. -/

namespace Sys2Proof.Machine

section
variable {s : State} {via : Transport} (managed : onManagement via = true) (heard : s.hears via = true)
  (taken : s.moon.running = true ∨ s.moon.fw = 3)
include managed heard taken

/-! ## Turns -/

theorem State.pldm_taken (f : State → State) : s.pldm via f = f s :=
  if_pos (by simpa [managed, heard] using taken)

theorem State.pldmStage_inTurn {u : Update} {k : Nat} (updating : s.moon.update = some u) (turn : u.stage = k)
    (f : Update → State → State) : s.pldmStage via k f = f u s := by
  rw [State.pldmStage, State.pldm_taken managed heard taken, updating]
  exact if_pos turn

theorem State.pldmStage_outOfTurn {u : Update} {k : Nat} (updating : s.moon.update = some u) (other : u.stage ≠ k)
    (f : Update → State → State) : s.pldmStage via k f = s.pldmAnswer via 0x84 := by
  rw [State.pldmStage, State.pldm_taken managed heard taken, updating]
  exact if_neg other

theorem exec_requestUpdate_taken : exec (.requestUpdate via) s = .next (if s.moon.update.isSome then s.pldmAnswer via 4
    else (s.setUpdate (some ⟨1, s.moon.fw == 3, []⟩)).pldmAnswer via 0) :=
  congrArg _ (State.pldm_taken managed heard taken _)

section
variable {u : Update} (updating : s.moon.update = some u)
include updating

theorem exec_update_outOfTurn {c : Instr} {k off size : Nat} {data : List Byte}
    (row : (c, k) ∈ [(Instr.passComponentTable via, 1), (.updateComponent via size, 2), (.requestFirmwareData via off data, 3),
      (.transferComplete via, 3), (.verifyComplete via, 4), (.activateFirmware via, 5)]) (other : u.stage ≠ k) :
    exec c s = .next (s.pldmAnswer via 0x84) := by
  have staged : ∃ f, exec c s = .next (s.pldmStage via k f) := by
    simp only [List.mem_cons, Prod.mk.injEq, List.not_mem_nil, or_false] at row
    rcases row with ⟨rfl, rfl⟩ | ⟨rfl, rfl⟩ | ⟨rfl, rfl⟩ | ⟨rfl, rfl⟩ | ⟨rfl, rfl⟩ | ⟨rfl, rfl⟩ <;> exact ⟨_, rfl⟩
  obtain ⟨f, runs⟩ := staged
  rw [runs, State.pldmStage_outOfTurn managed heard taken updating other]

theorem exec_updateComponent_fits {size : Nat} (turn : u.stage = 2) (fits : size ≤ fwMost) :
    exec (.updateComponent via size) s = .next ((s.setUpdate (some { u with stage := 3 })).pldmAnswer via 0) :=
  congrArg _ ((State.pldmStage_inTurn managed heard taken updating turn _).trans (if_neg (Nat.not_lt.2 fits)))

/-! ## The image as it arrives -/

theorem exec_requestFirmwareData_next {data : List Byte} (turn : u.stage = 3) (fits : (u.bytes ++ data).length ≤ fwMost) :
    exec (.requestFirmwareData via u.bytes.length data) s = .next (
      if u.ram || (u.bytes ++ data).length < 4096 then
        (s.setUpdate (some { u with bytes := u.bytes ++ data })).pldmAnswer via 0
      else if u.bytes.length < 4096 && !fwHeaderOk (u.bytes ++ data) then (s.setUpdate none).pldmAnswer via 0x88
      else ((s.modFlash fun f => { f with image := u.bytes ++ data }).setUpdate
        (some { u with bytes := u.bytes ++ data })).pldmAnswer via 0) := by
  have inOrder : ¬ (decide (u.bytes.length ≠ u.bytes.length) || decide (fwMost < (u.bytes ++ data).length)) = true := by
    simpa using fits
  exact congrArg _ ((State.pldmStage_inTurn managed heard taken updating turn _).trans (if_neg inOrder))

/-! ## Its check and its activation -/

theorem exec_verifyComplete_checks (turn : u.stage = 4) :
    exec (.verifyComplete via) s = .next (
      if fwAccepted s.moon.minSvn (if u.ram = true ∨ u.bytes.length < 4096 then u.bytes else s.moon.flash.image) then
        (s.setUpdate (some { u with stage := 5 })).pldmAnswer via 0
      else (s.setUpdate none).pldmAnswer via 1) := by
  have read : (if u.ram || u.bytes.length < 4096 then u.bytes else s.moon.flash.image)
      = if u.ram = true ∨ u.bytes.length < 4096 then u.bytes else s.moon.flash.image := by
    simp only [Bool.or_eq_true, decide_eq_true_eq]
  rw [← read]
  exact congrArg _ (State.pldmStage_inTurn managed heard taken updating turn _)

theorem exec_activateFirmware_flash (turn : u.stage = 5) (flash : u.ram = false) :
    exec (.activateFirmware via) s = .next ((s.setUpdate none).pldmAnswer via 0).restartMoon :=
  congrArg _ ((State.pldmStage_inTurn managed heard taken updating turn _).trans (if_neg (by simp [flash])))

theorem exec_activateFirmware_ram (turn : u.stage = 5) (ram : u.ram = true) :
    exec (.activateFirmware via) s = .next
      ((((s.setUpdate none).modMoon fun m => { m with ramImage := u.bytes }).runFirmware 2 u.bytes).pldmAnswer via 0) :=
  congrArg _ ((State.pldmStage_inTurn managed heard taken updating turn _).trans (if_pos ram))

end
end

/-- Moon behind the start of firmware: it runs the image, and only its soft-repair tables in flash may be written anew. -/
theorem State.runFirmware_moon (s : State) (fw : Nat) (img : List Byte) : (s.runFirmware fw img).moon
    = { s.moon.runs fw img with flash := { s.moon.flash with tables := (s.runFirmware fw img).moon.flash.tables } } :=
  congrArg State.moon (State.saveTables_onlyWork _)

theorem State.runFirmware_out (s : State) (fw : Nat) (img : List Byte) : (s.runFirmware fw img).out = s.out := by
  rw [State.runFirmware, State.saveTables_onlyWork]

/-- Settles O51: each command in its turn leaves what its stage does; the last one restarts Moon, or runs the image from SRAM. -/
theorem firmwareUpdates : Obligations.FirmwareUpdates := by
  unfold Obligations.FirmwareUpdates
  intro s via managed heard taken
  have requested := exec_requestUpdate_taken managed heard taken
  refine ⟨fun idle => by rw [requested, idle]; rfl, fun u updating => ⟨by rw [requested, updating]; rfl,
    fun c k off size data => exec_update_outOfTurn managed heard taken updating,
    fun turn => congrArg _ (State.pldmStage_inTurn managed heard taken updating turn _),
    fun size => exec_updateComponent_fits managed heard taken updating, fun data turn fits => ?data,
    fun turn => congrArg _ (State.pldmStage_inTurn managed heard taken updating turn _),
    fun img turn read => read ▸ exec_verifyComplete_checks managed heard taken updating turn, fun turn flash => ?restart,
    fun turn ram => ?sram⟩⟩
  case data =>
    have arrives := exec_requestFirmwareData_next managed heard taken updating turn fits
    refine ⟨fun kept => ?_, fun flash first whole bad => ?_, fun flash whole sound => ?_⟩
    · exact arrives.trans (congrArg _ (if_pos (by simpa using kept)))
    · have header : ¬ (u.ram || (u.bytes ++ data).length < 4096) = true := by simpa [flash] using whole
      exact arrives.trans (congrArg _ ((if_neg header).trans (if_pos (by simp [first, bad]))))
    · have header : ¬ (u.ram || (u.bytes ++ data).length < 4096) = true := by simpa [flash] using whole
      have verified : ¬ (u.bytes.length < 4096 && !fwHeaderOk (u.bytes ++ data)) = true := by
        rcases sound with later | ok
        · simp [Nat.not_lt.2 later]
        · simp [ok]
      exact arrives.trans (congrArg _ ((if_neg header).trans (if_neg verified)))
  case restart =>
    obtain ⟨moon, flash', mem, orb, cores, -, -, -, out⟩ := restartMoon_leaves ((s.setUpdate none).pldmAnswer via 0)
    exact ⟨_, exec_activateFirmware_flash managed heard taken updating turn flash, congrArg Moon.running moon,
      congrArg Moon.fw moon, flash', out, cores, mem, orb⟩
  case sram =>
    have moon := State.runFirmware_moon ((s.setUpdate none).modMoon fun m => { m with ramImage := u.bytes }) 2 u.bytes
    obtain ⟨⟨-, mem, cores⟩, running⟩ :=
      runFirmware_leaves ((s.setUpdate none).modMoon fun m => { m with ramImage := u.bytes }) 2 u.bytes
    exact ⟨_, exec_activateFirmware_ram managed heard taken updating turn ram, running, congrArg Moon.fw moon,
      congrArg Moon.svn moon, congrArg (fun m => m.flash.image) moon, congrArg _ (State.runFirmware_out ..), cores, mem⟩

/-- An image whose SVN is below the fused minimum ends its update in recovery. -/
theorem exec_verifyComplete_refuses {s : State} {via : Transport} {u : Update} (managed : onManagement via = true)
    (heard : s.hears via = true) (recovery : s.moon.fw = 3) (updating : s.moon.update = some u) (turn : u.stage = 4)
    (ram : u.ram = true) (older : fwSvn u.bytes < s.moon.minSvn) :
    exec (.verifyComplete via) s = .next ((s.setUpdate none).pldmAnswer via 1) := by
  have read : (if u.ram = true ∨ u.bytes.length < 4096 then u.bytes else s.moon.flash.image) = u.bytes := if_pos (.inl ram)
  rw [exec_verifyComplete_checks managed heard (.inr recovery) updating turn, read, notAccepted older]
  rfl

/-- Settles O47: the minimum is at least the SVN that has run, and no image below the minimum is accepted. -/
theorem minimumSvnRises : Obligations.MinimumSvnRises := by
  unfold Obligations.MinimumSvnRises
  intro s running
  have below {n m : Nat} (least : m = max s.moon.minSvn s.moon.svn) (older : n < s.moon.svn) : n < m :=
    least ▸ Nat.lt_of_lt_of_le older (Nat.le_max_right ..)
  refine ⟨_, congrArg Host.Outcome.next (if_pos running), rfl, fun img older => notAccepted (below rfl older), ?recovery, ?flash⟩
  case recovery =>
    intro u via x least _ recovery managed heard updating turn ram older
    exact exec_verifyComplete_refuses managed heard recovery updating turn ram (below least older)
  case flash =>
    intro u least older
    obtain ⟨-, -, -, runs⟩ := bootRom_leaves u
    rw [runs, notAccepted (below least older)]
    simp

end Sys2Proof.Machine
end

section
/-! SUPPORT. Vendor commands (14 R389, R397, R399, R400, R403, R405): who has an answer, and what status, owner root, clearing and
configuration leave. -/

namespace Sys2Proof.Machine

/-! ## Flash -/

/-- An update is in force once it is written, before the write sequence wraps (R384). -/
theorem FlashPair.update_inForce {α : Type} {x : FlashPair α} (v : α) (room : x.inForce.seq + 1 < 2 ^ 32) :
    (x.update v).inForce.content = v := by
  by_cases useA : x.useA = true
  · have sound : x.a.sound = true := by
      rw [FlashPair.useA, Bool.and_eq_true] at useA
      exact useA.1
    have newer : ¬ (x.inForce.seq + 1) % 2 ^ 32 ≤ x.a.seq := by
      have seq : x.inForce.seq = x.a.seq := by rw [FlashPair.inForce, if_pos useA]
      omega
    rw [FlashPair.update, if_pos useA]
    generalize (x.inForce.seq + 1) % 2 ^ 32 = n at newer
    simp [FlashPair.inForce, FlashPair.useA, sound, newer]
  · have newer : x.b.seq ≤ (x.inForce.seq + 1) % 2 ^ 32 := by
      have seq : x.inForce.seq = x.b.seq := by rw [FlashPair.inForce, if_neg useA]
      omega
    rw [FlashPair.update, if_neg useA]
    generalize (x.inForce.seq + 1) % 2 ^ 32 = n at newer
    simp [FlashPair.inForce, FlashPair.useA, newer]

/-! ## Who has an answer -/

/-- The commands of R400 that need the owner's session. -/
theorem exec_vendor {s : State} {q : MReq} {c : Instr} {defs : List DistrictDef} {d : Fin 4} {key : List Byte} {keyid : W32}
    {a : Nat} {v : W64} {p : Fin 24} {items : List ConfigItem} {n k sigR sigS : Nat}
    (vendor : c ∈ [Instr.districtSet q defs, .ownerClear q, .districtReset q d, .keyRegister q d key keyid, .keyRevoke q d,
      .moonCsrRead q d a, .moonCsrWrite q d a v, .logRead q n k, .snpRead q d n k, .cardGet q, .cardRecheck q p, .configSet q items,
      .debugUnlock q n k sigR sigS]) :
    ∃ f, exec c s = .next (s.vendor q f) := by
  simp only [List.mem_cons, List.not_mem_nil, or_false] at vendor
  rcases vendor with rfl | rfl | rfl | rfl | rfl | rfl | rfl | rfl | rfl | rfl | rfl | rfl | rfl <;> exact ⟨_, rfl⟩

theorem exec_getStatus_answers {s : State} {q : MReq} (listed : q.unlisted = false)
    (reached : s.takesVendor q = true ∨ s.romAnswers q.via = true ∧ q.vendor = vendorId) :
    exec (.getStatus q) s = .next (s.reply q .done ((List.range 6).flatMap fun i => leBytes 8 (s.moonRead (8 * i)))) := by
  have answers : (s.takesVendor q || (s.romAnswers q.via && q.vendor == vendorId)) = true := by simpa using reached
  exact congrArg Host.Outcome.next ((if_neg (by simp [listed])).trans (if_pos answers))

/-! ## Owner root -/

/-- The machine without an owner (R405): no owner root, no owner's rights, no keys, the definitions of reset. -/
def State.ownerless (s : State) : State :=
  let t := (s.modMoon fun m => { m with owner := [], sessions := m.sessions.map fun x => { x with owner := false } }).each allDistricts
    fun d t => t.modImg d fun g => { g with keyed := false, keyId := 0, key := [] }
  (t.defineAll (resetDefs 1)).saveKeys

section
variable {s : State} {q : MReq} (takes : s.takesVendor q = true) (listed : q.unlisted = false)
include takes listed

theorem exec_ownerSet_listed (root : List Byte) : exec (.ownerSet q root) s = .next (
    if q.via ≠ .i3c || !s.moon.owner.isEmpty then s.reply q .refusedAccess []
    else if root.isEmpty then s.reply q .refusedInvalid []
    else ((s.modMoon fun m => { m with owner := root }).saveKeys).reply q .done []) :=
  congrArg Host.Outcome.next ((if_neg (by simp [takes])).trans (if_neg (by simp [listed])))

theorem exec_ownerSet_installs {root : List Byte} (board : q.via = .i3c) (ownerless : s.moon.owner = []) (given : root ≠ []) :
    exec (.ownerSet q root) s = .next (((s.modMoon fun m => { m with owner := root }).saveKeys).reply q .done []) := by
  have first : ¬ (decide (q.via ≠ .i3c) || !s.moon.owner.isEmpty) = true := by simp [board, ownerless]
  have named : ¬ root.isEmpty = true := by simpa using given
  rw [exec_ownerSet_listed takes listed, if_neg first, if_neg named]

theorem exec_ownerSet_refuses {root : List Byte} (refused : q.via ≠ .i3c ∨ s.moon.owner ≠ []) :
    exec (.ownerSet q root) s = .next (s.reply q .refusedAccess []) := by
  have no : (decide (q.via ≠ .i3c) || !s.moon.owner.isEmpty) = true := by simpa using refused
  rw [exec_ownerSet_listed takes listed, if_pos no]

/-! ## Clearing and configuration, in the owner's session -/

variable (owner : s.ownerSession q = true)
include owner

theorem exec_ownerClear_clears (idle : ∀ d ∈ s.defined, s.active d = none) :
    exec (.ownerClear q) s = .next (s.ownerless.reply q .done []) := by
  have free : ¬ (s.defined.any fun d => (s.active d).isSome) = true := by
    simpa using idle
  exact congrArg Host.Outcome.next (State.vendor_answers takes listed owner (t := s.ownerless) (st := .done) (data := []) (if_neg free))

theorem exec_ownerClear_busy (busy : ∃ d ∈ s.defined, (s.active d).isSome) :
    exec (.ownerClear q) s = .next (s.reply q .refusedBusy []) :=
  congrArg _ (State.vendor_answers takes listed owner (if_pos (List.any_eq_true.2 busy)))

theorem exec_configSet_unsound {items : List ConfigItem} (unsound : ∃ i ∈ items, configOk i = false) :
    exec (.configSet q items) s = .next (s.reply q .refusedInvalid []) := by
  have refused : (items.any fun i => !configOk i) = true := by simpa using unsound
  exact congrArg _ (State.vendor_answers takes listed owner (if_pos refused))

theorem exec_configSet_one {i : ConfigItem} (sound : configOk i = true) :
    exec (.configSet q [i]) s = .next ((s.configure i).saveConfig.reply q .done []) := by
  have accepted : ¬ ([i].any fun i => !configOk i) = true := by simp [sound]
  exact congrArg _ (State.vendor_answers takes listed owner ((if_neg accepted).trans (if_neg Bool.false_ne_true)))

end

/-- The four definitions that an OWNER_CLEAR restores are those of reset. -/
theorem resetDefs_defnOf {d : Nat} (within : d < 4) :
    ∃ x, (resetDefs 1)[d]? = some x ∧ defnOf x = (State.reset.district d).defn := by
  have four : d = 0 ∨ d = 1 ∨ d = 2 ∨ d = 3 := by omega
  rcases four with rfl | rfl | rfl | rfl <;> exact ⟨_, rfl, rfl⟩

/-- What is left behind a cleared owner. -/
theorem State.ownerless_leaves (s : State) : s.ownerless.moon.owner = []
    ∧ s.ownerless.moon.sessions = (s.moon.sessions.map fun x => { x with owner := false })
    ∧ (∀ d, d < 4 → (s.ownerless.district d).img.keyed = false ∧ (s.ownerless.district d).defn = (State.reset.district d).defn)
    ∧ s.ownerless.out = s.out ∧ s.ownerless.mem = s.mem ∧ s.ownerless.cores = s.cores := by
  obtain ⟨moon, mem, out, cores, keyed⟩ := clearKeys
    (s.modMoon fun m => { m with owner := [], sessions := m.sessions.map fun x => { x with owner := false } })
    (fun g => { g with keyed := false, keyId := 0, key := [] }) fun _ => rfl
  unfold State.ownerless
  extract_lets t
  obtain ⟨defined, mem', out', moon', cores'⟩ := defineAll_leaves t (resetDefs 1)
  have districts (d : Nat) (within : d < 4) : ((t.defineAll (resetDefs 1)).district d).img.keyed = false
      ∧ ((t.defineAll (resetDefs 1)).district d).defn = (State.reset.district d).defn := by
    obtain ⟨x, listed, defn⟩ := resetDefs_defnOf within
    rw [(defined d x listed).1]
    exact ⟨keyed d within, defn⟩
  generalize t.defineAll (resetDefs 1) = u at *
  have moons := moon'.trans moon
  exact ⟨congrArg Moon.owner moons, congrArg Moon.sessions moons, districts, out'.trans out, mem'.trans mem, cores'.trans cores⟩

/-- Settles O48: a vendor command by its session, and the owner's by what each leaves. -/
theorem ownersCommands : Obligations.OwnersCommands := by
  unfold Obligations.OwnersCommands
  intro s q
  refine ⟨?answer, exec_getStatus_answers, fun root takes listed board ownerless given => ?install,
    fun root takes listed => exec_ownerSet_refuses takes listed, fun takes listed owner => ⟨fun idle => ?clear,
      exec_ownerClear_busy takes listed owner, fun items => exec_configSet_unsound takes listed owner,
      fun w least most => ?limit, fun c least most => ?throttle⟩⟩
  case answer =>
    intro c defs d key keyid a v p items n k sigR sigS vendor
    obtain ⟨f, runs⟩ := exec_vendor (s := s) vendor
    rw [runs]
    exact ⟨fun other => congrArg _ (vendor_off other f), fun takes stranger => congrArg _ (vendor_no takes stranger f),
      fun takes owner unlisted => congrArg _ (vendor_unlisted takes owner unlisted f)⟩
  case install =>
    exact ⟨_, exec_ownerSet_installs takes listed board ownerless given, rfl, rfl, rfl, rfl, rfl,
      fun room => congrArg KeyTables.owner (FlashPair.update_inForce _ room)⟩
  case clear =>
    have clears := exec_ownerClear_clears takes listed owner idle
    obtain ⟨root, sessions, districts, out, mem, cores⟩ := s.ownerless_leaves
    generalize s.ownerless = t at *
    refine ⟨_, clears, root, fun x mem => ?_, districts, congrArg _ out, mem, cores⟩
    have cleared : x ∈ s.moon.sessions.map fun x => { x with owner := false } := sessions ▸ mem
    obtain ⟨y, -, rfl⟩ := List.mem_map.1 cleared
    rfl
  case limit =>
    have sound : configOk (.limitW w) = true := by simp [configOk, least, most]
    exact ⟨_, exec_configSet_one takes listed owner sound, rfl, rfl, rfl, rfl⟩
  case throttle =>
    have sound : configOk (.throttleC c) = true := by simp [configOk, least, most]
    exact ⟨_, exec_configSet_one takes listed owner sound, rfl, rfl, rfl, rfl⟩

end Sys2Proof.Machine
end

section
/-! SUPPORT. SPDM requests (14 R393 to R395): their order, the answers of a filled slot, and the life of a session. -/

namespace Sys2Proof.Machine

/-! ## A session that opens (R393) -/

/-- The secret of a session is the x coordinate of the ECDHE point; a new one is neither established nor the owner's. -/
def Session.opened (i e : Nat) (point : Nat × Nat) : Session :=
  ⟨i, false, false, 0, (bpMul 384 e (some point)).elim [] fun y => beBytes 48 y.1⟩

/-- The ephemeral scalar that a free value gives. -/
def ephemeral (k : Nat) : Nat := Config.freeValue k % (bpN - 1) + 1

theorem ephemeral_range (k : Nat) : 1 ≤ ephemeral k ∧ ephemeral k < bpN := by
  have positive : 0 < bpN - 1 := by decide
  have below := Nat.mod_lt (Config.freeValue k) positive
  unfold ephemeral
  omega

/-- The state in which the responder has drawn its scalar and listed the session. -/
def State.sessionOpened (s : State) (point : Nat × Nat) : State :=
  { s with
    free := s.free + 1
    moon := { s.moon with
      sessions := s.moon.sessions ++ [Session.opened s.moon.nextSession (ephemeral s.free) point]
      nextSession := s.moon.nextSession + 1 } }

section
variable {s : State} {via : Transport} (running : s.moon.running = true) (managed : onManagement via = true)
  (heard : s.hears via = true)
include running managed heard

/-! ## Negotiation (R393) -/

theorem exec_spdm_early {c : Instr} {lvl slot off len n i : Nat} {b : Bool} {x : ExchangeSlot}
    (row : (c, lvl) ∈ [(Instr.getCapabilities via, 1), (.negotiateAlgorithms via b, 2), (.getDigests via, 3),
      (.getCertificate via slot off len, 3), (.challenge via slot n, 3), (.getMeasurements via i slot n, 3), (.keyExchange via x, 3),
      (.finish via i b b, 3), (.keyUpdate via i, 3), (.heartbeat via i, 3), (.endSession via i, 3)]) (early : s.moon.spdm < lvl) :
    exec c s = .next (s.spdmError via 0x04) := by
  have levelled : ∃ f, exec c s = .next (s.spdmAt via lvl f) := by
    simp only [List.mem_cons, Prod.mk.injEq, List.not_mem_nil, or_false] at row
    rcases row with ⟨rfl, rfl⟩ | ⟨rfl, rfl⟩ | ⟨rfl, rfl⟩ | ⟨rfl, rfl⟩ | ⟨rfl, rfl⟩ | ⟨rfl, rfl⟩ | ⟨rfl, rfl⟩ | ⟨rfl, rfl⟩ | ⟨rfl, rfl⟩ |
      ⟨rfl, rfl⟩ | ⟨rfl, rfl⟩ <;> exact ⟨_, rfl⟩
  obtain ⟨f, runs⟩ := levelled
  rw [runs, spdmAt_early running managed heard early]

/-- What a request does whose turn it is. -/
theorem State.spdmAt_does {lvl : Nat} {f : State → State} {t : State} (reached : lvl ≤ s.moon.spdm) (does : f s = t) :
    s.spdmAt via lvl f = t :=
  (spdmAt_ok running managed heard reached f).trans does

/-! ## Slots (R394, R395) -/

section
variable (negotiated : 3 ≤ s.moon.spdm) {slot : Nat} (filled : s.slotFilled slot = true)
include negotiated filled

theorem exec_getDigests_answers : exec (.getDigests via) s = .next (s.spdmAnswer via 0x01
    (leBytes 1 (sumOf ((List.range 5).filter s.slotFilled) (2 ^ ·))
      ++ ((List.range 5).filter s.slotFilled).flatMap fun i => sha384 (s.chainOf i))) := by
  have nonempty : ¬ ((List.range 5).filter s.slotFilled).isEmpty = true := by
    simpa only [List.isEmpty_iff] using List.ne_nil_of_mem (filled_lt filled)
  exact congrArg Host.Outcome.next (State.spdmAt_does running managed heard negotiated (if_neg nonempty))

theorem exec_getCertificate_answers (off len : Nat) : exec (.getCertificate via slot off len) s
    = .next (if off < (s.chainOf slot).length then s.spdmAnswer via 0x02 (((s.chainOf slot).drop off).take len)
      else s.spdmError via 0x01) := by
  refine congrArg Host.Outcome.next (State.spdmAt_does running managed heard negotiated ?_)
  by_cases within : off < (s.chainOf slot).length
  · have answered : ¬ (!s.slotFilled slot || decide ((s.chainOf slot).length ≤ off)) = true := by simpa [filled] using within
    exact (if_neg answered).trans (if_pos within).symm
  · have refused : (!s.slotFilled slot || decide ((s.chainOf slot).length ≤ off)) = true := by simpa [filled] using within
    exact (if_pos refused).trans (if_neg within).symm

theorem exec_challenge_signs (nonce : Nat) : exec (.challenge via slot nonce) s
    = .next (s.signed via slot 0x03 (leBytes 1 slot ++ sha384 (s.chainOf slot) ++ leBytes 32 nonce)) :=
  congrArg Host.Outcome.next (State.spdmAt_does running managed heard negotiated (if_neg (by simp [filled])))

theorem exec_getMeasurements_signs {i nonce : Nat} {x : Nat × List Byte} (found : s.measurements.find? (fun x => x.1 == i) = some x)
    (notCount : i ≠ 0) (notAll : i ≠ 255) : exec (.getMeasurements via i slot nonce) s
    = .next (s.signed via slot 0x60 (leBytes 1 x.1 ++ leBytes 2 x.2.length ++ x.2 ++ leBytes 32 nonce)) := by
  refine congrArg Host.Outcome.next (State.spdmAt_does running managed heard negotiated ?_)
  dsimp only
  rw [if_neg (by simp [filled]), if_neg notCount, if_neg notAll, found]

end

/-! ## Sessions (R393) -/

section
variable (negotiated : 3 ≤ s.moon.spdm)
include negotiated

theorem exec_keyExchange_noPoint {slot : ExchangeSlot} (bad : bpPoint slot.point = none) :
    exec (.keyExchange via slot) s = .next (s.spdmError via 0x01) := by
  refine congrArg Host.Outcome.next (State.spdmAt_does running managed heard negotiated ?_)
  dsimp only
  rw [bad]

theorem exec_keyExchange_full {slot : ExchangeSlot} {point : Nat × Nat} (good : bpPoint slot.point = some point)
    (filled : s.slotFilled slot.slot = true) (full : 4 ≤ s.moon.sessions.length) :
    exec (.keyExchange via slot) s = .next (s.spdmError via 0x03) := by
  refine congrArg Host.Outcome.next (State.spdmAt_does running managed heard negotiated ?_)
  dsimp only
  rw [good]
  exact (if_neg (by simp [filled])).trans (if_pos full)

theorem exec_keyExchange_opens {slot : ExchangeSlot} {point : Nat × Nat} (good : bpPoint slot.point = some point)
    (filled : s.slotFilled slot.slot = true) (room : s.moon.sessions.length < 4) :
    exec (.keyExchange via slot) s = .next ((s.sessionOpened point).signed via slot.slot 0x64
      (leBytes 4 s.moon.nextSession ++ publicKey (ephemeral s.free))) := by
  refine congrArg Host.Outcome.next (State.spdmAt_does running managed heard negotiated ?_)
  dsimp only
  rw [good]
  refine (if_neg (by simp [filled])).trans ((if_neg (Nat.not_le.2 room)).trans ?_)
  simp only [State.sessionOpened, Session.opened, ephemeral, State.draw]
  cases bpMul 384 (Config.freeValue s.free % (bpN - 1) + 1) (some point) <;> rfl

/-- A request of a session that is in the state it needs. -/
theorem State.inSession_does {x : Session} (listed : x ∈ s.moon.sessions) {established : Bool} (stands : x.established = established)
    (f : State → State) : s.inSession via x.id established f = f s := by
  have known : (s.moon.sessions.any fun y => y.id == x.id && y.established == established) = true :=
    List.any_eq_true.2 ⟨x, listed, by simp [stands]⟩
  exact State.spdmAt_does running managed heard negotiated (if_pos known)

end
end

/-- Settles O50: a request before its turn is an error; in its turn it leaves what its operation does. -/
theorem spdmRequests : Obligations.SpdmRequests := by
  unfold Obligations.SpdmRequests
  intro s via running managed heard
  have turn {lvl : Nat} {f : State → State} {t : State} (reached : lvl ≤ s.moon.spdm) (does : f s = t) :
      Host.Outcome.next (s.spdmAt via lvl f) = (.next t : Host.Outcome State Fault Refusal) :=
    congrArg _ (State.spdmAt_does running managed heard reached does)
  refine ⟨⟨_, turn (Nat.zero_le _) rfl, rfl⟩, fun c lvl b slot x off len n i => exec_spdm_early running managed heard,
    fun versioned => turn versioned rfl, fun capable => ⟨turn capable rfl, turn capable rfl⟩,
    fun negotiated => ⟨fun slot filled => ⟨⟨_, exec_getDigests_answers running managed heard negotiated filled, rfl⟩, ?certificate, ?challenge,
      ?measurement, fun point q good => ⟨fun room => ?opens, exec_keyExchange_full running managed heard negotiated good filled⟩⟩,
      fun slot point bad => exec_keyExchange_noPoint (slot := ⟨slot, point⟩) running managed heard negotiated bad, ?session⟩⟩
  case certificate =>
    intro off len
    rw [exec_getCertificate_answers running managed heard negotiated filled]
    split <;> rfl
  case challenge =>
    rintro nonce body rfl
    exact ⟨_, _, exec_challenge_signs running managed heard negotiated filled nonce⟩
  case measurement =>
    rintro i x nonce found notCount notAll body rfl
    exact ⟨_, _, exec_getMeasurements_signs running managed heard negotiated filled found notCount notAll⟩
  case opens =>
    obtain ⟨least, below⟩ := ephemeral_range s.free
    exact ⟨_, _, _, exec_keyExchange_opens running managed heard negotiated good filled room, least, below, rfl⟩
  case session =>
    rintro i x chains listed rfl
    have asks {established : Bool} (stands : x.established = established) (f : State → State) :
        Host.Outcome.next (s.inSession via x.id established f) = (.next (f s) : Host.Outcome State Fault Refusal) :=
      congrArg _ (State.inSession_does running managed heard negotiated listed stands f)
    exact ⟨fun opening => ⟨⟨_, asks opening _, rfl⟩, ⟨_, asks opening _, rfl⟩⟩,
      fun established => ⟨asks established _, ⟨_, asks established _, rfl⟩, ⟨_, asks established _, rfl⟩⟩⟩

end Sys2Proof.Machine
end

section
/-! SUPPORT. The clock over an idle cycle (15 R412), and the districts that reset leaves (11 R308). -/

namespace Sys2Proof.Machine

/-! ## Time -/

/-- GLB_TIME in the clock's units of 1/5 × 2^−32 ns. -/
def Clock.units (c : Clock) : Nat := 5 * 2 ^ 32 * c.ns + c.frac

/-- What overflows the fraction is carried into the nanoseconds, which count modulo 2^64. -/
theorem Clock.advance_units (c : Clock) (n : Nat) : (c.advance n).units % (5 * 2 ^ 96) = (c.units + n) % (5 * 2 ^ 96) := by
  simp only [Clock.units, Clock.advance]
  omega

/-- A clock that stands still keeps a time that its fields can hold. -/
theorem Clock.advance_zero {c : Clock} (fraction : c.frac < 5 * 2 ^ 32) (time : c.ns < 2 ^ 64) : c.advance 0 = c := by
  simp only [Clock.advance, Nat.add_zero, Nat.div_eq_of_lt fraction, Nat.mod_eq_of_lt fraction, Nat.mod_eq_of_lt time]

/-- Units by which an idle cycle moves the clock: none without the island, else a cycle of the reference or of the oscillator. -/
def State.cycleUnits (s : State) : Nat :=
  if s.pwr.islandOn = false then 0 else if s.orb.refOk = true then 32 * 2 ^ 32 else 200 * 2 ^ 32

theorem State.idle_eq (s : State) : s.idle = { s with clk := { s.clk.advance s.cycleUnits with ref := s.clk.ref + 1 } } := by
  have units : (if !s.pwr.islandOn then 0 else if s.orb.refOk then 2 ^ 37 else 25 * 2 ^ 35) = s.cycleUnits := by
    simp only [State.cycleUnits, Bool.not_eq_true']
    rfl
  simp only [State.idle, units]

theorem State.idle_units {s : State} {n : Nat} (cycle : s.cycleUnits = n) :
    s.idle.clk.units % (5 * 2 ^ 96) = (s.clk.units + n) % (5 * 2 ^ 96) := by
  rw [State.idle_eq, cycle]
  exact s.clk.advance_units n

/-- Settles O52: a command at the front by the definition of a step, an idle cycle by how far it advances the clock. -/
theorem stepRunsTheFront : Obligations.StepRunsTheFront := by
  unfold Obligations.StepRunsTheFront
  refine ⟨fun c q s => rfl, fun s empty => ⟨s.idle, ?steps, rfl, rfl, ?fraction, ?up, fun island reference => ?reference,
    fun island noReference => ?oscillator, fun off fraction time => ?still⟩⟩
  case steps => rw [step, empty]
  case fraction => exact Nat.mod_lt _ (by decide)
  case up => rw [State.idle_eq]; rfl
  case reference => exact State.idle_units (by simp [State.cycleUnits, island, reference])
  case oscillator => exact State.idle_units (by simp [State.cycleUnits, island, noReference])
  case still =>
    have stands : s.cycleUnits = 0 := if_pos off
    rw [State.idle_eq, stands, Clock.advance_zero fraction time]
    exact ⟨rfl, rfl⟩

/-! ## The state of reset -/

theorem reset_district (d : Nat) : State.reset.district d = if d = 0 then District.whole else {} := by
  show ((if d = 0 then some District.whole else none).getD {} : District) = _
  split <;> rfl

/-- No district has an image, a key or a fence at reset, district 0 as little as the undefined ones. -/
theorem reset_district_leaves (d : Nat) :
    State.reset.active d = none ∧ (State.reset.district d).img.keyed = false ∧ State.reset.fenced d = false := by
  simp only [State.active, State.fenced, reset_district]
  split <;> exact ⟨rfl, rfl, rfl⟩

/-- Settles O53: each register by its reset value, the districts by whether they are district 0. -/
theorem resetState : Obligations.ResetState := by
  unfold Obligations.ResetState
  exact ⟨rfl, rfl, rfl, rfl, rfl, rfl, rfl, rfl, rfl, reset_district_leaves, fun p => ⟨rfl, rfl, rfl⟩, fun k => rfl, rfl, rfl⟩

end Sys2Proof.Machine
end

section
/-! SUPPORT. Resets, power-offs and the island (15 R415 to R418, R451): where each begins, and what each sets in the power record of
the cleared machine. -/

namespace Sys2Proof.Machine

/-! ## What a reset leaves -/

/-- What a power-off leaves, whatever its cause: the machine cleared, without rails or memory, and held in reset. -/
theorem State.powerOff_leaves (s : State) (cause : Nat) : s.resetOf (s.powerOff cause) ∧ (s.powerOff cause).mem = []
    ∧ (s.powerOff cause).pwr.railsOn = false ∧ (s.powerOff cause).pwr.heldReset = true ∧ (s.powerOff cause).pwr.offCause = cause
    ∧ (s.powerOff cause).pwr.trip = s.pwr.trip ∧ (s.powerOff cause).pwr.memKept = false :=
  ⟨cleared_resetOf s false _ rfl rfl, rfl, rfl, rfl, rfl, rfl, rfl⟩

/-- What a cold reset leaves: LAST names the cause of a power-off before it, if one was. -/
theorem State.coldReset_leaves (s : State) (last : Nat) : s.resetOf (s.coldReset last) ∧ (s.coldReset last).mem = []
    ∧ (s.coldReset last).pwr.trip = s.pwr.trip ∧ (s.coldReset last).pwr.heldReset = false ∧ (s.coldReset last).pwr.railsOn = true
    ∧ (s.coldReset last).pwr.resetLast = (if s.pwr.offCause = 0 then last else s.pwr.offCause)
    ∧ (s.coldReset last).free = s.free + 1 :=
  ⟨cleared_resetOf s false _ rfl rfl, rfl, rfl, rfl, rfl, rfl, rfl⟩

section
variable {s : State} {ns : Nat}

/-! ## PORST_N (R415, R416) -/

theorem exec_porstN_ignored (short : ns < 400) : exec (.porstN ns) s = .next s :=
  congrArg Host.Outcome.next (if_pos (by simp [short]))

theorem exec_porstN_held (held : s.pwr.heldReset = true) (supply : s.pwr.offCause ≠ 3) : exec (.porstN ns) s = .next s :=
  congrArg Host.Outcome.next (if_pos (by simp [held, supply]))

section
variable (island : s.pwr.islandOn = true) (free : s.pwr.heldReset = false ∨ s.pwr.offCause = 3) (long : 400 ≤ ns)
include island free long

theorem State.porstN_heard : ¬ (!s.pwr.islandOn || (s.pwr.heldReset && s.pwr.offCause != 3) || decide (ns < 400)) = true := by
  rcases free with released | tripped
  · simp [island, released, long]
  · simp [island, tripped, long]

theorem exec_porstN_resets (full : 1000 ≤ ns) : exec (.porstN ns) s = .next (s.coldReset 1) :=
  congrArg Host.Outcome.next ((if_neg (State.porstN_heard island free long)).trans (if_pos full))

/-- In between, a free value is drawn that says whether the pulse resets. -/
theorem exec_porstN_between (short : ns < 1000) : exec (.porstN ns) s
    = .next (if Config.porstResets s.free then ({ s with free := s.free + 1 } : State).coldReset 1 else { s with free := s.free + 1 }) :=
  congrArg Host.Outcome.next ((if_neg (State.porstN_heard island free long)).trans (if_neg (Nat.not_le.2 short)))

end

/-! ## Warm reset, power-offs and the island (R417, R418, R451) -/

theorem exec_warmResetBegin_resets (asked : s.pwr.warmPending = true) (powered : s.powered = true) :
    exec .warmResetBegin s = .next ((s.cleared true).modPwr fun p => { p with resetLast := 2 }) :=
  congrArg Host.Outcome.next (if_pos (by simp [asked, powered]))

theorem exec_inputRise39v_resets (island : s.pwr.islandOn = true) (held : s.pwr.heldReset = true) :
    exec .inputRise39v s = .next (s.coldReset 0) :=
  congrArg Host.Outcome.next (if_pos (by simp [island, held]))

theorem exec_islandPowerUp_starts (off : s.pwr.islandOn = false) : exec .islandPowerUp s
    = .next ((({ s with clk := { s.clk with ns := 0, frac := 0 } } : State).cleared false).modPwr fun p => { p with
        trip := 0, first := 0, coolMax := 60, resetLast := 0, memKept := false, islandOn := true, railsOn := false
        heldReset := true, padsReleased := false }) :=
  congrArg Host.Outcome.next (if_neg (by simp [off]))

theorem exec_islandPowerLoss_ends (island : s.pwr.islandOn = true) : exec .islandPowerLoss s
    = .next ((s.cleared false).modPwr fun p => { p with
        islandOn := false, railsOn := false, memKept := false, padsReleased := false, resetLast := 0, trip := 0, first := 0 }) :=
  congrArg Host.Outcome.next (if_pos island)

end

/-- Settles O43: each event by the reset that it begins, and each reset by the machine that it clears. -/
theorem resetsBegin : Obligations.ResetsBegin := by
  unfold Obligations.ResetsBegin
  intro s
  refine ⟨fun ns island free => ⟨fun full => ?full, exec_porstN_ignored, fun long short => ?between⟩,
    fun ns _ held input => exec_porstN_held held (by simp [input]), fun asked powered => ?warm, fun tripped => ?trip,
    fun island => ?below, fun island held => ?rise, fun off => ?starts, fun island => ?ends, fun low => rfl⟩
  case full =>
    obtain ⟨reset, mem, trip, released, -, last, -⟩ := s.coldReset_leaves 1
    exact ⟨_, exec_porstN_resets island free (by omega) full, reset, mem, trip, released, last⟩
  case between =>
    refine ⟨_, exec_porstN_between island free long short, ?_⟩
    split
    · obtain ⟨reset, mem, -, -, -, -, drawn⟩ := State.coldReset_leaves { s with free := s.free + 1 } 1
      exact .inr ⟨reset, mem, drawn⟩
    · exact .inl rfl
  case warm =>
    exact ⟨_, exec_warmResetBegin_resets asked powered, cleared_resetOf s true _ rfl rfl, rfl, rfl,
      fun a outside => get_keptMem s.mem a outside, fun a sram => get_keptSram s.mem a sram, rfl, rfl⟩
  case trip =>
    obtain ⟨reset, mem, rails, held, cause, trip, kept⟩ := s.powerOff_leaves 3
    exact ⟨_, congrArg Host.Outcome.next (if_pos tripped), reset, mem, rails, held, cause, trip, kept⟩
  case below =>
    obtain ⟨reset, mem, rails, held, cause, -, kept⟩ := s.powerOff_leaves 4
    exact ⟨_, congrArg Host.Outcome.next (if_pos island), reset, mem, rails, held, cause, kept⟩
  case rise =>
    obtain ⟨reset, mem, -, released, rails, last, -⟩ := s.coldReset_leaves 0
    refine ⟨_, exec_inputRise39v_resets island held, reset, mem, released, rails, last.trans ?_⟩
    split
    · next noCause => exact noCause.symm
    · rfl
  case starts => exact ⟨_, exec_islandPowerUp_starts off, rfl, rfl, rfl, rfl, rfl, rfl, s.cutFlash_same⟩
  case ends =>
    exact ⟨_, exec_islandPowerLoss_ends island, cleared_resetOf s false _ rfl rfl, rfl, rfl, rfl, rfl, rfl⟩

end Sys2Proof.Machine
end

section
/-! SUPPORT. Start-up (15 R419 to R421) and the boot ROM (14 R387, R388, R396, R398): what each stage leaves where it ends. -/

namespace Sys2Proof.Machine

/-! ## Straps (R419) -/

theorem sampleStraps_agree (v : Nat) (sets : List (List Nat)) : sampleStraps (List.replicate 8 v :: sets) = some (v, true) := by
  simp [sampleStraps]

/-- While no set of 8 agrees sampling goes on, until the 17th gives its last sample. -/
theorem sampleStraps_disagree {sets : List (List Nat)} (disagree : ∀ l ∈ sets, l.length = 8 ∧ ∃ x ∈ l, x ≠ l.headD 0)
    (most : sets.length ≤ 17) :
    sampleStraps sets = if sets.length < 17 then none else (sets.getLast?.bind (·.getLast?)).map (·, false) := by
  have whole : (sets.filter fun l => l.length == 8) = sets :=
    List.filter_eq_self.2 fun l mem => by simpa using (disagree l mem).1
  have noneAgrees : (sets.find? fun l => l.all (· == l.headD 0)) = none := by
    refine List.find?_eq_none.2 fun l mem agrees => ?_
    obtain ⟨-, x, listed, other⟩ := disagree l mem
    exact other (by simpa using List.all_eq_true.1 agrees x listed)
  simp only [sampleStraps, whole, List.take_of_length_le most, noneAgrees]

theorem State.takeStraps_goesOn {s : State} {sets : List (List Nat)} (open_ : sampleStraps sets = none) : s.takeStraps sets = s := by
  rw [State.takeStraps, open_]

/-- Straps that are taken, stable or not, end stage 2; unstable ones are logged besides. -/
theorem State.takeStraps_taken {s : State} {sets : List (List Nat)} {v : Nat} {stable : Bool}
    (taken : sampleStraps sets = some (v, stable)) :
    (s.takeStraps sets).pwr = { s.pwr with pstrap := bits v 0 12, bootsel := bits v 12 2, stable := stable, stage := 3 }
      ∧ (s.takeStraps sets).mem = s.mem := by
  rw [State.takeStraps, taken]
  cases stable
  · exact ⟨State.notice_pwr, State.notice_mem⟩
  · exact ⟨rfl, rfl⟩

/-! ## Fuses (R396, R398) -/

theorem State.eraseKeys_leaves (s : State) : s.eraseKeys.pwr = s.pwr
    ∧ s.eraseKeys.moon = { s.moon with
        owner := [], cfg := {}, flash := { s.moon.flash with keys := FlashPair.new {}, config := FlashPair.new {} } }
    ∧ ∀ d, d < 4 → (s.eraseKeys.district d).img.keyed = false := by
  obtain ⟨moon, -, -, -, keyed⟩ := clearKeys s (fun g => { g with keyed := false, keyId := 0, key := [] }) fun _ => rfl
  have pwr := State.each_field State.pwr (f := fun d t => t.modImg d fun g => { g with keyed := false, keyId := 0, key := [] })
    (fun _ _ => rfl) allDistricts s
  exact ⟨by simp only [State.eraseKeys, pwr], by simp only [State.eraseKeys, moon], keyed⟩

/-- Reading the fuses moves the lifecycle, and nothing by which the ROM boots. -/
theorem State.readFuses_leaves (s : State) (n : Nat) : (s.readFuses n).pwr = s.pwr
    ∧ (s.readFuses n).moon.lifecycle = max s.moon.lifecycle (min n 2) ∧ (s.readFuses n).moon.minSvn = s.moon.minSvn
    ∧ (s.readFuses n).moon.boot = s.moon.boot ∧ (s.readFuses n).moon.flash.image = s.moon.flash.image := by
  unfold State.readFuses
  extract_lets next read t
  split
  · obtain ⟨pwr, moon, -⟩ := t.eraseKeys_leaves
    rw [pwr, moon]
    exact ⟨rfl, rfl, rfl, rfl, rfl⟩
  · exact ⟨rfl, rfl, rfl, rfl, rfl⟩

theorem State.readFuses_rma {s : State} {n : Nat} (before : s.moon.lifecycle < 2) (rma : 2 ≤ n) :
    s.readFuses n = ({ s with moon := { s.moon with lifecycle := 2 } } : State).eraseKeys := by
  have next : max s.moon.lifecycle (min n 2) = 2 := by omega
  have enters : s.moon.lifecycle ≠ 2 := by omega
  simp [State.readFuses, next, enters]

/-! ## The boot ROM (R387, R388) -/

/-- The boot is counted, and a BOOTSEL that the ROM does not know is logged. -/
def State.bootCounted (s : State) : State :=
  let t : State := { s with moon := { s.moon with boot := (s.moon.boot + 1) % 2 ^ 32 } }
  if 2 ≤ s.pwr.bootChoice then t.notice 0x6A none 0 s.pwr.strapSample else t

theorem State.bootCounted_leaves (s : State) : s.bootCounted.pwr = s.pwr
    ∧ s.bootCounted.moon = { s.moon with boot := (s.moon.boot + 1) % 2 ^ 32 }
    ∧ ∀ d, (s.bootCounted.district d).img = (s.district d).img := by
  unfold State.bootCounted
  split
  · exact ⟨State.notice_pwr, State.notice_moon, fun d => State.notice_district_img⟩
  · exact ⟨rfl, rfl, fun d => rfl⟩

/-- The ROM boots the flash image when BOOTSEL lets it and it accepts the image. -/
def State.bootsFlash (s : State) : Prop := s.pwr.bootChoice ≠ 1 ∧ fwAccepted s.moon.minSvn s.moon.flash.image = true

theorem State.bootRom_choice (s : State) :
    s.bootRom = if s.bootCounted.pwr.bootChoice ≠ 1 && fwAccepted s.bootCounted.moon.minSvn s.bootCounted.moon.flash.image
      then s.bootCounted.runFirmware 1 s.bootCounted.moon.flash.image
      else { s.bootCounted with moon := { s.bootCounted.moon with fw := 3, running := false } } := rfl

theorem State.bootRom_flash {s : State} (boots : s.bootsFlash) : s.bootRom = s.bootCounted.runFirmware 1 s.moon.flash.image := by
  obtain ⟨pwr, moon, -⟩ := s.bootCounted_leaves
  obtain ⟨chosen, accepted⟩ := boots
  rw [State.bootRom_choice, pwr, moon]
  exact if_pos (by simp [chosen, accepted])

theorem State.bootRom_recovery {s : State} (recovers : ¬ s.bootsFlash) :
    s.bootRom = { s.bootCounted with moon := { s.bootCounted.moon with fw := 3, running := false } } := by
  obtain ⟨pwr, moon, -⟩ := s.bootCounted_leaves
  have refused : ¬ (decide (s.pwr.bootChoice ≠ 1) && fwAccepted s.moon.minSvn s.moon.flash.image) = true := by
    simpa [State.bootsFlash] using recovers
  rw [State.bootRom_choice, pwr, moon]
  exact if_neg refused

theorem State.runFirmware_pwr (s : State) (fw : Nat) (img : List Byte) : (s.runFirmware fw img).pwr = s.pwr := by
  rw [State.runFirmware, State.saveTables_onlyWork]

theorem State.runFirmware_district (s : State) (fw : Nat) (img : List Byte) (d : Nat) :
    (s.runFirmware fw img).district d = s.district d := by
  rw [State.runFirmware, State.district_of_dist (State.saveTables_dist _)]
  rfl

/-- A boot leaves power, districts' images, lifecycle, owner and configuration, whichever firmware runs behind it. -/
theorem State.bootRom_frame (s : State) : s.bootRom.pwr = s.pwr ∧ s.bootRom.moon.lifecycle = s.moon.lifecycle
    ∧ s.bootRom.moon.owner = s.moon.owner ∧ s.bootRom.moon.cfg = s.moon.cfg
    ∧ ∀ d, (s.bootRom.district d).img = (s.district d).img := by
  obtain ⟨pwr, moon, img⟩ := s.bootCounted_leaves
  have kept : s.bootCounted.moon.lifecycle = s.moon.lifecycle ∧ s.bootCounted.moon.owner = s.moon.owner
      ∧ s.bootCounted.moon.cfg = s.moon.cfg := by
    rw [moon]
    exact ⟨rfl, rfl, rfl⟩
  obtain ⟨lifecycle, owner, cfg⟩ := kept
  by_cases boots : s.bootsFlash
  · have runs := State.runFirmware_moon s.bootCounted 1 s.moon.flash.image
    rw [State.bootRom_flash boots]
    exact ⟨(State.runFirmware_pwr ..).trans pwr, (congrArg Moon.lifecycle runs).trans lifecycle,
      (congrArg Moon.owner runs).trans owner, (congrArg Moon.cfg runs).trans cfg,
      fun d => by rw [State.runFirmware_district, img]⟩
  · rw [State.bootRom_recovery boots]
    exact ⟨pwr, lifecycle, owner, cfg, img⟩

/-- Moon behind a boot from flash. -/
theorem State.bootRom_runs {s : State} (boots : s.bootsFlash) : s.bootRom.moon.running = true ∧ s.bootRom.moon.fw = 1
    ∧ s.bootRom.moon.svn = fwSvn s.moon.flash.image ∧ s.bootRom.moon.version = fwVersion s.moon.flash.image
    ∧ s.bootRom.moon.boot = (s.moon.boot + 1) % 2 ^ 32 := by
  obtain ⟨-, moon, -⟩ := s.bootCounted_leaves
  have runs := State.runFirmware_moon s.bootCounted 1 s.moon.flash.image
  rw [moon] at runs
  rw [State.bootRom_flash boots]
  exact ⟨congrArg Moon.running runs, congrArg Moon.fw runs, congrArg Moon.svn runs, congrArg Moon.version runs,
    congrArg Moon.boot runs⟩

theorem State.bootRom_recovers {s : State} (recovers : ¬ s.bootsFlash) : s.bootRom.moon.running = false ∧ s.bootRom.moon.fw = 3 := by
  rw [State.bootRom_recovery recovers]
  exact ⟨rfl, rfl⟩

/-! ## The end of the boot (R420) -/

/-- The end of stage 3 sets the power record by whether firmware runs, and nothing else behind the ROM's boot. -/
theorem State.endBoot_boots {s : State} {n : Nat} (fresh : s.moon.fw = 0) :
    s.endBoot n = (s.readFuses n).bootRom.modPwr fun p =>
      if (s.readFuses n).bootRom.moon.running then { p with stage := 4, stopped := false } else { p with stopped := true, fail := 3 } := by
  simp only [State.endBoot, fresh, if_true]
  split <;> rfl

theorem State.readFuses_bootsFlash (s : State) (n : Nat) : (s.readFuses n).bootsFlash ↔ s.bootsFlash := by
  obtain ⟨pwr, -, minSvn, -, image⟩ := s.readFuses_leaves n
  rw [State.bootsFlash, pwr, minSvn, image, State.bootsFlash]

section
variable {s : State} {n : Nat} (fresh : s.moon.fw = 0)
include fresh

theorem State.endBoot_lifecycle : (s.endBoot n).moon.lifecycle = max s.moon.lifecycle (min n 2) := by
  obtain ⟨-, lifecycle, -⟩ := s.readFuses_leaves n
  obtain ⟨-, kept, -⟩ := (s.readFuses n).bootRom_frame
  rw [State.endBoot_boots fresh]
  exact kept.trans lifecycle

theorem State.endBoot_rma (before : s.moon.lifecycle < 2) (rma : 2 ≤ n) : (s.endBoot n).moon.owner = [] ∧ (s.endBoot n).moon.cfg = {}
    ∧ ∀ d, d < 4 → ((s.endBoot n).district d).img.keyed = false := by
  obtain ⟨-, -, owner, cfg, img⟩ := (s.readFuses n).bootRom_frame
  obtain ⟨-, erased, noKey⟩ := State.eraseKeys_leaves { s with moon := { s.moon with lifecycle := 2 } }
  rw [← State.readFuses_rma before rma] at erased noKey
  rw [State.endBoot_boots fresh]
  exact ⟨owner.trans (congrArg Moon.owner erased), cfg.trans (congrArg Moon.cfg erased),
    fun d within => (congrArg ImgDist.keyed (img d)).trans (noKey d within)⟩

theorem State.endBoot_runs (boots : s.bootsFlash) : (s.endBoot n).pwr.stage = 4 ∧ (s.endBoot n).moon.running = true
    ∧ (s.endBoot n).moon.fw = 1 ∧ (s.endBoot n).moon.svn = fwSvn s.moon.flash.image
    ∧ (s.endBoot n).moon.version = fwVersion s.moon.flash.image ∧ (s.endBoot n).moon.boot = (s.moon.boot + 1) % 2 ^ 32 := by
  obtain ⟨-, -, -, count, image⟩ := s.readFuses_leaves n
  obtain ⟨running, moon⟩ := State.bootRom_runs ((s.readFuses_bootsFlash n).2 boots)
  rw [count, image] at moon
  rw [State.endBoot_boots fresh, running]
  exact ⟨rfl, running, moon⟩

theorem State.endBoot_stops (stage : s.pwr.stage = 3) (recovers : ¬ s.bootsFlash) : (s.endBoot n).pwr.stage = 3
    ∧ (s.endBoot n).pwr.stopped = true ∧ (s.endBoot n).pwr.fail = 3 ∧ (s.endBoot n).moon.running = false
    ∧ (s.endBoot n).moon.fw = 3 := by
  obtain ⟨pwr, -⟩ := s.readFuses_leaves n
  obtain ⟨kept, -⟩ := (s.readFuses n).bootRom_frame
  obtain ⟨stopped, fw⟩ := State.bootRom_recovers (mt (s.readFuses_bootsFlash n).1 recovers)
  rw [State.endBoot_boots fresh, stopped]
  exact ⟨(congrArg Power.stage (kept.trans pwr)).trans stage, rfl, rfl, stopped, fw⟩

end

/-! ## Each stage's end -/

section
variable {s : State} {e : StageEnd} (powered : s.powered = true) (running : s.halted = false)
include powered running

theorem State.stageEnd_heard : ¬ (!s.powered || s.halted) = true := by simp [powered, running]

theorem exec_startupStageEnd_pads (stage : s.pwr.stage = 1) : exec (.startupStageEnd e) s = .next (s.modPwr fun p =>
    if e.clear then { p with stage := 2, stopped := false, padsReleased := true } else { p with stopped := true, fail := 2 }) :=
  congrArg Host.Outcome.next ((if_neg (State.stageEnd_heard powered running)).trans (by rw [stage]; cases e.clear <;> rfl))

theorem exec_startupStageEnd_straps (stage : s.pwr.stage = 2) : exec (.startupStageEnd e) s = .next (s.takeStraps e.samples) :=
  congrArg Host.Outcome.next ((if_neg (State.stageEnd_heard powered running)).trans (by rw [stage]; rfl))

theorem exec_startupStageEnd_boot (stage : s.pwr.stage = 3) : exec (.startupStageEnd e) s = .next (s.endBoot e.lifecycle) :=
  congrArg Host.Outcome.next ((if_neg (State.stageEnd_heard powered running)).trans (by rw [stage]; rfl))

theorem exec_startupStageEnd_memory (stage : s.pwr.stage = 4) (goesOn : s.pwr.stopped = false) :
    exec (.startupStageEnd e) s = .next (s.endMemory e.trained) :=
  congrArg Host.Outcome.next ((if_neg (State.stageEnd_heard powered running)).trans (by
    rw [stage]
    exact if_neg (by simp [goesOn])))

theorem exec_startupStageEnd_ports (stage : s.pwr.stage = 5) :
    exec (.startupStageEnd e) s = .next (s.modPwr fun p => { p with stage := 6 }) :=
  congrArg Host.Outcome.next ((if_neg (State.stageEnd_heard powered running)).trans (by rw [stage]; rfl))

theorem exec_startupStageEnd_serve (stage : s.pwr.stage = 6) :
    exec (.startupStageEnd e) s = .next (s.modPwr fun p => { p with stage := 7, ms := e.ms % 2 ^ 32 }) :=
  congrArg Host.Outcome.next ((if_neg (State.stageEnd_heard powered running)).trans (by rw [stage]; rfl))

end

theorem State.endMemory_trained {s : State} {n : Nat} (all : 96 ≤ n) : (s.endMemory n).pwr.stage = 5
    ∧ (s.endMemory n).memc.trained = true ∧ (s.endMemory n).memc.channels = 96 ∧ (s.endMemory n).memc.selfRefresh = false
    ∧ (s.endMemory n).mem = s.mem := by
  simp only [State.endMemory, all, if_true]
  exact ⟨trivial, trivial, trivial, trivial, trivial⟩

theorem State.endMemory_fails {s : State} {n : Nat} (few : n < 96) : s.endMemory n = { s with
    memc := { s.memc with channels := n }, pwr := { s.pwr with stopped := true, fail := 4 } } :=
  if_neg (Nat.not_le.2 few)

/-! ## Rails (R421) -/

theorem exec_railGoodTimeout_fails {s : State} {rail : Nat} (powered : s.powered = true) (stage : s.pwr.stage = 1) (known : rail < 256) :
    exec (.railGoodTimeout rail) s = .next { s with mem := [], tags := [], pwr := { s.pwr with
      railsOn := false, stopped := true, fail := 1, rail := rail, memKept := false } } := by
  have waits : ¬ (!s.powered || decide (s.pwr.stage ≠ 1)) = true := by simp [powered, stage]
  have names : rail % 256 = rail := Nat.mod_eq_of_lt known
  rw [exec, execRailGoodTimeout, if_neg waits, names]
  rfl

theorem exec_railRetry_once {u : State} (island : u.pwr.islandOn = true) (released : u.pwr.heldReset = false)
    (off : u.pwr.railsOn = false) (stage : u.pwr.stage = 1) (failed : u.pwr.fail = 1) :
    exec .railRetry u = .next (if u.pwr.railRetried then u else
      { u with pwr := { u.pwr with railsOn := true, railRetried := true, stopped := false } }) := by
  cases retried : u.pwr.railRetried
  · exact congrArg Host.Outcome.next (if_pos (by simp [island, released, off, stage, failed, retried]))
  · exact congrArg Host.Outcome.next (if_neg (by simp [retried]))

/-- Settles O44: each stage by the equation of its end, the third by whether the ROM boots the flash image. -/
theorem startUpStages : Obligations.StartUpStages := by
  unfold Obligations.StartUpStages
  intro s e powered running
  refine ⟨fun stage => ⟨fun clear => ?clear, fun tripped => ?tripped, fun rail => exec_railGoodTimeout_fails powered stage⟩,
    fun stage v l ls samples eight => ?stable, fun stage disagree => ⟨fun few => ?goesOn, fun v all last => ?unstable⟩,
    fun stage fresh => ?lifecycle, fun stage fresh => ⟨fun stable choice => ?flash, fun recovery => ?recovery⟩,
    fun stage goesOn => ⟨fun trained => ?trained, fun few => ?untrained⟩,
    fun stage => exec_startupStageEnd_ports powered running stage, fun stage => exec_startupStageEnd_serve powered running stage,
    fun u island released off stage failed => exec_railRetry_once island released off stage failed⟩
  case clear => rw [exec_startupStageEnd_pads powered running stage, clear]; rfl
  case tripped => rw [exec_startupStageEnd_pads powered running stage, tripped]; rfl
  case stable =>
    obtain ⟨pwr, mem⟩ := s.takeStraps_taken (sampleStraps_agree v ls)
    rw [← eight, ← samples] at pwr mem
    refine ⟨_, exec_startupStageEnd_straps powered running stage, ?_⟩
    rw [pwr]
    exact ⟨rfl, rfl, rfl, rfl, mem⟩
  case goesOn =>
    rw [exec_startupStageEnd_straps powered running stage,
      State.takeStraps_goesOn ((sampleStraps_disagree disagree (by omega)).trans (if_pos few))]
  case unstable =>
    have taken : sampleStraps e.samples = some (v, false) := by
      rw [sampleStraps_disagree disagree all.le, if_neg all.not_lt, last, Option.map_some]
    obtain ⟨pwr, mem⟩ := s.takeStraps_taken taken
    refine ⟨_, exec_startupStageEnd_straps powered running stage, ?_⟩
    rw [pwr]
    exact ⟨rfl, rfl, rfl, rfl, mem⟩
  case lifecycle =>
    exact ⟨_, exec_startupStageEnd_boot powered running stage, State.endBoot_lifecycle fresh, State.endBoot_rma fresh⟩
  case flash =>
    have chosen : s.pwr.bootChoice ≠ 1 := by simp [Power.bootChoice, stable, choice]
    refine ⟨_, exec_startupStageEnd_boot powered running stage, fun accepted => ?_, fun refused => ?_⟩
    · exact State.endBoot_runs fresh ⟨chosen, accepted⟩
    · exact State.endBoot_stops fresh stage fun boots => by simp [boots.2] at refused
  case recovery =>
    have chosen : s.pwr.bootChoice = 1 := by
      rcases recovery with unstable | choice
      · simp [Power.bootChoice, unstable]
      · simp [Power.bootChoice, choice]
    exact ⟨_, exec_startupStageEnd_boot powered running stage, State.endBoot_stops fresh stage fun boots => boots.1 chosen⟩
  case trained => exact ⟨_, exec_startupStageEnd_memory powered running stage goesOn, State.endMemory_trained trained⟩
  case untrained =>
    refine ⟨_, exec_startupStageEnd_memory powered running stage goesOn, ?_⟩
    rw [State.endMemory_fails few]
    exact ⟨stage, rfl, rfl, rfl, rfl⟩

end Sys2Proof.Machine
end

section
/-! SUPPORT. Power states and the limits of power and temperature (15 R406 to R411, 14 R402): the state that each target leaves, and
the three ways in which a check ends. -/

namespace Sys2Proof.Machine

/-! ## Power states -/

/-- Cards are frames at ports: nothing else changes. -/
theorem State.sendCards_onlyPorts (ports : List Nat) (s : State) :
    (s.each ports fun p t => t.sendCard p) = { s with ports := (s.each ports fun p t => t.sendCard p).ports } := by
  induction ports generalizing s with
  | nil => rfl
  | cons p ports ih =>
    have rest := ih (s.sendCard p)
    have first := sendCard_onlyPorts s p
    have both : (s.each (p :: ports) fun p t => t.sendCard p) = (s.sendCard p).each ports fun p t => t.sendCard p := rfl
    rw [both, rest]
    generalize ((s.sendCard p).each ports fun p t => t.sendCard p).ports = queued
    rw [first]

section
variable {s : State} (powered : s.powered = true) (changing : s.pwr.changing = true)
include powered changing

theorem State.powerState_changes : ¬ (!s.powered || !s.pwr.changing) = true := by simp [powered, changing]

theorem exec_powerStateReached_drowse (target : s.pwr.target = .drowse) : exec .powerStateReached s = .next s.enterDrowse :=
  congrArg Host.Outcome.next ((if_neg (State.powerState_changes powered changing)).trans (by rw [target]))

theorem exec_powerStateReached_run (target : s.pwr.target = .run) : exec .powerStateReached s = .next s.leaveDrowse :=
  congrArg Host.Outcome.next ((if_neg (State.powerState_changes powered changing)).trans (by rw [target]))

theorem exec_powerStateReached_sleep (target : s.pwr.target = .sleep) : exec .powerStateReached s = .next s.enterSleep :=
  congrArg Host.Outcome.next ((if_neg (State.powerState_changes powered changing)).trans (by rw [target]))

end

/-! ## Limits (R402) -/

/-- A limit is exceeded. -/
def MoonConfig.exceeded (c : MoonConfig) (x : Readings) : Prop := c.limitW < x.power ∨ c.throttle < x.die

/-- There is room below both limits. -/
def MoonConfig.roomy (c : MoonConfig) (x : Readings) : Prop := x.power + 25 ≤ c.limitW ∧ x.die + 3 ≤ c.throttle

/-- Moon's registers with the readings of a check. -/
def Moon.measured (m : Moon) (x : Readings) : Moon := { m with power := x.power, dieMax := x.die, inlet := x.inlet, outlet := x.outlet }

section
variable {s : State} {x : Readings} (powered : s.powered = true)
include powered

section
variable (exceeded : s.moon.cfg.exceeded x)
include exceeded

/-- A limit is exceeded, and a step down is due: power over one second is high, or 100 ms have passed since the last one. -/
theorem exec_powerLimitCheck_down (above : 350 < s.moon.coreMhz) (due : 1150 ≤ x.power1s ∨ 9 ≤ s.moon.sinceDown) :
    exec (.powerLimitCheck x) s = .next ((s.modMoon fun m => { m.measured x with
      calm := 0, sinceDown := 0, coreMhz := max 350 (m.coreMhz - 7) }).notice 0x63 none 0 (put 16 8 6)) := by
  unfold MoonConfig.exceeded at exceeded
  have noRoom : ¬ (x.power + 25 ≤ s.moon.cfg.limitW ∧ x.die + 3 ≤ s.moon.cfg.throttle) := by omega
  simp [exec, execPowerLimitCheck, powered, exceeded, due, above, noRoom, Moon.measured]

/-- A limit is exceeded, but no step down is due. -/
theorem exec_powerLimitCheck_waits (low : x.power1s < 1150) (recent : s.moon.sinceDown < 9) :
    exec (.powerLimitCheck x) s = .next (s.modMoon fun m => { m.measured x with
      calm := 0, sinceDown := s.moon.sinceDown + 1 }) := by
  unfold MoonConfig.exceeded at exceeded
  have noRoom : ¬ (x.power + 25 ≤ s.moon.cfg.limitW ∧ x.die + 3 ≤ s.moon.cfg.throttle) := by omega
  have notDue : ¬ (1150 ≤ x.power1s ∨ 9 ≤ s.moon.sinceDown) := by omega
  have counted : min (s.moon.sinceDown + 1) 10 = s.moon.sinceDown + 1 := by omega
  simp [exec, execPowerLimitCheck, powered, exceeded, notDue, noRoom, counted, Moon.measured]

end

/-- There is room: the frequency rises once there has been for 100 ms. -/
theorem exec_powerLimitCheck_up (roomy : s.moon.cfg.roomy x) :
    exec (.powerLimitCheck x) s = .next (s.modMoon fun m => { m.measured x with
      calm := min (m.calm + 1) 10, sinceDown := min (m.sinceDown + 1) 10
      coreMhz := if 9 ≤ m.calm then min 700 (m.coreMhz + 7) else m.coreMhz }) := by
  unfold MoonConfig.roomy at roomy
  have notExceeded : ¬ (s.moon.cfg.limitW < x.power ∨ s.moon.cfg.throttle < x.die) := by omega
  simp [exec, execPowerLimitCheck, powered, notExceeded, roomy, Moon.measured, State.modMoon]

end

/-- Settles O45: each target by the state that it leaves, each check by whether a limit is exceeded or there is room. -/
theorem powerStatesAndLimits : Obligations.PowerStatesAndLimits := by
  unfold Obligations.PowerStatesAndLimits
  intro s powered
  refine ⟨fun changing => ⟨fun target => ?drowse, fun target running => ?run, fun target => ?sleep⟩,
    fun x exceeded above => ⟨fun due => ?down, fun low recent => ?waits⟩, fun x power die => ?up⟩
  case drowse =>
    exact ⟨_, exec_powerStateReached_drowse powered changing target, rfl, rfl, rfl, rfl,
      fun a outside => get_keptMem s.mem a outside, rfl, rfl, rfl⟩
  case run =>
    refine ⟨_, exec_powerStateReached_run powered changing target, ?_⟩
    rw [State.leaveDrowse, State.sendCards_onlyPorts]
    exact ⟨rfl, rfl, running, rfl, rfl, rfl⟩
  case sleep =>
    exact ⟨_, exec_powerStateReached_sleep powered changing target, cleared_resetOf s false _ rfl rfl, rfl, rfl, rfl, rfl⟩
  case down =>
    refine ⟨_, exec_powerLimitCheck_down powered exceeded above due, ?_⟩
    rw [State.notice_moon, State.notice_mem]
    exact ⟨rfl, rfl, rfl, rfl, rfl⟩
  case waits => exact ⟨_, exec_powerLimitCheck_waits powered exceeded low recent, rfl, rfl, rfl⟩
  case up => exact ⟨_, exec_powerLimitCheck_up powered ⟨power, die⟩, rfl, rfl, rfl, rfl⟩

end Sys2Proof.Machine
end

section
/-! SUPPORT. Comparators (02 R32, 15 R413): what a trip latches, and that it halts a powered module. -/

namespace Sys2Proof.Machine

/-- While the island alone has power a trip latches its bit, and FIRST where none stands. -/
theorem State.trip_latches {s : State} (island : s.pwr.islandOn = true) (dark : s.powered = false) (i code : Nat) :
    s.trip i code = { s with pwr := { s.pwr with
      trip := s.pwr.trip ||| 2 ^ i, first := if s.pwr.trip = 0 then i else s.pwr.first } } := by
  unfold State.trip
  rw [if_neg (by simp [island])]
  exact if_pos (congrArg not dark)

/-- A loss of TICK trips bit 5 of a counting module, and a loss of REFCLK bit 6; with it the count ends (R31, R452). -/
theorem exec_lossOfTick_trips {s : State} (counting : s.orb.run = true) (refclk : Bool) :
    exec (.lossOfTick refclk) s
      = .next (if refclk then (s.trip 6 0x12).stopCounting else s.trip 5 0x12) := by
  show execLossOfTick refclk s = _
  unfold execLossOfTick
  rw [if_neg (by simp [counting])]
  cases refclk <;> simp only [Bool.false_eq_true, if_false, if_true]

/-- A die above its critical limit trips bit 1 of a powered module, whose power-off then waits (R413, R415). -/
theorem exec_dieCrit_trips {s : State} (powered : s.powered = true) :
    exec .dieCrit s = .next ((s.trip 1 0x62).modPwr fun p => { p with critPending := true }) :=
  congrArg Host.Outcome.next (if_pos powered)

/-- Settles O3: in the dark each comparator latches alone, and in a powered module each trip halts. -/
theorem comparatorsHalt : Obligations.ComparatorsHalt := by
  unfold Obligations.ComparatorsHalt
  refine ⟨?dark, ?powered⟩
  case dark =>
    intro s c i listed island dark
    have latches := State.trip_latches island dark
    simp only [List.mem_cons, List.not_mem_nil, or_false, Prod.mk.injEq] at listed
    obtain ⟨rfl, rfl⟩ | ⟨rfl, rfl⟩ | ⟨rfl, rfl⟩ | ⟨rfl, rfl⟩ | ⟨rfl, rfl⟩ := listed
    · exact congrArg _ (latches 0 0x62)
    · exact congrArg _ ((if_neg (by simp [dark])).trans (latches 1 0x62))
    · exact congrArg _ (latches 2 0x62)
    · exact congrArg _ (latches 3 0x62)
    · exact congrArg _ (latches 4 0x62)
  case powered =>
    intro s powered stage
    have trips := fun i code => trip_facts s i code powered stage
    refine ⟨⟨_, rfl, trips 0 _⟩, ⟨_, exec_dieCrit_trips powered, (trips 1 _).1, (trips 1 _).2, rfl⟩, ⟨_, rfl, trips 2 _⟩,
      ⟨_, rfl, trips 3 _⟩, ⟨_, rfl, trips 4 _⟩, ?tick, ?refclk⟩
    case tick =>
      intro counting
      exact ⟨_, exec_lossOfTick_trips counting false, trips 5 _⟩
    case refclk =>
      intro counting
      obtain ⟨power, stopped, -⟩ := stop_pwr (s.trip 6 0x12)
      refine ⟨_, exec_lossOfTick_trips counting true, ?_, ?_, stopped⟩
      · exact (congrArg Power.halted power).trans (trips 6 _).1
      · exact (congrArg Power.trip power).trans (trips 6 _).2

end Sys2Proof.Machine
end

section
/-! SUPPORT. Writes of ORB_RESUME and GLB_TIME (02 R56, 12 R355, 15 R412), and of ORB_CTRL (02 R34, R36, R58, R60): what a word that
the register takes leaves. -/

namespace Sys2Proof.Machine

section
variable {s : State} {d v : Nat}

theorem State.orbResume_taken (held : s.held d = true) (future : s.orb.number + 1 < bits v 0 48)
    (idle : (s.district d).flt.busy = false) (fresh : (s.district d).flt.stale = []) :
    s.orbResume d v = (.done, s.modBar d fun b => { b with resume := some (bits v 0 48) }) := by
  unfold State.orbResume
  rw [if_neg (by simp [held, future]), if_neg (by simp [idle, fresh])]

theorem State.timeWrite_sets (stopped : s.orb.run = false) :
    s.timeWrite v = (.done, { s with clk := { s.clk with ns := v % 2 ^ 64 } }) :=
  if_neg (by simp [stopped])

end

/-- Settles O5: each word reaches its register, and none of the register's checks refuses it. -/
theorem resumeAndTimeWrites : Obligations.ResumeAndTimeWrites := by
  unfold Obligations.ResumeAndTimeWrites
  intro s r d v
  refine ⟨?resume, ?time⟩
  case resume =>
    intro reaches held future idle fresh
    exact congrArg _ (State.regWrite_done (off := 0x100038) reaches rfl rfl fun _ =>
      State.regPut_orbResume.trans (State.orbResume_taken held future idle fresh))
  case time =>
    intro reaches stopped
    have wrote := State.regWrite_done (off := 0x10) (v := v.toNat) reaches rfl rfl fun _ =>
      State.regPut_time.trans (State.timeWrite_sets stopped)
    rw [Nat.mod_eq_of_lt v.isLt] at wrote
    exact congrArg _ wrote

/-! ## ORB_CTRL -/

/-- The module's orbit registers after a word of ORB_CTRL that the register takes: while the module counts, it withdraws ARM and JOIN. -/
def Orb.controlled (o : Orb) (v : Nat) : Orb :=
  let taken := { o with
    tag := bits v 8 8, arm := bit v 1, period := if bit v 1 then o.periodSh else o.period, join := bit v 2
    plan := if bit v 2 then o.plan else none, stop := o.stop || (bit v 3 && o.run) }
  if o.run then { taken with arm := false, join := false } else { taken with joinPort := if bit v 2 then o.joinPort else none }

/-- No rule of R60 refuses the word. -/
structure State.TakesControl (s : State) (v : Nat) : Prop where
  arm : bit v 1 = true → bit v 2 = false ∧ 1250 ≤ s.orb.periodSh ∧ s.orb.periodSh ≤ 2500000
  starts : bit v 1 = true ∨ bit v 2 = true → s.orb.run = false
  sameTag : s.orb.arm = true → bits v 8 8 = s.orb.tag
  stop : bit v 3 = true → s.defined.any (fun k => (s.active k).isSome) = false
  withdraws : bit v 1 = false → s.orb.arm = true → s.orb.accepted = none

section
variable {s : State} {v : Nat} (takes : s.TakesControl v)
include takes

/-- The register takes the word; a JOIN that it changes is told to the ports (R268). -/
theorem State.orbCtrl_taken :
    s.orbCtrl v = (.done, if s.orb.join = (s.orb.controlled v).join then { s with orb := s.orb.controlled v }
      else ({ s with orb := s.orb.controlled v } : State).joinPorts) := by
  obtain ⟨arm, starts, sameTag, stop, withdraws⟩ := takes
  have badPeriod : ¬ (bit v 1 && (bit v 2 || decide (s.orb.periodSh < 1250) || decide (2500000 < s.orb.periodSh))) = true := by
    intro bad
    simp only [Bool.and_eq_true, Bool.or_eq_true, decide_eq_true_eq] at bad
    obtain ⟨noJoin, low, high⟩ := arm bad.1
    rcases bad.2 with (join | short) | long
    · simp [noJoin] at join
    · omega
    · omega
  have counting : ¬ ((bit v 1 || bit v 2) && s.orb.run) = true := by
    simp only [Bool.and_eq_true, Bool.or_eq_true, not_and, Bool.not_eq_true]
    exact starts
  have otherTag : ¬ (s.orb.arm && decide (bits v 8 8 ≠ s.orb.tag)) = true := by
    simp only [Bool.and_eq_true, decide_eq_true_eq, not_and, not_not]
    exact sameTag
  have engaged : ¬ (bit v 3 && s.defined.any fun d => (s.active d).isSome) = true := by
    simp only [Bool.and_eq_true, not_and, Bool.not_eq_true]
    exact stop
  have tooLate : ¬ (!bit v 1 && s.orb.arm && s.orb.accepted.isSome) = true := by
    simp only [Bool.and_eq_true, Bool.not_eq_true', not_and, Bool.not_eq_true, Option.isSome_eq_false_iff, Option.isNone_iff_eq_none, and_imp]
    exact withdraws
  unfold State.orbCtrl
  dsimp only
  rw [if_neg badPeriod, if_neg counting, if_neg otherTag, if_neg engaged, if_neg tooLate]
  rfl

variable {r : Requester} {d : Nat} {o : Orb} (reaches : s.reaches r d .orb 0) (leaves : s.orb.controlled v = o)
include reaches leaves

/-- A word that leaves JOIN 0: the ports hear of it where JOIN stood. -/
theorem State.regWrite_unjoined (unjoined : o.join = false) : s.regWrite r 0x100000 v
    = (if s.orb.join then ({ s with orb := o } : State).joinPorts else { s with orb := o }).emit (written r 0x100000) := by
  rw [State.regWrite_done reaches rfl rfl fun _ => State.regPut_orbCtrl.trans (State.orbCtrl_taken takes), leaves, unjoined]
  cases s.orb.join <;> rfl

/-- A word that leaves JOIN 1: the ports hear of it where JOIN did not stand. -/
theorem State.regWrite_joined (joined : o.join = true) : s.regWrite r 0x100000 v
    = (if s.orb.join then { s with orb := o } else ({ s with orb := o } : State).joinPorts).emit (written r 0x100000) := by
  rw [State.regWrite_done reaches rfl rfl fun _ => State.regPut_orbCtrl.trans (State.orbCtrl_taken takes), leaves, joined]

end

/-! ## The ports (R266, R268) -/

/-- What a changed joining map makes of one port. -/
def State.rejoin (s : State) (p : Nat) : State :=
  let st := (s.port p).state
  if s.orb.join && (st == 5 || st == 6) then s.settle p
  else if st == 6 && (s.portEntry p).isNone then s.modPort p fun x => { x with state := 5, qcause := 0 }
  else s

theorem State.joinPorts_eq (s : State) : s.joinPorts = s.each (List.range 24) fun p t => t.rejoin p := rfl

theorem State.rejoin_untrained {s : State} {p : Nat} (five : (s.port p).state ≠ 5) (six : (s.port p).state ≠ 6) : s.rejoin p = s := by
  unfold State.rejoin
  dsimp only
  rw [if_neg (by simp [five, six]), if_neg (by simp [six])]

theorem State.joinPorts_untrained {s : State} (untrained : ∀ p, p < 24 → (s.port p).state ≠ 5 ∧ (s.port p).state ≠ 6) :
    s.joinPorts = s := by
  suffices stays : ∀ l : List Nat, (∀ p ∈ l, p < 24) → s.each l (fun p t => t.rejoin p) = s from
    stays _ fun p h => List.mem_range.1 h
  intro l within
  induction l with
  | nil => rfl
  | cons p l ih =>
    obtain ⟨five, six⟩ := untrained p (within p (List.mem_cons_self ..))
    rw [State.each, List.foldl_cons, State.rejoin_untrained five six]
    exact ih fun q h => within q (List.mem_cons_of_mem _ h)

/-- Without a join a port that no map names is HELD if it was ACTIVE, and the others stay. -/
theorem State.rejoin_unjoined {s : State} (noJoin : s.orb.join = false) (p : Nat) :
    s.rejoin p = if (s.port p).state == 6 && (s.portEntry p).isNone then s.modPort p fun x => { x with state := 5, qcause := 0 } else s := by
  unfold State.rejoin
  dsimp only
  rw [if_neg (by simp [noJoin])]

theorem State.joinPorts_unbound {s : State} {p : Nat} (within : p < 24) (noJoin : s.orb.join = false) (active : (s.port p).state = 6)
    (unbound : s.portEntry p = none) : (s.joinPorts.port p).state = 5 := by
  suffices held : ∀ (l : List Nat) (t : State), t.orb.join = false → t.portEntry p = none →
      (t.port p).state = 5 ∨ (t.port p).state = 6 ∧ p ∈ l → ((t.each l fun q t => t.rejoin q).port p).state = 5 from
    held _ s noJoin unbound (.inr ⟨active, List.mem_range.2 within⟩)
  intro l
  induction l with
  | nil =>
    intro t _ _ state
    exact state.resolve_right fun h => nomatch h.2
  | cons q l ih =>
    intro t noJoin unbound state
    show (((t.rejoin q).each l fun q t => t.rejoin q).port p).state = 5
    rw [State.rejoin_unjoined noJoin]
    by_cases own : q = p
    · subst own
      rcases state with held | ⟨active, -⟩
      · rw [if_neg (by simp [held])]
        exact ih t noJoin unbound (.inl held)
      · rw [if_pos (by simp [active, unbound])]
        exact ih _ noJoin unbound (.inl (by rw [State.modPort_port]))
    · have later : (t.port p).state = 5 ∨ (t.port p).state = 6 ∧ p ∈ l :=
        state.imp_right fun h => ⟨h.1, (List.mem_cons.1 h.2).resolve_left (Ne.symm own)⟩
      split
      · exact ih _ noJoin unbound (by rwa [State.modPort_port_ne (Ne.symm own)])
      · exact ih t noJoin unbound later

/-! ## The commands that write it -/

/-- Settles O4: each word is the command's with its bit forced, and the register is as a word that it takes leaves it. -/
theorem orbControlWrites : Obligations.OrbControlWrites := by
  unfold Obligations.OrbControlWrites
  refine ⟨?stopped, fun _ => State.joinPorts_untrained, fun _ _ => State.joinPorts_unbound, ?running⟩
  case stopped =>
    intro s r d v reaches stopped unarmed
    refine ⟨?arm, ?join, ?withdraw⟩
    case arm =>
      intro noJoin noStop short long
      have takes : s.TakesControl (forceBit v.toNat 1 true) := by
        constructor <;> simp [bit_forceBit, *]
      exact ⟨_, rfl, congrArg _ (State.regWrite_unjoined takes reaches
        (by simp [Orb.controlled, bit_forceBit, bits_forceBit, noJoin, noStop, stopped]) rfl)⟩
    case join =>
      intro noArm noStop
      have takes : s.TakesControl (forceBit v.toNat 2 true) := by
        constructor <;> simp [bit_forceBit, *]
      exact ⟨_, rfl, congrArg _ (State.regWrite_joined takes reaches
        (by simp [Orb.controlled, bit_forceBit, bits_forceBit, noArm, noStop, stopped, unarmed]) rfl)⟩
    case withdraw =>
      intro noArm noStop
      have takes : s.TakesControl (forceBit v.toNat 2 false) := by
        constructor <;> simp [bit_forceBit, *]
      exact ⟨_, rfl, congrArg _ (State.regWrite_unjoined takes reaches
        (by simp [Orb.controlled, bit_forceBit, bits_forceBit, noArm, noStop, stopped, unarmed]) rfl)⟩
  case running =>
    intro s r d v reaches noJoin
    refine ⟨?disarm, ?ends⟩
    case disarm =>
      intro stopped armed noMark sameTag noStop
      have takes : s.TakesControl (forceBit v.toNat 1 false) := by
        constructor <;> simp [bit_forceBit, bits_forceBit, *]
      refine ⟨_, _, ?_, ?_, ?_, rfl, congrArg _ (State.regWrite_unjoined takes reaches rfl ?_)⟩
      all_goals simp [Orb.controlled, bit_forceBit, noJoin, stopped]
    case ends =>
      intro counting unarmed noArm noImage
      have takes : s.TakesControl (forceBit v.toNat 3 true) := by
        constructor <;> simp [bit_forceBit, *]
      refine ⟨_, _, ?_, ?_, ?_, rfl, congrArg _ (State.regWrite_unjoined takes reaches rfl ?_)⟩
      all_goals simp [Orb.controlled, bit_forceBit, counting]

end Sys2Proof.Machine
end

section
/-! SUPPORT. A go tick at which a record waits in receive staging (08 R234; 12 R348): a counterexample to what a go tick leaves. -/

namespace Sys2Proof.Machine

/-- A step of three orbits, and one RX ring: number 0, on logical port 0, class 0. -/
def ringImage : Image := ⟨0, [], [⟨2, put 128 24 3, [], []⟩, ⟨4, 0, [put 0 8 1], []⟩]⟩

/-- The BEGIN frame of a message of attempt 5 that is its ring's second, MSGNO 1. -/
def secondMessage : RxFrame := ⟨0, 0, 0, put 0 8 1 + put 11 1 1, leBytes 64 (put 0 8 1 + put 160 32 1 + put 192 16 5)⟩

/-- The one district of a counting module, with four idle cores, waits at orbit 4 for its go tick, which is the next; a frame of the
attempt that begins then is held in receive staging, and the first message of that attempt has not come. -/
def gapStaged : State :=
  let waiting : District :=
    { defn := ⟨true, 1, 0, 0, 0, 1⟩, orb := { phase := .waitGo, index := 2 }, bar := { go := some 5, down := true }
      img := { active := some ringImage }, flt := { rlead := 2 } }
  { State.reset with
    orb := { State.reset.orb with run := true, number := 4 }, dist := ⟨[(0, waiting)]⟩
    rings := ⟨[(0, { state := 1, staged := [secondMessage] })]⟩ }

theorem gapStaged_ticksFor : gapStaged.ticksFor 0 := by
  unfold State.ticksFor
  and_intros <;> decide

theorem gapStaged_idle : ∀ n ∈ gapStaged.coresOf 0, (gapStaged.core n).work = none := by decide +kernel

/-- The gap is found where the staged frame is delivered, at the go tick itself: the step that has just begun rolls back (R234). -/
theorem gapStaged_rollsBack : ((gapStaged.tick [] []).district 0).orb.rollbacks = 1 := by decide +kernel

/-- Refutes O2: at its go tick `gapStaged` rolls the new step back, so ROLLBACKS is 1 there and not 0. -/
theorem not_orbitTicks : ¬ Obligations.OrbitTicks := by
  unfold Obligations.OrbitTicks
  intro holds
  obtain ⟨-, ticks⟩ := holds gapStaged [] [] rfl
  obtain ⟨t, ran, -, -, -, steps⟩ := ticks rfl 5 (by decide)
  have tick : gapStaged.tick [] [] = t := Host.Outcome.next.inj ran
  obtain ⟨idle, -⟩ := steps 0 ringImage gapStaged_ticksFor rfl (by decide)
  obtain ⟨-, -, -, begins, -⟩ := idle gapStaged_idle
  obtain ⟨-, -, -, rollbacks, -⟩ := begins rfl rfl rfl
  rw [← tick, gapStaged_rollsBack] at rollbacks
  exact absurd rollbacks (by decide)

end Sys2Proof.Machine
end

section
/-! SUPPORT. The barrier of a module that is alone in its job (02 R54), and barriers and restarts that are not reached in time (02 R55,
12 R351). -/

namespace Sys2Proof.Machine

/-- The district has no job to wait for, no scale slot whose maximum goes up, and no mirror stream whose records must be released. -/
structure State.StandsAlone (s : State) (d : Nat) : Prop where
  noJob : s.job d = none
  noSlots : s.slotsOf d = []
  noMirror : (s.district d).mir.send = false

theorem modOrb_active (s : State) (d k : Nat) (f : OrbDist → OrbDist) : (s.modOrb d f).active k = s.active k := by
  unfold State.active
  by_cases own : k = d
  · subst own; rw [State.modOrb_district]
  · rw [State.modOrb_district_ne own]

section
variable {s : State} {d : Nat} (alone : s.StandsAlone d)
include alone

theorem State.StandsAlone.modBar (f : Barrier → Barrier) : (s.modBar d f).StandsAlone d :=
  ⟨(modBar_job ..).trans alone.noJob, (modBar_slotsOf ..).trans alone.noSlots, by rw [State.modBar_district]; exact alone.noMirror⟩

theorem State.StandsAlone.modOrb (f : OrbDist → OrbDist) : (s.modOrb d f).StandsAlone d := by
  refine ⟨?_, ?_, by rw [State.modOrb_district]; exact alone.noMirror⟩
  · rw [State.job, modOrb_active]
    exact alone.noJob
  · rw [State.slotsOf, State.entries, modOrb_active]
    exact alone.noSlots

/-- No child's proposal is awaited, and with none its own is G, which is kept until its tick (R54). -/
theorem State.advanceBar_alone {arrival : Nat} {b : Barrier} (bar : (s.district d).bar = b) (arrived : b.arrived = some arrival)
    (down : b.down = true) (unsent : b.sentUp = false) (released : b.slotWait = false) (noProposal : b.props = [])
    (future : s.orb.number < arrival + s.orb.lead) :
    s.advanceBar d = ((s.modBar d fun b => { b with sentUp := true }).modBar d fun b => { b with go := some (arrival + s.orb.lead) }).modOrb d
      fun o => { o with phase := .waitGo } := by
  have sent := alone.modBar fun b => { b with sentUp := true }
  unfold State.advanceBar
  simp only [bar, arrived, alone.noJob, down, unsent, released, noProposal, List.all_nil, List.foldl_nil, Bool.not_true, Bool.or_false,
    Bool.false_eq_true, if_false]
  rw [if_pos (by rw [State.isRoot, sent.noJob]), State.sendDown, sent.noJob]
  exact State.takeGo_waits (.inr future)

/-- No child's maxima are awaited, and there are none to combine (R275). -/
theorem State.advanceAmax_alone (arrived : (s.district d).bar.arrived.isSome) (unsent : (s.district d).bar.amaxSent = false) :
    s.advanceAmax d = ((s.modBar d fun b => { b with amaxSent := true }).modBar d fun b => { b with down := true }).advanceBar d := by
  have sent := alone.modBar fun b => { b with amaxSent := true }
  have held := sent.modBar fun b => { b with down := true }
  unfold State.advanceAmax
  have first : ((s.district d).bar.arrived.isNone || (s.district d).bar.amaxSent || !([] : List Nat).all fun _ => true) = false := by
    rw [unsent, Option.isNone_eq_false_iff.2 arrived]
    rfl
  simp only [alone.noJob, alone.noSlots, List.all_nil] at first ⊢
  rw [if_neg (by rw [first]; exact Bool.false_ne_true), if_pos (by rw [State.isRoot, sent.noJob])]
  unfold State.holdDown
  simp only [sent.noSlots, sent.noJob, held.noMirror, List.zip_nil_left, State.each, List.foldl_nil, Bool.false_and, Bool.false_eq_true,
    if_false, List.zipIdx_nil, List.map_nil]

end

theorem State.advanceBar_sent {s : State} {d : Nat} (sent : (s.district d).bar.sentUp = true) : s.advanceBar d = s := by
  unfold State.advanceBar
  dsimp only
  split
  · rfl
  · rw [if_pos (by simp [sent])]

/-- Without the barriers of others, an arrival sets the go orbit LEAD orbits on (R54). -/
theorem State.StandsAlone.go_of_arrived {s : State} {d arrival : Nat} (alone : s.StandsAlone d)
    (bar : (s.district d).bar = { arrived := some arrival }) (future : s.orb.number < arrival + s.orb.lead) :
    ∃ s', (s.advanceAmax d).advanceBar d = s' ∧ (s'.district d).bar.arrived = some arrival
      ∧ (s'.district d).bar.go = some (arrival + s.orb.lead) ∧ (s'.district d).orb.phase = .waitGo ∧ s'.mem = s.mem := by
  have combined := (alone.modBar fun b => { b with amaxSent := true }).modBar fun b => { b with down := true }
  rw [State.advanceAmax_alone alone (by rw [bar]; rfl) (by rw [bar]),
    State.advanceBar_alone combined (b := { arrived := some arrival, amaxSent := true, down := true })
      (by simp only [State.modBar_district, bar]) rfl rfl rfl rfl rfl future,
    State.advanceBar_sent (by simp only [State.modOrb_district, State.modBar_district])]
  refine ⟨_, rfl, ?_, ?_, ?_, rfl⟩ <;> simp only [State.modOrb_district, State.modBar_district, bar]
  rfl

/-- Settles O14: an arrival alone in its job sets G, and an orbit that has not come in time ends in a rollback into HOLD. -/
theorem barrierEvents : Obligations.BarrierEvents := by
  unfold Obligations.BarrierEvents
  intro s d running unfenced
  have holds := fun info active => State.rollbackHold_held s d 0x17 0 info unfenced running active
  have mem := fun info => keepBytes (State.rollbackHold_keeps (x1 := d) (x2 := 0x17) (x3 := 0) (x4 := info) (Keeps.refl s))
  refine ⟨?arrival, ?go, ?restart⟩
  case arrival =>
    intro counting free complete fresh noJob noSlots noMirror lead
    have alone : s.StandsAlone d := ⟨noJob, noSlots, noMirror⟩
    have arrived := (alone.modBar fun b => { b with arrived := some s.orb.number }).modOrb fun o => { o with phase := .barrier }
    obtain ⟨s', arrives, taken⟩ := arrived.go_of_arrived (arrival := s.orb.number) (by simp [fresh]) (Nat.lt_add_of_pos_right lead)
    refine ⟨s', congrArg Host.Outcome.next ((if_neg ?_).trans arrives), taken⟩
    simp [running, unfenced, free, fresh, counting, complete]
  case go =>
    intro a arrived noGo late active
    refine ⟨s.timeoutBarrier d s.orb.number, congrArg Host.Outcome.next ?_, holds _ active, mem _⟩
    simp only [arrived]
    exact if_neg (by simp [running, unfenced, noGo, late])
  case restart =>
    intro a rolledBack restart late active
    refine ⟨_, congrArg Host.Outcome.next (if_neg ?_), holds _ active, mem _⟩
    simp [running, unfenced, rolledBack, restart, late]

end Sys2Proof.Machine
end

section
/-! SUPPORT. Marks and slips (02 R29 to R31), and the beacons with which a count begins (02 R34, R36). -/

namespace Sys2Proof.Machine

/-! ## Marks -/

/-- The tag of a mark whose bits are each held for 4 cycles is read back (R29). -/
theorem markTag_held (tag : Byte) :
    markTag ((List.range 8).flatMap fun i => List.replicate 4 (tag.getLsbD (7 - i))) = tag.toNat := by
  have bit (b : Bool) : boolBit b = b.toNat := by cases b <;> rfl
  have value (i : Nat) : (tag.getLsbD i).toNat = tag.toNat / 2 ^ i % 2 := Nat.toNat_testBit ..
  have byte := tag.isLt
  show 2 * (2 * (2 * (2 * (2 * (2 * (2 * (2 * 0 + boolBit (tag.getLsbD 7)) + boolBit (tag.getLsbD 6)) + boolBit (tag.getLsbD 5))
    + boolBit (tag.getLsbD 4)) + boolBit (tag.getLsbD 3)) + boolBit (tag.getLsbD 2)) + boolBit (tag.getLsbD 1)) + boolBit (tag.getLsbD 0) = _
  simp only [bit, value]
  omega

/-- A mark is told by the length of its run (R29). -/
theorem markOf_run (n : Nat) (tag : List Bool) :
    markOf (List.replicate n true ++ List.replicate 4 false ++ tag)
      = if 6 ≤ n ∧ n ≤ 10 then .rack else if 28 ≤ n ∧ n ≤ 36 then .epoch (markTag tag) else .malformed := by
  have run : (List.replicate n true ++ (List.replicate 4 false ++ tag)).takeWhile (fun x => x) = List.replicate n true := by
    rw [List.takeWhile_append_of_pos fun x => List.eq_of_mem_replicate]
    exact List.append_nil _
  have after : (List.replicate n true ++ (List.replicate 4 false ++ tag)).drop n = List.replicate 4 false ++ tag :=
    List.drop_left' List.length_replicate
  unfold markOf
  simp only [List.append_assoc, run, List.length_replicate, after, Bool.and_eq_true, decide_eq_true_eq]
  congr 1
  exact ite_congr (by simp) (fun _ => rfl) fun _ => rfl

/-! ## Slips -/

/-- A halt leaves the orbit's registers as they are. -/
theorem State.halt_orb (s : State) (code : Nat) (d : Option Nat) (unit info : Nat) : (s.halt code d unit info).orb = s.orb := by
  unfold State.halt
  have logged := (s.event_onlyLog code .halt d unit info).onlyWork
  by_cases already : (s.event code .halt d unit info).halted
  · rw [if_pos already, logged]
  · rw [if_neg already]
    extract_lets s1 o s2
    have stopped : OnlyWork s s1 :=
      OnlyWork.each logged fun k _ => (State.stopDistrict_onlyWork _ k).trans (State.haltCmds_onlyWork _ k)
    have dropped : OnlyWork s s2 := OnlyWork.each stopped fun _ _ => State.modDist_onlyWork ..
    show s2.orb = s.orb
    rw [dropped]

/-- A slip is latched and counted, and the second at consecutive positions halts the module (R31). -/
theorem State.slip_leaves (s : State) (edge : Nat) :
    (s.slip edge).orb.slip = true ∧ (s.slip edge).orb.slips = s.orb.slips + 1 ∧ (s.slip edge).mem = s.mem
      ∧ ∀ ph, s.orb.phase = some ph → s.orb.slipAt = some (markPosition ph edge - 1) → (s.slip edge).halted = true := by
  unfold State.slip
  dsimp only
  cases phase : s.orb.phase with
  | none => simp
  | some ph =>
    dsimp only
    split
    · simp [State.halt_orb, State.halt_mem, State.halt_halted]
    next first =>
      refine ⟨by simp, by simp, by simp, fun q same before => absurd ?_ first⟩
      obtain rfl := Option.some.inj same
      simp [before]

/-! ## Beacons -/

/-- Nothing has changed but ports that are ACTIVE. -/
structure OnlyActivePorts (s t : State) : Prop where
  only : t = { s with ports := t.ports }
  idle : ∀ p, (s.port p).state ≠ 6 → t.port p = s.port p

theorem OnlyActivePorts.refl (s : State) : OnlyActivePorts s s := ⟨rfl, fun _ _ => rfl⟩

theorem OnlyActivePorts.trans {s t u : State} (a : OnlyActivePorts s t) (b : OnlyActivePorts t u) : OnlyActivePorts s u where
  only := by rw [b.only, a.only]
  idle p off := by rw [b.idle p (by rwa [a.idle p off]), a.idle p off]

theorem OnlyActivePorts.each {α : Type} {f : α → State → State} (step : ∀ x t, OnlyActivePorts t (f x t)) (l : List α) (s : State) :
    OnlyActivePorts s (s.each l f) := by
  induction l generalizing s with
  | nil => exact .refl s
  | cons x l ih => exact (step x s).trans (ih _)

theorem State.portCtl_onlyActive {s : State} {p : Nat} (active : (s.port p).state = 6) (op : Nat) (b : List Byte) :
    OnlyActivePorts s (s.portCtl p op b) where
  only := portCtl_only s p op b
  idle k off := portCtl_port_ne s p op k b fun same => off (same ▸ active)

/-- A beacon leaves by ACTIVE ports alone (R274). -/
theorem State.sendBeacons_onlyActive (s : State) : OnlyActivePorts s s.sendBeacons := by
  refine .each (fun p t => ?_) _ s
  split
  · exact .refl t
  · split
    next live =>
      simp only [Bool.and_eq_true, decide_eq_true_eq] at live
      exact t.portCtl_onlyActive live.1.1 ..
    · exact .refl t

/-- A count that begins with the registers `o` sets them and sends its beacons, and nothing else (R34, R36). -/
theorem State.countFrom_leaves (s : State) (o : Orb) :
    (({ s with orb := o } : State).sendBeacons = { s with orb := ({ s with orb := o } : State).sendBeacons.orb
                                                          ports := ({ s with orb := o } : State).sendBeacons.ports })
      ∧ ({ s with orb := o } : State).sendBeacons.orb = o
      ∧ ∀ p, (s.port p).state ≠ 6 → ({ s with orb := o } : State).sendBeacons.port p = s.port p := by
  obtain ⟨only, idle⟩ := ({ s with orb := o } : State).sendBeacons_onlyActive
  have orb : ({ s with orb := o } : State).sendBeacons.orb = o := by rw [only]
  exact ⟨by rw [orb]; exact only, orb, idle⟩

/-- Settles O1: the length of its run tells a mark, and a count that begins sets its registers and sends its beacons. -/
theorem marksAndReferenceWindows : Obligations.MarksAndReferenceWindows := by
  unfold Obligations.MarksAndReferenceWindows
  refine ⟨⟨?epoch, ?rack, ?slip, ?window, fun _ => rfl⟩, ?start, ?join⟩
  case epoch =>
    intro s n edge tag present low high first arm fresh armed
    have mark := markOf_run n ((List.range 8).flatMap fun i => List.replicate 4 (tag.getLsbD (7 - i)))
    rw [if_neg (by omega), if_pos ⟨low, high⟩, markTag_held] at mark
    refine congrArg Host.Outcome.next ((if_neg (by simp [present])).trans ?_)
    rw [mark]
    simp [State.goodMark, first, arm, fresh, armed]
  case rack =>
    intro s n edge present low high placed
    have mark := markOf_run n []
    rw [if_pos ⟨low, high⟩] at mark
    refine congrArg Host.Outcome.next ((if_neg (by simp [present])).trans ?_)
    rw [mark]
    unfold State.goodMark
    cases phase : s.orb.phase with
    | none => simp [phase]
    | some ph => simp [phase, placed ph phase]
  case slip =>
    intro s n edge present length
    have mark := markOf_run n []
    rw [if_neg (by omega), if_neg (by omega)] at mark
    refine ⟨s.slip edge, congrArg Host.Outcome.next ((if_neg (by simp [present])).trans ?_), s.slip_leaves edge⟩
    rw [mark]
  case window =>
    intro s edges
    refine ⟨_, rfl, rfl, ?_⟩
    dsimp only
    generalize inWindow : (decide (1598 ≤ edges) && decide (edges ≤ 1602)) = ok
    have good : ((if ok then min 2 (s.orb.good + 1) else 0) == 2) = (ok && decide (1 ≤ s.orb.good)) := by
      cases ok with
      | false => rfl
      | true => exact decide_eq_decide.2 (by simp only [if_true]; omega)
    rw [good, Bool.decide_and, inWindow]
    split <;> simp_all
  case start =>
    intro s e accepted idle arm
    refine ⟨_, congrArg Host.Outcome.next ?_, s.countFrom_leaves _⟩
    simp only [accepted]
    exact if_neg (by simp [idle, arm])
  case join =>
    intro s j plan idle join
    refine ⟨_, congrArg Host.Outcome.next ?_, s.countFrom_leaves _⟩
    simp only [plan]
    exact if_neg (by simp [idle, join])

end Sys2Proof.Machine
end

section
/-! SUPPORT. Late work that ends (02 R46, R48, R50): what of a core and of its district the report of an overrun leaves. -/

namespace Sys2Proof.Machine

/-! ## What a fence leaves of an overrun's registers -/

/-- The orbit registers of district `d` and what core `n` knows of its late work are as they were, but that the work may be gone. -/
structure KeepsOverrun (d n : Nat) (s t : State) : Prop where
  orb : (t.district d).orb = (s.district d).orb
  last : (t.core n).lateLast = (s.core n).lateLast
  cause : (t.core n).lastCause = (s.core n).lastCause
  caught : (s.core n).lateOrbit = none → (t.core n).lateOrbit = none

namespace KeepsOverrun
variable {d n : Nat} {s t u : State}

theorem refl (s : State) : KeepsOverrun d n s s := ⟨rfl, rfl, rfl, id⟩

theorem trans (a : KeepsOverrun d n s t) (b : KeepsOverrun d n t u) : KeepsOverrun d n s u :=
  ⟨b.orb.trans a.orb, b.last.trans a.last, b.cause.trans a.cause, b.caught ∘ a.caught⟩

theorem each {α : Type} {f : α → State → State} (step : ∀ x t, KeepsOverrun d n t (f x t)) (l : List α) (s : State) :
    KeepsOverrun d n s (s.each l f) := by
  induction l generalizing s with
  | nil => exact refl s
  | cons x l ih => exact (step x s).trans (ih _)

theorem of_cores (cores : t.cores = s.cores) (orb : (t.district d).orb = (s.district d).orb) : KeepsOverrun d n s t := by
  have core := State.core_of_cores (m := n) cores
  exact ⟨orb, by rw [core], by rw [core], by rw [core]; exact id⟩

theorem of_same (cores : t.cores = s.cores) (dist : t.dist = s.dist) : KeepsOverrun d n s t :=
  of_cores cores (by rw [State.district_of_dist dist])

theorem modCore {f : Core → Core} (m : Nat) (last : ∀ c, (f c).lateLast = c.lateLast) (cause : ∀ c, (f c).lastCause = c.lastCause)
    (caught : ∀ c, c.lateOrbit = none → (f c).lateOrbit = none) : KeepsOverrun d n s (s.modCore m f) := by
  by_cases own : n = m
  · subst own
    exact ⟨rfl, by rw [State.modCore_core, last], by rw [State.modCore_core, cause], by rw [State.modCore_core]; exact caught _⟩
  · have same : (s.modCore m f).core n = s.core n := State.modCore_core_ne own
    exact ⟨rfl, by rw [same], by rw [same], by rw [same]; exact id⟩

theorem modDist {f : District → District} (k : Nat) (orb : ∀ x, (f x).orb = x.orb) : KeepsOverrun d n s (s.modDist k f) := by
  refine of_cores rfl ?_
  by_cases own : d = k
  · subst own; rw [State.modDist_district, orb]
  · rw [State.modDist_district_ne own]

theorem modHost (k : Nat) (f : HostDist → HostDist) : KeepsOverrun d n s (s.modHost k f) :=
  modDist (f := fun x => { x with host := f x.host }) k fun _ => rfl

theorem modBar (k : Nat) (f : Barrier → Barrier) : KeepsOverrun d n s (s.modBar k f) :=
  modDist (f := fun x => { x with bar := f x.bar }) k fun _ => rfl

theorem modMir (k : Nat) (f : MirDist → MirDist) : KeepsOverrun d n s (s.modMir k f) :=
  modDist (f := fun x => { x with mir := f x.mir }) k fun _ => rfl

theorem modFlt (k : Nat) (f : FltDist → FltDist) : KeepsOverrun d n s (s.modFlt k f) :=
  modDist (f := fun x => { x with flt := f x.flt }) k fun _ => rfl

theorem modImg (k : Nat) (f : ImgDist → ImgDist) : KeepsOverrun d n s (s.modImg k f) :=
  modDist (f := fun x => { x with img := f x.img }) k fun _ => rfl

end KeepsOverrun

theorem Core.drop_late (c : Core) (tiles : Bool) :
    (c.drop tiles).lateLast = c.lateLast ∧ (c.drop tiles).lastCause = c.lastCause ∧ (c.drop tiles).lateOrbit = none := by
  unfold Core.drop
  split <;> exact ⟨rfl, rfl, rfl⟩

theorem State.dropCores_keepsOverrun (s : State) (k : Nat) (tiles : Bool) {d n : Nat} : KeepsOverrun d n s (s.dropCores k tiles) :=
  .each (fun m _ => .modCore m (fun c => (c.drop_late tiles).1) (fun c => (c.drop_late tiles).2.1) fun c _ => (c.drop_late tiles).2.2) _ s

theorem State.sendCtl_cores (s : State) (k l op : Nat) (b : List Byte) : (s.sendCtl k l op b).cores = s.cores := by
  unfold State.sendCtl
  split <;> rfl

theorem State.advance_keepsOverrun (s : State) (k r e : Nat) {d n : Nat} : KeepsOverrun d n s (s.advance k r e) := by
  unfold State.advance
  dsimp only
  split
  · exact .refl s
  · exact .of_same (State.sendCtl_cores ..) (State.sendCtl_dist ..)

theorem State.release_keepsOverrun (s : State) (k r unit : Nat) {d n : Nat} : KeepsOverrun d n s (s.release k r unit) := by
  unfold State.release
  split
  · exact .refl s
  · exact .trans (t := s.modRing r _) (.of_same State.modRing_cores State.modRing_dist) (State.advance_keepsOverrun ..)

theorem State.killQueues_keepsOverrun (s : State) (k : Nat) {d n : Nat} : KeepsOverrun d n s (s.killQueues k) := by
  refine .each (fun q t => .trans (.of_same State.modQueue_cores State.modQueue_dist) (.each (fun w u => ?_) _ _)) _ s
  split
  · exact u.release_keepsOverrun ..
  · exact .refl u

theorem State.saveTables_cores (s : State) : s.saveTables.cores = s.cores := by
  unfold State.saveTables
  split
  · rfl
  · extract_lets tables t
    split <;> rfl

theorem State.dropSwaps_keepsOverrun (s : State) (k : Nat) {d n : Nat} : KeepsOverrun d n s (s.dropSwaps k) := by
  refine .of_same ?_ (s.dropSwaps_dist k)
  unfold State.dropSwaps
  split
  · rfl
  · rw [State.saveTables_cores]

theorem State.swapSlots_keepsOverrun (s : State) (k : Nat) {d n : Nat} : KeepsOverrun d n s (s.swapSlots k) :=
  .of_same rfl (s.swapSlots_dist k)

theorem State.stopDistrict_keepsOverrun (s : State) (k : Nat) {d n : Nat} : KeepsOverrun d n s (s.stopDistrict k) := by
  unfold State.stopDistrict
  extract_lets s1 s2 s3 s4 s5 s6 s7 s8 s9 s10
  have slots : KeepsOverrun d n s1 s2 := by
    unfold s2
    split
    · exact s1.swapSlots_keepsOverrun k
    · exact .refl s1
  have groups : KeepsOverrun d n s2 s3 :=
    .each (fun m _ => .modCore (f := fun c => { c with groups := 0 }) m (fun _ => rfl) (fun _ => rfl) fun _ => id) _ s2
  have boxes : KeepsOverrun d n s3 s4 := .each (fun ⟨_, _⟩ _ => .of_same State.modBox_cores State.modBox_dist) _ s3
  have rings : KeepsOverrun d n s5 s6 := .each (fun ⟨_, _⟩ _ => .of_same State.modRing_cores State.modRing_dist) _ s5
  have work := (s.dropCores_keepsOverrun k true).trans (slots.trans (groups.trans boxes))
  have traffic := (s4.killQueues_keepsOverrun k).trans (rings.trans (s6.dropSwaps_keepsOverrun k))
  have hosts : KeepsOverrun d n s7 s8 := .modHost ..
  have barrier : KeepsOverrun d n s8 s9 := .modBar ..
  have mirror : KeepsOverrun d n s9 s10 := .modMir ..
  exact (work.trans traffic).trans (((hosts.trans barrier).trans mirror).trans (.modFlt ..))

theorem LogOnly.orb {s t : State} (log : LogOnly s t) (d : Nat) : (t.district d).orb = (s.district d).orb := by rw [log d]

theorem State.fence_keepsOverrun (s : State) (k code unit info : Nat) {d n : Nat} : KeepsOverrun d n s (s.fence k code unit info) := by
  have logged : KeepsOverrun d n s (s.event code .fence (some k) unit info) :=
    .of_cores State.event_cores ((State.event_logOnly s code .fence (some k) unit info : LogOnly s _).orb d)
  unfold State.fence
  extract_lets s1 s2 s3 s4
  by_cases already : (s1.halted || s1.fenced k) = true
  · rw [if_pos already]
    exact logged
  · rw [if_neg already]
    have frames (t : State) : KeepsOverrun d n t (t.dropFrames k) := .of_same rfl rfl
    have commands (t : State) : KeepsOverrun d n t (t.loseCmds k) := .modHost ..
    have stopped : KeepsOverrun d n s1 s2 := ((s1.stopDistrict_keepsOverrun k).trans (frames _)).trans (commands _)
    have fenced : KeepsOverrun d n s2 s3 := .modFlt ..
    have ports : KeepsOverrun d n s3 s4 := .modImg ..
    refine (((logged.trans stopped).trans fenced).trans ports).trans (.each (fun p t => ?_) _ s4)
    split
    · exact .of_same State.modPort_cores State.modPort_dist
    · exact .refl t

/-! ## What late work that ends leaves -/

theorem State.each_eq_self_of_mem {α : Type} {s : State} {f : α → State → State} {l : List α} (same : ∀ x ∈ l, f x s = s) :
    s.each l f = s := by
  induction l with
  | nil => rfl
  | cons a l ih =>
    rw [State.each, List.foldl_cons, same a List.mem_cons_self]
    exact ih fun x mem => same x (List.mem_cons_of_mem _ mem)

section
variable {s : State} {d : Nat} {x : CoreTime}

theorem Core.not_caughtUp {c : Core} (caught : c.lateOrbit = none) : c.caughtUp = false := by simp [Core.caughtUp, caught]

/-- Nothing of a district completes where the core is not one of its own, or has no late work. -/
theorem State.lateDone_idle (idle : x.core ∈ s.coresOf d → (s.core x.core).caughtUp = false) : s.lateDone d [x] = s := by
  have none' : ((s.coresOf d).filter fun n => (s.core n).caughtUp && [x].any (·.core == n)) = [] := by
    refine List.filter_eq_nil_iff.2 fun n mem done => ?_
    simp only [List.any_cons, List.any_nil, Bool.or_false, Bool.and_eq_true, beq_iff_eq] at done
    obtain ⟨ready, rfl⟩ := done
    exact Bool.false_ne_true ((idle mem).symm.trans ready)
  unfold State.lateDone
  rw [none']
  rfl

/-- The late work of one core completes (R46, R48, R50). -/
theorem State.lateDone_of_caughtUp {orbit cause : Nat} (mem : x.core ∈ s.coresOf d) (ready : (s.core x.core).caughtUp = true)
    (work : (s.core x.core).orbit = some orbit) (why : s.overrunCause d x (fun m => (s.core m).lateIn orbit) = cause) :
    s.lateDone d [x] =
      let t := s.modCore x.core fun c => c.caught cause
      if cause = 0 then t.overrunFence d x.core 0 orbit
      else
        let u := t.absorbed d cause x.core orbit
        if (u.district d).bar.arrived.isSome then u else u.enterOrbit d x.core := by
  have own : ((s.coresOf d).filter fun n => (s.core n).caughtUp && [x].any (·.core == n)) = [x.core] := by
    have same : ∀ n ∈ s.coresOf d, ((s.core n).caughtUp && [x].any (·.core == n)) = (n == x.core) := by
      intro n _
      refine Bool.eq_iff_iff.2 ?_
      simp only [List.any_cons, List.any_nil, Bool.or_false, Bool.and_eq_true, beq_iff_eq]
      exact ⟨fun done => done.2.symm, fun own => ⟨own ▸ ready, own.symm⟩⟩
    rw [List.filter_congr same, List.filter_beq, List.count_eq_one_of_mem ((s.coresOf_rising d).imp Nat.ne_of_lt) mem]
    rfl
  have found : [x].find? (·.core == x.core) = some x := by simp
  subst why
  unfold State.lateDone
  simp only [own, List.filterMap_cons, found, work, List.filterMap_nil, State.each, List.foldl_cons, List.foldl_nil]
  by_cases unseen : s.overrunCause d x (fun m => (s.core m).lateIn orbit) = 0
  · simp [unseen]
  · simp [unseen]

theorem State.mem_coresOf {n : Nat} (low : n < 512) (k : Nat) : n ∈ s.coresOf k ↔ bit (s.district k).defn.quads (n / 4) = true := by
  simp [State.coresOf, low]

/-- The district of the core is the only one in which late work ends. -/
theorem State.exec_lateWorkComplete (district : s.coreDistrict x.core = some d) (low : x.core < 512) (running : s.halted = false)
    (unfenced : s.fenced d = false) (caught : ((s.lateDone d [x]).core x.core).lateOrbit = none) :
    exec (.lateWorkComplete [x]) s = .next (s.lateDone d [x]) := by
  obtain ⟨-, before, after, split, others⟩ := List.find?_eq_some_iff_append.1 district
  refine congrArg Host.Outcome.next ?_
  have early : s.each before (fun k t => if t.halted || t.fenced k then t else t.lateDone k [x]) = s := by
    refine State.each_eq_self_of_mem fun k early => ?_
    have other := others k early
    rw [State.lateDone_idle fun own => absurd ((State.mem_coresOf low k).1 own) (by simpa using other), ite_self]
  have late : (s.lateDone d [x]).each after (fun k t => if t.halted || t.fenced k then t else t.lateDone k [x]) = s.lateDone d [x] :=
    State.each_eq_self_of_mem fun k _ => by
      rw [State.lateDone_idle fun _ => Core.not_caughtUp caught, ite_self]
  rw [State.each] at early late
  rw [State.each, split, List.foldl_append, List.foldl_cons, early, if_neg (by simp [running, unfenced])]
  exact late

end

/-! ## What the report of an overrun leaves -/

section
variable (s : State) (d cause n orbit : Nat)

/-- An absorbed overrun is noted in its district's registers and log (R46). -/
theorem State.absorbed_district :
    (s.absorbed d cause n orbit).district d = { s.district d with
      orb := { (s.district d).orb with ovNotice := true, ovCause := cause, ovCore := n, ovOrbit := orbit % 2 ^ 32 }
      flt := (s.district d).flt.logged ((s.absorbed d cause n orbit).district d).flt } := by
  have log := State.notice_logOnly (s.modOrb d fun o =>
    { o with ovNotice := true, ovCause := cause, ovCore := n, ovOrbit := orbit % 2 ^ 32 }) 0x13 (some d) n (orbitInfo cause orbit) d
  rw [State.modOrb_district] at log
  exact log

theorem State.absorbed_core (m : Nat) : (s.absorbed d cause n orbit).core m = s.core m := State.notice_core_eq

theorem State.absorbed_active : (s.absorbed d cause n orbit).active d = s.active d := by rw [State.active, State.absorbed_district]; rfl

theorem State.absorbed_onlyWork : OnlyWork s (s.absorbed d cause n orbit) :=
  (State.modDist_onlyWork s d fun x => { x with
    orb := { x.orb with ovNotice := true, ovCause := cause, ovCore := n, ovOrbit := orbit % 2 ^ 32 } }).trans
      (State.notice_onlyLog ..).onlyWork

theorem State.absorbed_runIndex : (s.absorbed d cause n orbit).runIndex d = s.runIndex d := by
  have halted : (s.absorbed d cause n orbit).halted = s.halted := by rw [State.halted, State.absorbed_onlyWork, State.halted]
  unfold State.runIndex
  rw [halted, State.absorbed_district]
  rfl

end

section
variable {s : State} {d n i : Nat} {g : Image}

theorem State.enterOrbit_onlyWork : OnlyWork s (s.enterOrbit d n) := by
  unfold State.enterOrbit
  split
  · split
    · exact .refl s
    · split
      · exact .refl s
      · exact State.modCore_onlyWork ..
  · exact .refl s

theorem State.enterOrbit_keepsOverrun {k m : Nat} : KeepsOverrun k m s (s.enterOrbit d n) := by
  unfold State.enterOrbit
  split
  · split
    · exact .refl s
    · split
      · exact .refl s
      · refine .modCore n (fun c => ?_) (fun c => ?_) fun c caught => ?_
        · dsimp only; split <;> rfl
        · dsimp only; split <;> rfl
        · dsimp only; split <;> exact caught
  · exact .refl s

theorem State.enterOrbit_core_ne {m : Nat} (other : m ≠ n) : (s.enterOrbit d n).core m = s.core m := by
  unfold State.enterOrbit
  split
  · split
    · rfl
    · split
      · rfl
      · exact State.modCore_core_ne other
  · rfl

theorem State.enterOrbit_rowless (image : s.active d = some g) (index : s.runIndex d = some i) (row : g.rowAt n i = none) :
    s.enterOrbit d n = s := by
  simp [State.enterOrbit, image, index, row]

theorem State.enterOrbit_row {j e : Nat} (image : s.active d = some g) (index : s.runIndex d = some i)
    (row : g.rowAt n i = some (j, e)) (free : (s.core n).work = none) :
    ((s.enterOrbit d n).core n).work = some ⟨s.orb.number, j, g.phaseAt i, false⟩ ∧ ((s.enterOrbit d n).core n).row = j
      ∧ ((s.core n).tile = none → ((s.enterOrbit d n).core n).next = fld e 12 0 12) := by
  simp only [State.enterOrbit, image, index, row, free, Option.isSome_none, Bool.false_eq_true, if_false, State.modCore_core]
  split
  · next tile => exact ⟨rfl, rfl, fun none' => by simp [none'] at tile⟩
  · exact ⟨rfl, rfl, fun _ => rfl⟩

end


/-! ## Late work of one core that ends -/

/-- What late work that has ended leaves of itself, and of the district's registers that name it. -/
theorem KeepsOverrun.of_caught {s t : State} {d n cause : Nat} {w : Work} {f : OrbDist → OrbDist}
    (kept : KeepsOverrun d n ((s.modCore n fun c => c.caught cause).modOrb d f) t) (work : (s.core n).work = some w) :
    (t.core n).lateOrbit = none ∧ (t.core n).lateLast = some w.orbit ∧ (t.core n).lastCause = cause
      ∧ (t.district d).orb = f (s.district d).orb := by
  obtain ⟨orb, last, why, caught⟩ := kept
  rw [State.modOrb_district] at orb
  simp only [State.modOrb_core_eq, State.modCore_core] at last why caught
  exact ⟨caught rfl, last.trans (by rw [Core.caught, Core.orbit, work]; rfl), why, orb⟩

section
variable {s : State} {d cause : Nat} {x : CoreTime} {w : Work} (mem : x.core ∈ s.coresOf d) (ready : (s.core x.core).caughtUp = true)
  (work : (s.core x.core).work = some w) (why : s.overrunCause d x (fun m => (s.core m).lateIn w.orbit) = cause)
include mem ready work why

/-- Work whose overrun nothing explains fences the district (R48, R50). -/
theorem State.lateDone_fences (running : s.halted = false) (unseen : cause = 0) :
    OnlyWork s (s.lateDone d [x]) ∧ (s.lateDone d [x]).fenced d = true
      ∧ KeepsOverrun d x.core ((s.modCore x.core fun c => c.caught 0).modOrb d fun o => { o with
          ovFence := true, ovCause := 0, ovCore := x.core, ovOrbit := w.orbit % 2 ^ 32 }) (s.lateDone d [x]) := by
  subst unseen
  rw [State.lateDone_of_caughtUp mem ready (by rw [Core.orbit, work]; rfl) why]
  exact ⟨(State.modCore_onlyWork ..).trans (.trans (State.modDist_onlyWork ..) (State.fence_onlyWork ..)),
    State.fence_fenced _ _ _ _ _ running, State.fence_keepsOverrun ..⟩

/-- Work whose overrun is explained is reported, and its core enters the orbit that runs before the barrier (R46). -/
theorem State.lateDone_reports (seen : cause ≠ 0) :
    s.lateDone d [x] =
      let u := (s.modCore x.core fun c => c.caught cause).absorbed d cause x.core w.orbit
      if (s.district d).bar.arrived.isSome then u else u.enterOrbit d x.core := by
  rw [State.lateDone_of_caughtUp mem ready (by rw [Core.orbit, work]; rfl) why]
  dsimp only
  rw [if_neg seen, State.absorbed_district]
  rfl

/-- A report touches the district's registers and its log, and the core. -/
theorem State.lateDone_reported (seen : cause ≠ 0) :
    OnlyWork s (s.lateDone d [x])
      ∧ KeepsOverrun d x.core ((s.modCore x.core fun c => c.caught cause).modOrb d fun o => { o with
          ovNotice := true, ovCause := cause, ovCore := x.core, ovOrbit := w.orbit % 2 ^ 32 }) (s.lateDone d [x])
      ∧ ∀ n, n ≠ x.core → (s.lateDone d [x]).core n = s.core n := by
  rw [State.lateDone_reports mem ready work why seen]
  dsimp only
  have noted := State.absorbed_onlyWork (s.modCore x.core fun c => c.caught cause) d cause x.core w.orbit
  have kept : KeepsOverrun d x.core _ ((s.modCore x.core fun c => c.caught cause).absorbed d cause x.core w.orbit) :=
    .of_cores State.notice_cores (LogOnly.orb (fun k => State.notice_logOnly _ _ _ _ _ k) d)
  have others (n : Nat) (other : n ≠ x.core) :
      ((s.modCore x.core fun c => c.caught cause).absorbed d cause x.core w.orbit).core n = s.core n :=
    (State.absorbed_core ..).trans (State.modCore_core_ne other)
  split
  · exact ⟨noted, kept, others⟩
  · exact ⟨noted.trans State.enterOrbit_onlyWork, kept.trans State.enterOrbit_keepsOverrun,
      fun n other => (State.enterOrbit_core_ne other).trans (others n other)⟩

/-- Beyond the barrier the core is free. -/
theorem State.lateDone_arrived (seen : cause ≠ 0) (arrived : (s.district d).bar.arrived.isSome) :
    ((s.lateDone d [x]).core x.core).work = none := by
  rw [State.lateDone_reports mem ready work why seen]
  dsimp only
  rw [if_pos arrived, State.absorbed_core, State.modCore_core]
  rfl

/-- Before the barrier the core is free, or is on the row that it has in the orbit that runs. -/
theorem State.lateDone_entered (seen : cause ≠ 0) {g : Image} {i : Nat} (before : (s.district d).bar.arrived = none)
    (image : s.active d = some g) (index : s.runIndex d = some i) :
    (g.rowAt x.core i = none → ((s.lateDone d [x]).core x.core).work = none)
      ∧ (∀ j e, g.rowAt x.core i = some (j, e) →
        ((s.lateDone d [x]).core x.core).work = some ⟨s.orb.number, j, g.phaseAt i, false⟩ ∧ ((s.lateDone d [x]).core x.core).row = j
          ∧ ((s.core x.core).tile = none → ((s.lateDone d [x]).core x.core).next = fld e 12 0 12)) := by
  rw [State.lateDone_reports mem ready work why seen]
  dsimp only
  rw [if_neg (by simp [before])]
  have core := State.absorbed_core (s.modCore x.core fun c => c.caught cause) d cause x.core w.orbit x.core
  have image' := (State.absorbed_active (s.modCore x.core fun c => c.caught cause) d cause x.core w.orbit).trans image
  have index' := (State.absorbed_runIndex (s.modCore x.core fun c => c.caught cause) d cause x.core w.orbit).trans index
  have number : ((s.modCore x.core fun c => c.caught cause).absorbed d cause x.core w.orbit).orb = s.orb := by
    rw [State.absorbed_onlyWork]
    rfl
  rw [State.modCore_core] at core
  generalize (s.modCore x.core fun c => c.caught cause).absorbed d cause x.core w.orbit = u at *
  refine ⟨fun rowless => ?_, fun j e row => ?_⟩
  · rw [State.enterOrbit_rowless image' index' rowless, core]
    rfl
  · have entered := State.enterOrbit_row image' index' row (by rw [core]; rfl)
    rw [number, core] at entered
    exact entered

end

end Sys2Proof.Machine
end

section
/-! SUPPORT. Frames of a port itself (09 R267, R271), and the state a fence of its owner is read from. -/

namespace Sys2Proof.Machine

/-- A port that no fence stops queues its own frame (R280). -/
theorem State.portCtl_queues {s : State} {p op : Nat} {body : List Byte} (free : s.portFenced p = false) (low : op < 256) :
    ∃ g : TxFrame, (s.portCtl p op body).port p = { s.port p with queue := (s.port p).queue ++ [g] }
      ∧ g.payload = body ∧ hdrOpcode g.hdr = op ∧ g.arb = 4 := by
  unfold State.portCtl State.toPort
  rw [if_neg (by simp [free])]
  exact ⟨_, State.modPort_port, rfl, hdrOpcode_mkHdr _ _ _ _ _ _ low, rfl⟩

/-- An event in a log does not fence a port. -/
theorem LogOnly.portFenced {s t : State} (log : LogOnly s t) (p : Nat) : t.portFenced p = s.portFenced p := by
  have defn (k : Nat) : (t.district k).defn = (s.district k).defn := by rw [log k]
  have defined : t.defined = s.defined := List.filter_congr fun k _ => by rw [defn]
  have active : t.active = s.active := funext fun k => by rw [State.active, log k]; rfl
  have fenced : t.fenced = s.fenced := funext fun k => by rw [State.fenced, log k]; rfl
  have tensor : t.tensorDistrict p = s.tensorDistrict p := by simp only [State.tensorDistrict, defined, defn]
  simp only [State.portFenced, State.portDistrict, State.portEntry, defined, active, fenced, tensor]

theorem State.portNotice_portFenced (s : State) (q code info p : Nat) : (s.portNotice q code info).portFenced p = s.portFenced p :=
  LogOnly.portFenced (fun k => State.notice_logOnly s code _ q info k) p

theorem State.portFenced_of_dist {s t : State} (same : t.dist = s.dist) (p : Nat) : t.portFenced p = s.portFenced p :=
  LogOnly.portFenced (fun k => by rw [State.district_of_dist same]; rfl) p

theorem State.portNotice_port (s : State) (q code info p : Nat) : (s.portNotice q code info).port p = s.port p := State.notice_port_eq

theorem State.portNotice_mem (s : State) (q code info : Nat) : (s.portNotice q code info).mem = s.mem := State.notice_mem

theorem State.portCtl_mem (s : State) (p op : Nat) (body : List Byte) : (s.portCtl p op body).mem = s.mem := by rw [portCtl_only]

end Sys2Proof.Machine
end

section
/-! SUPPORT. Spares of quads and lanes (12 R366 to R368; 14 R403). -/

namespace Sys2Proof.Machine

/-! ## Rotation -/

/-- The tables do not say whether a swap is written or forced. -/
theorem repairTables_written (s : State) :
    ({ s with spr := { s.spr with swaps := s.spr.swaps.map fun w => { w with written := true } } } : State).repairTables
      = s.repairTables := by
  unfold State.repairTables
  simp only [List.foldl_map]

/-- The tables in flash are those of the machine (R403). -/
theorem State.saveTables_inForce {s : State} (moon : s.moon.running = true)
    (room : s.moon.flash.tables.inForce.seq + 1 < 2 ^ 32) :
    s.saveTables.moon.flash.tables.inForce.content = s.saveTables.repairTables := by
  have tables : s.saveTables.moon.flash.tables.inForce.content = s.repairTables ∧ s.saveTables.repairTables = s.repairTables := by
    unfold State.saveTables
    rw [if_neg (by simp [moon])]
    dsimp only
    split
    next same => exact ⟨same.symm, repairTables_written s⟩
    next => exact ⟨FlashPair.update_inForce _ room, repairTables_written s⟩
  exact tables.1.trans tables.2.symm

/-- Writing the tables touches them and the marks of the swaps. -/
theorem State.saveTables_only (s : State) :
    s.saveTables = { s with spr := s.saveTables.spr
                            moon := { s.moon with flash := { s.moon.flash with tables := s.saveTables.moon.flash.tables } } } := by
  unfold State.saveTables
  split
  · rfl
  · dsimp only
    split <;> rfl

/-- A swap is decided, and leaves these quads free. -/
def State.withSwap (s : State) (w : Swap) (rest : List Nat) : State :=
  { s with spr := { s.spr with free := rest, swaps := s.spr.swaps ++ [w] } }

/-- A reservation takes the head of the free quads, and the tables are written before the swap (R366, R403). -/
theorem State.reserveSpare_leaves {s : State} {q : Nat} {rest : List Nat} (moon : s.moon.running = true) (spares : s.spr.free = q :: rest)
    (quad : Nat) (forced : Bool) :
    s.reserveSpare quad forced = { s with
        spr := (s.reserveSpare quad forced).spr
        moon := { s.moon with flash := { s.moon.flash with tables := (s.reserveSpare quad forced).moon.flash.tables } } }
      ∧ (s.reserveSpare quad forced).spr = { s.spr with
          free := rest, swaps := (s.spr.swaps.map fun w => { w with written := true }) ++ [⟨quad, q, forced, true⟩] }
      ∧ (s.moon.flash.tables.inForce.seq + 1 < 2 ^ 32 →
        (s.reserveSpare quad forced).moon.flash.tables.inForce.content = (s.reserveSpare quad forced).repairTables) := by
  have reserved : s.reserveSpare quad forced = (s.withSwap ⟨quad, q, forced, false⟩ rest).saveTables := by
    simp only [State.reserveSpare, spares]
    rfl
  have swaps := State.saveTables_spr (s := s.withSwap ⟨quad, q, forced, false⟩ rest) moon
  rw [State.withSwap, List.map_append] at swaps
  rw [reserved]
  exact ⟨State.saveTables_only (s.withSwap ⟨quad, q, forced, false⟩ rest), swaps,
    State.saveTables_inForce (s := s.withSwap ⟨quad, q, forced, false⟩ rest) moon⟩

/-! ## Lane swaps -/

theorem Port.spareFor_only (x : Port) (lane : Nat) :
    x.spareFor lane = { x with map := (x.spareFor lane).map, spareUsed := (x.spareFor lane).spareUsed } := by
  unfold Port.spareFor
  split <;> rfl

/-- A port whose receiver selects the spare for logical lane `i`. -/
def Port.selected (x : Port) (i : Nat) : Port := { x.spareFor (laneAt x.map i) with swapRx := none }

theorem Port.selected_queue (x : Port) (i : Nat) : (x.selected i).queue = x.queue := by
  rw [Port.selected, Port.spareFor_only]

/-- The receiver has selected the spare, before it says so to its peer (R368). -/
def State.laneReceived (s : State) (p i : Nat) : State :=
  ((s.modPort p fun x => x.selected i).count (ctrPort p 19) 1).portNotice p 0x48 (portInfo 0 i)

theorem State.spareLaneSelect_received {s : State} {p : Fin 24} {i : Nat} (bridged : (s.port p).swapRx = some (.bridged i)) :
    exec (.spareLaneSelect p) s = .next ((s.laneReceived p i).laneMessage p 1 i) := by
  simp only [exec, execSpareLaneSelect, bridged]
  rfl

theorem State.laneReceived_leaves (s : State) (p i : Nat) :
    (s.laneReceived p i).port p = (s.port p).selected i ∧ (s.laneReceived p i).mem = s.mem
      ∧ (s.laneReceived p i).portFenced p = s.portFenced p :=
  ⟨(State.portNotice_port ..).trans (State.modPort_port (f := fun x => x.selected i)), State.portNotice_mem ..,
    (State.portNotice_portFenced ..).trans (State.portFenced_of_dist rfl p)⟩

theorem State.laneMessage_port (s : State) (p kind lane : Nat) :
    ∃ q, (s.laneMessage p kind lane).port p = { s.port p with queue := q } := portCtl_port ..

theorem State.laneMessage_queues {s : State} {p : Nat} (free : s.portFenced p = false) (kind lane : Nat) :
    ∃ g : TxFrame, (s.laneMessage p kind lane).port p = { s.port p with queue := (s.port p).queue ++ [g] }
      ∧ g.payload = leBytes 2 (0x100 * kind + lane) ∧ hdrOpcode g.hdr = 0xD := by
  obtain ⟨g, port, payload, opcode, -⟩ := State.portCtl_queues (op := 0xD) (body := leBytes 2 (0x100 * kind + lane)) free (by decide)
  exact ⟨g, port, payload, opcode⟩

/-- Counters of one port are at places of their own. -/
theorem ctrPort_ne (p : Nat) {i j : Nat} (other : i ≠ j) : ctrPort p i ≠ ctrPort p j := by
  unfold ctrPort
  omega

theorem State.count_cnt_ne {s : State} {i j : Nat} (other : i ≠ j) (k : Nat) : (s.count j k).cnt.get 0 i = s.cnt.get 0 i :=
  Tbl.get_set_ne _ _ _ other

/-- The estimates of a second, with which a swap is proposed. -/
def State.preFecCounted (s : State) (p est prbsBits prbsErr corrected uncorr : Nat) : State :=
  ((((s.setCount (ctrPort p 10) (est % 2 ^ 32)).count (ctrPort p 11) prbsBits).count (ctrPort p 12) prbsErr).count (ctrPort p 8)
    corrected).count (ctrPort p 9) uncorr

theorem State.preFecEstimateUpdate_proposes {s : State} {p : Fin 24} {lane est prbsBits prbsErr spareEst corrected uncorr : Nat}
    (running : s.halted = false) (moon : s.moon.running = true) (active : (s.port p).state = 6) (spare : (s.port p).spareUsed = false)
    (free : (s.port p).swapping = false) (worse : fLt s.moon.cfg.threshold est = true) (better : fLt spareEst s.moon.cfg.threshold = true)
    (low : lane < 4) :
    exec (.preFecEstimateUpdate p lane est prbsBits prbsErr spareEst corrected uncorr) s
      = .next (((s.preFecCounted p est prbsBits prbsErr corrected uncorr).modPort p fun x =>
          { x with swapTx := some (.proposed lane) }).laneMessage p 0 lane) := by
  refine congrArg Host.Outcome.next (if_neg ?_)
  rw [State.halted] at running
  simp only [State.halted, State.count_pwr, State.setCount_pwr, State.count_moon, State.setCount_moon, State.count_port_eq,
    State.setCount_port_eq, running, moon, active, spare, free, worse, better]
  simp [low]

theorem State.preFecCounted_estimate (s : State) (p est prbsBits prbsErr corrected uncorr : Nat) :
    (s.preFecCounted p est prbsBits prbsErr corrected uncorr).cnt.get 0 (ctrPort p 10) = est % 2 ^ 32 := by
  unfold State.preFecCounted
  rw [State.count_cnt_ne (ctrPort_ne p (by decide)), State.count_cnt_ne (ctrPort_ne p (by decide)),
    State.count_cnt_ne (ctrPort_ne p (by decide)), State.count_cnt_ne (ctrPort_ne p (by decide))]
  exact Tbl.get_set_self ..

theorem State.preFecCounted_dist (s : State) (p est prbsBits prbsErr corrected uncorr : Nat) :
    (s.preFecCounted p est prbsBits prbsErr corrected uncorr).dist = s.dist := rfl

theorem State.laneMessage_mem (s : State) (p kind lane : Nat) : (s.laneMessage p kind lane).mem = s.mem := State.portCtl_mem ..

/-- An abandoned swap ends at its port alone (R368). -/
theorem State.dropLaneSwap_leaves (s : State) (p : Nat) :
    (s.dropLaneSwap p).port p = { s.port p with swapTx := none, swapRx := none } ∧ (∀ k, k ≠ p → (s.dropLaneSwap p).port k = s.port k)
      ∧ (s.dropLaneSwap p).mem = s.mem := by
  have ports (k : Nat) : (s.dropLaneSwap p).port k = (s.modPort p fun x => { x with swapTx := none, swapRx := none }).port k := by
    rw [State.dropLaneSwap, State.portNotice_port, State.port, State.saveTables_ports, State.port]
  refine ⟨(ports p).trans State.modPort_port, fun k other => (ports k).trans (State.modPort_port_ne other), ?_⟩
  rw [State.dropLaneSwap, State.portNotice_mem, State.saveTables_onlyWork]
  rfl

end Sys2Proof.Machine
end

section
/-! SUPPORT. Late work that ends, rotation and lane swaps (02 R46, R48, R50; 12 R366 to R368; 14 R403). -/

namespace Sys2Proof.Machine

/-- Settles O15: late work ends in the core's own district alone, and each step of a swap keeps to its port or its quad. -/
theorem lateWorkAndSparing : Obligations.LateWorkAndSparing := by
  unfold Obligations.LateWorkAndSparing
  refine ⟨?late, ?rotation, ?selected, ?select, ?timeout, ?proposal⟩
  case late =>
    intro s d x w o district low running unfenced work idle late cause why
    have mem : x.core ∈ s.coresOf d := (State.mem_coresOf low d).2 (by simpa using List.find?_some district)
    have ready : (s.core x.core).caughtUp = true := by simp [Core.caughtUp, work, idle, late]
    by_cases seen : cause = 0
    case pos =>
      obtain ⟨only, fenced, kept⟩ := State.lateDone_fences mem ready work why.symm running seen
      obtain ⟨caught, last, zero, orb⟩ := kept.of_caught work
      have done := State.exec_lateWorkComplete district low running unfenced caught
      generalize s.lateDone d [x] = t at *
      subst seen
      exact ⟨t, done, by rw [only], by rw [only], by rw [only], caught, last, zero, by rw [orb], by rw [orb], by rw [orb],
        fun explained => absurd rfl explained, fun _ => ⟨fenced, by rw [orb]⟩⟩
    case neg =>
      obtain ⟨only, kept, others⟩ := State.lateDone_reported mem ready work why.symm seen
      have arrived := State.lateDone_arrived mem ready work why.symm seen
      have entered := fun g i => State.lateDone_entered mem ready work why.symm seen (g := g) (i := i)
      obtain ⟨caught, last, explained, orb⟩ := kept.of_caught work
      have done := State.exec_lateWorkComplete district low running unfenced caught
      generalize s.lateDone d [x] = t at *
      exact ⟨t, done, by rw [only], by rw [only], by rw [only], caught, last, explained, by rw [orb], by rw [orb], by rw [orb],
        fun _ => ⟨orb, others, arrived, entered⟩, fun zero => absurd zero seen⟩
  case rotation =>
    intro s q rest running moon interval due spares fresh
    refine ⟨_, congrArg Host.Outcome.next (if_neg ?_), ?_⟩
    · simp [running, moon, interval, spares, fresh, Nat.not_lt.2 due]
    obtain ⟨only, spr, written⟩ := State.reserveSpare_leaves moon spares s.spr.next false
    generalize s.reserveSpare s.spr.next false = t at *
    exact ⟨by rw [only], by dsimp only; rw [spr], written⟩
  case selected =>
    intro s p i bridged
    refine congrArg Host.Outcome.next ?_
    simp only [State.laneSelected, bridged]
  case select =>
    intro s p i bridged
    obtain ⟨port, mem, fence⟩ := s.laneReceived_leaves p i
    obtain ⟨queue, leaves⟩ := (s.laneReceived p i).laneMessage_port p 1 i
    refine ⟨_, State.spareLaneSelect_received bridged, by rw [leaves, port]; rfl, by rw [leaves, port]; rfl,
      (State.laneMessage_mem ..).trans mem, fun free => ?_⟩
    obtain ⟨g, queued, payload, opcode⟩ := State.laneMessage_queues (fence.trans free) 1 i
    exact ⟨g, by rw [queued, port, Port.selected_queue], payload, opcode⟩
  case timeout =>
    intro s p i bridged
    obtain ⟨port, others, mem⟩ := s.dropLaneSwap_leaves p
    refine ⟨s.dropLaneSwap p, congrArg Host.Outcome.next (if_pos ?_), by rw [port], by rw [port], by rw [port], others, mem⟩
    rcases bridged with tx | rx
    · simp [tx]
    · simp [rx]
  case proposal =>
    intro s p lane est prbsBits prbsErr spareEst corrected uncorr running moon active spare swapping worse better low
    have estimate := s.preFecCounted_estimate p est prbsBits prbsErr corrected uncorr
    refine ⟨_, State.preFecEstimateUpdate_proposes running moon active spare swapping worse better low, ?_⟩
    have port : (s.preFecCounted p est prbsBits prbsErr corrected uncorr).port p = s.port p := rfl
    have mem : (s.preFecCounted p est prbsBits prbsErr corrected uncorr).mem = s.mem := rfl
    have fence : (s.preFecCounted p est prbsBits prbsErr corrected uncorr).portFenced p = s.portFenced p :=
      State.portFenced_of_dist (s.preFecCounted_dist p est prbsBits prbsErr corrected uncorr) p
    generalize s.preFecCounted p est prbsBits prbsErr corrected uncorr = t at *
    obtain ⟨queue, leaves⟩ := (t.modPort p fun x => { x with swapTx := some (.proposed lane) }).laneMessage_port p 0 lane
    rw [State.modPort_port] at leaves
    refine ⟨?_, by rw [leaves], by rw [leaves, port], (State.laneMessage_mem ..).trans mem, fun free => ?_⟩
    · rw [State.laneMessage, portCtl_only]
      exact estimate
    · obtain ⟨g, queued, payload, opcode⟩ :=
        State.laneMessage_queues (s := t.modPort p fun x => { x with swapTx := some (.proposed lane) }) (fence.trans free) 0 lane
      rw [State.modPort_port] at queued
      exact ⟨g, by rw [queued, port], by rw [payload, Nat.mul_zero, Nat.zero_add], opcode⟩

end Sys2Proof.Machine
end

section
/-! SUPPORT. Frames of a port itself: cards, PING and ECHO, beacons, and messages of the peer's Moon (02 R36; 09 R267, R268, R272,
R274; 12 R368; 14 R399). -/

namespace Sys2Proof.Machine

/-- A frame that a port takes for itself reaches its meaning; of the port, only what counts and acknowledges frames has changed. -/
theorem State.receivePort_reaches {s : State} {p : Nat} {f : Frame} {row h : Nat} {pay : List Byte} (takes : s.takes p f row h pay)
    (own : row ≠ 0) (ctl : row ≤ 13) (length : ctlLength row pay = true) (job : s.wrongClass p h = false) :
    ∃ u, OnlyLines s u ∧ (∀ k, k ≠ p → u.port k = s.port k)
      ∧ (∃ got next nak freed, u.port p = { s.port p with gotFrame := got, expected := next, nakSent := nak, freed := freed })
      ∧ ∀ act, s.receivePort p f row act = act pay u :=
  ⟨_, (s.taken_onlyLines p pay.length).trans (State.freeFlits_onlyLines ..), fun k other => taken_port_ne s p _ _ _ k other,
    ⟨_, _, _, _, taken_port ..⟩, State.receivePort_taken takes (port_op takes own ctl length) job⟩

/-- A frame of a card exchange may precede the acceptance of this module's card. -/
theorem State.wrongClass_exchange {s : State} {p h : Nat} (exchange : hdrOpcode h ≤ 3) : s.wrongClass p h = false := by
  simp [State.wrongClass, Nat.not_lt.2 exchange]

/-- A frame of a card exchange is taken whatever job its class names. -/
theorem State.receivePort_exchange {s : State} {p : Nat} {f : Frame} {row h : Nat} {pay : List Byte} (takes : s.takes p f row h pay)
    (own : row ≠ 0) (exchange : row ≤ 3) (length : ctlLength row pay = true) :
    ∃ u, OnlyLines s u ∧ (∀ k, k ≠ p → u.port k = s.port k)
      ∧ (∃ got next nak freed, u.port p = { s.port p with gotFrame := got, expected := next, nakSent := nak, freed := freed })
      ∧ ∀ act, s.receivePort p f row act = act pay u :=
  State.receivePort_reaches takes own (by omega) length (State.wrongClass_exchange (by rw [ctl_op takes own (by omega)]; exact exchange))

/-! ## Cards -/

/-- The card of the exchange, with the orbit in which it came. -/
def Port.withCard (x : Port) (card : List Byte) (orbit : Nat) : Port :=
  { x with cardPeer := card, cardOrbit := orbit, cardHeld := true, cardSeen := true }

section
variable {s : State} {p : Nat} {card : List Byte} (crc : leNat (card.drop 124) = crc32 (card.take 124))
include crc

/-- A card that comes before the last ECHO is kept (R267). -/
theorem State.takeCard_waits (exchange : (s.port p).state = 4) (echoes : (s.port p).echoes ≠ 16) :
    s.takeCard p card = s.modPort p fun x => x.withCard card s.orbitNow := by
  simp only [State.takeCard, crc, State.modPort_port, exchange, echoes, ne_eq, not_true_eq_false, if_false, if_true]
  rfl

/-- A card that comes after the last ECHO ends the exchange (R268). -/
theorem State.takeCard_settles (exchange : (s.port p).state = 4) (echoes : (s.port p).echoes = 16) :
    s.takeCard p card = (s.modPort p fun x => x.withCard card s.orbitNow).settle p := by
  simp only [State.takeCard, crc, State.modPort_port, exchange, echoes, ne_eq, not_true_eq_false, if_false, if_true]
  rfl

end

theorem OnlyLines.tensorDistrict {s u : State} (o : OnlyLines s u) (p : Nat) : u.tensorDistrict p = s.tensorDistrict p := by
  rw [o.same]
  rfl

/-! ## ECHO -/

/-- The round trip after one more ECHO. -/
def Port.echoed (x : Port) (trip : Nat) : Port :=
  let r := if x.echoes = 0 then trip else min x.rtt trip
  { x with echoes := min 16 (x.echoes + 1), rtt := r % 2 ^ 16, oneway := r / 2 % 2 ^ 16, latValid := x.latValid || x.echoes == 15 }

/-- Outside an exchange an ECHO refines the round trip alone (R272). -/
theorem State.takeEcho_counts {s : State} {p : Nat} (payload : List Byte) (now : Nat) (trained : (s.port p).state ≠ 4) :
    s.takeEcho p payload now = s.modPort p fun x => x.echoed (now - leNat (payload.take 8) - leNat (payload.drop 8)) := by
  refine if_neg ?_
  rw [State.modPort_port]
  simp [trained]

/-! ## Beacons -/

theorem OnlyLines.loadedEntry {s u : State} (o : OnlyLines s u) (p : Nat) : u.loadedEntry p = s.loadedEntry p := by
  rw [o.same]
  rfl

/-- The map that a port's card is checked against while JOIN is 1 is that of the loaded image (R268). -/
theorem State.loadedEntry_of_cardMap {s : State} {p d e : Nat} {job : Option Nat} {spares : List Nat}
    (map : s.cardMap p = some (d, e, job, spares)) (join : s.orb.join = true) : s.loadedEntry p = some (d, e) := by
  simp only [State.cardMap, join, if_true, Option.bind_eq_some_iff, Option.map_eq_some_iff, Prod.mk.injEq] at map
  obtain ⟨⟨k, v⟩, entry, image, -, rfl, rfl, -⟩ := map
  exact entry

theorem OnlyLines.joinsBy {s u : State} (o : OnlyLines s u) (p : Nat) : u.joinsBy p = s.joinsBy p := by
  have state (q : Nat) : (u.port q).state = (s.port q).state := by rw [o.port]
  simp only [State.joinsBy, o.orb, state]

/-- The first beacon of a pending join places its tick (R36). -/
theorem State.onBeacon_joins {s : State} {p d e : Nat} {payload : List Byte} (now : Nat) (entry : s.loadedEntry p = some (d, e))
    (active : (s.port p).state = 6) (same : peForeign e = false) (join : s.orb.join = true) (free : s.orb.plan = none)
    (latency : (s.port p).latValid = true) (first : s.joinsBy p = true) :
    s.onBeacon p now payload = { s with orb := { s.orb with plan := some ⟨now - 8 - (s.port p).oneway
      + leNat ((payload.drop 16).take 4), leNat ((payload.drop 8).take 8) + 1, leNat ((payload.drop 16).take 4)⟩ } } := by
  simp only [State.onBeacon, join, if_true, entry, active, same, free, latency, first]
  simp

/-! ## Messages of the peer's Moon -/

/-- A message of 2 bytes names its lane and its kind (log entry 39). -/
theorem laneMessage_reads {lane : Nat} (low : lane < 4) (kind : Nat) (known : kind < 3) :
    leNat ((leBytes 2 (0x100 * kind + lane)).take 1) = lane ∧ leNat ((leBytes 2 (0x100 * kind + lane)).drop 1) = kind := by
  interval_cases lane <;> interval_cases kind <;> decide

section
variable {s : State} {p lane : Nat} (low : lane < 4)
include low

theorem State.onMgmt_proposal : s.onMgmt p (leBytes 2 lane) = s.onProposal p lane := by
  obtain ⟨named, kind⟩ := laneMessage_reads low 0 (by decide)
  rw [Nat.mul_zero, Nat.zero_add] at named kind
  simp only [State.onMgmt, named, kind]
  exact if_pos (leBytes_length ..)

theorem State.onMgmt_selected : s.onMgmt p (leBytes 2 (0x100 + lane)) = s.laneSelected p := by
  obtain ⟨-, kind⟩ := laneMessage_reads low 1 (by decide)
  rw [Nat.mul_one] at kind
  simp only [State.onMgmt, kind]
  exact if_pos (leBytes_length ..)

theorem State.onMgmt_agreement : s.onMgmt p (leBytes 2 (0x200 + lane)) = s.onAgreement p lane := by
  obtain ⟨named, kind⟩ := laneMessage_reads low 2 (by decide)
  simp only [State.onMgmt, named, kind]
  exact if_pos (leBytes_length ..)

end

/-- A lane swap to which both Moons agree, in the tables (R368, R403). -/
def State.laneAgreed (s : State) (p lane : Nat) : State :=
  (s.modPort p fun x => { x with swapTx := some (.agreed lane), swapRx := some (.agreed lane) }).saveTables

theorem State.laneAgreed_leaves (s : State) (p lane : Nat) :
    (s.laneAgreed p lane).port p = { s.port p with swapTx := some (.agreed lane), swapRx := some (.agreed lane) }
      ∧ (s.laneAgreed p lane).moon.mgmt = s.moon.mgmt ∧ (s.laneAgreed p lane).mem = s.mem ∧ (s.laneAgreed p lane).dist = s.dist := by
  have only := State.saveTables_only (s.modPort p fun x => { x with swapTx := some (.agreed lane), swapRx := some (.agreed lane) })
  unfold State.laneAgreed
  refine ⟨?_, by rw [only]; rfl, by rw [only]; rfl, by rw [only]; rfl⟩
  rw [State.port, State.saveTables_ports, ← State.port, State.modPort_port]

theorem State.onProposal_agrees {s : State} {p lane : Nat} (low : lane < 4) (moon : s.moon.running = true) (active : (s.port p).state = 6)
    (spare : (s.port p).spareUsed = false) (tx : (s.port p).swapTx = none) (rx : (s.port p).swapRx = none) :
    s.onProposal p lane = (s.laneAgreed p lane).laneMessage p 2 lane := by
  refine if_neg ?_
  simp [moon, active, spare, tx, rx, low]

theorem State.onAgreement_agrees {s : State} {p lane : Nat} (moon : s.moon.running = true)
    (proposed : (s.port p).swapTx = some (.proposed lane)) : s.onAgreement p lane = s.laneAgreed p lane :=
  if_pos (by simp [moon, proposed])

theorem State.laneMessage_only (s : State) (p kind lane : Nat) :
    s.laneMessage p kind lane = { s with ports := (s.laneMessage p kind lane).ports } := portCtl_only ..

/-- Settles O30: a frame that is taken reaches its meaning, and acknowledging it touches none of what that meaning reads. -/
theorem portFrames : Obligations.PortFrames := by
  unfold Obligations.PortFrames
  intro s p f h n pay
  refine ⟨?kept, ?settled, ?ping, ?echo, ?beacon, ?mgmt⟩
  case kept =>
    intro takes length crc exchange echoes
    obtain ⟨u, o, others, ⟨_, _, _, _, port⟩, reach⟩ := State.receivePort_exchange takes (by decide) (by decide)
      (by simpa [ctlLength] using length)
    have waits := State.takeCard_waits (s := u) crc (by rw [port]; exact exchange) (by rw [port]; exact echoes)
    refine ⟨_, congrArg Host.Outcome.next ((reach _).trans waits), ?_⟩
    rw [State.modPort_port, port, o.orbitNow]
    exact ⟨rfl, rfl, rfl, rfl, exchange, fun k other => (State.modPort_port_ne other).trans (others k other), o.mem, o.dist⟩
  case settled =>
    intro takes length crc exchange echoes noJoin noEntry noOwner
    obtain ⟨u, o, -, ⟨_, _, _, _, port⟩, reach⟩ := State.receivePort_exchange takes (by decide) (by decide)
      (by simpa [ctlLength] using length)
    have settles := State.takeCard_settles (s := u) crc (by rw [port]; exact exchange) (by rw [port]; exact echoes)
    have held := settle_none (s := u.modPort p fun x => x.withCard pay u.orbitNow) ((congrArg Orb.join o.orb).trans noJoin)
      ((o.portEntry p).trans noEntry) ((o.tensorDistrict p).trans noOwner)
    refine ⟨_, congrArg Host.Outcome.next ((reach _).trans (settles.trans held)), ?_⟩
    rw [State.modPort_port, State.modPort_port]
    exact ⟨rfl, rfl, o.mem, o.dist⟩
  case ping =>
    intro takes length free
    obtain ⟨u, o, others, ⟨_, _, _, _, port⟩, reach⟩ := State.receivePort_exchange takes (by decide) (by decide)
      (by simpa [ctlLength] using length)
    obtain ⟨g, queued, payload, opcode, arb⟩ :=
      State.portCtl_queues (op := 3) (body := pay ++ leBytes 8 n) ((State.portFenced_of_dist o.dist p).trans free) (by decide)
    refine ⟨_, congrArg Host.Outcome.next (reach _), ⟨g, by rw [queued, port], opcode, payload, arb⟩,
      fun k other => (portCtl_port_ne _ _ _ k _ other).trans (others k other), (State.portCtl_mem ..).trans o.mem, ?_⟩
    rw [portCtl_only]
    exact o.dist
  case echo =>
    intro takes length trained
    obtain ⟨u, o, -, ⟨_, _, _, _, port⟩, reach⟩ := State.receivePort_exchange takes (by decide) (by decide)
      (by simpa [ctlLength] using length)
    have counts := State.takeEcho_counts (s := u) (p := p) pay n (by rw [port]; exact trained)
    refine ⟨_, congrArg Host.Outcome.next ((reach _).trans counts), ?_⟩
    rw [State.modPort_port, port]
    exact ⟨rfl, fun first => by simp [Port.echoed, first], fun later => by simp [Port.echoed, later],
      fun last => by simp [Port.echoed, last], o.mem, o.dist⟩
  case beacon =>
    intro d e job spares takes length map active same join first rightJob free latency
    obtain ⟨u, o, -, ⟨_, _, _, _, port⟩, reach⟩ := State.receivePort_reaches takes (by decide) (by decide)
      (by simpa [ctlLength] using length) rightJob
    have joins := State.onBeacon_joins (s := u) (payload := pay) n
      ((o.loadedEntry p).trans (State.loadedEntry_of_cardMap map join)) (by rw [port]; exact active) same (by rw [o.orb]; exact join)
      (by rw [o.orb]; exact free) (by rw [port]; exact latency) ((o.joinsBy p).trans first)
    refine ⟨_, congrArg Host.Outcome.next ((reach _).trans joins), ?_, o.mem, o.dist⟩
    dsimp only
    rw [o.orb, port]
  case mgmt =>
    intro takes rightJob
    obtain ⟨u, o, -, ⟨_, _, _, _, port⟩, reach⟩ := State.receivePort_reaches takes (by decide) (by decide) rfl rightJob
    have moon : u.moon = s.moon := by rw [o.same]
    refine ⟨?other, ?proposal, ?selected, ?agreement⟩
    case other =>
      intro long
      refine ⟨_, congrArg Host.Outcome.next ((reach _).trans (if_neg long)), lookup_insert .., o.mem, o.dist⟩
    case proposal =>
      rintro lane low rfl running active spare tx rx free
      have agrees := (State.onMgmt_proposal low).trans (State.onProposal_agrees (s := u) (p := p) low (by rw [moon]; exact running)
        (by rw [port]; exact active) (by rw [port]; exact spare) (by rw [port]; exact tx) (by rw [port]; exact rx))
      obtain ⟨agreed, mgmt, mem, dist⟩ := u.laneAgreed_leaves p lane
      have unfenced : (u.laneAgreed p lane).portFenced p = false := (State.portFenced_of_dist (dist.trans o.dist) p).trans free
      obtain ⟨g, queued, payload, opcode⟩ := State.laneMessage_queues unfenced 2 lane
      have only := (u.laneAgreed p lane).laneMessage_only p 2 lane
      refine ⟨_, congrArg Host.Outcome.next ((reach _).trans agrees), by rw [queued, agreed], by rw [queued, agreed],
        ⟨g, by rw [queued, agreed, port], opcode, payload⟩, ?_, ?_, ?_⟩
      · rw [only, mgmt, moon]
      · rw [only, mem, o.mem]
      · rw [only, dist, o.dist]
    case selected =>
      rintro lane i low rfl bridged
      have selects : u.onMgmt p (leBytes 2 (0x100 + lane)) = u.modPort p fun x => { x with swapTx := none } := by
        simp only [State.onMgmt_selected low, State.laneSelected, port, bridged]
      refine ⟨_, congrArg Host.Outcome.next ((reach _).trans selects), ?_⟩
      rw [State.modPort_port, port]
      exact ⟨rfl, rfl, rfl, o.mem, o.dist⟩
    case agreement =>
      rintro lane low rfl running proposed
      have agrees := (State.onMgmt_agreement low).trans (State.onAgreement_agrees (s := u) (p := p) (by rw [moon]; exact running)
        (by rw [port]; exact proposed))
      obtain ⟨agreed, -, mem, dist⟩ := u.laneAgreed_leaves p lane
      exact ⟨_, congrArg Host.Outcome.next ((reach _).trans agrees), by rw [agreed], by rw [agreed], mem.trans o.mem, dist.trans o.dist⟩

end Sys2Proof.Machine
end
